-- ==== Sys2Proof/Word.lean ====
section
/-! DEFINITION. The word types, and the one finite map that memory and every numbered file of state is held in. -/

namespace Sys2Proof

/-- A byte of memory. -/
abbrev Byte := BitVec 8
/-- A scalar register, and a stash word (R76, R124). -/
abbrev Word := BitVec 64
/-- An instruction word (R57). -/
abbrev IWord := BitVec 16
/-- A block word: the unit of atomicity, of dirty bits and of poison (R130). -/
abbrev BlockWord := BitVec 128
/-- A vector register (R36, R76). -/
abbrev VReg := BitVec 8192
/-- A predicate register: one bit per 32-bit lane (R76). -/
abbrev Pred := BitVec 256
/-- A signature of chunks (R136). -/
abbrev Sig := BitVec 512

/-- A finite map from numbers, in one canonical form: keys strictly rising, no entry equal to the default `d`
that an unlisted key reads as. -/
abbrev Map (β : Type) := List (Nat × β)

namespace Map

/-- The entry at `a`, or `d` where none is listed. -/
def get {β : Type} (d : β) : Map β → Nat → β
  | [], _ => d
  | (k, v) :: m, a => if a = k then v else if a < k then d else get d m a

/-- Writes `v` at `a`; writing the default removes the entry. -/
def set {β : Type} [DecidableEq β] (d : β) : Map β → Nat → β → Map β
  | [], a, v => if v = d then [] else [(a, v)]
  | (k, x) :: m, a, v =>
    if a < k then (if v = d then (k, x) :: m else (a, v) :: (k, x) :: m)
    else if a = k then (if v = d then m.dropWhile (fun e => decide (e.1 ≤ a)) else (a, v) :: m)
    else (k, x) :: set d m a v

/-- The canonical form, from a lower bound on the keys. -/
def wfFrom {β : Type} [DecidableEq β] (d : β) : Nat → Map β → Bool
  | _, [] => true
  | lo, (k, v) :: m => decide (lo ≤ k) && decide (v ≠ d) && wfFrom d (k + 1) m

/-- The canonical form: keys strictly rising and no entry equal to the default. -/
def wf {β : Type} [DecidableEq β] (d : β) (m : Map β) : Bool := wfFrom d 0 m

end Map

/-- A finite set of numbers, listed strictly rising. -/
abbrev NSet := Map Bool

namespace NSet

/-- Membership. -/
def has (m : NSet) (a : Nat) : Bool := Map.get false m a
/-- The set with `a` added. -/
def add (m : NSet) (a : Nat) : NSet := Map.set false m a true
/-- The set with `a` removed. -/
def del (m : NSet) (a : Nat) : NSet := Map.set false m a false

end NSet

end Sys2Proof
end

