-- ==== Sys2Proof/Syntax.lean ====
section
/-! DEFINITION. The syntax: operand forms of the Epmen instructions, bank moves, the messages that the cube's events
carry (`Msg`), and `Instr`, one constructor per row of the opcode table. -/

namespace Sys2Proof

/-! ## Operand forms of Epmen instructions (R61 to R75) -/

/-- A C operand of kind X (R62): a register, or an immediate when a PFXI is present. -/
inductive XOp where
  | reg (r : Nat)
  | imm (v : Int)
deriving DecidableEq, Repr

/-- ORDER of R67. -/
inductive Order where
  | plain | sg | acq | rel | ar
deriving DecidableEq, Repr

/-- SCOPE of R67. -/
inductive Scope where
  | core | stn | cube | dom
deriving DecidableEq, Repr

/-- WIN of R67. -/
inductive Win where
  | va | lin | fa
deriving DecidableEq, Repr

/-- HINT of R66. -/
inductive Hint where
  | none | span | rep | nt
deriving DecidableEq, Repr

/-- RM of R66, the rounding modes of R40. -/
inductive Rm where
  | ne | rz | rd | ru | rs
deriving DecidableEq, Repr

/-- The formats of page set F (R72). -/
inductive FFmt where
  | f32 | bf16 | f16
deriving DecidableEq, Repr

/-- The element widths of page set W (R72). -/
inductive WPage where
  | w32 | w16 | w8 | w64
deriving DecidableEq, Repr

/-- The integer types of page set I (R72). -/
inductive ITy where
  | i32 | n32 | i16 | n16 | i8 | n8 | i64 | n64
deriving DecidableEq, Repr

/-- The types of the conversion codes of R74, in the order of their codes. -/
inductive CTy where
  | f32 | bf16 | f16 | e4m3 | e5m2 | i64 | n64 | i32 | n32 | i16 | n16 | i8 | n8
deriving DecidableEq, Repr

/-- The integer types of the vector compares (pages 3 to 6 of major `0b10100`, R190). -/
inductive CmpTy where
  | i32 | n32 | i8 | n8
deriving DecidableEq, Repr

/-- A guard: slot and sense (R68). -/
structure Guard where
  slot : Nat
  sense : Bool
deriving DecidableEq, Repr

/-- Qualifiers of a scalar memory access (R66 class M, R67). -/
structure MemQ where
  order : Order := .plain
  scope : Scope := .core
  win : Win := .va
  wc : Nat := 0
  hint : Hint := .none
deriving DecidableEq, Repr

/-- A two-source integer operation (R90): page 1 is `uns`. -/
structure AluOps where
  uns : Bool
  sat : Bool
  a : Nat
  b : Nat
  c : XOp
deriving DecidableEq, Repr

/-- A one-source integer operation (R90, operations 14 to 19). -/
structure Alu1Ops where
  uns : Bool
  a : Nat
  b : Nat
deriving DecidableEq, Repr

/-- An immediate operation (R91). -/
structure ImmOps where
  sat : Bool
  a : Nat
  imm : Int
deriving DecidableEq, Repr

/-- A conditional branch (R95). -/
structure BrOps where
  a : Nat
  b : Nat
  off : Int
deriving DecidableEq, Repr

/-- A scalar load or store (R153, R154). -/
structure LdOps where
  a : Nat
  b : Nat
  c : XOp
  q : MemQ
deriving DecidableEq, Repr

/-- An atomic (R156). `w32` is page 1. -/
structure AtomOps where
  w32 : Bool
  a : Nat
  b : Nat
  c : Nat
  q : MemQ
deriving DecidableEq, Repr

/-- A WAIT (R157). -/
structure WaitOps where
  a : Nat
  b : Nat
  c : Nat
  q : MemQ
deriving DecidableEq, Repr

/-- FLUSHR or INVR (R160). -/
structure RangeOps where
  b : Nat
  c : XOp
  win : Win
  wc : Nat
deriving DecidableEq, Repr

/-- A two-source scalar floating operation (R99). -/
structure FOps where
  fmt : FFmt
  rm : Rm
  a : Nat
  b : Nat
  c : Nat
deriving DecidableEq, Repr

/-- A one-source scalar floating operation (R99). -/
structure F1Ops where
  fmt : FFmt
  rm : Rm
  a : Nat
  b : Nat
deriving DecidableEq, Repr

/-- FCVT (R101). -/
structure FcvtOps where
  d : CTy
  s : CTy
  rm : Rm
  sat : Bool
  a : Nat
  b : Nat
deriving DecidableEq, Repr

/-- Qualifiers of a vector arithmetic instruction (R66 class VA), with its guard. -/
structure VQ where
  pred : Nat := 0
  zero : Bool := false
  inv : Bool := false
  sat : Bool := false
  rm : Rm := .ne
  guard : Option Guard := none
deriving DecidableEq, Repr

/-- Qualifiers of a vector memory instruction (R66 class VM), with its window and guard. -/
structure VMQ where
  pred : Nat := 0
  zero : Bool := false
  inv : Bool := false
  wc : Nat := 0
  hint : Hint := .none
  win : Win := .va
  guard : Option Guard := none
deriving DecidableEq, Repr

/-- A vector floating operation (R186): `bc` is the broadcast form n + 128 (R75). One-source forms have `c = 0`. -/
structure VFOps where
  fmt : FFmt
  bc : Bool
  a : Nat
  b : Nat
  c : Nat
  q : VQ
deriving DecidableEq, Repr

/-- A vector integer operation (R188). -/
structure VIOps where
  ty : ITy
  bc : Bool
  a : Nat
  b : Nat
  c : Nat
  q : VQ
deriving DecidableEq, Repr

/-- A vector logical or shift operation (R189). -/
structure VLOps where
  w : WPage
  bc : Bool
  a : Nat
  b : Nat
  c : Nat
  q : VQ
deriving DecidableEq, Repr

/-- A vector integer compare (R190). -/
structure VCOps where
  ty : CmpTy
  bc : Bool
  a : Nat
  b : Nat
  c : Nat
  q : VQ
deriving DecidableEq, Repr

/-- Predicate logic, selection, quantisation and permutations with register operands (R191 to R198). -/
structure VROps where
  a : Nat
  b : Nat
  c : Nat
  q : VQ
deriving DecidableEq, Repr

/-- A permutation whose C operand is of kind X (R198). -/
structure VXOps where
  a : Nat
  b : Nat
  c : XOp
  q : VQ
deriving DecidableEq, Repr

/-- VCVT (R192). -/
structure VcvtOps where
  d : CTy
  s : CTy
  a : Nat
  b : Nat
  q : VQ
deriving DecidableEq, Repr

/-- The page of a reduction or scan (R196, R197): 0 to 2 floating, 3 and 4 integer. -/
inductive RPage where
  | f32 | bf16 | f16 | i32 | n32
deriving DecidableEq, Repr

/-- A reduction or scan (R196, R197). -/
structure VRedOps where
  page : RPage
  a : Nat
  b : Nat
  q : VQ
deriving DecidableEq, Repr

/-- A contiguous or handle-relative vector load or store (R167, R168): B is a scalar base or a handle. -/
structure VMOps where
  w : WPage
  a : Nat
  b : Nat
  c : XOp
  q : VMQ
deriving DecidableEq, Repr

/-- A strided vector access, gather, scatter (R167, R169): C is a scalar or a vector register. -/
structure VMROps where
  w : WPage
  a : Nat
  b : Nat
  c : Nat
  q : VMQ
deriving DecidableEq, Repr

/-- A wait or advance of a stream handle (R173, R174). -/
structure HOps where
  h : Nat
  c : XOp
  wc : Nat
  guard : Option Guard
deriving DecidableEq, Repr

/-- An instruction that builds an engine command, and its kin (R206). -/
structure EngOps where
  a : Nat
  b : Nat
  c : Nat
  wc : Nat
  guard : Option Guard
deriving DecidableEq, Repr

/-- How CSRW, CSRS and CSRC change a control register (R103). -/
inductive CsrOp where
  | read | write | setBits | clearBits
deriving DecidableEq, Repr

/-- A bank move word's operands beyond its destination port (R222). -/
structure BMove where
  src : Nat
  rep : Nat
  imm : Nat
deriving DecidableEq, Repr

/-! ## Messages and records that events carry -/

/-- A context: station, scalar core, context within the core (R9). -/
structure Loc where
  stn : Nat
  core : Nat
  ctx : Nat
deriving DecidableEq, Repr

/-- The continuation record of R16 and R218's sibling kinds: the fields of a kind 0 or kind 2 record. -/
structure Rec where
  kind : Nat := 0
  arrived : Bool := false
  pinlost : Bool := false
  latedrop : Bool := false
  pin : Bool := false
  pc : Nat := 0
  deadline : Nat := 0
  wclass : Nat := 0
  budget : Nat := 0
  frame : Nat := 0
  joinctr : Nat := 0
  obitctr : Nat := 0
  arg0 : Word := 0
  arg1 : Word := 0
deriving DecidableEq, Repr

/-- What a parked instruction does when its record is selected: it executes again, a POP among them (R165), or completes
with a value (R158). -/
inductive Resume where
  | again
  | pop
  | complete (a : Nat) (v : Word) (words : Nat)
deriving DecidableEq, Repr

/-- A record between runs: the record of R16 and what the cube keeps beside it: the task's number in this model, its
parcel, its reply address (R22), key and arrival order (R19, R235), ready-store slot (R234), the signature it carries
(R140), the station it is held for (R243), how a parked instruction resumes, the commands that it still counts in C3 as it
moves to another cube (R123), and whether a steal handed it over (R239). -/
structure RecEntry where
  body : Rec
  tid : Nat
  ptag : Nat
  reply : Nat
  key : Nat
  arr : Nat
  slot : Nat
  sig : Option Sig
  heldFor : Option Nat
  resume : Resume
  c3 : Nat := 0
  granted : Bool := false
deriving DecidableEq, Repr

/-- Where a packet came from, for its answer: the header fields that an answer needs, and whether its original destination
forwarded it (R259, R263). -/
structure PktSrc where
  snode : Nat
  sstn : Nat
  onode : Nat
  ostn : Nat
  cls : Nat
  seq : Nat
  ptag : Nat
  addr : Nat
  fwd : Bool := false
deriving DecidableEq, Repr

/-- Who asked for an operation, and so where its answer goes. -/
inductive Src where
  | task (at_ : Loc) (tid : Nat)
  | engine (stn : Nat)
  | packet (p : PktSrc)
  | cube
deriving DecidableEq, Repr

/-- Where read data goes: a register of a context (R153), a register pair, or a station's read buffer. -/
inductive Dest where
  | reg (r : Nat) (bytes : Nat) (signed : Bool)
  | pair (r : Nat)
  | buffer (stn : Nat)
  | answer
deriving DecidableEq, Repr

/-- A read request (R299): `order` 0 weak, 1 strong, 2 acquire; `lease` 0 none, 1 copy, 2 replica; `va` is the address
as the program formed it, `asked` the datum at which it was asked. -/
structure ReadReq where
  id : Nat
  src : Src
  stn : Nat
  dest : Dest
  fa : Nat
  va : Nat
  bytes : Nat
  order : Nat
  scope : Nat
  lease : Nat
  ptag : Nat
  asked : Nat
deriving DecidableEq, Repr

/-- A read reply (R299): `poison` lists the poisoned block words among the data. -/
structure ReadRep where
  req : ReadReq
  expiry : Nat
  data : List Byte
  poison : List Nat
  sig : Option Sig
deriving DecidableEq, Repr

/-- A write (R299): `order` 0 weak, 1 strong, 2 release. `counter` is the wait counter it is counted in, 0 for none, 4 for a bank's write to DRAM. -/
structure WriteReq where
  id : Nat
  src : Src
  stn : Nat
  fa : Nat
  va : Nat
  data : List Byte
  poison : List Nat
  order : Nat
  scope : Nat
  counter : Nat
  sig : Sig
  relseq : Nat
  ptag : Nat
deriving DecidableEq, Repr

/-- An atomic (R156, R299): `op` is n of R156, 16 to 20 for LDW, LDWE, STW, STF and FECLR (R154),
21 for an update that adds 1 and sets bit 63 (R22, R23); `order` 0 strong, 1 acquire, 2 release, 3 acquire-release. -/
structure AtomReq where
  id : Nat
  src : Src
  stn : Nat
  fa : Nat
  va : Nat
  op : Nat
  w32 : Bool
  operand : Nat
  extra : Nat
  order : Nat
  scope : Nat
  dest : Nat
  counter : Nat
  sig : Sig
  relseq : Nat
  ptag : Nat
deriving DecidableEq, Repr

/-- An atomic's reply (R299). -/
structure AtomRep where
  req : AtomReq
  old : Nat
  flags : Nat
  poisoned : Bool
  sig : Option Sig
deriving DecidableEq, Repr

/-- The condition of a registration: WAIT (R157), JOIN (R114), CPWAIT (R230), tile dependence (R219). -/
inductive WaitCond where
  | eq | ne | ge | lt | join | cpwait | tile
deriving DecidableEq, Repr

/-- A wait that has been sent to the word's home (R157). `dest` is gA, `words` the instruction's length. -/
structure WaitReg where
  cond : WaitCond
  fa : Nat
  va : Nat
  val : Word
  src : Src
  tid : Nat
  stn : Nat
  dest : Nat
  words : Nat
  order : Nat
  scope : Nat
  ptag : Nat
deriving DecidableEq, Repr

/-- A wake: the waiter and the word's value just after the waking write (R158), or poison. -/
structure WakeMsg where
  reg : WaitReg
  val : Word
  poisoned : Bool
  sig : Option Sig
deriving DecidableEq, Repr

/-- A write-back of one block word's dirty data (R129, R131, R138). -/
structure WbMsg where
  fa : Nat
  data : BlockWord
  poison : Bool
  stn : Nat
  pubId : Nat
  ptag : Nat
  src : Src
deriving DecidableEq, Repr

/-- An engine command (R26). -/
structure Cmd where
  flags : Nat
  resv : Bool
  ptag : Nat
  opcode : Nat
  opnd : List Word
  reply : Word
  tag : Nat
deriving DecidableEq, Repr

/-- A command on its way to an inbox: 0 matrix, 1 copy, 2 bank, 3 collective (R163). -/
structure CmdMsg where
  cmd : Cmd
  inbox : Nat
  stn : Nat
  cube : Nat
  src : Src
  tid : Nat
  sig : Option Sig
deriving DecidableEq, Repr

/-- A result entry for a task (R164): `entry` and `value` are its doublewords; `counted` says it was counted in FIFOPEND. -/
structure ResultMsg where
  tid : Nat
  entry : Word
  value : Word
  toFifo : Bool
  counted : Bool
  dropsC3 : Bool
deriving DecidableEq, Repr

/-- A task packet's payload as twelve doublewords (R25), with its sender for the wait counter. -/
structure TaskPkt where
  dws : List Word
  src : Src
  counter : Nat
  sig : Option Sig
  tid : Nat
deriving DecidableEq, Repr

/-- A data arrival with a handler (R232). -/
structure DataArr where
  addr : Nat
  ptag : Nat
  pc : Nat
  left : Nat
  data : List Byte
  sig : Option Sig
  src : Src
  counter : Nat
deriving DecidableEq, Repr

/-- What a publication is for: an acquire, a release atomic, a wait or a full/empty acquire at a home (R137, R139), a witness that is retired,
or a record, command, task packet or data arrival that leaves the station (R140, R141, R232); `emptyHomes` asks a cube to empty its homes
for a FENCE.ALIAS of a station of another cube (R142). -/
inductive PubFor where
  | read (r : ReadReq)
  | atomic (a : AtomReq)
  | wait (w : WakeMsg)
  | answer (r : AtomRep)
  | witness (fa : Nat)
  | record (cube stn : Nat) (r : RecEntry)
  | command (c : CmdMsg)
  | task (cube stn : Nat) (p : TaskPkt)
  | data (cube stn : Nat) (d : DataArr)
  | emptyHomes (cube stn id : Nat)
deriving DecidableEq, Repr

/-- A demand that a station publish, with the release number of the witness that names it (R137, R138). -/
structure Demand where
  cube : Nat
  stn : Nat
  seq : Nat
  pubFor : PubFor
deriving DecidableEq, Repr

/-- A kernel message of eight doublewords (R240) and its sender. -/
structure KMsg where
  stn : Nat
  dws : List Word
  scube : Nat
  sstn : Nat
  src : Src
  counter : Nat
deriving DecidableEq, Repr

/-- The packet header of R259, field by field. -/
structure Hdr where
  typ : Nat
  cls : Nat
  dnode : Nat
  snode : Nat
  dstn : Nat
  sstn : Nat
  len : Nat
  hops : Nat := 0
  resv : Nat := 0
  seq : Nat := 0
  onode : Nat := 0
  ostn : Nat := 0
  qual : Nat := 0
  pgen : Nat := 0
  retry : Nat := 0
  fwd : Bool := false
  addr : Nat := 0
  pmask : Nat := 0
  ptag : Nat := 0
  ecrc : Nat := 0
deriving DecidableEq, Repr

/-- Resize states of R281. -/
inductive Resize where
  | steady | announced | draining | rehomed
deriving DecidableEq, Repr

/-- A parcel table entry (R279), with the bases the fabric manager installs with the parcel (R250, R292). -/
structure Parcel where
  ptag : Nat
  tenant : Nat
  parent : Nat
  smask : Nat
  vmask : Nat
  bgen : Nat
  resize : Resize
  lmap : List Nat
  l1base : Nat
  elog : Nat
deriving DecidableEq, Repr

/-- A tree entry (R274): parent port, or none at the root; the expected inputs; the slot timer. -/
structure Tree where
  group : Nat
  parent : Option Nat
  expected : List Nat
  timer : Nat
deriving DecidableEq, Repr

/-- A manager table write in class S (R254): which table and what it installs. -/
inductive TableCmd where
  | route (node : Nat) (ports : List Nat)
  | tree (t : Tree)
  | bankWeight (vault ptag weight : Nat)
  | retryTime (ticks : Nat)
  | routerImage (bytes : List Byte)
  | kernelImage (bytes : List Byte)
  | endpoint (node ix tenant ptag : Nat)
  | window (node ix slot hostBase size fa : Nat) (r w : Bool)
  | latency (copy replica : Nat)
  | retired
  | peers (tenant : Nat) (ptags : List Nat)
  | peerParcel (cube : Nat) (p : Parcel)
deriving DecidableEq, Repr

/-- A packet's payload: its bytes, or, for the types whose layout the spec does not give, what it says. -/
inductive Body where
  | raw (bytes : List Byte)
  | signed (bytes : List Byte) (sig : Option Sig) (inbox tid : Nat)
  | mgmt (what a b : Nat)
  | fe (a : AtomReq)
  | guard (fa : Nat) (delta : BlockWord) (isXor poison : Bool)
  | wait (w : WaitReg)
  | wake (w : WakeMsg)
  | demand (d : Demand)
  | published (d : Demand) (sig : Sig)
  | writeBack (w : WbMsg)
  | record (r : RecEntry)
  | result (r : ResultMsg)
  | ack (snode sstn : Nat) (armed : Bool)
  | nack (snode sstn : Nat) (moved : Bool)
  | cancel (a : AtomReq)
  | cancelled
  | handover (fa len : Nat) (words : List (BlockWord × Bool)) (leases : Map Nat) (witnesses : List (Nat × Nat × Nat × Nat × Sig))
      (waiters : List WaitReg)
  | table (t : TableCmd)
  | install (gen : Nat) (regions : Map (List Word)) (cubes : Map Nat)
  | parcelMap (p : Parcel)
  | reset (tenant : Nat)
  | survey (dest : Nat)
deriving DecidableEq, Repr

/-- A packet (R259). -/
structure Packet where
  hdr : Hdr
  body : Body
deriving DecidableEq, Repr

/-- A flit (R255); `data` is its 56 bytes, `pkt` the packet it ends where its payload has no byte layout, `fec` whether FEC corrected it on its way. -/
structure Flit where
  lseq : Nat
  lack : Nat
  stop : Nat
  cls : Nat
  sop : Bool
  eop : Bool
  data : List Byte
  lcrc : Nat
  pkt : Option Packet
  fec : Bool := false
deriving DecidableEq, Repr

/-- A partial of a collective (R274, R300): descriptor fields, information and values, the parcel tag it travels under, the
member's wait at its station (0 for a partial of another cube), whether it belongs to a CLMCAST and carries data. -/
structure Partial where
  group : Nat
  seq : Nat
  op : Nat
  fmt : Nat
  count : Nat
  first : Nat
  vals : List Nat
  missing : Nat
  nanseen : Bool
  incomplete : Bool
  mcast : Bool
  hasData : Bool
  ptag : Nat
  ref : Nat
deriving DecidableEq, Repr

/-- A collective's result: its way (an input of this cube's router, or 72 where it comes from the parent), its status (R22,
R276, R300), its values from element `first` on, and the member's wait that it answers (0 for the oldest of its key). -/
structure CollRes where
  input : Nat
  group : Nat
  seq : Nat
  status : Nat
  missing : Nat
  nanseen : Bool
  incomplete : Bool
  fmt : Nat
  op : Nat
  count : Nat
  first : Nat
  vals : List Nat
  ptag : Nat
  ref : Nat
deriving DecidableEq, Repr

/-- An image presented at start-up (R287): body, keys, version, signatures, entry point and kernel table base. -/
structure Image where
  body : List Byte
  edKey : List Byte
  mlKey : List Byte
  version : Nat
  edSig : List Byte
  mlSig : List Byte
  entry : Nat
  table : Nat
deriving DecidableEq, Repr

/-- What an event carries: the message in flight or in hand, one constructor per event of the opcode table that carries
anything, and the value of a control-register access. -/
inductive Msg where
  | none
  | csr (op : CsrOp) (v : Word)
  | guardSlotResolution (at_ : Loc) (gid : Nat) (outcome : Bool)
  | pushStallRelease (stn inbox : Nat)
  | laneGroupArbitration (stn : Nat)
  | vectorQueueStallRelease (stn core : Nat)
  | selection (at_ : Loc)
  | suspension (at_ : Loc)
  | budgetTrap (at_ : Loc)
  | poisonReport (at_ : Loc) (addr : Nat)
  | pageWalk (stn ptag va : Nat)
  | taskPacket (stn : Nat) (p : TaskPkt)
  | spillRefill (stn : Nat)
  | dataArrivalWithHandler (stn : Nat) (d : DataArr)
  | readRequest (r : ReadReq)
  | readReply (r : ReadRep)
  | write (w : WriteReq)
  | writeAcknowledgement (w : WriteReq)
  | hostWrite (node : Nat) (w : WriteReq)
  | atomic (a : AtomReq)
  | atomicReply (a : AtomRep)
  | engineCommand (c : CmdMsg)
  | resultOrStatus (r : ResultMsg)
  | waitArm (w : WaitReg)
  | wake (w : WakeMsg)
  | publicationDemand (d : Demand)
  | publicationComplete (d : Demand) (sig : Sig)
  | writeBack (w : WbMsg)
  | moved (snode sstn cls dnode dstn seq : Nat)
  | refused (snode sstn cls dnode dstn seq : Nat)
  | endToEndAcknowledgement (snode sstn cls dnode dstn seq : Nat)
  | retryTimeout (snode sstn cls dnode dstn seq : Nat)
  | destinationLost (node : Nat)
  | packetRouting (p : Packet)
  | flit (port : Nat) (f : Flit)
  | replayTimeout (port : Nat)
  | trainingComplete (port lanes far : Nat)
  | linkDown (port : Nat)
  | linkAdaptation (port : Nat)
  | collectiveContribution (input : Nat) (p : Partial)
  | slotTimerExpiry (group seq : Nat)
  | rememberedKeyExpiry (group seq : Nat)
  | collectiveResult (r : CollRes)
  | soft (m : KMsg)
  | kernelMessageReserved (m : KMsg)
  | preempt (m : KMsg)
  | preemptRaised (stn : Nat)
  | resume (m : KMsg)
  | move (m : KMsg)
  | config (m : KMsg)
  | recordMove (stn : Nat) (r : RecEntry)
  | stealRound (stn : Nat)
  | stealRequest (victim thief : Nat)
  | stealBackoffExpiry (stn : Nat)
  | loadBalancing (stn : Nat)
  | fullEmptyCancel (at_ : Loc)
  | feCancel (a : AtomReq)
  | heldWriteRelease (chunk : Nat)
  | leaseExpiry (stn chunk : Nat)
  | sigrcvExpiry (stn : Nat)
  | mmaCommand (stn : Nat)
  | mtravCommand (stn : Nat)
  | traverseTile (stn : Nat)
  | latchTimeout (stn : Nat)
  | mzeroCommand (stn : Nat)
  | mstCommand (stn : Nat)
  | mldCommand (stn : Nat)
  | mmasdCommand (stn : Nat)
  | tileTaskRecord (ptag : Nat) (dws : List Word) (src : Src)
  | tileTaskDispatch (ptag : Nat)
  | cpchainCommand (stn : Nat)
  | transferRecordComplete (stn rec : Nat)
  | gatherSublist (stn rec first : Nat)
  | bkrunCommand (vault : Nat)
  | bankQuantumExpiry (vault : Nat)
  | clredCommand (stn : Nat)
  | clmcastCommand (stn : Nat)
  | tableWrite (endpoint : Nat) (t : TableCmd)
  | platGenerationInstall (endpoint gen : Nat) (regions : Map (List Word)) (cubes : Map Nat)
  | stripeHandover (fa len : Nat)
  | parcelMapWrite (endpoint : Nat) (p : Parcel)
  | resizeHandover (ptag : Nat)
  | backgroundRebuild (fa : Nat)
  | guardUpdate (fa : Nat) (delta : BlockWord) (isXor poison : Bool)
  | portEnable (port : Nat)
  | pcapWrite (watts : Nat)
  | monitorControlWrite (ix : Nat) (v : Word)
  | errorCounterClear
  | datumSet (v : Nat)
  | hostDeadDeclaration (node : Nat)
  | tenantReset (endpoint tenant : Nat)
  | survey (endpoint tenant dest : Nat)
  | doorbell (node ix : Nat) (subs : List (List Word))
  | dmaWindowAccess (node ix slot off : Nat) (isWrite : Bool) (data : List Byte)
  | hold (node chunk : Nat)
  | heartbeatSend (node : Nat)
  | heartbeat (node : Nat)
  | hostTimeout (node : Nat)
  | powerGood (failedStations failedVaults failedArrays : List Nat) (routerFailed : Bool)
  | routerImageVerify (img : Image)
  | stationBoot (stn : Nat) (img : Image)
  | thermalReading (sensor : Nat) (value : Nat)
  | governorMeasurement (watts : Nat)
  | refresh (vault : Nat)
  | targetedRefresh (vault bank row : Nat)
  | patrolScrub (fa : Nat) (verdict : Nat)
  | scrubStep (vault n : Nat)
  | sramError (stn fa : Nat) (corrected : Bool)
  | rowActivations (vault bank row n : Nat)
  | datumExchange
  | datumSynchronisation (ppm : Int)
  | monitorSample (ix : Nat)
  | stealRefusal (stn : Nat)
deriving DecidableEq, Repr

/-! ## The instructions and events -/

/-- One constructor per row of spec/opcode_table.json. Epmen instructions carry their operands. An event's constructor
names the event alone: what it carries is the `Msg` in hand, which State holds, as it holds the word of a bank move.
Constructors with operands come first. -/
inductive Instr where
  -- system, R105 to R109
  | brk (code : Nat)
  | trap (code : Nat)
  | kcall (code : Nat)
  | tlbinv (b c : Nat)
  | kmsg (b c : Nat)
  -- integer, R90 to R92
  | add (o : AluOps)
  | sub (o : AluOps)
  | and (o : AluOps)
  | or (o : AluOps)
  | xor (o : AluOps)
  | sll (o : AluOps)
  | srl (o : AluOps)
  | sra (o : AluOps)
  | mul (o : AluOps)
  | mulh (o : AluOps)
  | div (o : AluOps)
  | rem (o : AluOps)
  | min (o : AluOps)
  | max (o : AluOps)
  | clz (o : Alu1Ops)
  | ctz (o : Alu1Ops)
  | popc (o : Alu1Ops)
  | ext (bits : Nat) (o : Alu1Ops)
  | addi (o : ImmOps)
  | andi (o : ImmOps)
  | ori (o : ImmOps)
  | xori (o : ImmOps)
  | slli (o : ImmOps)
  | srli (o : ImmOps)
  | srai (o : ImmOps)
  | muli (o : ImmOps)
  | movi (a : Nat) (imm : Int)
  | movh (a : Nat) (imm : Int)
  -- branches, R95, R96
  | beq (o : BrOps)
  | bne (o : BrOps)
  | blt (o : BrOps)
  | bge (o : BrOps)
  | bltN64 (o : BrOps)
  | bgeN64 (o : BrOps)
  | jmp (off : Int)
  | call (off : Int)
  | jr (a : Nat)
  | callr (a : Nat)
  -- loads, stores, full/empty forms, R153, R154
  | ldN8 (o : LdOps)
  | ldN16 (o : LdOps)
  | ldN32 (o : LdOps)
  | ld (o : LdOps)
  | ldI8 (o : LdOps)
  | ldI16 (o : LdOps)
  | ldI32 (o : LdOps)
  | ldp (o : LdOps)
  | ldw (o : LdOps)
  | ldwe (o : LdOps)
  | stN8 (o : LdOps)
  | stN16 (o : LdOps)
  | stN32 (o : LdOps)
  | st (o : LdOps)
  | stp (o : LdOps)
  | stw (o : LdOps)
  | stf (o : LdOps)
  | feclr (o : LdOps)
  -- atomics, R156
  | aadd (o : AtomOps)
  | aand (o : AtomOps)
  | aor (o : AtomOps)
  | axor (o : AtomOps)
  | aminI (o : AtomOps)
  | aminN (o : AtomOps)
  | amaxI (o : AtomOps)
  | amaxN (o : AtomOps)
  | aswap (o : AtomOps)
  | acas (o : AtomOps)
  | aaddt (o : AtomOps)
  | afaddF32 (o : AtomOps)
  | afmaxnF32 (o : AtomOps)
  -- synchronisation and windows, R157 to R162
  | waitEq (o : WaitOps)
  | waitNe (o : WaitOps)
  | waitGe (o : WaitOps)
  | waitLt (o : WaitOps)
  | flushr (o : RangeOps)
  | invr (o : RangeOps)
  | smap (a b c wc : Nat)
  | sunmap (b wc : Nat)
  | cwait (mask wc : Nat)
  -- tasks, R110 to R117
  | spawn (a b c : Nat)
  | fork (a b : Nat) (off : Int)
  | join (a b : Nat) (c : XOp)
  | exit (a : Nat)
  -- scalar floating point, R99 to R101
  | fadd (o : FOps)
  | fsub (o : FOps)
  | fmul (o : FOps)
  | fdiv (o : FOps)
  | fsqrt (o : F1Ops)
  | fmin (o : FOps)
  | fmax (o : FOps)
  | fminn (o : FOps)
  | fmaxn (o : FOps)
  | fma (o : FOps)
  | fneg (o : F1Ops)
  | fabs (o : F1Ops)
  | fsgn (o : FOps)
  | fcvt (o : FcvtOps)
  -- control registers, R103, R104
  | csrr (num a : Nat)
  | csrw (num a : Nat)
  | csrs (num a : Nat)
  | csrc (num a : Nat)
  -- compare, select, guards, R93, R97, R98, R102
  | seq (a b : Nat) (c : XOp)
  | sne (a b : Nat) (c : XOp)
  | sltI (a b : Nat) (c : XOp)
  | sltN (a b : Nat) (c : XOp)
  | sleI (a b : Nat) (c : XOp)
  | sleN (a b : Nat) (c : XOp)
  | sel (a b : Nat) (c : XOp)
  | gset (j b : Nat)
  | gsetz (j b : Nat)
  | gwait (a j : Nat)
  | feq (o : FOps)
  | flt (o : FOps)
  | fle (o : FOps)
  | fun_ (o : FOps)
  -- addresses, R94
  | lea (a b : Nat) (c : XOp)
  | adpc (a : Nat) (off : Int)
  | faddr (a b : Nat) (c : XOp)
  | homeof (a b : Nat) (c : XOp)
  -- engine commands and results, R163 to R165
  | push (a b wc : Nat) (g : Option Guard)
  | pop (a wc : Nat)
  | trypop (a wc : Nat)
  | rfcnt (a wc : Nat)
  -- vector arithmetic, R186 to R189
  | vadd (o : VFOps)
  | vsub (o : VFOps)
  | vmul (o : VFOps)
  | vdiv (o : VFOps)
  | vsqrt (o : VFOps)
  | vmin (o : VFOps)
  | vmax (o : VFOps)
  | vminn (o : VFOps)
  | vmaxn (o : VFOps)
  | vneg (o : VFOps)
  | vabs (o : VFOps)
  | vsgn (o : VFOps)
  | vfma (o : VFOps)
  | vfms (o : VFOps)
  | vfnma (o : VFOps)
  | vfnms (o : VFOps)
  | viadd (o : VIOps)
  | visub (o : VIOps)
  | vimul (o : VIOps)
  | vimulh (o : VIOps)
  | vimin (o : VIOps)
  | vimax (o : VIOps)
  | viabs (o : VIOps)
  | vand (o : VLOps)
  | vor (o : VLOps)
  | vxor (o : VLOps)
  | vandn (o : VLOps)
  | vsll (o : VLOps)
  | vsrl (o : VLOps)
  | vsra (o : VLOps)
  -- compares and predicates, R190, R191
  | vfeq (o : VFOps)
  | vfne (o : VFOps)
  | vflt (o : VFOps)
  | vfle (o : VFOps)
  | vfun (o : VFOps)
  | vieq (o : VCOps)
  | vine (o : VCOps)
  | vilt (o : VCOps)
  | vile (o : VCOps)
  | kand (o : VROps)
  | kor (o : VROps)
  | kxor (o : VROps)
  | kandn (o : VROps)
  | knot (o : VROps)
  | kpopc (o : VROps)
  | kfirst (o : VROps)
  | vsel (o : VROps)
  -- conversion and quantisation, R192 to R195
  | vcvt (o : VcvtOps)
  | vq8E4m3 (o : VROps)
  | vq8E5m2 (o : VROps)
  | vq4 (o : VROps)
  | vdq4 (o : VROps)
  -- reductions, scans, permutations, R196 to R198
  | vrsum (o : VRedOps)
  | vrmax (o : VRedOps)
  | vrmin (o : VRedOps)
  | vrmaxn (o : VRedOps)
  | vrminn (o : VRedOps)
  | vramax (o : VRedOps)
  | vriand (o : VRedOps)
  | vrior (o : VRedOps)
  | vrixor (o : VRedOps)
  | vscan (o : VRedOps)
  | vperm (o : VROps)
  | vrotl (o : VXOps)
  | vcompr (o : VROps)
  | vexpnd (o : VROps)
  | vextr (o : VXOps)
  | vinsr (o : VXOps)
  | vbcast (o : VXOps)
  -- vector memory, R166 to R170
  | vld (o : VMOps)
  | vlds (o : VMROps)
  | vldConsumer (o : VMOps)
  | vldProducer (o : VMOps)
  | vst (o : VMOps)
  | vsts (o : VMROps)
  | vstConsumer (o : VMOps)
  | vstProducer (o : VMOps)
  | vgth (o : VMROps)
  | vsct (o : VMROps)
  | vscadd (o : VMROps)
  -- stream handles, R171 to R175
  | hwaitf (o : HOps)
  | hwaite (o : HOps)
  | hadvp (o : HOps)
  | hadvc (o : HOps)
  | hset (h b wc : Nat) (g : Option Guard)
  | hget (a h : Nat) (c : XOp) (wc : Nat)
  -- engines, R204 to R232
  | mma (o : EngOps)
  | mtrav (o : EngOps)
  | mzero (o : EngOps)
  | mst (o : EngOps)
  | mld (o : EngOps)
  | tdef (o : EngOps)
  | tshp (o : EngOps)
  | ttask (o : EngOps)
  | mmasd (o : EngOps)
  | trvcfg (o : EngOps)
  | cpchain (o : EngOps)
  | cpwait (o : EngOps)
  | bkrun (o : EngOps)
  | clred (o : EngOps)
  | clmcast (o : EngOps)
  | sendh (o : EngOps)
  -- special functions, R199
  | vexp2 (o : VFOps)
  | vlog2 (o : VFOps)
  | vrcp (o : VFOps)
  | vrsqrt (o : VFOps)
  | vsin (o : VFOps)
  | vcos (o : VFOps)
  | vtanh (o : VFOps)
  | vsigm (o : VFOps)
  | verf (o : VFOps)
  | vexp (o : VFOps)
  -- instructions without operands
  | nop | eret | ret | fence | fenceAlias | yield | pin | unpin
  -- steps of control-register accesses (R51, R80, R104, R170); what is written is in State
  | vl | budget | deadln | tflags | vweight | fflags | ftrapen | rndseed | tpc
  -- bank moves (R221, R222), named by their destination port; the move word is in State
  | rbfetch | ivload | mac | iadd | ishr | loop | jump | out | idxfetch | rowget | halt | bankAccWrite
  | bankPortWrite
  -- events; what an event carries is the message in State
  | guardSlotResolution | pushStallRelease | laneGroupArbitration | vectorQueueStallRelease | selection | suspension
  | budgetTrap | poisonReport | pageWalk | taskPacket | spillRefill | dataArrivalWithHandler | readRequest
  | readReply | write | writeAcknowledgement | atomic | atomicReply | engineCommand | resultOrStatus | waitArm | wake
  | publicationDemand | publicationComplete | writeBack | moved | refused | endToEndAcknowledgement | retryTimeout
  | destinationLost | packetRouting | flit | replayTimeout | trainingComplete | linkDown | linkAdaptation
  | collectiveContribution | slotTimerExpiry | rememberedKeyExpiry | collectiveResult | soft | kernelMessageReserved
  | preempt | preemptRaised | resume | move | config | recordMove | stealRound | stealRequest | stealBackoffExpiry
  | loadBalancing | fullEmptyCancel | heldWriteRelease | leaseExpiry | sigrcvExpiry | mmaCommand | mtravCommand
  | traverseTile | latchTimeout | mzeroCommand | mstCommand | mldCommand | mmasdCommand | tileTaskRecord
  | tileTaskDispatch | cpchainCommand | transferRecordComplete | gatherSublist | bkrunCommand | bankQuantumExpiry
  | clredCommand | clmcastCommand | tableWrite | platGenerationInstall | stripeHandover | parcelMapWrite
  | resizeHandover | backgroundRebuild | guardUpdate | portEnable | pcapWrite | monitorControlWrite
  | errorCounterClear | datumSet | hostDeadDeclaration | tenantReset | survey | doorbell | dmaWindowAccess | hold
  | heartbeatSend | heartbeat | hostTimeout | powerGood | routerImageVerify | stationBoot | thermalReading
  | governorMeasurement | refresh | targetedRefresh | patrolScrub | datumSynchronisation | monitorSample
  | stealRefusal
deriving DecidableEq, Repr

end Sys2Proof
end

