-- ==== Sys2Proof/WellFormed.lean ====
section
/-! DEFINITION. Well-formed instructions: register numbers within their files (R72, R76), immediates within the widths
of R63, and each instruction's own operand limits. An event's message is well formed when the
units it names exist (R9). -/

namespace Sys2Proof

/-- A signed immediate of a register form with at most four PFXI words (R63). -/
def wfImm (v : Int) : Bool := decide (-(2 ^ 38) ≤ v ∧ v < 2 ^ 38)
/-- A signed immediate of an immediate form with at most four PFXI words (R63). -/
def wfImm8 (v : Int) : Bool := decide (-(2 ^ 43) ≤ v ∧ v < 2 ^ 43)
/-- An unsigned immediate of a register form. -/
def wfUimm (v : Nat) : Bool := decide (v < 2 ^ 39)
/-- A scalar register number. -/
def wfG (r : Nat) : Bool := decide (r < 64)
/-- The first of an even pair of scalar registers. -/
def wfPair (r : Nat) : Bool := decide (r < 64 ∧ r % 2 = 0)
/-- A vector register number. -/
def wfV (r : Nat) : Bool := decide (r < 32)
/-- A predicate register number. -/
def wfK (r : Nat) : Bool := decide (r < 8)
/-- A predicate register that may be written (R76). -/
def wfKd (r : Nat) : Bool := decide (0 < r ∧ r < 8)
/-- A stream handle number. -/
def wfH (r : Nat) : Bool := decide (r < 16)
/-- An accumulator number. -/
def wfM (r : Nat) : Bool := decide (r < 4)
/-- A kind X operand (R62), its immediate signed. -/
def wfX : XOp → Bool
  | .reg r => wfG r
  | .imm v => wfImm v
/-- A kind X operand whose immediate is signed and below `lim`. -/
def wfXb (lim : Nat) : XOp → Bool
  | .reg r => wfG r
  | .imm v => wfImm v && decide (v < lim)
/-- A kind X operand whose immediate is unsigned and below `lim`. -/
def wfXu (lim : Nat) : XOp → Bool
  | .reg r => wfG r
  | .imm v => decide (0 ≤ v ∧ v < lim)
/-- A guard names one of eight slots. -/
def wfGuard : Option Guard → Bool
  | none => true
  | some g => decide (g.slot < 8)

/-- A scalar memory qualifier: WC is two bits, and SCOPE is `.core` when ORDER is plain (R67). -/
def MemQ.wf (q : MemQ) : Bool := decide (q.wc < 4) && (decide (q.order ≠ .plain) || decide (q.scope = .core))
/-- A vector qualifier: INV needs a predicate other than k0 (R66). -/
def VQ.wf (q : VQ) : Bool := wfK q.pred && (!q.inv || decide (q.pred ≠ 0)) && wfGuard q.guard
/-- The same for vector memory. -/
def VMQ.wf (q : VMQ) : Bool :=
  wfK q.pred && (!q.inv || decide (q.pred ≠ 0)) && wfGuard q.guard && decide (q.wc < 4) && decide (q.win ≠ .fa)

/-- R90; `.sat` where the operation gives it a meaning. -/
def AluOps.wf (sat : Bool) (o : AluOps) : Bool := wfG o.a && wfG o.b && wfX o.c && (sat || !o.sat)
def Alu1Ops.wf (o : Alu1Ops) : Bool := wfG o.a && wfG o.b
def ImmOps.wf (sat : Bool) (o : ImmOps) : Bool := wfG o.a && wfImm8 o.imm && (sat || !o.sat)
/-- R91: shift counts from 0 to 63. -/
def ImmOps.wfShift (o : ImmOps) : Bool := wfG o.a && decide (0 ≤ o.imm ∧ o.imm < 64) && !o.sat
def BrOps.wf (o : BrOps) : Bool := wfG o.a && wfG o.b && wfImm o.off
/-- R153, R154: the orders of R150 and hints of R151 a form accepts. -/
def LdOps.wf (orders : List Order) (hints : List Hint) (pair useA : Bool) (o : LdOps) : Bool :=
  (if useA then (if pair then wfPair o.a else wfG o.a) else decide (o.a = 0)) && wfG o.b && wfX o.c && o.q.wf &&
  orders.contains o.q.order && hints.contains o.q.hint
def AtomOps.wf (pair : Bool) (o : AtomOps) : Bool :=
  wfG o.a && wfG o.b && (if pair then wfPair o.c else wfG o.c) && o.q.wf && decide (o.q.hint = .none)
def WaitOps.wf (o : WaitOps) : Bool :=
  wfG o.a && wfG o.b && wfG o.c && o.q.wf && [Order.plain, .acq].contains o.q.order && decide (o.q.hint = .none)
def RangeOps.wf (o : RangeOps) : Bool := wfG o.b && wfX o.c && decide (o.wc < 4)
def FOps.wf (rm : Bool) (o : FOps) : Bool := wfG o.a && wfG o.b && wfG o.c && (rm || decide (o.rm = .ne))
def F1Ops.wf (rm : Bool) (o : F1Ops) : Bool := wfG o.a && wfG o.b && (rm || decide (o.rm = .ne))

/-- The conversion codes of R74. -/
def CTy.code : CTy → Nat
  | .f32 => 0 | .bf16 => 1 | .f16 => 2 | .e4m3 => 3 | .e5m2 => 4 | .i64 => 5 | .n64 => 6 | .i32 => 7 | .n32 => 8
  | .i16 => 9 | .n16 => 10 | .i8 => 11 | .n8 => 12
/-- The pairs that R74 defines for FCVT. -/
def fcvtPair (d s : Nat) : Bool :=
  decide (d ≠ s ∧ d ≤ 2 ∧ s ≤ 2) || decide (d ≤ 2 ∧ 3 ≤ s ∧ s ≤ 8) || decide (s ≤ 2 ∧ 3 ≤ d ∧ d ≤ 8)
/-- The pairs that R74 defines for VCVT. -/
def vcvtPair (d s : Nat) : Bool :=
  decide (d ≠ s ∧ d ≤ 4 ∧ s ≤ 4 ∧ (d ≤ 2 ∨ s ≤ 2)) || decide (d ≤ 2 ∧ 7 ≤ s ∧ s ≤ 12) || decide (s ≤ 2 ∧ 7 ≤ d ∧ d ≤ 12)
/-- R101: `.sat` when the destination is E4M3, E5M2 or an integer. -/
def FcvtOps.wf (o : FcvtOps) : Bool :=
  wfG o.a && wfG o.b && fcvtPair o.d.code o.s.code && (!o.sat || decide (3 ≤ o.d.code))
/-- R192: `.sat` when the destination is E4M3, E5M2 or an integer. -/
def VcvtOps.wf (o : VcvtOps) : Bool :=
  wfV o.a && wfV o.b && vcvtPair o.d.code o.s.code && o.q.wf && (!o.q.sat || decide (3 ≤ o.d.code))

/-- What a vector arithmetic form accepts of its qualifiers (R178): rounding, saturation, zeroing, a predicate. -/
def VQ.only (rm sat zero pred : Bool) (q : VQ) : Bool :=
  q.wf && (rm || decide (q.rm = .ne)) && (sat || !q.sat) && (zero || !q.zero) && (pred || decide (q.pred = 0))
/-- R186: `two` when C is a source. -/
def VFOps.wf (two rm kd : Bool) (o : VFOps) : Bool :=
  (if kd then wfKd o.a else wfV o.a) && wfV o.b &&
  (if two then (if o.bc then wfG o.c else wfV o.c) else decide (o.c = 0) && !o.bc) && o.q.only rm false true true
def VIOps.wf (two sat : Bool) (o : VIOps) : Bool :=
  wfV o.a && wfV o.b && (if two then (if o.bc then wfG o.c else wfV o.c) else decide (o.c = 0) && !o.bc) &&
  o.q.only false sat true true
def VLOps.wf (o : VLOps) : Bool :=
  wfV o.a && wfV o.b && (if o.bc then wfG o.c else wfV o.c) && o.q.only false false true true
def VCOps.wf (o : VCOps) : Bool :=
  wfKd o.a && wfV o.b && (if o.bc then wfG o.c else wfV o.c) && o.q.only false false true true
/-- A C operand that a form does not use. -/
def wfNone (r : Nat) : Bool := decide (r = 0)
/-- Predicate logic, selection, quantisation, permutation: the kinds of A, B, C and the accepted qualifiers. -/
def VROps.wf (fa fb fc : Nat → Bool) (rm sat zero : Bool) (o : VROps) : Bool :=
  fa o.a && fb o.b && fc o.c && o.q.only rm sat zero true
def VXOps.wf (fa fb : Nat → Bool) (pz : Bool) (o : VXOps) : Bool :=
  fa o.a && fb o.b && wfXb 256 o.c && o.q.only false false pz pz
/-- R196: floating reductions take no `.sat`. -/
def VRedOps.wf (float int sat zero : Bool) (o : VRedOps) : Bool :=
  wfV o.a && wfV o.b &&
  (if o.page = .i32 ∨ o.page = .n32 then int && o.q.only false sat zero true else float && o.q.only false false zero true)
def VMOps.wf (hints : List Hint) (zero : Bool) (fb : Nat → Bool) (o : VMOps) : Bool :=
  wfV o.a && fb o.b && wfX o.c && o.q.wf && hints.contains o.q.hint && (zero || !o.q.zero)
def VMROps.wf (hints : List Hint) (zero : Bool) (fc : Nat → Bool) (pages : List WPage) (o : VMROps) : Bool :=
  wfV o.a && wfG o.b && fc o.c && o.q.wf && hints.contains o.q.hint && (zero || !o.q.zero) && pages.contains o.w
/-- `uns` where the count is an unsigned one (R173). -/
def HOps.wf (uns : Bool) (o : HOps) : Bool := wfH o.h && (if uns then wfXu (2 ^ 39) o.c else wfX o.c) && decide (o.wc < 4) && wfGuard o.guard
def EngOps.wf (fa fb fc : Nat → Bool) (o : EngOps) : Bool :=
  fa o.a && fb o.b && fc o.c && decide (o.wc < 4) && wfGuard o.guard
/-- R222: the source port is 6 bits, the repeat count 12, the immediate 8. -/
def BMove.wf (m : BMove) : Bool := decide (m.src < 64) && decide (m.rep < 4096) && decide (m.imm < 256)

/-- R79: the control-register numbers assigned. -/
def csrAssigned (n : Nat) : Bool := decide (n ≤ 0x00C) || decide (0x040 ≤ n ∧ n ≤ 0x045)

/-- A context of R9. -/
def Loc.wf (l : Loc) : Bool := decide (l.stn < 64) && decide (l.core < 8) && decide (l.ctx < 4)
/-- A station of R9. -/
def wfStn (n : Nat) : Bool := decide (n < 64)
/-- A port of R9. -/
def wfPort (n : Nat) : Bool := decide (n < 8)

def loadOrders : List Order := [.plain, .sg, .acq]
def storeOrders : List Order := [.plain, .sg, .rel]
def loadHints : List Hint := [.none, .span, .rep, .nt]
def storeHints : List Hint := [.none, .span, .nt]

/-- An instruction whose operands its encoding can hold and its description admits, or an event that names units the
cube has. -/
def Instr.wf : Instr → Bool
  | .nop | .eret | .fence | .fenceAlias | .yield | .pin | .unpin | .ret => true
  | .brk c | .trap c | .kcall c => wfUimm c
  | .tlbinv b c | .kmsg b c => wfG b && wfG c
  | .add o | .sub o | .mul o => o.wf true
  | .and o | .or o | .xor o | .sll o | .srl o | .sra o | .mulh o | .div o | .rem o | .min o | .max o => o.wf false
  | .clz o | .ctz o | .popc o => o.wf
  | .ext w o => [8, 16, 32].contains w && o.wf
  | .addi o | .muli o => o.wf true
  | .andi o | .ori o | .xori o => o.wf false
  | .slli o | .srli o | .srai o => o.wfShift
  | .movi a v => wfG a && wfImm8 v
  | .movh a v => wfG a && decide (0 ≤ v ∧ v < 2 ^ 20)
  | .beq o | .bne o | .blt o | .bge o | .bltN64 o | .bgeN64 o => o.wf
  | .jmp v | .call v => wfImm8 v
  | .jr a | .callr a | .exit a => wfG a
  | .ldN8 o | .ldN16 o | .ldN32 o | .ld o | .ldI8 o | .ldI16 o | .ldI32 o => o.wf loadOrders loadHints false true
  | .ldp o => o.wf loadOrders loadHints true true
  | .ldw o | .ldwe o => o.wf [.plain, .acq] [.none] false true
  | .stN8 o | .stN16 o | .stN32 o | .st o => o.wf storeOrders storeHints false true
  | .stp o => o.wf storeOrders storeHints true true
  | .stw o | .stf o => o.wf [.plain, .rel] [.none] false true
  | .feclr o => o.wf [.plain, .rel] [.none] false false
  | .aadd o | .aand o | .aor o | .axor o | .aminI o | .aminN o | .amaxI o | .amaxN o | .aswap o | .acas o => o.wf false
  | .aaddt o => o.wf true
  | .afaddF32 o | .afmaxnF32 o => o.wf false && o.w32
  | .waitEq o | .waitNe o | .waitGe o | .waitLt o => o.wf
  | .flushr o | .invr o => o.wf
  | .smap a b c wc => wfG a && wfG b && wfG c && decide (wc < 4)
  | .sunmap b wc => wfG b && decide (wc < 4)
  | .cwait m wc => decide (m < 8) && decide (wc < 4)
  | .spawn a b c => wfG a && wfG b && wfG c
  | .fork a b off => wfG a && wfPair b && wfImm off
  | .join a b c => wfG a && wfG b && wfX c
  | .fadd o | .fsub o | .fmul o | .fdiv o | .fma o => o.wf true
  | .fmin o | .fmax o | .fminn o | .fmaxn o | .fsgn o | .feq o | .flt o | .fle o | .fun_ o => o.wf false
  | .fsqrt o => o.wf true
  | .fneg o | .fabs o => o.wf false
  | .fcvt o => o.wf
  | .csrr n a | .csrw n a | .csrs n a | .csrc n a => csrAssigned n && wfG a
  | .vl | .budget | .deadln | .tflags | .vweight | .fflags | .ftrapen | .rndseed | .tpc => true
  | .seq a b c | .sne a b c | .sltI a b c | .sltN a b c | .sleI a b c | .sleN a b c | .sel a b c
  | .lea a b c | .faddr a b c | .homeof a b c => wfG a && wfG b && wfX c
  | .gset j b | .gsetz j b => wfK j && wfG b
  | .gwait a j => wfG a && wfK j
  | .adpc a off => wfG a && wfImm off
  | .push a b wc g => wfG a && wfG b && decide (wc < 4) && wfGuard g
  | .pop a wc | .trypop a wc => wfPair a && decide (wc < 4)
  | .rfcnt a wc => wfG a && decide (wc < 4)
  | .vadd o | .vsub o | .vmul o | .vdiv o | .vfma o | .vfms o | .vfnma o | .vfnms o => o.wf true true false
  | .vmin o | .vmax o | .vminn o | .vmaxn o | .vsgn o => o.wf true false false
  | .vsqrt o => o.wf false true false
  | .vneg o | .vabs o | .vexp2 o | .vlog2 o | .vrcp o | .vrsqrt o | .vsin o | .vcos o | .vtanh o | .vsigm o | .verf o
  | .vexp o => o.wf false false false
  | .viadd o | .visub o | .vimul o => o.wf true true
  | .vimulh o | .vimin o | .vimax o => o.wf true false
  | .viabs o => o.wf false true
  | .vand o | .vor o | .vxor o | .vandn o | .vsll o | .vsrl o | .vsra o => o.wf
  | .vfeq o | .vfne o | .vflt o | .vfle o | .vfun o => o.wf true false true
  | .vieq o | .vine o | .vilt o | .vile o => o.wf
  | .kand o | .kor o | .kxor o | .kandn o => o.wf wfKd wfK wfK false false true
  | .knot o => o.wf wfKd wfK wfNone false false true
  | .kpopc o | .kfirst o => o.wf wfG wfK wfNone false false false && decide (o.q.guard = none)
  | .vsel o => o.wf wfV wfV wfV false false true
  | .vcvt o => o.wf
  | .vq8E4m3 o | .vq8E5m2 o => o.wf wfV wfV wfG true true false && decide (o.q.rm ≠ .rs)
  | .vq4 o => o.wf wfV wfV wfG true false false
  | .vdq4 o => o.wf wfV wfV wfG true false true && decide (o.q.rm ≠ .rs)
  | .vrsum o => o.wf true true true false
  | .vrmax o | .vrmin o => o.wf true true false false
  | .vrmaxn o | .vrminn o | .vramax o => o.wf true false false false
  | .vriand o | .vrior o | .vrixor o => o.wf false true false false
  | .vscan o => o.wf true true true true
  | .vperm o => o.wf wfV wfV wfV false false true
  | .vcompr o | .vexpnd o => o.wf wfV wfV wfNone false false true
  | .vrotl o | .vbcast o => o.wf wfV wfV true
  | .vextr o => o.wf wfG wfV false && decide (o.q.guard = none)
  | .vinsr o => o.wf wfV wfG false
  | .vld o => o.wf loadHints true wfG
  | .vldConsumer o | .vldProducer o => o.wf loadHints true wfH
  | .vst o => o.wf storeHints false wfG
  | .vstConsumer o | .vstProducer o => o.wf storeHints false wfH
  | .vlds o => o.wf loadHints true wfG [.w32, .w16, .w8, .w64]
  | .vsts o => o.wf storeHints false wfG [.w32, .w16, .w8, .w64]
  | .vgth o => o.wf [.none, .rep, .nt] true wfV [.w32, .w64]
  | .vsct o => o.wf [.none, .nt] false wfV [.w32, .w64]
  | .vscadd o => o.wf [.none] false wfV [.w32]
  | .hwaitf o | .hwaite o => o.wf true
  | .hadvp o | .hadvc o => o.wf false
  | .hset h b wc g => wfH h && wfG b && decide (wc < 4) && wfGuard g
  | .hget a h c wc => wfG a && wfH h && wfXu 8 c && decide (wc < 4)
  | .mma o | .mtrav o | .mmasd o => o.wf wfM wfG wfPair
  | .mzero o => o.wf wfM wfG wfNone
  | .mst o | .mld o => o.wf wfM wfG wfG
  | .tdef o | .tshp o | .trvcfg o => o.wf wfNone wfG wfG
  | .ttask o | .cpchain o => o.wf wfNone wfG wfNone
  | .cpwait o => o.wf wfG wfG wfG && decide (o.guard = none)
  | .bkrun o | .clred o | .clmcast o => o.wf wfG wfG wfG
  | .sendh o => o.wf wfG wfG wfPair
  | .rbfetch | .ivload | .mac | .iadd | .ishr | .loop | .jump | .out | .idxfetch | .rowget | .halt | .bankAccWrite
  | .bankPortWrite => true
  | .guardSlotResolution | .pushStallRelease | .laneGroupArbitration | .vectorQueueStallRelease | .selection | .suspension
  | .budgetTrap | .poisonReport | .pageWalk | .taskPacket | .spillRefill | .dataArrivalWithHandler | .readRequest
  | .readReply | .write | .writeAcknowledgement | .atomic | .atomicReply | .engineCommand | .resultOrStatus | .waitArm
  | .wake | .publicationDemand | .publicationComplete | .writeBack | .moved | .refused | .endToEndAcknowledgement
  | .retryTimeout | .destinationLost | .packetRouting | .flit | .replayTimeout | .trainingComplete | .linkDown
  | .linkAdaptation | .collectiveContribution | .slotTimerExpiry | .rememberedKeyExpiry | .collectiveResult | .soft
  | .kernelMessageReserved | .preempt | .preemptRaised | .resume | .move | .config | .recordMove | .stealRound
  | .stealRequest | .stealBackoffExpiry | .loadBalancing | .fullEmptyCancel | .heldWriteRelease | .leaseExpiry
  | .sigrcvExpiry | .mmaCommand | .mtravCommand | .traverseTile | .latchTimeout | .mzeroCommand | .mstCommand
  | .mldCommand | .mmasdCommand | .tileTaskRecord | .tileTaskDispatch | .cpchainCommand | .transferRecordComplete
  | .gatherSublist | .bkrunCommand | .bankQuantumExpiry | .clredCommand | .clmcastCommand | .tableWrite
  | .platGenerationInstall | .stripeHandover | .parcelMapWrite | .resizeHandover | .backgroundRebuild | .guardUpdate
  | .portEnable | .pcapWrite | .monitorControlWrite | .errorCounterClear | .datumSet | .hostDeadDeclaration
  | .tenantReset | .survey | .doorbell | .dmaWindowAccess | .hold | .heartbeatSend | .heartbeat | .hostTimeout
  | .powerGood | .routerImageVerify | .stationBoot | .thermalReading | .governorMeasurement | .refresh
  | .targetedRefresh | .patrolScrub | .datumSynchronisation | .monitorSample | .stealRefusal => true

/-- A message names units that the cube has. -/
def Msg.wf : Msg → Bool
  | .guardSlotResolution l _ _ | .selection l | .suspension l | .budgetTrap l | .poisonReport l _
  | .fullEmptyCancel l => l.wf
  | .pushStallRelease s _ | .laneGroupArbitration s | .pageWalk s _ _ | .taskPacket s _ | .spillRefill s
  | .dataArrivalWithHandler s _ | .preemptRaised s | .recordMove s _ | .stealRound s | .stealRequest s _
  | .stealBackoffExpiry s | .loadBalancing s | .sigrcvExpiry s | .mmaCommand s | .mtravCommand s | .traverseTile s
  | .latchTimeout s | .mzeroCommand s | .mstCommand s | .mldCommand s | .mmasdCommand s | .cpchainCommand s
  | .transferRecordComplete s _ | .gatherSublist s _ _ | .bkrunCommand s | .bankQuantumExpiry s | .clredCommand s
  | .clmcastCommand s | .stationBoot s _ | .refresh s | .targetedRefresh s _ _ | .scrubStep s _ | .sramError s _ _
  | .rowActivations s _ _ _ | .stealRefusal s => wfStn s
  | .vectorQueueStallRelease s c => wfStn s && decide (c < 8)
  | .flit p _ | .replayTimeout p | .trainingComplete p _ _ | .linkDown p | .linkAdaptation p | .portEnable p => wfPort p
  | _ => true

end Sys2Proof
end

