-- ==== Sys2Proof/Decode.lean ====
section
/-! DEFINITION. Instruction words to instructions and back (R57 to R75, R79, R222). The opcode map is one table of
rows, used by the decoder and, through `fieldsOf`, by the encoder. -/

namespace Sys2Proof

/-! ## Words -/

/-- R57: bits [15:12] all ones. -/
def isPrefix (w : Nat) : Bool := decide (w / 4096 = 15)
/-- R61: the major opcode. -/
def majOf (w : Nat) : Nat := w / 2048
def fieldA (w : Nat) : Nat := w / 256 % 8
def fieldB (w : Nat) : Nat := w / 32 % 8
def fieldC (w : Nat) : Nat := w / 4 % 8
def fieldFn (w : Nat) : Nat := w % 4

/-- The prefix words of an instruction: PFXI payloads in address order with the place of the first, the other kinds with
their places, and the place of the first repeated kind. -/
structure Pfx where
  imm : List Nat := []
  posI : Nat := 0
  r : Option (Nat × Nat) := none
  p : Option (Nat × Nat) := none
  q : Option (Nat × Nat) := none
  m : Option (Nat × Nat) := none
  g : Option (Nat × Nat) := none
  dup : Option Nat := none
deriving DecidableEq, Repr

/-- Notes a repeated prefix kind (R69). -/
def noteDup (d : Option Nat) (old : Option (Nat × Nat)) (pos : Nat) : Option Nat :=
  match d, old with
  | some x, _ => some x
  | none, some _ => some pos
  | none, none => none

/-- Adds one prefix word (R64) at place `pos`. -/
def Pfx.addWord (x : Pfx) (pos w : Nat) : Pfx :=
  if w < 0xF200 then { x with imm := x.imm ++ [w % 512], posI := if x.imm.isEmpty then pos else x.posI }
  else if w < 0xF400 then { x with r := x.r.or (some (pos, w)), dup := noteDup x.dup x.r pos }
  else if w < 0xF600 then { x with p := x.p.or (some (pos, w)), dup := noteDup x.dup x.p pos }
  else if w < 0xF800 then { x with q := x.q.or (some (pos, w)), dup := noteDup x.dup x.q pos }
  else if w < 0xFC00 then { x with m := x.m.or (some (pos, w)), dup := noteDup x.dup x.m pos }
  else { x with g := x.g.or (some (pos, w)), dup := noteDup x.dup x.g pos }

/-- Splits an instruction's words into its prefixes and its base word with the base word's place. -/
def splitWords : List Nat → Nat → Pfx → Pfx × Option (Nat × Nat)
  | [], _, x => (x, none)
  | w :: ws, pos, x => if isPrefix w then splitWords ws (pos + 1) (x.addWord pos w) else (x, some (pos, w))

/-- The payloads and the base word's own field of `width` bits as one number (R63). -/
def immRaw (ps : List Nat) (own width : Nat) : Nat := ps.foldl (fun acc p => acc * 512 + p) 0 * 2 ^ width + own
/-- Sign extension of an `n`-bit number. -/
def signed (n v : Nat) : Int := if v < 2 ^ (n - 1) then (v : Int) else (v : Int) - 2 ^ n

/-! ## Codes -/

def Order.ofCode : Nat → Option Order
  | 0 => some .plain | 1 => some .sg | 2 => some .acq | 3 => some .rel | 4 => some .ar | _ => none
def Order.code : Order → Nat
  | .plain => 0 | .sg => 1 | .acq => 2 | .rel => 3 | .ar => 4
def Scope.ofCode : Nat → Scope
  | 0 => .core | 1 => .stn | 2 => .cube | _ => .dom
def Scope.code : Scope → Nat
  | .core => 0 | .stn => 1 | .cube => 2 | .dom => 3
def Win.ofCode : Nat → Option Win
  | 0 => some .va | 1 => some .lin | 2 => some .fa | _ => none
def Win.code : Win → Nat
  | .va => 0 | .lin => 1 | .fa => 2
def Hint.ofCode : Nat → Hint
  | 0 => .none | 1 => .span | 2 => .rep | _ => .nt
def Hint.code : Hint → Nat
  | .none => 0 | .span => 1 | .rep => 2 | .nt => 3
def Rm.ofCode : Nat → Option Rm
  | 0 => some .ne | 1 => some .rz | 2 => some .rd | 3 => some .ru | 4 => some .rs | _ => none
def Rm.code : Rm → Nat
  | .ne => 0 | .rz => 1 | .rd => 2 | .ru => 3 | .rs => 4
def CTy.ofCode : Nat → CTy
  | 0 => .f32 | 1 => .bf16 | 2 => .f16 | 3 => .e4m3 | 4 => .e5m2 | 5 => .i64 | 6 => .n64 | 7 => .i32 | 8 => .n32
  | 9 => .i16 | 10 => .n16 | 11 => .i8 | _ => .n8
def FFmt.ofPage : Nat → FFmt
  | 0 => .f32 | 1 => .bf16 | _ => .f16
def FFmt.page : FFmt → Nat
  | .f32 => 0 | .bf16 => 1 | .f16 => 2
def WPage.ofPage : Nat → WPage
  | 0 => .w32 | 1 => .w16 | 2 => .w8 | _ => .w64
def WPage.page : WPage → Nat
  | .w32 => 0 | .w16 => 1 | .w8 => 2 | .w64 => 3
def ITy.ofPage : Nat → ITy
  | 0 => .i32 | 1 => .n32 | 2 => .i16 | 3 => .n16 | 4 => .i8 | 5 => .n8 | 6 => .i64 | _ => .n64
def ITy.page : ITy → Nat
  | .i32 => 0 | .n32 => 1 | .i16 => 2 | .n16 => 3 | .i8 => 4 | .n8 => 5 | .i64 => 6 | .n64 => 7
def CmpTy.ofPage : Nat → CmpTy
  | 3 => .i32 | 4 => .n32 | 5 => .i8 | _ => .n8
def CmpTy.page : CmpTy → Nat
  | .i32 => 3 | .n32 => 4 | .i8 => 5 | .n8 => 6
def RPage.ofPage : Nat → RPage
  | 0 => .f32 | 1 => .bf16 | 2 => .f16 | 3 => .i32 | _ => .n32
def RPage.page : RPage → Nat
  | .f32 => 0 | .bf16 => 1 | .f16 => 2 | .i32 => 3 | .n32 => 4

/-! ## The opcode map as rows -/

/-- The kinds of register or immediate that a field may carry (R62, R72, R76, R79). -/
inductive FK where
  | none | g | pair | v | k | kd | j | h | m
  | x | xu | i | iu | csr
deriving DecidableEq, Repr

/-- The PFXQ layouts of R66. -/
inductive QClass where
  | none | sa | va | vm | m
deriving DecidableEq, Repr

/-- What an instruction's words say, field by field: register numbers after PFXR, C as kind X, the immediate, and the
qualifiers. -/
structure Fld where
  page : Nat := 0
  n : Nat := 0
  a : Nat := 0
  b : Nat := 0
  c : Nat := 0
  x : XOp := .reg 0
  imm : Int := 0
  pred : Nat := 0
  zero : Bool := false
  inv : Bool := false
  sat : Bool := false
  rm : Rm := .ne
  wc : Nat := 0
  hint : Hint := .none
  order : Order := .plain
  scope : Scope := .core
  win : Win := .va
  grd : Option Guard := none
deriving DecidableEq, Repr

/-- One operation of R73: the kinds of its fields, the qualifiers it accepts, its immediate's limit, and the
instruction it is. `noP`, `noQ` and `noR` refuse a prefix kind even with an empty payload; `rs` is whether a rounding form
takes stochastic rounding, which R42 gives to the descriptions that list it. -/
structure Row where
  a : FK := .none
  b : FK := .none
  c : FK := .none
  pred : Bool := false
  zero : Bool := false
  sat : Bool := false
  rm : Bool := false
  wc : Bool := false
  hints : List Hint := [.none]
  orders : List Order := []
  wins : List Win := [.va]
  grd : Bool := false
  noP : Bool := false
  noQ : Bool := false
  noR : Bool := false
  rs : Bool := true
  lim : Option Int := none
  make : Fld → Instr

/-- The immediate-form majors (R73). -/
def immForm (maj : Nat) : Bool := maj == 2 || maj == 3 || maj == 5
/-- R69: the PFXQ class of a major opcode. -/
def qClass (maj : Nat) : QClass :=
  if maj = 1 ∨ maj = 2 ∨ maj = 11 ∨ maj = 13 then .sa
  else if maj = 6 ∨ maj = 7 ∨ maj = 8 ∨ maj = 9 ∨ maj = 15 then .m
  else if (16 ≤ maj ∧ maj ≤ 22) ∨ maj = 29 then .va
  else if 23 ≤ maj ∧ maj ≤ 25 then .vm
  else if 26 ≤ maj ∧ maj ≤ 28 then .m
  else .none

def Fld.memQ (f : Fld) : MemQ := ⟨f.order, f.scope, f.win, f.wc, f.hint⟩
def Fld.vq (f : Fld) : VQ := ⟨f.pred, f.zero, f.inv, f.sat, f.rm, f.grd⟩
def Fld.vmq (f : Fld) : VMQ := ⟨f.pred, f.zero, f.inv, f.wc, f.hint, f.win, f.grd⟩
def Fld.alu (f : Fld) : AluOps := ⟨f.page == 1, f.sat, f.a, f.b, f.x⟩
def Fld.alu1 (f : Fld) : Alu1Ops := ⟨f.page == 1, f.a, f.b⟩
def Fld.immo (f : Fld) : ImmOps := ⟨f.sat, f.a, f.imm⟩
def Fld.br (f : Fld) : BrOps := ⟨f.a, f.b, f.imm⟩
def Fld.ldo (f : Fld) : LdOps := ⟨f.a, f.b, f.x, f.memQ⟩
def Fld.atom (f : Fld) : AtomOps := ⟨f.page == 1, f.a, f.b, f.c, f.memQ⟩
def Fld.wait (f : Fld) : WaitOps := ⟨f.a, f.b, f.c, f.memQ⟩
def Fld.range (f : Fld) : RangeOps := ⟨f.b, f.x, f.win, f.wc⟩
def Fld.fo (f : Fld) (p0 : Nat) : FOps := ⟨FFmt.ofPage (f.page - p0), f.rm, f.a, f.b, f.c⟩
def Fld.f1 (f : Fld) : F1Ops := ⟨FFmt.ofPage f.page, f.rm, f.a, f.b⟩
def Fld.fcvt (f : Fld) : FcvtOps := ⟨CTy.ofCode (f.n / 16), CTy.ofCode (f.n % 16), f.rm, f.sat, f.a, f.b⟩
def Fld.vf (f : Fld) : VFOps := ⟨FFmt.ofPage f.page, decide (128 ≤ f.n), f.a, f.b, f.c, f.vq⟩
def Fld.vi (f : Fld) : VIOps := ⟨ITy.ofPage f.page, decide (128 ≤ f.n), f.a, f.b, f.c, f.vq⟩
def Fld.vlo (f : Fld) : VLOps := ⟨WPage.ofPage f.page, decide (128 ≤ f.n), f.a, f.b, f.c, f.vq⟩
def Fld.vc (f : Fld) : VCOps := ⟨CmpTy.ofPage f.page, decide (128 ≤ f.n), f.a, f.b, f.c, f.vq⟩
def Fld.vr (f : Fld) : VROps := ⟨f.a, f.b, f.c, f.vq⟩
def Fld.vx (f : Fld) : VXOps := ⟨f.a, f.b, f.x, f.vq⟩
def Fld.vcvt (f : Fld) : VcvtOps := ⟨CTy.ofCode (f.n / 16), CTy.ofCode (f.n % 16), f.a, f.b, f.vq⟩
def Fld.vred (f : Fld) : VRedOps := ⟨RPage.ofPage f.page, f.a, f.b, f.vq⟩
def Fld.vm (f : Fld) : VMOps := ⟨WPage.ofPage f.page, f.a, f.b, f.x, f.vmq⟩
def Fld.vmr (f : Fld) : VMROps := ⟨WPage.ofPage f.page, f.a, f.b, f.c, f.vmq⟩
def Fld.ho (f : Fld) : HOps := ⟨f.a, f.x, f.wc, f.grd⟩
def Fld.eng (f : Fld) : EngOps := ⟨f.a, f.b, f.c, f.wc, f.grd⟩

/-- A two-source integer operation (R90). -/
def rowAlu (sat : Bool) (ctor : AluOps → Instr) : Row := { a := .g, b := .g, c := .x, sat := sat, make := fun f => ctor f.alu }
/-- A one-source integer operation (R90). -/
def rowAlu1 (ctor : Alu1Ops → Instr) : Row := { a := .g, b := .g, make := fun f => ctor f.alu1 }
def rowImm (sat : Bool) (ctor : ImmOps → Instr) : Row := { a := .g, c := .i, sat := sat, make := fun f => ctor f.immo }
/-- A shift count of R91: unsigned, 0 to 63. -/
def rowShift (ctor : ImmOps → Instr) : Row := { a := .g, c := .iu, lim := some 63, make := fun f => ctor f.immo }
def rowBr (ctor : BrOps → Instr) : Row := { a := .g, b := .g, c := .i, make := fun f => ctor f.br }
def rowLd (ctor : LdOps → Instr) : Row :=
  { a := .g, b := .g, c := .x, wc := true, hints := loadHints, orders := loadOrders, wins := [.va, .lin, .fa]
    make := fun f => ctor f.ldo }
def rowSt (ctor : LdOps → Instr) : Row := { rowLd ctor with hints := storeHints, orders := storeOrders }
/-- A full/empty form (R150, R151, R154). -/
def rowFe (order : Order) (ctor : LdOps → Instr) : Row := { rowLd ctor with hints := [.none], orders := [.plain, order] }
def rowAtom (ctor : AtomOps → Instr) : Row :=
  { a := .g, b := .g, c := .g, wc := true, orders := [.plain, .sg, .acq, .rel, .ar], wins := [.va, .lin, .fa]
    make := fun f => ctor f.atom }
def rowWait (ctor : WaitOps → Instr) : Row :=
  { a := .g, b := .g, c := .g, wc := true, orders := [.plain, .acq], wins := [.va, .lin, .fa], make := fun f => ctor f.wait }
def rowRange (ctor : RangeOps → Instr) : Row :=
  { b := .g, c := .x, wc := true, orders := [.plain], wins := [.va, .lin, .fa], make := fun f => ctor f.range }
def rowF (rm : Bool) (p0 : Nat) (ctor : FOps → Instr) : Row := { a := .g, b := .g, c := .g, rm := rm, make := fun f => ctor (f.fo p0) }
def rowF1 (rm : Bool) (ctor : F1Ops → Instr) : Row := { a := .g, b := .g, rm := rm, make := fun f => ctor f.f1 }
def rowX3 (ctor : Nat → Nat → XOp → Instr) : Row := { a := .g, b := .g, c := .x, make := fun f => ctor f.a f.b f.x }
/-- The kind of C in a vector form: a vector register, or gC in the broadcast form (R75). -/
def vOrG (n : Nat) : FK := if 128 ≤ n then .g else .v
def rowVF (rm : Bool) (n : Nat) (ctor : VFOps → Instr) : Row :=
  { a := .v, b := .v, c := vOrG n, pred := true, zero := true, rm := rm, grd := true, make := fun f => ctor f.vf }
def rowVF1 (rm : Bool) (ctor : VFOps → Instr) : Row := { rowVF rm 0 ctor with c := .none }
def rowVFc (n : Nat) (ctor : VFOps → Instr) : Row := { rowVF false n ctor with a := .kd }
def rowVI (sat : Bool) (n : Nat) (ctor : VIOps → Instr) : Row :=
  { a := .v, b := .v, c := vOrG n, pred := true, zero := true, sat := sat, grd := true, make := fun f => ctor f.vi }
def rowVL (n : Nat) (ctor : VLOps → Instr) : Row :=
  { a := .v, b := .v, c := vOrG n, pred := true, zero := true, grd := true, make := fun f => ctor f.vlo }
def rowVC (n : Nat) (ctor : VCOps → Instr) : Row :=
  { a := .kd, b := .v, c := vOrG n, pred := true, zero := true, grd := true, make := fun f => ctor f.vc }
def rowVR (a b c : FK) (ctor : VROps → Instr) : Row :=
  { a := a, b := b, c := c, pred := true, zero := true, grd := true, make := fun f => ctor f.vr }
/-- A lane number of R198: above 255 it is illegal, and R63's sign extension stands, since R198 does not name it unsigned
(log entry 100). -/
def rowVX (a b : FK) (ctor : VXOps → Instr) : Row :=
  { a := a, b := b, c := .x, pred := true, zero := true, grd := true, lim := some 255, make := fun f => ctor f.vx }
def rowVRed (sat zero : Bool) (ctor : VRedOps → Instr) : Row :=
  { a := .v, b := .v, pred := true, zero := zero, sat := sat, grd := true, make := fun f => ctor f.vred }
def rowVM (b : FK) (zero : Bool) (hints : List Hint) (wins : List Win) (ctor : VMOps → Instr) : Row :=
  { a := .v, b := b, c := .x, pred := true, zero := zero, wc := true, hints := hints, orders := [.plain], wins := wins
    grd := true, make := fun f => ctor f.vm }
def rowVMR (c : FK) (zero : Bool) (hints : List Hint) (ctor : VMROps → Instr) : Row :=
  { a := .v, b := .g, c := c, pred := true, zero := zero, wc := true, hints := hints, orders := [.plain]
    wins := [.va, .lin], grd := true, make := fun f => ctor f.vmr }
/-- A handle operation with a count: `.xu` where R173 names it unsigned, `.x` under R174. -/
def rowH (c : FK) (ctor : HOps → Instr) : Row := { a := .h, c := c, wc := true, grd := true, make := fun f => ctor f.ho }
def rowEng (a b c : FK) (ctor : EngOps → Instr) : Row :=
  { a := a, b := b, c := c, wc := true, grd := true, make := fun f => ctor f.eng }

/-- Major `00000` (R105). -/
def rowsSystem : Nat → Option Row
  | 0 => some { noP := true, noR := true, make := fun _ => .nop }
  | 1 => some { c := .iu, noP := true, noR := true, make := fun f => .brk f.imm.toNat }
  | 2 => some { c := .iu, noP := true, noR := true, make := fun f => .trap f.imm.toNat }
  | 3 => some { noP := true, noR := true, make := fun _ => .eret }
  | 4 => some { c := .iu, noR := true, make := fun f => .kcall f.imm.toNat }
  | 5 => some { b := .g, c := .g, make := fun f => .tlbinv f.b f.c }
  | 6 => some { b := .g, c := .g, make := fun f => .kmsg f.b f.c }
  | _ => none

/-- Major `00001` (R90). -/
def rowsInt : Nat → Option Row
  | 0 => some (rowAlu true .add) | 1 => some (rowAlu true .sub) | 2 => some (rowAlu false .and)
  | 3 => some (rowAlu false .or) | 4 => some (rowAlu false .xor) | 5 => some (rowAlu false .sll)
  | 6 => some (rowAlu false .srl) | 7 => some (rowAlu false .sra) | 8 => some (rowAlu true .mul)
  | 9 => some (rowAlu false .mulh) | 10 => some (rowAlu false .div) | 11 => some (rowAlu false .rem)
  | 12 => some (rowAlu false .min) | 13 => some (rowAlu false .max) | 14 => some (rowAlu1 .clz)
  | 15 => some (rowAlu1 .ctz) | 16 => some (rowAlu1 .popc) | 17 => some (rowAlu1 (.ext 8))
  | 18 => some (rowAlu1 (.ext 16)) | 19 => some (rowAlu1 (.ext 32)) | _ => none

/-- Major `00010` (R91). -/
def rowsImm : Nat → Option Row
  | 0 => some (rowImm true .addi) | 1 => some (rowImm false .andi) | 2 => some (rowImm false .ori)
  | 3 => some (rowImm false .xori) | 4 => some (rowShift .slli) | 5 => some (rowShift .srli)
  | 6 => some (rowShift .srai) | 7 => some (rowImm true .muli) | _ => none

/-- Major `00011` (R92). -/
def rowsConst : Nat → Option Row
  | 0 => some { a := .g, c := .i, make := fun f => .movi f.a f.imm }
  | 1 => some { a := .g, c := .iu, lim := some (2 ^ 20 - 1), make := fun f => .movh f.a f.imm }
  | _ => none

/-- Major `00100` (R95). -/
def rowsBranch (page : Nat) : Nat → Option Row
  | 0 => some (rowBr .beq) | 1 => some (rowBr .bne)
  | 2 => some (rowBr (if page = 0 then .blt else .bltN64)) | 3 => some (rowBr (if page = 0 then .bge else .bgeN64))
  | _ => none

/-- Major `00101` (R96). -/
def rowsJump : Nat → Option Row
  | 0 => some { c := .i, make := fun f => .jmp f.imm } | 1 => some { c := .i, make := fun f => .call f.imm }
  | 2 => some { a := .g, make := fun f => .jr f.a } | 3 => some { a := .g, make := fun f => .callr f.a }
  | 4 => some { make := fun _ => .ret } | _ => none

/-- Major `00110` (R153). -/
def rowsLoad : Nat → Option Row
  | 0 => some (rowLd .ldN8) | 1 => some (rowLd .ldN16) | 2 => some (rowLd .ldN32) | 3 => some (rowLd .ld)
  | 4 => some (rowLd .ldI8) | 5 => some (rowLd .ldI16) | 6 => some (rowLd .ldI32)
  | 7 => some { rowLd .ldp with a := .pair } | 8 => some (rowFe .acq .ldw) | 9 => some (rowFe .acq .ldwe) | _ => none

/-- Major `00111` (R153). -/
def rowsStore : Nat → Option Row
  | 0 => some (rowSt .stN8) | 1 => some (rowSt .stN16) | 2 => some (rowSt .stN32) | 3 => some (rowSt .st)
  | 4 => some { rowSt .stp with a := .pair } | 5 => some (rowFe .rel .stw) | 6 => some (rowFe .rel .stf)
  | 7 => some { rowFe .rel .feclr with a := .none } | _ => none

/-- Major `01000` (R156). -/
def rowsAtom (page : Nat) : Nat → Option Row
  | 0 => some (rowAtom .aadd) | 1 => some (rowAtom .aand) | 2 => some (rowAtom .aor) | 3 => some (rowAtom .axor)
  | 4 => some (rowAtom .aminI) | 5 => some (rowAtom .aminN) | 6 => some (rowAtom .amaxI) | 7 => some (rowAtom .amaxN)
  | 8 => some (rowAtom .aswap) | 9 => some (rowAtom .acas) | 10 => some { rowAtom .aaddt with c := .pair }
  | 11 => if page = 1 then some (rowAtom .afaddF32) else none
  | 12 => if page = 1 then some (rowAtom .afmaxnF32) else none
  | _ => none

/-- Major `01001` (R157, R159 to R162). The fences take no prefix but their PFXP. -/
def rowsSync : Nat → Option Row
  | 0 => some { noP := true, noQ := true, noR := true, make := fun _ => .fence }
  | 1 => some (rowWait .waitEq) | 2 => some (rowWait .waitNe) | 3 => some (rowWait .waitGe) | 4 => some (rowWait .waitLt)
  | 5 => some { noQ := true, noR := true, make := fun _ => .fenceAlias }
  | 6 => some (rowRange .flushr) | 7 => some (rowRange .invr)
  | 8 => some { a := .g, b := .g, c := .g, wc := true, make := fun f => .smap f.a f.b f.c f.wc }
  | 9 => some { b := .g, wc := true, make := fun f => .sunmap f.b f.wc }
  | 10 => some { c := .iu, wc := true, lim := some 7, make := fun f => .cwait f.imm.toNat f.wc }
  | _ => none

/-- Major `01010` (R110). -/
def rowsTask : Nat → Option Row
  | 0 => some { a := .g, b := .g, c := .g, make := fun f => .spawn f.a f.b f.c }
  | 1 => some { a := .g, b := .pair, c := .i, make := fun f => .fork f.a f.b f.imm }
  | 2 => some { a := .g, b := .g, c := .x, make := fun f => .join f.a f.b f.x }
  | 3 => some { make := fun _ => .yield } | 4 => some { a := .g, make := fun f => .exit f.a }
  | 5 => some { make := fun _ => .pin } | 6 => some { make := fun _ => .unpin } | _ => none

/-- Pages 0 to 2 of major `01011` (R99). -/
def rowsFloat : Nat → Option Row
  | 0 => some (rowF true 0 .fadd) | 1 => some (rowF true 0 .fsub) | 2 => some (rowF true 0 .fmul)
  | 3 => some (rowF true 0 .fdiv) | 4 => some (rowF1 true .fsqrt) | 5 => some (rowF false 0 .fmin)
  | 6 => some (rowF false 0 .fmax) | 7 => some (rowF false 0 .fminn) | 8 => some (rowF false 0 .fmaxn)
  | 9 => some (rowF true 0 .fma) | 10 => some (rowF1 false .fneg) | 11 => some (rowF1 false .fabs)
  | 12 => some (rowF false 0 .fsgn) | _ => none

/-- Major `01100` (R103). -/
def rowsCsr : Nat → Option Row
  | 0 => some { a := .g, b := .csr, c := .csr, make := fun f => .csrr f.imm.toNat f.a }
  | 1 => some { a := .g, b := .csr, c := .csr, make := fun f => .csrw f.imm.toNat f.a }
  | 2 => some { a := .g, b := .csr, c := .csr, make := fun f => .csrs f.imm.toNat f.a }
  | 3 => some { a := .g, b := .csr, c := .csr, make := fun f => .csrc f.imm.toNat f.a }
  | _ => none

/-- Page 0 of major `01101` (R93, R97, R98). -/
def rowsCompare : Nat → Option Row
  | 0 => some (rowX3 .seq) | 1 => some (rowX3 .sne) | 2 => some (rowX3 .sltI) | 3 => some (rowX3 .sltN)
  | 4 => some (rowX3 .sleI) | 5 => some (rowX3 .sleN) | 6 => some (rowX3 .sel)
  | 7 => some { a := .j, b := .g, make := fun f => .gset f.a f.b }
  | 8 => some { a := .j, b := .g, make := fun f => .gsetz f.a f.b }
  | 9 => some { a := .g, b := .j, make := fun f => .gwait f.a f.b } | _ => none

/-- Pages 1 to 3 of major `01101` (R102). -/
def rowsFCompare : Nat → Option Row
  | 0 => some (rowF false 1 .feq) | 1 => some (rowF false 1 .flt) | 2 => some (rowF false 1 .fle)
  | 3 => some (rowF false 1 .fun_) | _ => none

/-- Major `01110` (R94). -/
def rowsAddr : Nat → Option Row
  | 0 => some (rowX3 .lea) | 1 => some { a := .g, c := .i, make := fun f => .adpc f.a f.imm }
  | 2 => some (rowX3 .faddr) | 3 => some (rowX3 .homeof) | _ => none

/-- Major `01111` (R163, R165). -/
def rowsPush : Nat → Option Row
  | 0 => some { a := .g, b := .g, wc := true, grd := true, make := fun f => .push f.a f.b f.wc f.grd }
  | 1 => some { a := .pair, wc := true, make := fun f => .pop f.a f.wc }
  | 2 => some { a := .pair, wc := true, make := fun f => .trypop f.a f.wc }
  | 3 => some { a := .g, wc := true, make := fun f => .rfcnt f.a f.wc } | _ => none

/-- Major `10000` (R186); `n` with the broadcast offset removed. -/
def rowsVF (full : Nat) : Nat → Option Row
  | 0 => some (rowVF true full .vadd) | 1 => some (rowVF true full .vsub) | 2 => some (rowVF true full .vmul)
  | 3 => some (rowVF true full .vdiv) | 4 => if full = 4 then some (rowVF1 true .vsqrt) else none
  | 5 => some (rowVF false full .vmin) | 6 => some (rowVF false full .vmax) | 7 => some (rowVF false full .vminn)
  | 8 => some (rowVF false full .vmaxn) | 9 => if full = 9 then some (rowVF1 false .vneg) else none
  | 10 => if full = 10 then some (rowVF1 false .vabs) else none
  | 11 => some (rowVF false full .vsgn) | _ => none

/-- Major `10001` (R186). -/
def rowsVFma (full : Nat) : Nat → Option Row
  | 0 => some (rowVF true full .vfma) | 1 => some (rowVF true full .vfms) | 2 => some (rowVF true full .vfnma)
  | 3 => some (rowVF true full .vfnms) | _ => none

/-- Major `10010` (R188). -/
def rowsVI (full : Nat) : Nat → Option Row
  | 0 => some (rowVI true full .viadd) | 1 => some (rowVI true full .visub) | 2 => some (rowVI true full .vimul)
  | 3 => some (rowVI false full .vimulh) | 4 => some (rowVI false full .vimin) | 5 => some (rowVI false full .vimax)
  | 6 => if full = 6 then some { rowVI true 0 .viabs with c := .none } else none | _ => none

/-- Major `10011` (R189). -/
def rowsVL (full : Nat) : Nat → Option Row
  | 0 => some (rowVL full .vand) | 1 => some (rowVL full .vor) | 2 => some (rowVL full .vxor)
  | 3 => some (rowVL full .vandn) | 4 => some (rowVL full .vsll) | 5 => some (rowVL full .vsrl)
  | 6 => some (rowVL full .vsra) | _ => none

/-- Pages 0 to 2 of major `10100` (R190). -/
def rowsVFc (full : Nat) : Nat → Option Row
  | 0 => some (rowVFc full .vfeq) | 1 => some (rowVFc full .vfne) | 2 => some (rowVFc full .vflt)
  | 3 => some (rowVFc full .vfle) | 4 => some (rowVFc full .vfun) | _ => none

/-- Pages 3 to 6 of major `10100` (R190). -/
def rowsVIc (full : Nat) : Nat → Option Row
  | 0 => some (rowVC full .vieq) | 1 => some (rowVC full .vine) | 2 => some (rowVC full .vilt)
  | 3 => some (rowVC full .vile) | _ => none

/-- Page 7 of major `10100` (R191). KPOPC and KFIRST write a scalar register and refuse PFXG and ZERO. -/
def rowsPred : Nat → Option Row
  | 0 => some (rowVR .kd .k .k .kand) | 1 => some (rowVR .kd .k .k .kor) | 2 => some (rowVR .kd .k .k .kxor)
  | 3 => some (rowVR .kd .k .k .kandn) | 4 => some (rowVR .kd .k .none .knot)
  | 5 => some { rowVR .g .k .none .kpopc with grd := false, zero := false }
  | 6 => some { rowVR .g .k .none .kfirst with grd := false, zero := false }
  | 7 => some (rowVR .v .v .v .vsel) | _ => none

/-- Page 1 of major `10101` (R193 to R195). Of these only VQ4's description lists stochastic rounding, so R42 refuses it to
VQ8 and VDQ4. -/
def rowsQuant : Nat → Option Row
  | 0 => some { rowVR .v .v .g .vq8E4m3 with rm := true, rs := false, sat := true, zero := false }
  | 1 => some { rowVR .v .v .g .vq8E5m2 with rm := true, rs := false, sat := true, zero := false }
  | 2 => some { rowVR .v .v .g .vq4 with rm := true, zero := false }
  | 3 => some { rowVR .v .v .g .vdq4 with rm := true, rs := false } | _ => none

/-- Pages 0 to 2 of major `10110` (R196, R197). -/
def rowsRedF : Nat → Option Row
  | 0 => some (rowVRed false false .vrsum) | 1 => some (rowVRed false false .vrmax)
  | 2 => some (rowVRed false false .vrmin) | 3 => some (rowVRed false false .vrmaxn)
  | 4 => some (rowVRed false false .vrminn) | 5 => some (rowVRed false false .vramax)
  | 6 => some (rowVRed false true .vscan) | _ => none

/-- Pages 3 and 4 of major `10110`. -/
def rowsRedI : Nat → Option Row
  | 0 => some (rowVRed true false .vrsum) | 1 => some (rowVRed false false .vrmax)
  | 2 => some (rowVRed false false .vrmin) | 3 => some (rowVRed false false .vriand)
  | 4 => some (rowVRed false false .vrior) | 5 => some (rowVRed false false .vrixor)
  | 6 => some (rowVRed true true .vscan) | _ => none

/-- Page 7 of major `10110` (R198). VEXTR and VINSR refuse PRED and ZERO; VEXTR refuses PFXG. -/
def rowsPerm : Nat → Option Row
  | 0 => some (rowVR .v .v .v .vperm) | 1 => some (rowVX .v .v .vrotl) | 2 => some (rowVR .v .v .none .vcompr)
  | 3 => some (rowVR .v .v .none .vexpnd)
  | 4 => some { rowVX .g .v .vextr with grd := false, pred := false, zero := false }
  | 5 => some { rowVX .v .g .vinsr with pred := false, zero := false }
  | 6 => some (rowVX .v .v .vbcast) | _ => none

/-- Major `10111` (R167, R168). R166 accepts `.lin` on every vector memory instruction; a handle-relative access is
stash-linear (R168) with it and without it. -/
def rowsVLoad : Nat → Option Row
  | 0 => some (rowVM .g true loadHints [.va, .lin] .vld) | 1 => some (rowVMR .g true loadHints .vlds)
  | 2 => some (rowVM .h true loadHints [.va, .lin] .vldConsumer)
  | 3 => some (rowVM .h true loadHints [.va, .lin] .vldProducer)
  | _ => none

/-- Major `11000` (R167, R168). -/
def rowsVStore : Nat → Option Row
  | 0 => some (rowVM .g false storeHints [.va, .lin] .vst) | 1 => some (rowVMR .g false storeHints .vsts)
  | 2 => some (rowVM .h false storeHints [.va, .lin] .vstConsumer)
  | 3 => some (rowVM .h false storeHints [.va, .lin] .vstProducer)
  | _ => none

/-- Major `11001` (R169). -/
def rowsGather (page : Nat) : Nat → Option Row
  | 0 => some (rowVMR .v true [.none, .rep, .nt] .vgth) | 1 => some (rowVMR .v false [.none, .nt] .vsct)
  | 2 => if page = 0 then some (rowVMR .v false [.none] .vscadd) else none | _ => none

/-- Major `11010` (R172 to R174). HGET writes a scalar register and refuses PFXG. -/
def rowsHandle : Nat → Option Row
  | 0 => some (rowH .xu .hwaitf) | 1 => some (rowH .xu .hwaite) | 2 => some (rowH .x .hadvp) | 3 => some (rowH .x .hadvc)
  | 4 => some { a := .h, b := .g, wc := true, grd := true, make := fun f => .hset f.a f.b f.wc f.grd }
  | 5 => some { a := .g, b := .h, c := .xu, wc := true, lim := some 7, make := fun f => .hget f.a f.b f.x f.wc }
  | _ => none

/-- Major `11011` (R206). -/
def rowsMatrix : Nat → Option Row
  | 0 => some (rowEng .m .g .pair .mma) | 1 => some (rowEng .m .g .pair .mtrav) | 2 => some (rowEng .m .g .none .mzero)
  | 3 => some (rowEng .m .g .g .mst) | 4 => some (rowEng .m .g .g .mld) | 5 => some (rowEng .none .g .g .tdef)
  | 6 => some (rowEng .none .g .g .tshp) | 7 => some (rowEng .none .g .none .ttask)
  | 8 => some (rowEng .m .g .pair .mmasd) | 9 => some (rowEng .none .g .g .trvcfg) | _ => none

/-- Major `11100` (R206). CPWAIT writes a scalar register and refuses PFXG. -/
def rowsCopy : Nat → Option Row
  | 0 => some (rowEng .none .g .none .cpchain) | 1 => some { rowEng .g .g .g .cpwait with grd := false }
  | 2 => some (rowEng .g .g .g .bkrun) | 3 => some (rowEng .g .g .g .clred) | 4 => some (rowEng .g .g .g .clmcast)
  | 5 => some (rowEng .g .g .pair .sendh) | _ => none

/-- Major `11101` (R199). -/
def rowsSpecial : Nat → Option Row
  | 0 => some (rowVF1 false .vexp2) | 1 => some (rowVF1 false .vlog2) | 2 => some (rowVF1 false .vrcp)
  | 3 => some (rowVF1 false .vrsqrt) | 4 => some (rowVF1 false .vsin) | 5 => some (rowVF1 false .vcos)
  | 6 => some (rowVF1 false .vtanh) | 7 => some (rowVF1 false .vsigm) | 8 => some (rowVF1 false .verf)
  | 9 => some (rowVF1 false .vexp) | _ => none

/-- A row when the page is one that the operation map lists. -/
def onPage (ok : Bool) (r : Option Row) : Option Row := if ok then r else none

/-- The operation number without the broadcast offset of R75. -/
def unBc (n : Nat) : Nat := if 128 ≤ n then n - 128 else n

/-- R73: the operation of a major opcode, page and number. -/
def rowOf (maj page n : Nat) : Option Row :=
  if maj = 0 then onPage (page == 0) (rowsSystem n)
  else if maj = 1 then onPage (decide (page ≤ 1)) (rowsInt n)
  else if maj = 2 then onPage (page == 0) (rowsImm n)
  else if maj = 3 then onPage (page == 0) (rowsConst n)
  else if maj = 4 then onPage (decide (page ≤ 1)) (rowsBranch page n)
  else if maj = 5 then onPage (page == 0) (rowsJump n)
  else if maj = 6 then onPage (page == 0) (rowsLoad n)
  else if maj = 7 then onPage (page == 0) (rowsStore n)
  else if maj = 8 then onPage (decide (page ≤ 1)) (rowsAtom page n)
  else if maj = 9 then onPage (page == 0) (rowsSync n)
  else if maj = 10 then onPage (page == 0) (rowsTask n)
  else if maj = 11 then
    if page = 3 then
      (if fcvtPair (n / 16) (n % 16) then
        some { a := .g, b := .g, rm := true, sat := decide (3 ≤ n / 16), make := fun f => .fcvt f.fcvt } else none)
    else onPage (decide (page ≤ 2)) (rowsFloat n)
  else if maj = 12 then onPage (page == 0) (rowsCsr n)
  else if maj = 13 then if page = 0 then rowsCompare n else onPage (decide (page ≤ 3)) (rowsFCompare n)
  else if maj = 14 then onPage (page == 0) (rowsAddr n)
  else if maj = 15 then onPage (page == 0) (rowsPush n)
  else if maj = 16 then onPage (decide (page ≤ 2)) (rowsVF n (unBc n))
  else if maj = 17 then onPage (decide (page ≤ 2)) (rowsVFma n (unBc n))
  else if maj = 18 then onPage (decide (page ≤ 7)) (rowsVI n (unBc n))
  else if maj = 19 then onPage (decide (page ≤ 3)) (rowsVL n (unBc n))
  else if maj = 20 then
    if page ≤ 2 then rowsVFc n (unBc n) else if page ≤ 6 then rowsVIc n (unBc n) else onPage (page == 7) (rowsPred n)
  else if maj = 21 then
    if page = 0 then
      (if vcvtPair (n / 16) (n % 16) then
        some { a := .v, b := .v, pred := true, zero := true, rm := true, sat := decide (3 ≤ n / 16), grd := true
               make := fun f => .vcvt f.vcvt } else none)
    else onPage (page == 1) (rowsQuant n)
  else if maj = 22 then
    if page ≤ 2 then rowsRedF n else if page ≤ 4 then rowsRedI n else onPage (page == 7) (rowsPerm n)
  else if maj = 23 then onPage (decide (page ≤ 3)) (rowsVLoad n)
  else if maj = 24 then onPage (decide (page ≤ 3)) (rowsVStore n)
  else if maj = 25 then onPage (page == 0 || page == 3) (rowsGather page n)
  else if maj = 26 then onPage (page == 0) (rowsHandle n)
  else if maj = 27 then onPage (page == 0) (rowsMatrix n)
  else if maj = 28 then onPage (page == 0) (rowsCopy n)
  else if maj = 29 then onPage (decide (page ≤ 2)) (rowsSpecial n)
  else none

/-! ## Checks (R70) -/

/-- The places of the words that fail a check. -/
abbrev Fails := List Nat
/-- One check: the place named when it fails. -/
def chk (ok : Bool) (pos : Nat) : Fails := if ok then [] else [pos]
/-- The place of an optional prefix, or of the base word without it. -/
def posOr (p : Option (Nat × Nat)) (base : Nat) : Nat := match p with | some (q, _) => q | none => base
/-- The word of an optional prefix, or `d`. -/
def wordOr (p : Option (Nat × Nat)) (d : Nat) : Nat := match p with | some (_, w) => w | none => d

/-- A register field: kind, the base word's three bits, PFXR's three bits, and the places of base word and PFXR. -/
def chkReg (kind : FK) (lo hi base pr : Nat) : Fails :=
  match kind with
  | .none => chk (lo == 0) base ++ chk (hi == 0) pr
  | .g | .x | .xu => []
  | .pair => chk (lo % 2 == 0) base
  | .v => chk (decide (hi < 4)) pr
  | .k | .j => chk (hi == 0) pr
  | .kd => chk (hi == 0) pr ++ chk (decide (lo ≠ 0 ∨ hi ≠ 0)) base
  | .h => chk (decide (hi < 2)) pr
  | .m => chk (hi == 0) pr ++ chk (decide (lo < 4)) base
  | .i | .iu | .csr => chk (hi == 0) pr

/-- Whether an operand kind takes PFXI words (R69). -/
def FK.takesImm : FK → Bool
  | .x | .xu | .i | .iu | .csr => true
  | _ => false

/-- The fields of PFXM (R67). -/
def pfxOrder (w : Nat) : Nat := w / 128 % 8
def pfxScope (w : Nat) : Nat := w / 32 % 4
def pfxWin (w : Nat) : Nat := w / 8 % 4

/-- Checks that need no row: repeated kinds, kinds that the major opcode refuses, reserved codes and bits. -/
def chkGeneral (maj : Nat) (x : Pfx) : Fails :=
  (match x.dup with | some p => [p] | none => []) ++
  (match x.q with
   | none => []
   | some (p, w) =>
     let q := w % 512
     match qClass maj with
     | .none => [p]
     | .sa => chk (decide (q / 16 = 0 ∧ q % 8 ≤ 4)) p
     | .va => chk (decide (q % 8 ≤ 4) && !(q / 16 % 2 == 1 && q / 64 == 0)) p
     | .vm => chk (!(q / 4 % 2 == 1 && q / 64 == 0)) p
     | .m => chk (decide (q / 32 = 0 ∧ q / 4 % 2 = 0)) p) ++
  (match x.m with
   | none => []
   | some (p, w) => chk (decide ((qClass maj = .m ∨ qClass maj = .vm) ∧ maj ≠ 15 ∧ maj < 26 ∧ w % 8 = 0 ∧ pfxOrder w ≤ 4 ∧
       pfxWin w ≤ 2 ∧ (pfxOrder w = 0 → pfxScope w = 0))) p) ++
  (match x.g with
   | none => []
   | some (p, w) => chk (decide ((maj = 15 ∨ (16 ≤ maj ∧ maj ≤ 29)) ∧ w % 64 = 0)) p)

/-- The checks of prefixes that no base word follows: what is illegal before every base word (R70). -/
def chkLone (x : Pfx) : Fails :=
  (match x.dup with | some p => [p] | none => []) ++
  (match x.m with
   | none => []
   | some (p, w) => chk (decide (w % 8 = 0 ∧ pfxOrder w ≤ 4 ∧ pfxWin w ≤ 2 ∧ (pfxOrder w = 0 → pfxScope w = 0))) p) ++
  (match x.g with | none => [] | some (p, w) => chk (w % 64 == 0) p)

/-- The fields of an instruction's words (R62 to R68). `uns` reads the immediate unsigned. -/
def fieldsIn (maj : Nat) (uns : Bool) (x : Pfx) (w page n : Nat) : Fld :=
  let r := wordOr x.r 0
  let q := wordOr x.q 0 % 512
  let m := wordOr x.m 0
  let width := if immForm maj then 8 else 3
  let own := if immForm maj then w % 256 else fieldC w
  let raw := immRaw x.imm own width
  let imm : Int :=
    if maj = 12 then ((x.imm.foldl (fun acc p => acc * 512 + p) 0 * 8 + fieldB w) * 8 + fieldC w : Nat)
    else if uns then (raw : Int) else signed (width + 9 * x.imm.length) raw
  let cls := qClass maj
  { page := page, n := n
    a := r / 64 % 8 * 8 + fieldA w
    b := if immForm maj then 0 else r / 8 % 8 * 8 + fieldB w
    c := if immForm maj then 0 else r % 8 * 8 + fieldC w
    x := if x.imm.isEmpty then .reg (r % 8 * 8 + fieldC w) else .imm imm
    imm := imm
    pred := if cls = .va ∨ cls = .vm then q / 64 else 0
    zero := (cls == .va || cls == .vm) && q / 32 % 2 == 1
    inv := if cls = .va then q / 16 % 2 == 1 else if cls = .vm then q / 4 % 2 == 1 else false
    sat := (cls == .sa || cls == .va) && q / 8 % 2 == 1
    rm := if cls = .sa ∨ cls = .va then (Rm.ofCode (q % 8)).getD .ne else .ne
    wc := if cls = .m ∨ cls = .vm then q / 8 % 4 else 0
    hint := if cls = .m ∨ cls = .vm then Hint.ofCode (q % 4) else .none
    order := (Order.ofCode (pfxOrder m)).getD .plain
    scope := Scope.ofCode (pfxScope m)
    win := (Win.ofCode (pfxWin m)).getD .va
    grd := match x.g with | some (_, w) => some ⟨w / 128 % 8, w / 64 % 2 == 1⟩ | none => none }

/-- Checks of the words against a row. A value formed from PFXI words and the base word's field together, where a limit or
the list of control registers refuses it, names the first PFXI: R70 asks for the first illegal word, and every word of the
value takes part in it (log entry 60). -/
def chkRow (maj : Nat) (row : Row) (x : Pfx) (w base : Nat) (f : Fld) : Fails :=
  let r := wordOr x.r 0
  let pr := posOr x.r base
  let pq := posOr x.q base
  let pm := posOr x.m base
  let pi := if x.imm.isEmpty then base else x.posI
  let immC := !x.imm.isEmpty && (row.c == .x || row.c == .xu)
  chkReg row.a (fieldA w) (r / 64 % 8) base pr ++
  (if immForm maj then
     chk (r / 8 % 8 == 0 && r % 8 == 0) pr ++ (if row.c = .none then chk (w % 256 == 0) base else [])
   else chkReg row.b (fieldB w) (r / 8 % 8) base pr ++
     (if immC then chk (r % 8 == 0) pr else chkReg row.c (fieldC w) (r % 8) base pr)) ++
  chk (x.imm.isEmpty || row.c.takesImm) x.posI ++
  chk (row.pred || f.pred == 0) pq ++ chk (row.zero || !f.zero) pq ++ chk (row.sat || !f.sat) pq ++
  chk (row.rm || decide (f.rm = .ne)) pq ++ chk (row.rs || decide (f.rm ≠ .rs)) pq ++ chk (row.wc || f.wc == 0) pq ++ chk (row.hints.contains f.hint) pq ++
  chk (x.m.isNone || (row.orders.contains f.order && row.wins.contains f.win)) pm ++
  chk (x.g.isNone || row.grd) (posOr x.g base) ++
  chk (!(row.noP && x.p.isSome)) (posOr x.p base) ++ chk (!(row.noQ && x.q.isSome)) pq ++ chk (!(row.noR && x.r.isSome)) pr ++
  (match row.lim with
   | some l => if immForm maj ∨ immC ∨ row.c = .iu then chk (decide (f.imm ≤ l)) pi else []
   | none => []) ++
  (if maj = 12 then chk (csrAssigned f.imm.toNat) pi else [])

/-- R62: the page and operation number. -/
def opOf (maj : Nat) (x : Pfx) (w : Nat) : Nat × Nat :=
  let p := wordOr x.p 0
  (p / 64 % 8, if immForm maj then p % 64 else 4 * (p % 64) + fieldFn w)

/-- The smallest place, if any. -/
def firstFail : Fails → Option Nat
  | [] => none
  | p :: ps => match firstFail ps with | none => some p | some q => some (min p q)

/-- Decodes the words of one instruction: zero to four prefixes and a base word, or five prefix words. An illegal
encoding gives the place of the first illegal word (R70). -/
def decodeWords (ws : List Nat) : Except Nat Instr :=
  let s := splitWords ws 0 {}
  match s.2 with
  | none => .error (min ((firstFail (chkLone s.1)).getD 4) 4)
  | some (base, w) =>
    let maj := majOf w
    let op := opOf maj s.1 w
    match rowOf maj op.1 op.2 with
    | none => .error ((firstFail (chkGeneral maj s.1 ++ [posOr s.1.p base])).getD base)
    | some row =>
      let uns := decide (row.c = .iu ∨ row.c = .xu)
      let f := fieldsIn maj uns s.1 w op.1 op.2
      match firstFail (chkGeneral maj s.1 ++ chkRow maj row s.1 w base f) with
      | some p => .error p
      | none => .ok (row.make f)

/-! ## The encoder -/

/-- Major opcode and fields of an instruction; none for events and bank moves, which have no instruction words. -/
def Fld.ofMem (q : MemQ) (f : Fld) : Fld := { f with order := q.order, scope := q.scope, win := q.win, wc := q.wc, hint := q.hint }
def Fld.ofVQ (q : VQ) (f : Fld) : Fld :=
  { f with pred := q.pred, zero := q.zero, inv := q.inv, sat := q.sat, rm := q.rm, grd := q.guard }
def Fld.ofVMQ (q : VMQ) (f : Fld) : Fld :=
  { f with pred := q.pred, zero := q.zero, inv := q.inv, wc := q.wc, hint := q.hint, win := q.win, grd := q.guard }
def pg (b : Bool) : Nat := if b then 1 else 0
def fAlu (n : Nat) (o : AluOps) : Option (Nat × Fld) := some (1, { page := pg o.uns, n := n, a := o.a, b := o.b, x := o.c, sat := o.sat })
def fAlu1 (n : Nat) (o : Alu1Ops) : Option (Nat × Fld) := some (1, { page := pg o.uns, n := n, a := o.a, b := o.b })
def fImm (n : Nat) (o : ImmOps) : Option (Nat × Fld) := some (2, { n := n, a := o.a, imm := o.imm, sat := o.sat })
def fBr (page n : Nat) (o : BrOps) : Option (Nat × Fld) := some (4, { page := page, n := n, a := o.a, b := o.b, imm := o.off })
def fMem (maj n : Nat) (o : LdOps) : Option (Nat × Fld) := some (maj, Fld.ofMem o.q { n := n, a := o.a, b := o.b, x := o.c })
def fAtom (n : Nat) (o : AtomOps) : Option (Nat × Fld) :=
  some (8, Fld.ofMem o.q { page := pg o.w32, n := n, a := o.a, b := o.b, c := o.c })
def fWait (n : Nat) (o : WaitOps) : Option (Nat × Fld) := some (9, Fld.ofMem o.q { n := n, a := o.a, b := o.b, c := o.c })
def fRange (n : Nat) (o : RangeOps) : Option (Nat × Fld) := some (9, { n := n, b := o.b, x := o.c, win := o.win, wc := o.wc })
def fF (maj p0 n : Nat) (o : FOps) : Option (Nat × Fld) :=
  some (maj, { page := o.fmt.page + p0, n := n, a := o.a, b := o.b, c := o.c, rm := o.rm })
def fF1 (n : Nat) (o : F1Ops) : Option (Nat × Fld) := some (11, { page := o.fmt.page, n := n, a := o.a, b := o.b, rm := o.rm })
def fX3 (maj n a b : Nat) (c : XOp) : Option (Nat × Fld) := some (maj, { n := n, a := a, b := b, x := c })
def bcN (bc : Bool) (n : Nat) : Nat := if bc then n + 128 else n
def fVF (maj n : Nat) (o : VFOps) : Option (Nat × Fld) :=
  some (maj, Fld.ofVQ o.q { page := o.fmt.page, n := bcN o.bc n, a := o.a, b := o.b, c := o.c })
def fVI (n : Nat) (o : VIOps) : Option (Nat × Fld) :=
  some (18, Fld.ofVQ o.q { page := o.ty.page, n := bcN o.bc n, a := o.a, b := o.b, c := o.c })
def fVL (n : Nat) (o : VLOps) : Option (Nat × Fld) :=
  some (19, Fld.ofVQ o.q { page := o.w.page, n := bcN o.bc n, a := o.a, b := o.b, c := o.c })
def fVC (n : Nat) (o : VCOps) : Option (Nat × Fld) :=
  some (20, Fld.ofVQ o.q { page := o.ty.page, n := bcN o.bc n, a := o.a, b := o.b, c := o.c })
def fVR (maj page n : Nat) (o : VROps) : Option (Nat × Fld) :=
  some (maj, Fld.ofVQ o.q { page := page, n := n, a := o.a, b := o.b, c := o.c })
def fVX (n : Nat) (o : VXOps) : Option (Nat × Fld) := some (22, Fld.ofVQ o.q { page := 7, n := n, a := o.a, b := o.b, x := o.c })
def fRed (n : Nat) (o : VRedOps) : Option (Nat × Fld) := some (22, Fld.ofVQ o.q { page := o.page.page, n := n, a := o.a, b := o.b })
def fVM (maj n : Nat) (o : VMOps) : Option (Nat × Fld) :=
  some (maj, Fld.ofVMQ o.q { page := o.w.page, n := n, a := o.a, b := o.b, x := o.c })
def fVMR (maj n : Nat) (o : VMROps) : Option (Nat × Fld) :=
  some (maj, Fld.ofVMQ o.q { page := o.w.page, n := n, a := o.a, b := o.b, c := o.c })
def fH (n : Nat) (o : HOps) : Option (Nat × Fld) := some (26, { n := n, a := o.h, x := o.c, wc := o.wc, grd := o.guard })
def fEng (maj n : Nat) (o : EngOps) : Option (Nat × Fld) :=
  some (maj, { n := n, a := o.a, b := o.b, c := o.c, wc := o.wc, grd := o.guard })
def fCsr (n num a : Nat) : Option (Nat × Fld) := some (12, { n := n, a := a, imm := (num : Int) })
/-- The operation number of an EXT form (R90). -/
def extN (w : Nat) : Nat := if w = 8 then 17 else if w = 16 then 18 else 19

/-- The major opcode and the fields of an instruction (R73 to R75). -/
def fieldsOf : Instr → Option (Nat × Fld)
  | .nop => some (0, { n := 0 }) | .brk c => some (0, { n := 1, imm := (c : Int) }) | .trap c => some (0, { n := 2, imm := (c : Int) })
  | .eret => some (0, { n := 3 }) | .kcall c => some (0, { n := 4, imm := (c : Int) })
  | .tlbinv b c => some (0, { n := 5, b := b, c := c }) | .kmsg b c => some (0, { n := 6, b := b, c := c })
  | .add o => fAlu 0 o | .sub o => fAlu 1 o | .and o => fAlu 2 o | .or o => fAlu 3 o | .xor o => fAlu 4 o
  | .sll o => fAlu 5 o | .srl o => fAlu 6 o | .sra o => fAlu 7 o | .mul o => fAlu 8 o | .mulh o => fAlu 9 o
  | .div o => fAlu 10 o | .rem o => fAlu 11 o | .min o => fAlu 12 o | .max o => fAlu 13 o
  | .clz o => fAlu1 14 o | .ctz o => fAlu1 15 o | .popc o => fAlu1 16 o | .ext w o => fAlu1 (extN w) o
  | .addi o => fImm 0 o | .andi o => fImm 1 o | .ori o => fImm 2 o | .xori o => fImm 3 o | .slli o => fImm 4 o
  | .srli o => fImm 5 o | .srai o => fImm 6 o | .muli o => fImm 7 o
  | .movi a v => some (3, { n := 0, a := a, imm := v }) | .movh a v => some (3, { n := 1, a := a, imm := v })
  | .beq o => fBr 0 0 o | .bne o => fBr 0 1 o | .blt o => fBr 0 2 o | .bge o => fBr 0 3 o
  | .bltN64 o => fBr 1 2 o | .bgeN64 o => fBr 1 3 o
  | .jmp v => some (5, { n := 0, imm := v }) | .call v => some (5, { n := 1, imm := v }) | .jr a => some (5, { n := 2, a := a })
  | .callr a => some (5, { n := 3, a := a }) | .ret => some (5, { n := 4 })
  | .ldN8 o => fMem 6 0 o | .ldN16 o => fMem 6 1 o | .ldN32 o => fMem 6 2 o | .ld o => fMem 6 3 o | .ldI8 o => fMem 6 4 o
  | .ldI16 o => fMem 6 5 o | .ldI32 o => fMem 6 6 o | .ldp o => fMem 6 7 o | .ldw o => fMem 6 8 o | .ldwe o => fMem 6 9 o
  | .stN8 o => fMem 7 0 o | .stN16 o => fMem 7 1 o | .stN32 o => fMem 7 2 o | .st o => fMem 7 3 o | .stp o => fMem 7 4 o
  | .stw o => fMem 7 5 o | .stf o => fMem 7 6 o | .feclr o => fMem 7 7 o
  | .aadd o => fAtom 0 o | .aand o => fAtom 1 o | .aor o => fAtom 2 o | .axor o => fAtom 3 o | .aminI o => fAtom 4 o
  | .aminN o => fAtom 5 o | .amaxI o => fAtom 6 o | .amaxN o => fAtom 7 o | .aswap o => fAtom 8 o | .acas o => fAtom 9 o
  | .aaddt o => fAtom 10 o | .afaddF32 o => fAtom 11 o | .afmaxnF32 o => fAtom 12 o
  | .fence => some (9, { n := 0 }) | .waitEq o => fWait 1 o | .waitNe o => fWait 2 o | .waitGe o => fWait 3 o
  | .waitLt o => fWait 4 o | .fenceAlias => some (9, { n := 5 }) | .flushr o => fRange 6 o | .invr o => fRange 7 o
  | .smap a b c wc => some (9, { n := 8, a := a, b := b, c := c, wc := wc }) | .sunmap b wc => some (9, { n := 9, b := b, wc := wc })
  | .cwait m wc => some (9, { n := 10, imm := (m : Int), wc := wc })
  | .spawn a b c => some (10, { n := 0, a := a, b := b, c := c }) | .fork a b off => some (10, { n := 1, a := a, b := b, imm := off })
  | .join a b c => fX3 10 2 a b c | .yield => some (10, { n := 3 }) | .exit a => some (10, { n := 4, a := a })
  | .pin => some (10, { n := 5 }) | .unpin => some (10, { n := 6 })
  | .fadd o => fF 11 0 0 o | .fsub o => fF 11 0 1 o | .fmul o => fF 11 0 2 o | .fdiv o => fF 11 0 3 o | .fsqrt o => fF1 4 o
  | .fmin o => fF 11 0 5 o | .fmax o => fF 11 0 6 o | .fminn o => fF 11 0 7 o | .fmaxn o => fF 11 0 8 o | .fma o => fF 11 0 9 o
  | .fneg o => fF1 10 o | .fabs o => fF1 11 o | .fsgn o => fF 11 0 12 o
  | .fcvt o => some (11, { page := 3, n := 16 * o.d.code + o.s.code, a := o.a, b := o.b, rm := o.rm, sat := o.sat })
  | .csrr n a => fCsr 0 n a | .csrw n a => fCsr 1 n a | .csrs n a => fCsr 2 n a | .csrc n a => fCsr 3 n a
  | .seq a b c => fX3 13 0 a b c | .sne a b c => fX3 13 1 a b c | .sltI a b c => fX3 13 2 a b c | .sltN a b c => fX3 13 3 a b c
  | .sleI a b c => fX3 13 4 a b c | .sleN a b c => fX3 13 5 a b c | .sel a b c => fX3 13 6 a b c
  | .gset j b => some (13, { n := 7, a := j, b := b }) | .gsetz j b => some (13, { n := 8, a := j, b := b })
  | .gwait a j => some (13, { n := 9, a := a, b := j })
  | .feq o => fF 13 1 0 o | .flt o => fF 13 1 1 o | .fle o => fF 13 1 2 o | .fun_ o => fF 13 1 3 o
  | .lea a b c => fX3 14 0 a b c | .adpc a off => some (14, { n := 1, a := a, imm := off })
  | .faddr a b c => fX3 14 2 a b c | .homeof a b c => fX3 14 3 a b c
  | .push a b wc g => some (15, { n := 0, a := a, b := b, wc := wc, grd := g })
  | .pop a wc => some (15, { n := 1, a := a, wc := wc }) | .trypop a wc => some (15, { n := 2, a := a, wc := wc })
  | .rfcnt a wc => some (15, { n := 3, a := a, wc := wc })
  | .vadd o => fVF 16 0 o | .vsub o => fVF 16 1 o | .vmul o => fVF 16 2 o | .vdiv o => fVF 16 3 o | .vsqrt o => fVF 16 4 o
  | .vmin o => fVF 16 5 o | .vmax o => fVF 16 6 o | .vminn o => fVF 16 7 o | .vmaxn o => fVF 16 8 o | .vneg o => fVF 16 9 o
  | .vabs o => fVF 16 10 o | .vsgn o => fVF 16 11 o
  | .vfma o => fVF 17 0 o | .vfms o => fVF 17 1 o | .vfnma o => fVF 17 2 o | .vfnms o => fVF 17 3 o
  | .viadd o => fVI 0 o | .visub o => fVI 1 o | .vimul o => fVI 2 o | .vimulh o => fVI 3 o | .vimin o => fVI 4 o
  | .vimax o => fVI 5 o | .viabs o => fVI 6 o
  | .vand o => fVL 0 o | .vor o => fVL 1 o | .vxor o => fVL 2 o | .vandn o => fVL 3 o | .vsll o => fVL 4 o | .vsrl o => fVL 5 o
  | .vsra o => fVL 6 o
  | .vfeq o => fVF 20 0 o | .vfne o => fVF 20 1 o | .vflt o => fVF 20 2 o | .vfle o => fVF 20 3 o | .vfun o => fVF 20 4 o
  | .vieq o => fVC 0 o | .vine o => fVC 1 o | .vilt o => fVC 2 o | .vile o => fVC 3 o
  | .kand o => fVR 20 7 0 o | .kor o => fVR 20 7 1 o | .kxor o => fVR 20 7 2 o | .kandn o => fVR 20 7 3 o | .knot o => fVR 20 7 4 o
  | .kpopc o => fVR 20 7 5 o | .kfirst o => fVR 20 7 6 o | .vsel o => fVR 20 7 7 o
  | .vcvt o => some (21, Fld.ofVQ o.q { page := 0, n := 16 * o.d.code + o.s.code, a := o.a, b := o.b })
  | .vq8E4m3 o => fVR 21 1 0 o | .vq8E5m2 o => fVR 21 1 1 o | .vq4 o => fVR 21 1 2 o | .vdq4 o => fVR 21 1 3 o
  | .vrsum o => fRed 0 o | .vrmax o => fRed 1 o | .vrmin o => fRed 2 o | .vrmaxn o => fRed 3 o | .vrminn o => fRed 4 o
  | .vramax o => fRed 5 o | .vriand o => fRed 3 o | .vrior o => fRed 4 o | .vrixor o => fRed 5 o | .vscan o => fRed 6 o
  | .vperm o => fVR 22 7 0 o | .vrotl o => fVX 1 o | .vcompr o => fVR 22 7 2 o | .vexpnd o => fVR 22 7 3 o | .vextr o => fVX 4 o
  | .vinsr o => fVX 5 o | .vbcast o => fVX 6 o
  | .vld o => fVM 23 0 o | .vlds o => fVMR 23 1 o | .vldConsumer o => fVM 23 2 o | .vldProducer o => fVM 23 3 o
  | .vst o => fVM 24 0 o | .vsts o => fVMR 24 1 o | .vstConsumer o => fVM 24 2 o | .vstProducer o => fVM 24 3 o
  | .vgth o => fVMR 25 0 o | .vsct o => fVMR 25 1 o | .vscadd o => fVMR 25 2 o
  | .hwaitf o => fH 0 o | .hwaite o => fH 1 o | .hadvp o => fH 2 o | .hadvc o => fH 3 o
  | .hset h b wc g => some (26, { n := 4, a := h, b := b, wc := wc, grd := g })
  | .hget a h c wc => some (26, { n := 5, a := a, b := h, x := c, wc := wc })
  | .mma o => fEng 27 0 o | .mtrav o => fEng 27 1 o | .mzero o => fEng 27 2 o | .mst o => fEng 27 3 o | .mld o => fEng 27 4 o
  | .tdef o => fEng 27 5 o | .tshp o => fEng 27 6 o | .ttask o => fEng 27 7 o | .mmasd o => fEng 27 8 o | .trvcfg o => fEng 27 9 o
  | .cpchain o => fEng 28 0 o | .cpwait o => fEng 28 1 o | .bkrun o => fEng 28 2 o | .clred o => fEng 28 3 o
  | .clmcast o => fEng 28 4 o | .sendh o => fEng 28 5 o
  | .vexp2 o => fVF 29 0 o | .vlog2 o => fVF 29 1 o | .vrcp o => fVF 29 2 o | .vrsqrt o => fVF 29 3 o | .vsin o => fVF 29 4 o
  | .vcos o => fVF 29 5 o | .vtanh o => fVF 29 6 o | .vsigm o => fVF 29 7 o | .verf o => fVF 29 8 o | .vexp o => fVF 29 9 o
  | _ => none

/-- `k` payloads, the most significant first. -/
def payloads : Nat → Nat → List Nat
  | 0, _ => []
  | k + 1, v => payloads k (v / 512) ++ [v % 512]

/-- The fewest PFXI words, at least `lo`, that hold the immediate (R85). -/
def immWords (width : Nat) (uns : Bool) (v : Int) : Nat → Nat → Nat
  | 0, k => k
  | fuel + 1, k =>
    let n := width + 9 * k
    if (if uns then decide (0 ≤ v ∧ v < 2 ^ n) else decide (-(2 ^ (n - 1)) ≤ v ∧ v < 2 ^ (n - 1))) then k
    else immWords width uns v fuel (k + 1)

/-- The payloads and own field of an immediate. -/
def encImm (width : Nat) (uns : Bool) (lo : Nat) (v : Int) : List Nat × Nat :=
  let k := immWords width uns v 4 lo
  let u := (v % (2 ^ (width + 9 * k) : Nat)).toNat
  (payloads k (u / 2 ^ width), u % 2 ^ width)

/-- The PFXQ word of the fields in the layout of a class. -/
def encQ (cls : QClass) (f : Fld) : Nat :=
  match cls with
  | .none => 0
  | .sa => pg f.sat * 8 + f.rm.code
  | .va => f.pred * 64 + pg f.zero * 32 + pg f.inv * 16 + pg f.sat * 8 + f.rm.code
  | .vm => f.pred * 64 + pg f.zero * 32 + f.wc * 8 + pg f.inv * 4 + f.hint.code
  | .m => f.wc * 8 + f.hint.code

/-- A prefix word when its payload is not zero. -/
def optWord (base v : Nat) : List Nat := if v = 0 then [] else [base + v]

/-- The words of the fields under a row, prefixes in the order of R85. -/
def encFld (maj : Nat) (row : Row) (f : Fld) : List Nat :=
  let imF := immForm maj
  let width := if imF then 8 else 3
  let uns := decide (row.c = .iu ∨ row.c = .xu)
  let ic : List Nat × Nat :=
    if maj = 12 then ((encImm 6 true 0 f.imm).1, (encImm 6 true 0 f.imm).2 % 8)
    else match row.c with
      | .i | .iu => encImm width uns 0 f.imm
      | .x | .xu => match f.x with | .imm v => encImm 3 uns 1 v | .reg r => ([], r % 8)
      | .none => ([], 0)
      | _ => ([], f.c % 8)
  let bLow := if maj = 12 then (encImm 6 true 0 f.imm).2 / 8 else f.b % 8
  let cHi := match row.c with
    | .x | .xu => (match f.x with | .imm _ => 0 | .reg r => r / 8)
    | .none | .i | .iu | .csr => 0
    | _ => f.c / 8
  let bHi := if maj = 12 then 0 else f.b / 8
  let p := if imF then f.page * 64 + f.n else f.page * 64 + f.n / 4
  let base := if imF then maj * 2048 + f.a % 8 * 256 + ic.2
    else maj * 2048 + f.a % 8 * 256 + bLow * 32 + ic.2 * 4 + f.n % 4
  optWord 0xF800 (f.order.code * 128 + f.scope.code * 32 + f.win.code * 8) ++
  (match f.grd with | some g => [0xFC00 + g.slot * 128 + pg g.sense * 64] | none => []) ++
  optWord 0xF600 (encQ (qClass maj) f) ++ optWord 0xF400 p ++ optWord 0xF200 (f.a / 8 * 64 + bHi * 8 + cHi) ++
  ic.1.map (fun v => 0xF000 + v) ++ [base]

/-- The instruction words of an instruction; none where it has no encoding. -/
def encodeWords (i : Instr) : List Nat :=
  match fieldsOf i with
  | none => []
  | some (maj, f) => match rowOf maj f.page f.n with | none => [] | some row => encFld maj row f

/-- The words as 16-bit instruction words. -/
def encode (i : Instr) : List IWord := (encodeWords i).map (BitVec.ofNat 16)

/-- An instruction that at most four prefix words can encode (R57, R85). -/
def Instr.fits (i : Instr) : Bool := decide (1 ≤ (encodeWords i).length ∧ (encodeWords i).length ≤ 5)

/-! ## Bank moves (R222) -/

/-- The destination port of a move word: bits [31:26]. -/
def moveDest (w : Nat) : Nat := w / 2 ^ 26 % 64
/-- The other fields of a move word: source port [25:20], repeat count [19:8], immediate [7:0]. -/
def moveFields (w : Nat) : BMove := ⟨w / 2 ^ 20 % 64, w / 256 % 4096, w % 256⟩

/-- The move that a destination port names (R221). -/
def moveOf (d : Nat) : Instr :=
  if d = 7 then .rbfetch else if d = 11 then .ivload else if d = 13 then .mac else if d = 15 then .iadd
  else if d = 16 then .ishr else if d = 18 then .loop else if d = 19 then .jump else if d = 22 then .out
  else if d = 25 then .idxfetch else if d = 26 then .rowget else if d = 27 then .halt
  else if 32 ≤ d ∧ d < 40 then .bankAccWrite else .bankPortWrite

/-- The move of a 32-bit move word; its other fields are `moveFields`. -/
def decodeMove (w : Nat) : Instr := moveOf (moveDest w)

/-- The move word of a destination port and fields. -/
def encodeMove (d : Nat) (m : BMove) : Nat := d * 2 ^ 26 + m.src * 2 ^ 20 + m.rep * 256 + m.imm

/-! ## The host's question -/

/-- `k` 16-bit words of a number, the lowest first. -/
def wordsOf : Nat → Nat → List Nat
  | 0, _ => []
  | k + 1, w => w % 65536 :: wordsOf k (w / 65536)

/-- The words up to and including the first base word, at most five (R57). -/
def takeInstr : Nat → List Nat → List Nat
  | 0, _ => []
  | _, [] => []
  | k + 1, w :: ws => if isPrefix w then w :: takeInstr k ws else [w]

/-- The instruction that the decoder reads from an instruction whose bits are `w`: a 32-bit row of the opcode table is
a bank move word, any other is Epmen words, the first at the lowest address. -/
def decodeTableWord (nbits w : Nat) : Option Instr :=
  if nbits = 32 then some (decodeMove w)
  else match decodeWords (takeInstr 5 (wordsOf 5 w)) with
    | .ok i => some i
    | .error _ => none

end Sys2Proof
end

