-- ==== Sys2Proof/Config.lean ====
section
/-! DEFINITION. What an implementation fixes and the spec leaves open: free values. Each is an opaque constant, so
that no proof can use a particular value of it. -/

namespace Sys2Proof.Config

/-- R2: the `n`-th undefined 64-bit value (a poisoned scalar result, R152). Log entry 3. -/
opaque freeWord : Nat → Word
/-- R2: the `n`-th undefined 32-bit lane value (a poisoned vector lane, R152). Log entry 3. -/
opaque freeLane : Nat → BitVec 32
/-- R227, R217: the `n`-th undefined byte (overlapping copy bytes). Log entry 3. -/
opaque freeByte : Nat → Byte
/-- R7: the datum ticks that pass before the `n`-th step, where the environment does not say. Log entry 1. -/
opaque elapsed : Nat → Nat
/-- R128: how many block words beyond the requested ones a fill without a hint takes, below and above. Log entry 5. -/
opaque fillExtent : Nat → Nat × Nat
/-- R158: the order in which waiters woken by one write are woken; position chosen for the `n`-th choice. Log entry 6. -/
opaque wakeOrder : Nat → Nat
/-- R261: the choice among equal candidate ports for the `n`-th class A packet. Log entry 6. -/
opaque portChoice : Nat → Nat
/-- R258: how many flits of a class make its buffer pass the high watermark, and at how many it is below the low one. Log entry 69. -/
opaque watermarks : Nat × Nat
/-- R199: the page 0 result of special function `op` for operand code `x`; used only where it lies within the error
bound that R199 gives. Log entry 7. -/
opaque specialF32 : Nat → Nat → Nat
/-- R287: whether a signature verifies: digest of the image body, public key bytes, signature bytes. Log entry 8. -/
opaque ed25519Verifies : List Byte → List Byte → List Byte → Bool
/-- R287: the same for ML-DSA-65. Log entry 8. -/
opaque mldsa65Verifies : List Byte → List Byte → List Byte → Bool
/-- R287: the digests fused at manufacture (Ed25519 key, ML-DSA-65 key) and the fused minimum security version. -/
opaque fusedDigests : List Byte × List Byte
/-- R287: the fused minimum security version. -/
opaque fusedVersion : Nat
/-- R286: where the kernel area of vault 0 holds the router image and the station kernel image. Log entry 34. -/
opaque imageBase : Nat → Nat
/-- R296: the cube's serial number, and the revision codes of its die and its stack. Log entry 35. -/
opaque serial : Nat
opaque revisions : Nat × Nat
/-- R296: the FEC margin of a port as the `n`-th reading finds it. Log entry 35. -/
opaque fecMargin : Nat → Nat
/-- R289, R290: what the `n`-th scrub read of the cube finds: 0 a good word, 1 one that is corrected, 2 an uncorrectable one. Log entry 52. -/
opaque scrubFinds : Nat → Nat
/-- R296: the bytes of a section of the survey whose layout the spec does not give, by section and the values it shows. Log
entry 35. -/
opaque surveyBytes : Nat → List Nat → List Byte
/-- R15: the address of the EXIT stub that the station kernel supplies. Log entry 14. -/
opaque exitStub : Word

end Sys2Proof.Config
end

