-- ==== Sys2Proof/Machine/State.lean ====
section
/-! DEFINITION. The state of one cube, as plain data, and the state after reset. -/

namespace Sys2Proof.Machine

/-- Why the machine stops. -/
inductive Fault where
  /-- Raised by `step` when the next turn names a station, core, context, vault or bank that the cube of R9 does not
  have. Safe: no hardware behaviour is such a turn. -/
  | noSuchUnit
deriving DecidableEq, Repr

/-- Why an instruction has no meaning. -/
inductive Refusal where
  /-- Raised by `exec` for an instruction that this model gives no meaning yet. Safe: nothing is claimed of it. -/
  | notModelled (mnemonic : String)
deriving DecidableEq, Repr

/-! ## A context and the task it runs -/

/-- A guard slot (R77); a pending slot carries the number of the GSET it waits for. -/
inductive Slot where
  | no | yes
  | pending (gid : Nat)
deriving DecidableEq, Repr

/-- The register files of a context (R76) and its kernel bank (R246). An unlisted register holds zero; g0 and k0 are
never listed. -/
structure Files where
  g : Map Word := []
  v : Map VReg := []
  k : Map Pred := []
  bank : Map Word := []
  slots : List Slot := [.yes, .yes, .yes, .yes, .yes, .yes, .yes, .yes]
deriving DecidableEq, Repr

/-- The control registers of a task (R49, R80, R104) and of its context, with the vector resume position (R170) and the
VSAVED bits (R236). -/
structure Csrs where
  fflags : Nat := 0
  ftrapen : Nat := 0
  rndseed : Word := 0
  vl : Nat := 256
  deadln : Word := 0
  budget : Nat := 0
  latedrop : Bool := false
  tcause : Nat := 0
  taddr : Word := 0
  tpc : Nat := 0
  iwords : Nat := 0
  taie : Bool := false
  pmode : Bool := false
  resume : Nat := 0
  vsaved : NSet := []
deriving DecidableEq, Repr

/-- One block word's share of an access in flight: the request's number (0 once it has arrived), the bytes asked for,
what has arrived, and whether it came poisoned. -/
structure Piece where
  id : Nat
  fa : Nat
  va : Nat
  len : Nat
  data : List Byte
  poison : Bool
deriving DecidableEq, Repr

/-- What an access in flight is (R123, R152, R154). -/
inductive FlightKind where
  | load (dest : Dest)
  | store (counter : Nat)
  | atomic (dest : Option Nat) (counter : Nat)
  | fullEmpty (dest : Option Nat)
deriving DecidableEq, Repr

/-- An access in flight: its kind, its pieces, whether it is strong, whether it is an acquire, the wait counter it is
counted in, the registers it still owes, the GSETs that wait for it (number, whether it is GSETZ, whether it reads
the second register of a pair), and the datum at which it was issued. -/
structure Flight where
  kind : FlightKind
  pieces : List Piece
  strong : Bool
  acquire : Bool
  owes : List Nat
  gsets : List (Nat × Bool × Bool)
  asked : Nat
deriving DecidableEq, Repr

/-- Why a task suspends (R14), and what follows. -/
inductive SuspKind where
  | yield
  | park (resume : Resume) (woken : Bool)
  | preempt
deriving DecidableEq, Repr

/-- A vector store or VSCADD of which elements are posted (R152): its number, whether it is still in its queue, the requests not
yet acknowledged, and the lowest poisoned address that its elements have met. -/
structure VPosted where
  num : Nat
  queued : Bool
  ids : List Nat
  bad : Option Nat
deriving DecidableEq, Repr

/-- What a task has outstanding: wait counters C1 and C2 (R123), accesses in flight, the result FIFO and FIFOPEND
(R165), pending traps (R248), a suspension under way (R14), the request a stalled instruction waits for (R154, R157)
and the words of the instruction that is stalled, block words read for it from other cubes, and the datum that a
FENCE.ALIAS waits for with the operations whose end it awaits (R142), whether a suspension has saved its registers, and its vector stores with posted elements. Registers that are owed a result are named where they are held (`Ctx.phys`). -/
structure Flow where
  c1 : Nat := 0
  c2 : Nat := 0
  flights : List Flight := []
  fifo : List (Word × Word) := []
  fifopend : Nat := 0
  bpend : Bool := false
  ppend : Option Word := none
  susp : Option SuspKind := none
  waitOn : Option Nat := none
  waitWords : Nat := 0
  rbuf : List (Nat × BlockWord × Bool) := []
  asked : List Nat := []
  fence : Option Nat := none
  fenceOn : List Nat := []
  saved : Bool := false
  vposted : List VPosted := []
deriving DecidableEq, Repr

/-- A context (R9, R13, R245): whether it is busy, supervisor mode, asynchronous traps enabled, PC, the record of the
task it holds, its files, control registers and outstanding work. -/
structure Ctx where
  busy : Bool := false
  sup : Bool := false
  aie : Bool := false
  pc : Nat := 0
  task : Option RecEntry := none
  files : Files := {}
  csr : Csrs := {}
  flow : Flow := {}
deriving DecidableEq, Repr

/-! ## A slice, its home side and its station's copies -/

/-- A block word of a block (R126, R130): its place in the region, data, dirty and poison bits, lease expiry (for a
copy) and whether it is a replica's (R133). -/
structure Line where
  ix : Nat
  data : BlockWord
  dirty : Bool
  poison : Bool
  expiry : Nat
  replica : Bool
deriving DecidableEq, Repr

/-- A block (R126): a home block or a copy, its region, the tag it carries (R120), and its words in ascending order. -/
structure Block where
  home : Bool
  region : Nat
  ptag : Nat
  lines : List Line
deriving DecidableEq, Repr

/-- A block word that a stash window holds: its place from the window's base, dirty bit and lease expiry. Its data and its
poison are those of the stash bytes that it is mapped onto (R125). -/
structure WLine where
  ix : Nat
  dirty : Bool
  expiry : Nat
deriving DecidableEq, Repr

/-- A stash window (R125, R161): parcel, virtual base, length, stash base, the fabric chunk of each of its chunks, and the block
words it holds. -/
structure Window where
  ptag : Nat
  va : Nat
  len : Nat
  stash : Nat
  fas : Map Nat
  lines : List WLine
deriving DecidableEq, Repr

/-- A fill under way (R127): its requests not yet answered, its region and tag, the words that have come, and the chunks and
signatures whose words are no longer to be installed, since an acquire has dropped them or the station has changed them
(R139, R144). -/
structure Fill where
  reqs : List Nat
  region : Nat
  ptag : Nat
  lines : List Line
  void : NSet
  voidSig : Sig
deriving DecidableEq, Repr

/-- A publication under way (R138): what waits for it, the write-backs not yet acknowledged, and the station's signature as
it began. -/
structure Pub where
  demand : Demand
  waits : List Nat
  sig : Sig
deriving DecidableEq, Repr

/-- A witness (R137): 8-byte word, releasing cube and station, release sequence number, signature. -/
structure Witness where
  word : Nat
  cube : Nat
  stn : Nat
  seq : Nat
  sig : Sig
deriving DecidableEq, Repr

/-- A station's slice and its own side of coherence (R126, R136 to R138): blocks, most recently used first; windows;
SIGACC; received signatures with their expiry; release sequence number; publications; write-backs not yet acknowledged
(number and block word), behind which a later access to such a block word waits; fills under way; and the dirty words whose data
has been found uncorrectable (R132). -/
structure Slice where
  blocks : List Block := []
  windows : List Window := []
  sigacc : Sig := 0
  sigrcv : List (Nat × Sig) := []
  relseq : Nat := 0
  pubs : List Pub := []
  wbOut : List (Nat × Nat) := []
  fills : List Fill := []
  bad : NSet := []
deriving DecidableEq, Repr

/-- What a home keeps (R122, R134, R135, R137, R154, R157): LEASEMAX per chunk, operations held per chunk in arrival
order and the datum at which each began to be held, witnesses oldest first and whether the oldest is being retired,
registrations, full/empty requests held at this station's stash. -/
structure Home where
  leasemax : Map Nat := []
  held : List (Nat × Msg) := []
  since : List (Nat × Nat) := []
  witnesses : List Witness := []
  retiring : Bool := false
  waiters : List WaitReg := []
  feHeld : List (Nat × Msg) := []
deriving DecidableEq, Repr

/-! ## A station's scheduler -/

/-- A spilled message of pre-emption (R243). -/
abbrev Spilled := Msg

/-- The scheduler of a station (R18, R19, R233 to R244): task inbox, ready records in the stash slots and spilled,
parked records, used slots, arrival counter, horizon, spill region, message spill queue, save pool; whether it is pre-empted, whether
it is coming back from a pre-emption (R244), its spilled messages, whose turn the next record of a pre-emption is, and when it next
balances between cubes (R242). -/
structure Sched where
  inbox : List TaskPkt := []
  ready : List RecEntry := []
  spilled : List RecEntry := []
  parked : List RecEntry := []
  slots : NSet := []
  arrivals : Nat := 0
  horizon : Nat := 10000000
  spill : Nat := 0
  spillSz : Nat := 0
  msgq : Nat := 0
  msgqSz : Nat := 0
  savepool : Nat := 0
  preempted : Bool := false
  resuming : Bool := false
  spilledMsgs : List Spilled := []
  moveTurn : Nat := 0
  nextCubes : Nat := 0
deriving DecidableEq, Repr

/-- Stealing (R239): enabled, the neighbour that the round starts with, requests made in the round, whether one is
outstanding, the datum until which the thief waits. -/
structure Steal where
  on : Bool := false
  first : Nat := 0
  asked : Nat := 0
  waiting : Bool := false
  until_ : Nat := 0
  loads : Map (Nat × Nat) := []
deriving DecidableEq, Repr

/-- The station kernel's queue (R240, R248, R288): TVEC, messages stored and not yet raised, the queue's next entry, and
a PREEMPT trap waiting for context 0 of core 0. -/
structure Kernel where
  tvec : Nat := 0
  pending : List Nat := []
  next : Nat := 0
  raise : Option Nat := none
deriving DecidableEq, Repr

/-- A stream handle (R78). FREE is NSLOT − FILL. -/
structure Handle where
  valid : Bool := false
  base : Nat := 0
  slotsz : Nat := 0
  nslot : Nat := 0
  pix : Nat := 0
  cix : Nat := 0
  fill : Nat := 0
  mode : Nat := 0
deriving DecidableEq, Repr

/-- A record parked on a handle (R173): handle, whether it waits for filled slots, count, task. -/
structure HWaiter where
  h : Nat
  filled : Bool
  count : Nat
  tid : Nat
deriving DecidableEq, Repr

/-- A translation in the TLB (R252): parcel tag, virtual page, page size, fabric page, R, W, X. -/
structure Tlb where
  ptag : Nat
  va : Nat
  size : Nat
  fa : Nat
  r : Bool
  w : Bool
  x : Bool
deriving DecidableEq, Repr

/-! ## The vector unit -/

/-- How an instruction is bound to a guard slot (R68): decided, or to a GSET's number. -/
inductive Bind where
  | free
  | decided (run : Bool)
  | pending (gid : Nat) (sense : Bool)
deriving DecidableEq, Repr

/-- An entry of a vector queue (R180): the instruction, its task and context, its address, VL and scalar operand at issue
(R176, R177), its binding, and, for a vector memory instruction, the elements whose addresses were formed at issue
(position, fabric address, address as formed), the positions it covers, whether positions count bytes, block words read for it
from elsewhere, its number, and the datum at which it was issued. -/
structure VEntry where
  i : Instr
  at_ : Loc
  tid : Nat
  pc : Nat
  vl : Nat
  scalar : Word
  bind : Bind
  elems : List (Nat × Nat × Nat)
  first : Nat
  last : Nat
  bytewise : Bool
  buf : List (Nat × BlockWord × Bool)
  asked : List Nat
  num : Nat
  since : Nat
deriving DecidableEq, Repr

/-- A binding of lane groups in force (R184): groups held and the station cycles left. -/
structure LaneBind where
  groups : Nat
  left : Nat
deriving DecidableEq, Repr

/-- The vector unit (R180, R184): a queue per core, the memory pipeline's entries, oldest first, a deficit per core, the pointer,
bindings, VWEIGHT. -/
structure Vec where
  queues : Map (List VEntry) := []
  pipe : List VEntry := []
  deficit : Map Nat := []
  ptr : Nat := 0
  binds : List LaneBind := []
  vweight : Word := 0x0101010101010101
deriving DecidableEq, Repr

/-! ## A station -/

/-- Start-up states of a station (R286): not yet started, released, locked, failed its self-test. -/
inductive Boot where
  | off | released | locked | failed
deriving DecidableEq, Repr

/-! ## Engines -/

/-- A tensor descriptor (R201): extents and strides of its RANK dimensions, pointers as byte addresses. -/
structure Desc where
  rank : Nat
  fmt : Nat
  lin : Bool
  base : Nat
  ext : List Nat
  str : List Int
  segs : Nat
  bscale : Nat
  bands : Nat
  shape : Nat
deriving DecidableEq, Repr

/-- An accumulator (R214): element (i, j) at 64 i + j, sticky status, flags and fault VALUE. -/
structure Accum where
  vals : Map (BitVec 32) := []
  astat : Nat := 0
  aflg : Nat := 0
  value : Word := 0
deriving DecidableEq, Repr

/-- A B tile in a latch slot (R215): its tags, and for each of its elements code, block scale and band scale codes. -/
structure Tile where
  tensor : Nat
  fmt : Nat
  korg : Nat
  jorg : Nat
  elems : List (Nat × Nat × Nat)
deriving DecidableEq, Repr

/-- An MTRAV under way (R216): the step, what it does next (load, take a tile, move a tile on), its wait's deadline, and
its steps applied, flags and entries as read at its start. -/
structure Trav where
  step : Nat
  phase : Nat
  deadline : Nat
  applied : Nat
  flags : Nat
deriving DecidableEq, Repr

/-- A matrix engine (R210 to R217): inbox, accumulators, latch and its configuration, an MTRAV under way; of the command in
hand: whether it has started, its tensors' entries, the segment lengths of its shape, steps applied or elements written,
its flags, the writes it waits for, and how it has failed. -/
structure Matrix where
  inbox : List CmdMsg := []
  accs : Map Accum := []
  latch : List Tile := []
  en : Bool := false
  size : Nat := 0
  dmask : Nat := 0
  next : Nat := 0
  timeout : Nat := 1000000
  trav : Option Trav := none
  started : Bool := false
  descs : List Desc := []
  segs : List Nat := []
  steps : Nat := 0
  stepFlags : Nat := 0
  waits : List Nat := []
  fail : Option (Nat × Word) := none
deriving DecidableEq, Repr

/-- A transfer record under way (R227, R228): its address as the chain names it and as a fabric address, its image, elements
written, chunks whose bit has been set, rows of a gather's batch still to be fetched with their indices, data writes and
last updates not yet performed; phase 0 moving, 1 landed, 2 being marked consumed, 3 failed, 5 being
marked broken, 4 over. -/
structure Xfer where
  rec_ : Nat
  addr : Nat
  image : List Byte
  next : Nat
  bits : Nat
  rows : List (Nat × Nat)
  waits : List Nat
  tail : List Nat
  phase : Nat
deriving DecidableEq, Repr

/-- A chain under way (R229): the record to read next, records consumed, poison met, failure, whether the walk is over, the
records started since the last FENCE. -/
structure Chain where
  rec_ : Nat
  consumed : Nat
  poison : Option Word
  fail : Option (Nat × Word)
  ended : Bool
  active : List Xfer
deriving DecidableEq, Repr

/-- A copy engine (R226 to R229). -/
structure Copy where
  inbox : List CmdMsg := []
  chain : Option Chain := none
deriving DecidableEq, Repr

/-- A collective that a station takes part in (R231): its number, its command, the flags it has raised, and, once its result
has come, the writes not yet performed, its status and VALUE. -/
structure CollWait where
  num : Nat
  cmd : CmdMsg
  flags : Nat
  waits : List Nat := []
  out : Option (Nat × Word) := none
deriving DecidableEq, Repr

/-- The router interface of a station (R231). -/
structure Coll where
  inbox : List CmdMsg := []
  waits : List CollWait := []
deriving DecidableEq, Repr

/-- A bank engine (R221): program counter, executions left of the move in hand, halted; ROWBUF's elements (code, block scale,
band scale), the poisoned ones, their slot and the tensor index of the first; the same of IVB; the accumulators (lane l of
ACCa at 8 a + l); counters and registers by their port number. -/
structure Bank where
  pc : Nat := 0
  rep : Option Nat := none
  halted : Bool := false
  row : List (Nat × Nat × Nat) := []
  rowPoison : List Nat := []
  rowSlot : Nat := 0
  rowFirst : Int := 0
  ivb : List (Nat × Nat × Nat) := []
  ivPoison : List Nat := []
  ivSlot : Nat := 0
  acc : Map (BitVec 32) := []
  ports : Map (BitVec 32) := []
deriving DecidableEq, Repr

/-- A bank command under way (R225): the command, its program with the fabric address of each move word, its slots'
entries, its banks; OUT writes performed, flags, chunks written per slot, writes not yet acknowledged, slots that OSEL named
at an OUT, and how it has failed. -/
structure BankRun where
  cmd : CmdMsg
  prog : List Nat
  fas : List Nat
  slots : List (Option Desc)
  banks : Map Bank
  outs : Nat
  flags : Nat
  wrote : List (Nat × Nat)
  waits : List Nat
  osels : NSet
  fail : Option (Nat × Word)
deriving DecidableEq, Repr

/-- A vault (R225, R288, R290): its sequencer's queues and commands under way per parcel, weights, the parcel being served and
the end of its quantum; whether it has failed, whether it is hot. -/
structure Vault where
  queues : Map (List CmdMsg) := []
  runs : List (Nat × BankRun) := []
  weights : Map Nat := []
  serving : Option Nat := none
  quantum : Nat := 0
  failed : Bool := false
  hot : Bool := false
deriving DecidableEq, Repr

/-- A tile-task record at its dispatcher (R219): number, parcel, doublewords, sender, key of R19, whether it is ready or
broken. -/
structure TileTask where
  num : Nat
  ptag : Nat
  dws : List Word
  src : Src
  key : Nat
  ready : Bool
  broken : Bool
deriving DecidableEq, Repr

/-- A command that an instruction built under a pending guard slot (R28, R163), held in its station. -/
structure HeldCmd where
  msg : CmdMsg
  core : Nat
  ctx : Nat
  bind : Bind
  fifo : Bool
deriving DecidableEq, Repr

/-- A station's matrix engine, copy engine and router interface; commands held under guard slots; what each of its engines read
from other cubes and has asked for; their writes not yet acknowledged, and those that met poison. -/
structure Engines where
  matrix : Matrix := {}
  copy : Copy := {}
  coll : Coll := {}
  heldCmds : List HeldCmd := []
  reads : Map (List (Nat × BlockWord × Bool)) := []
  readsAsked : Map (List Nat) := []
  writesOut : List Nat := []
  wroteBad : List (Nat × Nat) := []
deriving DecidableEq, Repr

/-- A station (R9). -/
structure Station where
  boot : Boot := .off
  slice : Slice := {}
  home : Home := {}
  sched : Sched := {}
  steal : Steal := {}
  kernel : Kernel := {}
  handles : Map Handle := []
  hwaiters : List HWaiter := []
  tlb : List Tlb := []
  vec : Vec := {}
  eng : Engines := {}
deriving DecidableEq, Repr

/-! ## The fabric -/

/-- A numbered packet that its source keeps (R262): the message that it carries, and whether its acknowledgement and, for a
request, its answer have arrived. -/
structure Sent where
  seq : Nat
  pkt : Packet
  msg : Msg
  acked : Bool := false
  answered : Bool := false
deriving DecidableEq, Repr

/-- A source's side of a pair and class (R262, R265): the last number used, packets kept, packets that wait
for the window, and whether the destination has been reported. -/
structure SendPair where
  snode : Nat
  sstn : Nat
  dnode : Nat
  dstn : Nat
  cls : Nat
  last : Nat
  unacked : List Sent
  waiting : List Sent
  reported : Bool
deriving DecidableEq, Repr

/-- A duplicate filter (R263): source, original destination and class, H, the accepted numbers among the last 4,096,
the next number to perform in class O, packets accepted and not yet performed, cached replies. -/
structure Filter where
  snode : Nat
  sstn : Nat
  onode : Nat
  ostn : Nat
  cls : Nat
  high : Nat
  bits : NSet
  nextO : Nat
  queue : List Packet
  performed : NSet
  replies : List (Nat × Packet)
deriving DecidableEq, Repr

/-- Port states (R257). -/
inductive PortSt where
  | down | train | up | half
deriving DecidableEq, Repr

/-- A port (R255 to R258): state, lanes passing, next LSEQ to send and to receive, the replay buffer with each flit's
replays, flits of a packet being received per class, packets received whole and not yet routed, classes stopped by the far end, classes
that this side asks it to stop, whether received flits are being discarded, packets queued, the datum at which LACK last advanced or
flits became outstanding, the node at the far end (R300). -/
structure Port where
  st : PortSt := .down
  lanes : Nat := 0
  lseq : Nat := 0
  expect : Nat := 0
  replay : List (Flit × Nat) := []
  rx : Map (List Flit) := []
  rxq : List Packet := []
  stop : Nat := 0
  stopping : Nat := 0
  discard : Bool := false
  out : List Packet := []
  progress : Nat := 0
  far : Nat := 0
deriving DecidableEq, Repr

/-- A reduction slot (R274, R275): key, operation, format, count, parcel tag of its first contribution, partials per input,
whether it serves a CLMCAST, expiry. -/
structure RedSlot where
  group : Nat
  seq : Nat
  op : Nat
  fmt : Nat
  count : Nat
  ptag : Nat
  parts : List (Nat × Partial)
  mcast : Bool
  expiry : Nat
deriving DecidableEq, Repr

/-- The router (R254, R261, R274 to R276): routes, trees, reduction slots, remembered keys with their present inputs and
expiry, contributions waiting for a slot, packets of partials and results not yet whole, retry time, whether it forwards
(R286), the manager's endpoint (256 × node + number), the endpoint that wrote the router image. -/
structure Router where
  routes : Map (List Nat) := []
  trees : List Tree := []
  slots : List RedSlot := []
  freed : List (Nat × Nat × List Nat × Nat) := []
  waiting : List (Nat × Partial) := []
  frags : List (Nat × Partial) := []
  resFrags : List CollRes := []
  retry : Nat := 20000
  live : Bool := false
  manager : Option Nat := none
  imageBy : Option Nat := none
  ports : Map Port := []
deriving DecidableEq, Repr

/-- End-to-end delivery (R262 to R268). -/
structure EndToEnd where
  pairs : List SendPair := []
  filters : List Filter := []
  future : List Packet := []
  forwarded : List (Packet × Packet) := []
  lost : NSet := []
deriving DecidableEq, Repr

/-- An OHA endpoint (R277): tenant and parcel tag, submissions written and not yet read, DMA windows by slot (host base,
size, fabric base, read, write), DISCARDED and REFUSED counters, completions delivered to its host. -/
structure Endpoint where
  node : Nat
  ix : Nat
  tenant : Nat
  ptag : Nat
  ring : List (List Word) := []
  windows : List (Nat × Nat × Nat × Nat × Bool × Bool) := []
  discarded : Nat := 0
  refused : Nat := 0
  host : List (Nat × List Byte) := []
deriving DecidableEq, Repr

/-- What the cube sees of OHAs (R277, R278): endpoints, their caches, the host table (node, chunk, and which of its block words
have been written back), last heartbeats,
nodes of hosts that are dead. -/
structure Hosts where
  endpoints : List Endpoint := []
  caches : Map Slice := []
  table : List (Nat × Nat × Nat) := []
  beats : Map Nat := []
  dead : NSet := []
deriving DecidableEq, Repr

/-! ## Platform -/

/-- A histogram monitor (R293, R294). -/
structure Monitor where
  control : Word := 0
  bins : Map Nat := []
  min : Nat := 0
  max : Nat := 0
  total : Nat := 0
deriving DecidableEq, Repr

/-- The tables of the cube (R254, R266, R279) and moves of data under way (R270, R272, R281): plat generation, region
entries, cube set entries, this cube's parcels, other cubes' parcels, tensor tables (identifier + 1,024 × parcel tag),
dispatcher records, parcel peers, stripes handed over, stripes being copied (R270), block words rebuilt, cube set entries taken over from a lost cube
(R272), words that the cube has read for itself and those asked for, lease lengths outside the plat, maps to come, and the generation
before which old layouts have been retired (R269). -/
structure Tables where
  gen : Nat := 0
  regions : Map (List Word) := []
  cubes : Map Nat := []
  parcels : List Parcel := []
  peers : List (Nat × Parcel) := []
  tensors : Map (Option Desc) := []
  tiles : List TileTask := []
  tileCount : Nat := 0
  parcelPeers : List (Nat × List Nat) := []
  moved : List (Nat × Nat) := []
  copying : List (Nat × Nat) := []
  rebuilt : NSet := []
  taken : NSet := []
  buf : List (Nat × BlockWord × Bool) := []
  bufAsked : NSet := []
  copyLease : Nat := 2000
  repLease : Nat := 1000000
  newMaps : List Parcel := []
  retired : Nat := 0
deriving DecidableEq, Repr

/-- Package and upkeep (R284 to R296): PCAP, the granted budget, mean power, withheld cycles by engine kind, thermal
throttle, temperatures, error counters, monitors, digests of accepted images, kernel tables, failed vaults and
stations, the rate correction of the datum, refresh passes of each vault and targeted refreshes of rows, activations of rows in the
vault's refresh period, scrub reads made, what the self-test found failed of SRAM arrays and of the router, power measured in the
current window, what was reported to the fabric manager, increments of WR on their way by error log. -/
structure Platform where
  phase : Nat := 0
  pcap : Nat := 1800
  budget : Nat := 1800
  mean : Nat := 0
  withheld : Map Nat := []
  throttled : Bool := false
  temps : Map Nat := []
  errors : Map Nat := []
  monitors : Map Monitor := []
  routerImage : List Byte := []
  kernelImage : List Byte := []
  kernelTable : Nat := 0
  rate : Int := 0
  refreshes : Map Nat := []
  rowRefreshes : Map Nat := []
  activations : Map Nat := []
  scrubs : Nat := 0
  failedArrays : List Nat := []
  routerFailed : Bool := false
  samples : List Nat := []
  logging : Map Nat := []
  reports : List (Nat × Nat) := []
deriving DecidableEq, Repr

/-! ## The machine -/

/-- Who takes the next turn. -/
inductive Who where
  | ctx (l : Loc)
  | net (k : Nat)
  | ext
  | timer
  | bank (vault bank : Nat)
  | arbiter (stn : Nat)
  | select (l : Loc)
deriving DecidableEq, Repr

/-- A turn: who acts, and the datum ticks that pass before it. -/
structure Turn where
  who : Who
  ticks : Nat
deriving DecidableEq, Repr

/-- What is in hand while a turn is executed: the acting context, the words of its instruction and their address, the
message of an event, the vault, bank and move word of a bank move. -/
structure Hand where
  at_ : Loc := ⟨0, 0, 0⟩
  words : Nat := 1
  msg : Msg := .none
  vault : Nat := 0
  bank : Nat := 0
  move : Nat := 0
deriving DecidableEq, Repr

/-- Counters of the model: requests and tasks and GSETs numbered, free values used, steps taken, contexts served. -/
structure Counters where
  id : Nat := 1
  tid : Nat := 1
  free : Nat := 0
  steps : Nat := 0
  rr : Nat := 0
deriving DecidableEq, Repr

/-- The state of one cube (R1, R9). `mem` holds the DRAM and stash bytes by canonical fabric address, an unlisted byte
reading as zero (R124, R286); `poison` the poisoned block words; `full` the full stash words (R124). `c3` is wait
counter C3 per task number (R123), and `away` the cube, plus one, to which a task of a number has moved (R241). `net` are messages in flight, `timers` messages due at a datum tick, `after` the
messages that are sent once a request has been acknowledged, `ext` what
arrives from outside the cube, `turns` the interleaving that the environment chose. -/
structure State where
  cube : Nat := 0
  datum : Nat := 0
  mem : List Host.Cell := []
  poison : NSet := []
  full : NSet := []
  ctxs : Map Ctx := []
  stations : Map Station := []
  vaults : Map Vault := []
  c3 : Map Nat := []
  away : Map Nat := []
  tables : Tables := {}
  router : Router := {}
  e2e : EndToEnd := {}
  hosts : Hosts := {}
  plat : Platform := {}
  net : List Msg := []
  timers : List (Nat × Msg) := []
  after : List (Nat × List Msg) := []
  ext : List Msg := []
  turns : List Turn := []
  hand : Hand := {}
  counts : Counters := {}
deriving DecidableEq, Repr

/-- The machine right after reset: no step of R286 has been taken. Every register and counter holds the reset value the
spec states, or zero where it states none (log entry 2). -/
def State.reset : State := {}

/-- The canonical form of memory: addresses strictly rising, no entry equal to zero, which an unlisted byte reads as. -/
abbrev Memory.wf (m : List Host.Cell) : Bool := Map.wf (0 : Byte) m

end Sys2Proof.Machine
end

