-- ==== Sys2Proof/Machine/Ops.lean ====
section
/-! DEFINITION. The named operations over registers, memory bytes, contexts and messages; completing an instruction;
taking an exception (R245) and returning from one (R107). -/

namespace Sys2Proof.Machine

/-- The outcome of one instruction or event. -/
abbrev Out := Host.Outcome State Fault Refusal

/-! ## Bytes -/

/-- The `n` low bytes of a number, least significant first (R5). -/
def bytesOf : Nat → Nat → List Byte
  | 0, _ => []
  | n + 1, v => BitVec.ofNat 8 v :: bytesOf n (v / 256)

/-- The number that bytes hold, least significant first (R5). -/
def natOf : List Byte → Nat
  | [] => 0
  | b :: bs => b.toNat + 256 * natOf bs

/-- The bits [hi:lo] of a number. -/
def bitsOf (v hi lo : Nat) : Nat := v / 2 ^ lo % 2 ^ (hi + 1 - lo)
/-- Bit `i` of a number. -/
def bitAt (v i : Nat) : Bool := v / 2 ^ i % 2 == 1
/-- A 64-bit number as a word. -/
def w64 (v : Nat) : Word := BitVec.ofNat 64 v
/-- An integer as a word. -/
def wInt (v : Int) : Word := BitVec.ofInt 64 v

/-- One byte of storage by canonical fabric address; an unlisted byte is zero (R124, R286). -/
def State.byte (s : State) (a : Nat) : Byte := Map.get 0 s.mem a
/-- `n` bytes of storage from `a`. -/
def State.bytes (s : State) (a : Nat) : Nat → List Byte
  | 0 => []
  | n + 1 => s.byte a :: s.bytes (a + 1) n

/-- Stores bytes in a memory, ascending. -/
def storeBytes : List Host.Cell → Nat → List Byte → List Host.Cell
  | m, _, [] => m
  | m, a, b :: bs => storeBytes (Map.set 0 m a b) (a + 1) bs

/-- Stores bytes in storage. -/
def State.setBytes (s : State) (a : Nat) (bs : List Byte) : State := { s with mem := storeBytes s.mem a bs }

/-! ## Contexts, stations, vaults -/

/-- The number of a context among the 2,048 of R9. -/
def locIx (l : Loc) : Nat := l.stn * 32 + l.core * 4 + l.ctx
/-- The context with that number. -/
def locOf (n : Nat) : Loc := ⟨n / 32, n / 4 % 8, n % 4⟩

def State.ctx (s : State) (l : Loc) : Ctx := Map.get {} s.ctxs (locIx l)
def State.setCtx (s : State) (l : Loc) (c : Ctx) : State := { s with ctxs := Map.set {} s.ctxs (locIx l) c }
def State.modCtx (s : State) (l : Loc) (f : Ctx → Ctx) : State := s.setCtx l (f (s.ctx l))
/-- The acting context. -/
def State.cur (s : State) : Ctx := s.ctx s.hand.at_
/-- Changes the acting context. -/
def State.modCur (s : State) (f : Ctx → Ctx) : State := s.modCtx s.hand.at_ f
def State.stn (s : State) (n : Nat) : Station := Map.get {} s.stations n
def State.setStn (s : State) (n : Nat) (t : Station) : State := { s with stations := Map.set {} s.stations n t }
def State.modStn (s : State) (n : Nat) (f : Station → Station) : State := s.setStn n (f (s.stn n))
/-- The station of the acting context. -/
def State.here (s : State) : Station := s.stn s.hand.at_.stn
def State.vault (s : State) (n : Nat) : Vault := Map.get {} s.vaults n
def State.modVault (s : State) (n : Nat) (f : Vault → Vault) : State :=
  { s with vaults := Map.set {} s.vaults n (f (s.vault n)) }
def State.modSlice (s : State) (n : Nat) (f : Slice → Slice) : State := s.modStn n (fun t => { t with slice := f t.slice })
def State.modHome (s : State) (n : Nat) (f : Home → Home) : State := s.modStn n (fun t => { t with home := f t.home })
def State.modSched (s : State) (n : Nat) (f : Sched → Sched) : State := s.modStn n (fun t => { t with sched := f t.sched })
def State.modEng (s : State) (n : Nat) (f : Engines → Engines) : State := s.modStn n (fun t => { t with eng := f t.eng })
def State.modVec (s : State) (n : Nat) (f : Vec → Vec) : State := s.modStn n (fun t => { t with vec := f t.vec })

/-- The bank command that runs on a vault: that of the parcel being served, unless it has failed (R225). -/
def Vault.running (v : Vault) : Option BankRun :=
  match v.serving with
  | none => none
  | some p => (v.runs.find? (fun r => r.1 == p && r.2.fail.isNone)).map (fun r => r.2)

/-- The contexts of a station, in core-major order. -/
def stnLocs (n : Nat) : List Loc := (List.range 32).map (fun k => ⟨n, k / 4, k % 4⟩)

/-- The lowest free context of a station. -/
def State.freeCtx (s : State) (n : Nat) : Option Loc := (stnLocs n).find? (fun l => !(s.ctx l).busy)

/-- The context that runs the task with a number, if any. -/
def State.whereIs (s : State) (tid : Nat) : Option Loc :=
  (s.ctxs.find? (fun e => match e.2.task with | some t => t.tid == tid | none => false)).map (fun e => locOf e.1)

/-- The numbers of the stations that hold state. -/
def State.stnIxs (s : State) : List Nat := s.stations.map (fun e => e.1)

/-! ## Messages, timers, numbers -/

/-- Puts a message in flight. -/
def State.send (s : State) (m : Msg) : State := { s with net := s.net ++ [m] }
/-- Puts messages in flight, in order. -/
def State.sendAll (s : State) (ms : List Msg) : State := { s with net := s.net ++ ms }

/-- A source by numbers: the cube and station that a message came from; a station's own, this cube. -/
def srcKey : Src → List Nat
  | .task l _ => [0, l.stn]
  | .packet p => [p.snode + 1, p.sstn]
  | _ => [0, 64]

/-- Messages that keep their order: engine commands of one source to one inbox (R163), kernel messages of one station to
another (R109), task packets and arrivals of one source to one station (R233), packets of one class other than A and C from one
station to another (R261), the packets of one partial (R300); the others may pass one another. -/
def msgChannel : Msg → Option (List Nat)
  | .collectiveContribution i p => some [5, i, p.group, p.seq]
  | .engineCommand c => some [1, c.tid, c.cube, c.stn, c.inbox]
  | .taskPacket n p => some ([3, n] ++ srcKey p.src)
  | .dataArrivalWithHandler n d => some ([3, n] ++ srcKey d.src)
  | .packetRouting p =>
    if p.hdr.cls = 1 ∨ p.hdr.cls = 2 then none else some [4, p.hdr.cls, p.hdr.snode, p.hdr.sstn, p.hdr.dnode, p.hdr.dstn]
  | .soft m => some [2, m.scube, m.sstn, m.stn]
  | .kernelMessageReserved m => some [2, m.scube, m.sstn, m.stn]
  | .preempt m => some [2, m.scube, m.sstn, m.stn]
  | .resume m => some [2, m.scube, m.sstn, m.stn]
  | .move m => some [2, m.scube, m.sstn, m.stn]
  | .config m => some [2, m.scube, m.sstn, m.stn]
  | _ => none

/-- A message that cannot be taken yet goes to the back of the line, before the later ones of its channel. -/
def State.requeue (s : State) (m : Msg) : State :=
  match msgChannel m with
  | none => s.send m
  | some ch =>
    { s with net := s.net.filter (fun x => msgChannel x != some ch) ++ [m] ++ s.net.filter (fun x => msgChannel x == some ch) }

/-- Inserts a timed message by its datum, after those of the same datum. -/
def insertTimer : List (Nat × Msg) → Nat → Msg → List (Nat × Msg)
  | [], d, m => [(d, m)]
  | (d', m') :: ts, d, m => if d' ≤ d then (d', m') :: insertTimer ts d m else (d, m) :: (d', m') :: ts

/-- Has a message happen at the first step whose datum is at least `due`. -/
def State.schedule (s : State) (due : Nat) (m : Msg) : State := { s with timers := insertTimer s.timers due m }

/-- The next request number, and the state after taking it. -/
def State.freshId (s : State) : Nat × State := (s.counts.id, { s with counts := { s.counts with id := s.counts.id + 1 } })
/-- The next task number, which no other cube uses. -/
def State.freshTid (s : State) : Nat × State := (s.cube * 2 ^ 40 + s.counts.tid, { s with counts := { s.counts with tid := s.counts.tid + 1 } })
/-- The next undefined word (R2). -/
def State.freshWord (s : State) : Word × State :=
  (Config.freeWord s.counts.free, { s with counts := { s.counts with free := s.counts.free + 1 } })
/-- The next choice number. -/
def State.freshChoice (s : State) : Nat × State :=
  (s.counts.free, { s with counts := { s.counts with free := s.counts.free + 1 } })

/-! ## Registers -/

/-- Whether a scalar register number names the kernel bank (R246). -/
def Ctx.banked (c : Ctx) (r : Nat) : Bool := c.sup && decide (r ≤ 15)

/-- A scalar register: g0 reads as zero (R76), and g1 to g15 are the kernel bank in supervisor mode (R246). -/
def Ctx.readG (c : Ctx) (r : Nat) : Word :=
  if r = 0 then 0 else if c.banked r then Map.get 0 c.files.bank r else Map.get 0 c.files.g r

/-- A register no longer waits for a result that something newer has replaced; it is named where it is held. -/
def Flow.disown (f : Flow) (r : Nat) : Flow :=
  { f with flights := f.flights.map (fun x => { x with owes := x.owes.filter (fun y => y != r) }) }

/-- Where a scalar register is held: the task's file, or, 64 above its number, the kernel bank (R246). -/
def Ctx.phys (c : Ctx) (r : Nat) : Nat := if c.banked r then 64 + r else r

/-- Writes a register where it is held. -/
def Ctx.writePhys (c : Ctx) (p : Nat) (v : Word) : Ctx :=
  if p = 0 then c
  else if 64 ≤ p then { c with files := { c.files with bank := Map.set 0 c.files.bank (p - 64) v } }
  else { c with files := { c.files with g := Map.set 0 c.files.g p v } }

/-- Writes a scalar register; a write of g0 is ignored (R76, R89). -/
def Ctx.writeG (c : Ctx) (r : Nat) (v : Word) : Ctx :=
  if r = 0 then c
  else { (c.writePhys (c.phys r) v) with flow := c.flow.disown (c.phys r) }

/-- Whether a register still awaits a result (R88). -/
def Ctx.owed (c : Ctx) (r : Nat) : Bool := c.flow.flights.any (fun x => x.owes.contains (c.phys r))

/-- A vector register (R76). -/
def Ctx.readV (c : Ctx) (r : Nat) : VReg := Map.get 0 c.files.v r
/-- Writes a vector register and its VSAVED bit (R236). -/
def Ctx.writeV (c : Ctx) (r : Nat) (v : VReg) : Ctx :=
  { c with files := { c.files with v := Map.set 0 c.files.v r v }, csr := { c.csr with vsaved := c.csr.vsaved.add r } }
/-- A predicate register: k0 reads as all ones (R76). -/
def Ctx.readK (c : Ctx) (r : Nat) : Pred := if r = 0 then BitVec.allOnes 256 else Map.get 0 c.files.k r
/-- Writes a predicate register other than k0. -/
def Ctx.writeK (c : Ctx) (r : Nat) (v : Pred) : Ctx :=
  if r = 0 then c else { c with files := { c.files with k := Map.set 0 c.files.k r v } }
/-- A guard slot (R77). -/
def Ctx.slot (c : Ctx) (j : Nat) : Slot := c.files.slots.getD j .yes
def Ctx.setSlot (c : Ctx) (j : Nat) (v : Slot) : Ctx := { c with files := { c.files with slots := c.files.slots.set j v } }

/-! ## Completing an instruction -/

/-- R20: issue cycles charged to the task; none in supervisor mode (R246), none for an unlimited budget. -/
def Ctx.charge (c : Ctx) (n : Nat) : Ctx :=
  if c.sup ∨ c.csr.budget = 0 then c
  else if c.csr.budget ≤ n then { c with csr := { c.csr with budget := 0 }, flow := { c.flow with bpend := true } }
  else { c with csr := { c.csr with budget := c.csr.budget - n } }

/-- The address of the word after an instruction of `n` words (R96). -/
def nextPc (pc n : Nat) : Nat := (pc + 2 * n) % 2 ^ 48

/-- An instruction of `n` words completes and control goes to `pc`: its cycles are charged and a completed user
instruction resets the vector resume position (R170). -/
def Ctx.finishAt (c : Ctx) (n pc : Nat) : Ctx :=
  let d := c.charge n
  { d with pc := pc, csr := { d.csr with resume := if c.sup then d.csr.resume else 0 }
           flow := { d.flow with rbuf := [], asked := [] } }

/-- An instruction of `n` words completes and the next one follows. -/
def Ctx.retire (c : Ctx) (n : Nat) : Ctx := c.finishAt n (nextPc c.pc n)

/-- The acting context's instruction completes. -/
def State.retire (s : State) : State := s.modCur (fun c => c.retire s.hand.words)
/-- The acting context's instruction completes and control goes to `pc`. -/
def State.finishAt (s : State) (pc : Nat) : State := s.modCur (fun c => c.finishAt s.hand.words pc)

/-! ## Traps -/

/-- The trap causes of R247. -/
def causeILL : Nat := 0x01
def causeFMT : Nat := 0x02
def causePRIV : Nat := 0x03
def causeALIGN : Nat := 0x04
def causePAGE : Nat := 0x05
def causePROT : Nat := 0x06
def causePOISON : Nat := 0x07
def causeBUDGET : Nat := 0x08
def causeFPE : Nat := 0x09
def causeBRK : Nat := 0x0A
def causeHANDLE : Nat := 0x0B
def causePLAT : Nat := 0x0C
def causeUSER : Nat := 0x0D
def causePREEMPT : Nat := 0x20
def causeKMSG : Nat := 0x21

/-- R245: a trap is entered. TCAUSE, TADDR, TPC and TSTAT are written, the context enters supervisor mode with
asynchronous traps disabled (which switches g1 to g15 to the kernel bank), and the PC becomes the trap entry. -/
def Ctx.enter (c : Ctx) (cause : Nat) (addr : Word) (tpc iwords tvec : Nat) : Ctx :=
  { c with busy := true, sup := true, aie := false, pc := tvec
           flow := { c.flow with rbuf := [], asked := [], fence := none, fenceOn := [], waitOn := if c.flow.waitOn = some 0 then none else c.flow.waitOn }
           csr := { c.csr with tcause := cause, taddr := addr, tpc := tpc, iwords := iwords, taie := c.aie || !c.sup
                               pmode := c.sup } }

/-- A context enters a trap of its station's kernel. -/
def State.enterTrap (s : State) (l : Loc) (cause : Nat) (addr : Word) (tpc iwords : Nat) : State :=
  s.modCtx l (fun c => c.enter cause addr tpc iwords (s.stn l.stn).kernel.tvec)

/-- A precise trap of a context's instruction of `n` words (R247): TPC is its first word. The cycles that it issued in are
charged, and a budget that they use up leaves BUDGET pending behind it (R20). -/
def State.trapOf (s : State) (l : Loc) (cause : Nat) (addr : Word) (n : Nat) : State :=
  (s.modCtx l (fun c => c.charge n)).enterTrap l cause addr (s.ctx l).pc n
/-- A precise trap of the instruction in hand. -/
def State.trap (s : State) (cause : Nat) (addr : Word) : State := s.trapOf s.hand.at_ cause addr s.hand.words

/-- R107, R248: the return from a trap. A context that held no task when it was trapped from user mode becomes free. -/
def Ctx.eret (c : Ctx) : Ctx :=
  if !c.csr.pmode ∧ c.task = none then { c with busy := false, sup := false, aie := false, pc := 0 }
  else { c with pc := c.csr.tpc, sup := c.csr.pmode, aie := c.csr.taie }

/-! ## How an instruction's meaning is built -/

/-- Why an instruction does not complete: a precise trap, or a stall that leaves it unperformed. -/
inductive Stop where
  | trap (cause : Nat) (addr : Word)
  | stall
deriving DecidableEq, Repr

/-- The steps of an instruction over the state. -/
abbrev Exec := EStateM Stop State

namespace Exec

/-- Traps. -/
def trap {α : Type} (cause : Nat) (addr : Nat) : Exec α := throw (.trap cause (w64 addr))
/-- Stalls, unperformed, without consuming budget. -/
def stall {α : Type} : Exec α := throw .stall
/-- Traps unless a check holds. -/
def check (ok : Bool) (cause addr : Nat) : Exec Unit := if ok then pure () else trap cause addr
/-- Stalls unless a condition holds. -/
def wait (ok : Bool) : Exec Unit := if ok then pure () else stall
/-- The acting context. -/
def ctx : Exec Ctx := do return (← get).cur
/-- Changes the acting context. -/
def modCtx (f : Ctx → Ctx) : Exec Unit := modify (fun s => s.modCur f)
/-- R88: waits at issue for the source registers. -/
def need (rs : List Nat) : Exec Unit := do
  let c ← ctx
  wait (!rs.any c.owed)
/-- A scalar source register, waited for. -/
def reg (r : Nat) : Exec Word := do
  need [r]
  return (← ctx).readG r
/-- Writes a scalar register. -/
def setReg (r : Nat) (v : Word) : Exec Unit := modCtx (fun c => c.writeG r v)
/-- A pair's second register (R153): pairs start at an even number. -/
def setPair (r : Nat) (v w : Word) : Exec Unit := do
  setReg r v
  setReg (r + 1) w
/-- A value or a stop that a pure computation gives. -/
def lift {α : Type} (r : Except Stop α) : Exec α := fun s => match r with | .ok a => .ok a s | .error e => .error e s

end Exec

/-- The outcome of steps that end with the instruction completed and the next one following. -/
def runSeq (m : Exec Unit) (s : State) : Out :=
  match m s with
  | .ok _ s' => .next s'.retire
  | .error (.trap c a) s' => .next (s'.trap c a)
  | .error .stall s' => .next s'

/-- The outcome of steps that give the address at which control goes on. -/
def runTo (m : Exec Nat) (s : State) : Out :=
  match m s with
  | .ok pc s' => .next (s'.finishAt pc)
  | .error (.trap c a) s' => .next (s'.trap c a)
  | .error .stall s' => .next s'

/-- The outcome of steps that see to the program counter themselves. -/
def runSelf (m : Exec Unit) (s : State) : Out :=
  match m s with
  | .ok _ s' => .next s'
  | .error (.trap c a) s' => .next (s'.trap c a)
  | .error .stall s' => .next s'

/-- An instruction that only reads scalar registers and changes the acting context: it waits for its sources (R88), acts
and completes. -/
def scalar (srcs : List Nat) (f : Ctx → Ctx) (s : State) : Out :=
  if srcs.any s.cur.owed then .next s
  else .next (s.modCur (fun c => (f c).retire s.hand.words))

/-- The same for an instruction that ends in a jump. -/
def scalarTo (srcs : List Nat) (f : Ctx → Ctx) (pc : Ctx → Nat) (s : State) : Out :=
  if srcs.any s.cur.owed then .next s
  else .next (s.modCur (fun c => (f c).finishAt s.hand.words (pc c)))

/-- Runs a change of the state unless it stops; an event that cannot act is retried later. -/
def event (m : Exec Unit) (s : State) : Out :=
  match m s with
  | .ok _ s' => .next s'
  | .error _ s' => .next s'

/-- Supervisor only (R71): a privileged instruction in user mode traps PRIV with TADDR 0. -/
def privileged (k : State → Out) (s : State) : Out := if s.cur.sup then k s else .next (s.trap causePRIV 0)
/-! ## Error counters and reports -/

/-- Counts in an error counter of R291, which saturates. -/
def State.countError (s : State) (i n : Nat) : State :=
  { s with plat := { s.plat with errors := Map.set 0 s.plat.errors i (min (Map.get 0 s.plat.errors i + n) (2 ^ 32 - 1)) } }
/-- A report to the fabric manager in class S: what (a number of the model) and about what. -/
def State.report (s : State) (what about : Nat) : State :=
  { s with plat := { s.plat with reports := s.plat.reports ++ [(what, about)] } }

/-! ## Monitors (R293, R294) -/

/-- The fields of a monitor's control word. -/
def monEn (w : Word) : Bool := w.getLsbD 63
def monSrc (w : Word) : Nat := bitsOf w.toNat 55 48
def monUnit (w : Word) : Nat := bitsOf w.toNat 39 32

/-- The bin of a sample. -/
def binOf (x : Nat) : Nat := if x = 0 then 0 else min (Nat.log2 x + 1) 31
/-- A 32-bit count that saturates. -/
def satUp (n : Nat) : Nat := min (n + 1) (2 ^ 32 - 1)

/-- A running monitor takes a sample. -/
def Monitor.sample (m : Monitor) (x : Nat) : Monitor :=
  if monEn m.control then
    { m with bins := Map.set 0 m.bins (binOf x) (satUp (Map.get 0 m.bins (binOf x)))
             min := if m.total = 0 then x else Min.min m.min x, max := Max.max m.max x, total := satUp m.total }
  else m

/-- Every monitor of a source and unit takes a sample. -/
def State.observe (s : State) (src unit x : Nat) : State :=
  { s with plat := { s.plat with monitors := s.plat.monitors.map (fun e =>
      (e.1, if monSrc e.2.control = src ∧ monUnit e.2.control = unit then e.2.sample x else e.2)) } }

/-! ## Wait counters -/

/-- Adds to wait counter C1 or C2 of a context; any other number counts nothing. -/
def Ctx.addCount (c : Ctx) (which : Nat) (up : Bool) : Ctx :=
  let g := fun n => if up then n + 1 else n - 1
  if which = 1 then { c with flow := { c.flow with c1 := g c.flow.c1 } }
  else if which = 2 then { c with flow := { c.flow with c2 := g c.flow.c2 } } else c

/-- Wait counter C3 of a task (R123). -/
def State.c3of (s : State) (tid : Nat) : Nat := Map.get 0 s.c3 tid
def State.setC3 (s : State) (tid n : Nat) : State := { s with c3 := Map.set 0 s.c3 tid n }

/-- The task number of a context; 0 where it holds none. -/
def Ctx.tid (c : Ctx) : Nat := match c.task with | some t => t.tid | none => 0

end Sys2Proof.Machine
end

