-- ==== Sys2Proof/Machine/Address.lean ====
section
/-! DEFINITION. Fabric addresses: spaces (R119), plat resolution (R266, R267), parcels (R279, R280), homes (R121, R297),
lease lengths (R134) and the accesses that the cube refuses (R120, R288). -/

namespace Sys2Proof.Machine

/-! ## Parcels -/

/-- The parcels of a cube that this cube knows. -/
def State.parcelsOf (s : State) (cube : Nat) : List Parcel :=
  if cube = s.cube then s.tables.parcels else (s.tables.peers.filter (fun e => e.1 == cube)).map (fun e => e.2)

/-- Whether a child parcel of `p` has been lent a unit (R280). -/
def lentFrom (ps : List Parcel) (p : Parcel) (mask : Parcel → Nat) (n : Nat) : Bool :=
  ps.any (fun c => c.parent == p.ptag && c.ptag != p.ptag && bitAt (mask c) n)

/-- The parcel that holds, and so serves, a station. -/
def holderOfStn (ps : List Parcel) (n : Nat) : Option Parcel :=
  ps.find? (fun p => bitAt p.smask n && !lentFrom ps p (fun c => c.smask) n)
/-- The parcel that holds a vault. -/
def holderOfVault (ps : List Parcel) (n : Nat) : Option Parcel :=
  ps.find? (fun p => bitAt p.vmask n && !lentFrom ps p (fun c => c.vmask) n)

/-- The physical station of a logical number, through the maps of the parents (R280). -/
def physStn (ps : List Parcel) : Nat → Parcel → Nat → Nat
  | 0, p, l => p.lmap.getD l 0
  | k + 1, p, l =>
    match ps.find? (fun q => q.ptag == p.parent && p.parent != 0) with
    | some q => physStn ps k q (p.lmap.getD l 0)
    | none => p.lmap.getD l 0

/-- The stations that a parcel itself serves, by ascending logical number. -/
def servedStns (ps : List Parcel) (p : Parcel) : List Nat :=
  ((List.range p.lmap.length).map (physStn ps ps.length p)).filter (fun n => !lentFrom ps p (fun c => c.smask) n)

/-- The logical number of a station in a parcel. -/
def logicalOf (ps : List Parcel) (p : Parcel) (n : Nat) : Nat :=
  ((List.range p.lmap.length).find? (fun l => physStn ps ps.length p l == n)).getD 0

/-- The parcel of a station of this cube. -/
def State.parcelAt (s : State) (n : Nat) : Option Parcel := holderOfStn s.tables.parcels n
/-- The parcel tag of a station of this cube; 0 in no parcel. -/
def State.ptagAt (s : State) (n : Nat) : Nat := match s.parcelAt n with | some p => p.ptag | none => 0
/-- The parcel with a tag on this cube. -/
def State.parcelOf (s : State) (ptag : Nat) : Option Parcel := s.tables.parcels.find? (fun p => p.ptag == ptag)
/-- The tenant of a parcel tag, wherever the parcel is. -/
def State.tenantOf (s : State) (ptag : Nat) : Option Nat :=
  ((s.tables.parcels ++ s.tables.peers.map (fun e => e.2)).find? (fun p => p.ptag == ptag)).map (fun p => p.tenant)
/-- The tenant of a station of this cube. -/
def State.tenantAt (s : State) (n : Nat) : Option Nat := (s.parcelAt n).map (fun p => p.tenant)
/-- Whether some parcel of a tenant holds a station of a cube (R163). -/
def State.tenantHoldsStn (s : State) (tenant : Option Nat) (cube n : Nat) : Bool :=
  match holderOfStn (s.parcelsOf cube) n with | some p => some p.tenant == tenant | none => false

/-! ## The fabric address space -/

/-- The first fabric address of the vault-linear and stash-linear half. -/
def faHigh : Nat := 2 ^ 55
/-- The fabric address of a vault-linear offset of a cube (R67). -/
def vaultFa (cube off : Nat) : Nat := faHigh + cube * 2 ^ 43 + off
/-- The fabric address of a stash byte (R119). -/
def stashFa (cube stn off : Nat) : Nat := faHigh + cube * 2 ^ 43 + 2 ^ 40 + stn * 2 ^ 22 + off
/-- Whether a fabric address is vault-linear, stash-linear. -/
def isVaultFa (fa : Nat) : Bool := bitAt fa 55 && bitsOf fa 42 38 == 0
def isStashFa (fa : Nat) : Bool := bitAt fa 55 && bitsOf fa 42 38 == 4 && bitsOf fa 37 28 == 0
/-- The first byte of a stash that holds the ready store (R120). -/
def readyStore : Nat := 0x3C0000

/-! ## Plat regions -/

def rdw (e : List Word) (i : Nat) : Nat := (e.getD i 0).toNat

/-- A region entry's fields (R266). -/
structure Layout where
  valid : Bool
  base : Nat
  size : Nat
  gran : Nat
  guard : Nat
  state : Nat
  cstart : Nat
  ccount : Nat
  lost : Nat
  vmask : Nat
  copyLease : Nat
  repLease : Nat
  voff : Nat
  hasOld : Bool
  oldIx : Nat
deriving DecidableEq, Repr

def layoutOf (e : List Word) : Layout :=
  { valid := bitAt (rdw e 0) 63, base := bitsOf (rdw e 0) 54 21 * 2 ^ 21, size := bitsOf (rdw e 1) 54 21 * 2 ^ 21
    gran := bitsOf (rdw e 2) 47 43, guard := bitsOf (rdw e 2) 42 41, state := bitsOf (rdw e 2) 40 39
    cstart := bitsOf (rdw e 2) 36 25, ccount := bitsOf (rdw e 2) 24 12, lost := bitsOf (rdw e 2) 11 0, vmask := rdw e 3
    copyLease := bitsOf (rdw e 4) 39 20, repLease := bitsOf (rdw e 4) 19 0, voff := bitsOf (rdw e 5) 31 0
    hasOld := bitAt (rdw e 6) 8, oldIx := bitsOf (rdw e 6) 7 0 }

/-- A region entry at reset (R266): not valid, with the default leases. -/
def regionReset : List Word := [0, 0, 0, 0, w64 (2000 * 2 ^ 20 + 1000000), 0, 0, 0]
/-- A region entry of the table. -/
def regionEntry (t : Tables) (ix : Nat) : List Word := Map.get regionReset t.regions ix

/-- The members of a guard group beyond its parity. -/
def guardK (g : Nat) : Nat := if g = 1 then 4 else 8

/-- R266: the reserved fields of an entry are zero. -/
def entryReservedOk (e : List Word) : Bool :=
  bitsOf (rdw e 0) 62 55 == 0 && bitsOf (rdw e 0) 20 0 == 0 && bitsOf (rdw e 1) 63 55 == 0 && bitsOf (rdw e 1) 20 0 == 0 &&
  bitsOf (rdw e 2) 38 37 == 0 && bitsOf (rdw e 4) 63 40 == 0 && bitsOf (rdw e 5) 63 32 == 0 && bitsOf (rdw e 6) 63 9 == 0 &&
  rdw e 7 == 0

/-- R266: malformed but for its old layout. -/
def entryMalformed (t : Tables) (e : List Word) : Bool :=
  let l := layoutOf e
  !entryReservedOk e || l.size == 0 || decide (l.gran < 8) || decide (30 < l.gran) || l.voff % 2 ^ l.gran != 0 || l.vmask == 0 ||
  l.ccount == 0 || decide (4096 < l.cstart + l.ccount) ||
  (List.range l.ccount).any (fun i => decide (4096 ≤ Map.get 0 t.cubes (l.cstart + i))) ||
  ((l.guard == 1 || l.guard == 2) && l.ccount % (guardK l.guard + 1) != 0) || (l.guard == 3 && decide (l.ccount < 2))

/-- A malformed entry (R266). -/
def regionMalformed (t : Tables) (e : List Word) : Bool :=
  let l := layoutOf e
  entryMalformed t e ||
  (l.state == 1 && l.hasOld &&
    (let o := regionEntry t l.oldIx
     !(layoutOf o).valid || (layoutOf o).state != 3 || entryMalformed t o))

/-- The lowest-numbered entry that contains an address (R266, R267). -/
def regionFor (t : Tables) (fa : Nat) : Option (List Word) :=
  (t.regions.find? (fun x =>
    let l := layoutOf x.2
    l.valid && l.state != 3 && decide (l.base ≤ fa ∧ fa < l.base + l.size))).map (fun x => x.2)

/-- The vaults set in a mask, ascending. -/
def vaultsOf (mask : Nat) : List Nat := (List.range 64).filter (fun i => bitAt mask i)

/-- A row of a layout at a position: cube, vault, byte. -/
def rowAt (t : Tables) (l : Layout) (pos u within : Nat) : Nat × Nat × Nat :=
  let vs := vaultsOf l.vmask
  (Map.get 0 t.cubes (l.cstart + pos) % 4096, vs.getD (u % vs.length) 0, l.voff + u / vs.length * 2 ^ l.gran + within)

/-- The place of a stripe in a layout: its position and row. -/
def posOf (l : Layout) (t : Nat) : Nat × Nat :=
  if l.guard = 0 then (t % l.ccount, t / l.ccount)
  else if l.guard = 3 then (t % l.ccount, 2 * (t / l.ccount))
  else
    let k := guardK l.guard
    let q := l.ccount / (k + 1)
    let grp := t / k
    let set := grp % q
    let u := grp / q
    (set * (k + 1) + (u % (k + 1) + 1 + t % k) % (k + 1), u)

/-- The layout in force for an entry (R267). -/
def layoutInForce (t : Tables) (e : List Word) : Layout :=
  let l := layoutOf e
  if l.state = 1 ∧ l.hasOld then layoutOf (regionEntry t l.oldIx) else l

/-- The layout in force for an address of an entry: the new one for a stripe that has been copied (R269). -/
def layoutAt (t : Tables) (e : List Word) (fa : Nat) : Layout :=
  if t.moved.any (fun m => decide (m.1 ≤ fa ∧ fa < m.1 + m.2)) then layoutOf e else layoutInForce t e

/-- R267: cube, vault and vault-linear byte of a plat-interleaved address; none where it traps PLAT. -/
def platResolve (t : Tables) (fa : Nat) : Option (Nat × Nat × Nat) :=
  match regionFor t fa with
  | none => none
  | some e =>
    if regionMalformed t e then none
    else
      let l := layoutAt t e fa
      let off := fa - (layoutOf e).base
      let p := posOf l (off / 2 ^ l.gran)
      some (rowAt t l p.1 p.2 (off % 2 ^ l.gran))

/-- The place that guards an address, if its region is guarded: cube, vault and byte of the mirror copy or the parity,
and whether it is parity (R267, R273). -/
def guardPlace (t : Tables) (fa : Nat) : Option (Nat × Nat × Nat × Bool) :=
  if bitAt fa 55 then none
  else match regionFor t fa with
  | none => none
  | some e =>
    let l := layoutAt t e fa
    if regionMalformed t e || l.guard == 0 then none
    else
      let off := fa - (layoutOf e).base
      let p := posOf l (off / 2 ^ l.gran)
      let within := off % 2 ^ l.gran
      if l.guard = 3 then
        let r := rowAt t l ((p.1 + 1) % l.ccount) (p.2 + 1) within
        some (r.1, r.2.1, r.2.2, false)
      else
        let k := guardK l.guard
        let r := rowAt t l (p.1 / (k + 1) * (k + 1) + p.2 % (k + 1)) p.2 within
        some (r.1, r.2.1, r.2.2, true)

/-- The lease lengths of an address: copy and replica (R134). -/
def State.leases (s : State) (fa : Nat) : Nat × Nat :=
  if bitAt fa 55 then (s.tables.copyLease, s.tables.repLease)
  else match regionFor s.tables fa with
  | some e => ((layoutOf e).copyLease, (layoutOf e).repLease)
  | none => (s.tables.copyLease, s.tables.repLease)

/-! ## Homes -/

/-- Where an address lives: the cube and station of its home, whether that is a stash, the canonical address of its byte
(vault-linear or stash-linear), and the parcel tag of the home. -/
structure Place where
  cube : Nat
  stn : Nat
  stash : Bool
  canon : Nat
  ptag : Nat
deriving DecidableEq, Repr

/-- The hash of R121 over region numbers. -/
def homeHash (fa : Nat) : Nat :=
  let x := fa / 2048
  Nat.xor (Nat.xor (bitsOf x 15 0) (bitsOf x 31 16)) (bitsOf x 44 32)

/-- The DRAM of an address: cube, vault and byte; none outside vault-linear space and the plat. -/
def State.dramOf (s : State) (fa : Nat) : Option (Nat × Nat × Nat) :=
  if bitAt fa 55 then (if isVaultFa fa then some (bitsOf fa 54 43, bitsOf fa 37 32, bitsOf fa 31 0) else none)
  else platResolve s.tables fa

/-- Whether an address lies in a kernel area (R288). -/
def State.inKernelArea (s : State) (fa : Nat) : Bool :=
  !isStashFa fa && (match s.dramOf fa with | some d => decide (0xFFF00000 ≤ d.2.2) | none => false)

/-- R121, R297: the home of an address, or the cause that an access to it traps with. Kernel-area bytes of a vault that
no parcel holds are homed under their vault (log entry 10). -/
def State.placeIn (s : State) (fa : Nat) : Except Nat Place :=
  if isStashFa fa then
    let cube := bitsOf fa 54 43
    let n := bitsOf fa 27 22
    match holderOfStn (s.parcelsOf cube) n with
    | some p => .ok ⟨cube, n, true, fa, p.ptag⟩
    | none => .error causePROT
  else match s.dramOf fa with
  | none => .error causePLAT
  | some (cube, vault, byte) =>
    let canon := vaultFa cube (vault * 2 ^ 32 + byte)
    let ps := s.parcelsOf cube
    match holderOfVault ps vault with
    | none => if 0xFFF00000 ≤ byte then .ok ⟨cube, vault, false, canon, 0⟩ else .error causePROT
    | some p =>
      let here : Bool := match holderOfStn ps vault with | some q => q.ptag == p.ptag | none => false
      if bitAt fa 55 && here then .ok ⟨cube, vault, false, canon, p.ptag⟩
      else
        let ss := servedStns ps p
        if ss.isEmpty then .error causePROT else .ok ⟨cube, ss.getD (homeHash fa % ss.length) 0, false, canon, p.ptag⟩

/-- The tables as they will stand after the resizes under way (R281). -/
def State.resized (s : State) : State :=
  { s with tables := { s.tables with parcels := s.tables.parcels.map (fun p =>
      (s.tables.newMaps.find? (fun q => q.ptag == p.ptag)).getD p) } }
/-- Whether a station is leaving its parcel, which drains (R281). -/
def State.leaving (s : State) (n : Nat) : Bool :=
  match s.parcelAt n with
  | some p => p.resize == .draining && s.resized.ptagAt n != p.ptag
  | none => false
/-- R121, R281: the home of an address. The slice of a station that is leaving forwards what reaches it to the new home. -/
def State.place (s : State) (fa : Nat) : Except Nat Place :=
  match s.placeIn fa with
  | .ok p => if !s.tables.newMaps.isEmpty && p.cube == s.cube && !p.stash && s.leaving p.stn then s.resized.placeIn fa else .ok p
  | .error c => .error c

/-- Whether an address lies in a stripe that is being copied to a new home (R270). -/
def State.copyingAt (s : State) (fa : Nat) : Bool := s.tables.copying.any (fun m => decide (m.1 ≤ fa ∧ fa < m.1 + m.2))
/-- Whether a resize under way changes the home of an address (R281). -/
def State.homeMoves (s : State) (fa : Nat) : Bool :=
  !s.tables.newMaps.isEmpty && (match s.place fa, s.resized.place fa with
    | .ok p, .ok q => decide (p.stn ≠ q.stn)
    | .ok _, .error _ => true
    | .error _, _ => false)

/-- Whether bytes of a stash of this cube lie in a stash window (R161). -/
def State.inWindow (s : State) (n off : Nat) : Bool :=
  (s.stn n).slice.windows.any (fun w => decide (w.stash ≤ off ∧ off < w.stash + w.len))

/-- Who asks for an access: station, supervisor mode, and whether kernel-area bytes are open to it (R288). -/
structure Asker where
  stn : Nat
  sup : Bool
  kern : Bool
deriving DecidableEq, Repr

/-- The home of an address, for a tenant, a mode and an access to kernel areas that R120, R161 and R288 let reach it;
otherwise the cause. -/
def State.reachAs (s : State) (tenant : Option Nat) (sup kern : Bool) (fa : Nat) : Except Nat Place :=
  match s.place fa with
  | .error c => .error c
  | .ok p =>
    if s.inKernelArea fa then (if kern then .ok p else .error causePROT)
    else if s.tenantOf p.ptag ≠ tenant ∨ tenant = none then .error causePROT
    else if p.stash ∧ readyStore ≤ fa % 2 ^ 22 ∧ !sup then .error causePROT
    else if p.stash ∧ p.cube = s.cube ∧ s.inWindow p.stn (fa % 2 ^ 22) then .error causePROT
    else .ok p

/-- The home of an address, for an asker that may reach it; otherwise the cause. -/
def State.reach (s : State) (k : Asker) (fa : Nat) : Except Nat Place := s.reachAs (s.tenantAt k.stn) k.sup k.kern fa

/-- The tenant for which an engine acts: a bank engine for the one whose parcel holds its vault, another for that of its
station. -/
def State.engTenant (s : State) (stn : Nat) (bank : Bool) : Option Nat :=
  if bank then (holderOfVault s.tables.parcels stn).map (fun p => p.tenant) else s.tenantAt stn

/-- Whether a place is this cube's. -/
def State.onCube (s : State) (p : Place) : Bool := p.cube == s.cube
/-- Whether a place is a station's own slice or stash (R123). -/
def State.isLocal (s : State) (n : Nat) (p : Place) : Bool := p.cube == s.cube && p.stn == n
/-- The wait counter that a posted operation is counted in: 0 at home, C1 on this cube, C2 elsewhere (R123). -/
def State.counterFor (s : State) (n : Nat) (p : Place) : Nat :=
  if s.isLocal n p then 0 else if s.onCube p then 1 else 2

end Sys2Proof.Machine
end

