-- ==== Sys2Proof/Machine/Operands.lean ====
section
/-! DEFINITION. Operand forms of the scalar instructions: a C operand of kind X (R87), effective addresses (R148), branch
and jump targets (R95, R96). -/

namespace Sys2Proof.Machine

/-- The value of a C operand of kind X: gC, or the immediate (R62, R87). -/
def Ctx.xval (c : Ctx) : XOp → Word
  | .reg r => c.readG r
  | .imm v => wInt v

/-- The registers that a C operand of kind X reads. -/
def xRegs : XOp → List Nat
  | .reg r => [r]
  | .imm _ => []

/-- R148: the effective address [gB + gC × scale] or [gB + imm], modulo 2^64. -/
def Ctx.ea (c : Ctx) (b : Nat) (x : XOp) (scale : Nat) : Word :=
  match x with
  | .reg r => c.readG b + c.readG r * w64 scale
  | .imm v => c.readG b + wInt v

/-- R95, R96: the address of the first word plus twice the offset, modulo 2^48. -/
def relTarget (pc : Nat) (off : Int) : Nat := (((pc : Int) + 2 * off) % 2 ^ 48).toNat

/-- The address of the word after the instruction in hand. -/
def State.nextOf (s : State) : Nat := nextPc s.cur.pc s.hand.words

/-- The address of the base word of the instruction in hand: reported for an illegal operand value (R70). -/
def State.baseAddr (s : State) : Nat := s.cur.pc + 2 * (s.hand.words - 1)

/-- R70: an operand value outside a limit for which the instruction's description names ILL. -/
def Exec.ill {α : Type} : Exec α := do Exec.trap causeILL (← get).baseAddr

/-- Supervisor only, with a register value that the description holds to a limit under ILL: R71 puts ILL, its register case
included, before PRIV, so in user mode the sources are waited for and `ok` decides which of the two is taken. -/
def privilegedBy (srcs : List Nat) (ok : Ctx → Bool) (k : State → Out) (s : State) : Out :=
  if s.cur.sup then k s
  else if srcs.any s.cur.owed then .next s
  else .next (s.trap (if ok s.cur then causePRIV else causeILL) (if ok s.cur then 0 else w64 s.baseAddr))

/-- The exact value of a 64-bit operand, read as unsigned or signed. -/
def valOf (uns : Bool) (w : Word) : Int := if uns then (w.toNat : Int) else w.toInt

/-- R90: an exact result modulo 2^64, or clamped to the range of its page. -/
def satWord (uns sat : Bool) (x : Int) : Word :=
  if sat then
    (if uns then wInt (max 0 (min x (2 ^ 64 - 1))) else wInt (max (-(2 ^ 63)) (min x (2 ^ 63 - 1))))
  else wInt x

end Sys2Proof.Machine
end

