-- ==== Sys2Proof/Machine/Csr.lean ====
section
/-! DEFINITION. Control registers (R79, R80, R103, R104). -/

namespace Sys2Proof.Machine

/-- Whether a vector instruction of a context waits or works in its core's queue (R51). -/
def State.vecPending (s : State) (l : Loc) : Bool :=
  (Map.get [] (s.stn l.stn).vec.queues l.core).any (fun e => e.at_ == l) || (s.stn l.stn).vec.pipe.any (fun e => e.at_ == l)

/-- Numbers `0x040` to `0x07F` are supervisor only (R79). -/
def csrPriv (num : Nat) : Bool := decide (0x40 ≤ num ∧ num < 0x80)
/-- The registers whose accesses wait for earlier vector instructions (R51). -/
def csrFloat (num : Nat) : Bool := decide (num < 3)

/-- The value of a control register, read by a context (R80). -/
def State.readCsr (s : State) (l : Loc) (num : Nat) : Word :=
  let c := s.ctx l
  match num with
  | 0x000 => w64 c.csr.fflags
  | 0x001 => w64 c.csr.ftrapen
  | 0x002 => c.csr.rndseed
  | 0x003 => w64 c.csr.vl
  | 0x004 => w64 s.datum
  | 0x005 => w64 l.stn
  | 0x006 => w64 l.core
  | 0x007 => w64 l.ctx
  | 0x008 => match c.task with | some r => w64 (stashFa s.cube l.stn (readyStore + 64 * r.slot)) | none => 0
  | 0x009 => c.csr.deadln
  | 0x00A => w64 c.csr.budget
  | 0x00B =>
    match s.parcelAt l.stn with
    | some p => w64 (s.cube * 2 ^ 32 + p.ptag * 2 ^ 16 + logicalOf s.tables.parcels p l.stn)
    | none => w64 (s.cube * 2 ^ 32)
  | 0x00C => if c.csr.latedrop then 1 else 0
  | 0x040 => w64 (s.stn l.stn).kernel.tvec
  | 0x041 => w64 c.csr.tcause
  | 0x042 => c.csr.taddr
  | 0x043 => w64 c.csr.tpc
  | 0x044 => w64 (c.csr.iwords * 256 + (if c.csr.taie then 2 else 0) + (if c.csr.pmode then 1 else 0))
  | 0x045 => (s.stn l.stn).vec.vweight
  | _ => 0

/-- R80: a write of VL stores values above 256 as 256. -/
def Ctx.writeVl (c : Ctx) (v : Word) : Ctx := { c with csr := { c.csr with vl := if v.toNat ≤ 256 then v.toNat else 256 } }
/-- R104: a user write of BUDGET stores the smaller of the value and LEFT, a LEFT of 0 counting as unlimited unless the
budget has just run out; a supervisor write stores the value. -/
def Ctx.writeBudget (c : Ctx) (v : Word) : Ctx :=
  let n := v.toNat % 2 ^ 32
  let new := if c.sup then n
    else if c.csr.budget = 0 then (if c.flow.bpend then 0 else n)
    else if n = 0 then c.csr.budget else min n c.csr.budget
  { c with csr := { c.csr with budget := new } }
def Ctx.writeDeadln (c : Ctx) (v : Word) : Ctx := { c with csr := { c.csr with deadln := v } }
def Ctx.writeTflags (c : Ctx) (v : Word) : Ctx := { c with csr := { c.csr with latedrop := v.getLsbD 0 } }
def Ctx.writeFflags (c : Ctx) (v : Word) : Ctx := { c with csr := { c.csr with fflags := v.toNat % 32 } }
def Ctx.writeFtrapen (c : Ctx) (v : Word) : Ctx := { c with csr := { c.csr with ftrapen := v.toNat % 32 } }
def Ctx.writeRndseed (c : Ctx) (v : Word) : Ctx := { c with csr := { c.csr with rndseed := v } }
/-- R80: TPC [47:1]; R170: a kernel write to TPC resets the resume position. -/
def Ctx.writeTpc (c : Ctx) (v : Word) : Ctx :=
  { c with csr := { c.csr with tpc := bitsOf v.toNat 47 1 * 2, resume := 0 } }
def Ctx.writeTcause (c : Ctx) (v : Word) : Ctx := { c with csr := { c.csr with tcause := v.toNat % 256 } }
def Ctx.writeTaddr (c : Ctx) (v : Word) : Ctx := { c with csr := { c.csr with taddr := v } }
def Ctx.writeTstat (c : Ctx) (v : Word) : Ctx :=
  { c with csr := { c.csr with iwords := bitsOf v.toNat 11 8, taie := v.getLsbD 1, pmode := v.getLsbD 0 } }
/-- R80: a weight written 0 stores 1. -/
def fixWeights (v : Word) : Word :=
  w64 ((List.range 8).foldl (fun a i => let b := bitsOf v.toNat (8 * i + 7) (8 * i); a + (if b = 0 then 1 else b) * 2 ^ (8 * i)) 0)
def State.writeVweight (s : State) (stn : Nat) (v : Word) : State := s.modVec stn (fun x => { x with vweight := fixWeights v })
def State.writeTvec (s : State) (stn : Nat) (v : Word) : State :=
  s.modStn stn (fun t => { t with kernel := { t.kernel with tvec := bitsOf v.toNat 47 1 * 2 } })

/-- A write of a control register by a context; read-only registers ignore it (R8, R80). -/
def State.writeCsr (s : State) (l : Loc) (num : Nat) (v : Word) : State :=
  match num with
  | 0x000 => s.modCtx l (fun c => c.writeFflags v)
  | 0x001 => s.modCtx l (fun c => c.writeFtrapen v)
  | 0x002 => s.modCtx l (fun c => c.writeRndseed v)
  | 0x003 => s.modCtx l (fun c => c.writeVl v)
  | 0x009 => s.modCtx l (fun c => c.writeDeadln v)
  | 0x00A => s.modCtx l (fun c => c.writeBudget v)
  | 0x00C => s.modCtx l (fun c => c.writeTflags v)
  | 0x040 => s.writeTvec l.stn v
  | 0x041 => s.modCtx l (fun c => c.writeTcause v)
  | 0x042 => s.modCtx l (fun c => c.writeTaddr v)
  | 0x043 => s.modCtx l (fun c => c.writeTpc v)
  | 0x044 => s.modCtx l (fun c => c.writeTstat v)
  | 0x045 => s.writeVweight l.stn v
  | _ => s

/-- An access of a control register (R71, R79, R51): unassigned numbers trap ILL, supervisor numbers PRIV in user mode;
an access of FFLAGS, FTRAPEN or RNDSEED waits for earlier vector instructions. What is read is read before the
instruction's own issue cycles are counted, and what is written is written after (R104, log entry 11). -/
def csrAccess (num : Nat) (srcs : List Nat) (k : Loc → State → State) (s : State) : Out :=
  let l := s.hand.at_
  if !csrAssigned num then .next (s.trap causeILL (w64 s.baseAddr))
  else if csrPriv num && !s.cur.sup then .next (s.trap causePRIV 0)
  else if (csrFloat num && s.vecPending l) || srcs.any s.cur.owed then .next s
  else .next (k l s.retire)

def execCsrr (num a : Nat) (s : State) : Out :=
  csrAccess num [] (fun l t => t.modCtx l (fun c => c.writeG a (s.readCsr l num))) s
def execCsrw (num a : Nat) (s : State) : Out :=
  csrAccess num [a] (fun l t => t.writeCsr l num ((s.ctx l).readG a)) s
def execCsrs (num a : Nat) (s : State) : Out :=
  csrAccess num [a] (fun l t => t.writeCsr l num (s.readCsr l num ||| (s.ctx l).readG a)) s
def execCsrc (num a : Nat) (s : State) : Out :=
  csrAccess num [a] (fun l t => t.writeCsr l num (s.readCsr l num &&& ~~~(s.ctx l).readG a)) s

/-! ## The steps of an access that have rows of their own

The access in hand is `Msg.csr`: how the register changes, and the source register's value. -/

/-- The value that an access stores, from the register's value. -/
def csrNew (op : CsrOp) (old v : Word) : Word :=
  match op with
  | .read => old
  | .write => v
  | .setBits => old ||| v
  | .clearBits => old &&& ~~~v

/-- One register's step: it is written, unless it is only read. -/
def csrStep (num : Nat) (s : State) : Out :=
  match s.hand.msg with
  | .csr .read _ => .next s
  | .csr op v => .next (s.writeCsr s.hand.at_ num (csrNew op (s.readCsr s.hand.at_ num) v))
  | _ => .next s
/-- A step that waits for every earlier vector instruction (R51). -/
def csrStepFloat (num : Nat) (s : State) : Out := if s.vecPending s.hand.at_ then .next s else csrStep num s

def execVl (s : State) : Out := csrStep 0x003 s
def execBudget (s : State) : Out := csrStep 0x00A s
def execDeadln (s : State) : Out := csrStep 0x009 s
def execTflags (s : State) : Out := csrStep 0x00C s
def execVweight (s : State) : Out := privileged (csrStep 0x045) s
def execFflags (s : State) : Out := csrStepFloat 0x000 s
def execFtrapen (s : State) : Out := csrStepFloat 0x001 s
def execRndseed (s : State) : Out := csrStepFloat 0x002 s
def execTpc (s : State) : Out := privileged (csrStep 0x043) s

end Sys2Proof.Machine
end

