-- ==== Sys2Proof/Machine/Flags.lean ====
section
/-! DEFINITION. Number formats, rounding and floating-point flags (R31 to R55): exact values, one rounding function for
every format and mode, and the flags of each operation. Flags are in FFLAGS order: NV 16, DZ 8, OF 4, UF 2, NX 1. -/

namespace Sys2Proof.Machine

def flNX : Nat := 1
def flUF : Nat := 2
def flOF : Nat := 4
def flDZ : Nat := 8
def flNV : Nat := 16

/-! ## Formats (R31) -/

/-- The floating-point formats. -/
inductive Fmt where
  | f32 | f16 | bf16 | e4m3 | e5m2 | e2m1 | e3m5
deriving DecidableEq, Repr

/-- Width, exponent bits, fraction bits and bias. -/
def Fmt.width : Fmt → Nat
  | .f32 => 32 | .f16 => 16 | .bf16 => 16 | .e4m3 => 8 | .e5m2 => 8 | .e2m1 => 4 | .e3m5 => 8
def Fmt.ebits : Fmt → Nat
  | .f32 => 8 | .f16 => 5 | .bf16 => 8 | .e4m3 => 4 | .e5m2 => 5 | .e2m1 => 2 | .e3m5 => 3
def Fmt.fbits : Fmt → Nat
  | .f32 => 23 | .f16 => 10 | .bf16 => 7 | .e4m3 => 3 | .e5m2 => 2 | .e2m1 => 1 | .e3m5 => 5
def Fmt.bias : Fmt → Nat
  | .f32 => 127 | .f16 => 15 | .bf16 => 127 | .e4m3 => 7 | .e5m2 => 15 | .e2m1 => 1 | .e3m5 => 3
/-- Formats with the infinities and NaNs of binary32. -/
def Fmt.ieee : Fmt → Bool
  | .f32 | .f16 | .bf16 | .e5m2 => true
  | _ => false
/-- The code of the largest finite magnitude. -/
def Fmt.maxCode : Fmt → Nat
  | .f32 => 0x7F7FFFFF | .f16 => 0x7BFF | .bf16 => 0x7F7F | .e4m3 => 0x7E | .e5m2 => 0x7B | .e2m1 => 0x7 | .e3m5 => 0xFE
/-- The code of positive infinity in a format that has one. -/
def Fmt.infCode (f : Fmt) : Nat := (2 ^ f.ebits - 1) * 2 ^ f.fbits
/-- The canonical NaN (R33); 0 for E2M1, which has none. -/
def Fmt.nanCode : Fmt → Nat
  | .f32 => 0x7FC00000 | .f16 => 0x7E00 | .bf16 => 0x7FC0 | .e4m3 => 0x7F | .e5m2 => 0x7E | .e2m1 => 0 | .e3m5 => 0xFF
/-- The sign bit's weight; none in E3M5. -/
def Fmt.signBit (f : Fmt) : Nat := if f = .e3m5 then 0 else 2 ^ (f.width - 1)
/-- The code with a sign. -/
def Fmt.withSign (f : Fmt) (neg : Bool) (mag : Nat) : Nat := if neg then mag + f.signBit else mag

/-! ## Exact values -/

/-- A decoded value (R32): a NaN with whether it is signalling, an infinity, or (−1)^neg × m × 2^e. -/
inductive FV where
  | nan (snan : Bool)
  | inf (neg : Bool)
  | fin (neg : Bool) (m : Nat) (e : Int)
deriving DecidableEq, Repr

/-- The value of a code (R31 to R33). -/
def decodeF (f : Fmt) (code : Nat) : FV :=
  let neg := f.signBit != 0 && bitAt code (f.width - 1)
  let e := code / 2 ^ f.fbits % 2 ^ f.ebits
  let m := code % 2 ^ f.fbits
  if f.ieee && e == 2 ^ f.ebits - 1 then
    (if m = 0 then .inf neg else .nan (!bitAt m (f.fbits - 1)))
  else if (f = .e4m3 && e == 15 && m == 7) || (f = .e3m5 && code % 256 == 0xFF) then .nan false
  else if e = 0 then .fin neg m (1 - (f.bias : Int) - f.fbits)
  else .fin neg (2 ^ f.fbits + m) ((e : Int) - f.bias - f.fbits)

/-- A positive magnitude: n / d × 2^e, or √n × 2^e. -/
inductive Mag where
  | rat (n d : Nat) (e : Int)
  | root (n : Nat) (e : Int)
deriving DecidableEq, Repr

/-- The integer square root, by bits from the highest. -/
def isqrtLoop (n : Nat) : Nat → Nat → Nat
  | 0, r => r
  | k + 1, r => let t := r + 2 ^ k; isqrtLoop n k (if t * t ≤ n then t else r)
def isqrt (n : Nat) : Nat := isqrtLoop n (Nat.log2 n / 2 + 1) 0

/-- x / 2^q rounded down, and whether that is exact. -/
def Mag.floorAt (x : Mag) (q : Int) : Nat × Bool :=
  match x with
  | .rat n d e =>
    let a := if q ≤ e then n * 2 ^ (e - q).toNat else n
    let b := if q ≤ e then d else d * 2 ^ (q - e).toNat
    (a / b, a % b == 0)
  | .root n e =>
    if q ≤ e then
      let y := n * 2 ^ (2 * (e - q).toNat)
      (isqrt y, isqrt y * isqrt y == y)
    else
      let k := 2 ^ (2 * (q - e).toNat)
      let y := n / k
      (isqrt y, n % k == 0 && isqrt y * isqrt y == y)

/-- The exponent of the leading bit: 2^L ≤ x < 2^(L + 1). -/
def Mag.lead (x : Mag) : Int :=
  match x with
  | .rat n d e =>
    let l : Int := (Nat.log2 n : Int) - Nat.log2 d + e
    if 1 ≤ (x.floorAt l).1 then l else l - 1
  | .root n e => (Nat.log2 n / 2 : Nat) + e

/-! ## Rounding (R40 to R42) -/

/-- The draw of R42 from an advanced state and an element position. -/
def rsDraw (seed n : Nat) : Nat :=
  let z0 := Nat.xor seed (n * 0x9E3779B97F4A7C15 % 2 ^ 64)
  let z1 := Nat.xor z0 (z0 / 2 ^ 30) * 0xBF58476D1CE4E5B9 % 2 ^ 64
  let z2 := Nat.xor z1 (z1 / 2 ^ 27) * 0x94D049BB133111EB % 2 ^ 64
  Nat.xor z2 (z2 / 2 ^ 31) / 2 ^ 32

/-- The advance of RNDSEED (R42). -/
def rsAdvance (seed : Word) : Word := seed * 0x5851F42D4C957F2D#64 + 0x14057B7EF767814F#64

/-- Rounds x to a multiple of 2^q: the multiple, whether that was exact, whether `away` was chosen. `draw` is used by
`.rs` alone. -/
def roundAt (rm : Rm) (neg : Bool) (draw : Nat) (x : Mag) (q : Int) : Nat × Bool × Bool :=
  let t := x.floorAt q
  if t.2 then (t.1, true, false)
  else
    let half := x.floorAt (q - 1)
    let up : Bool :=
      match rm with
      | .rz => false
      | .rd => neg
      | .ru => !neg
      | .ne => half.1 % 2 == 1 && (!half.2 || t.1 % 2 == 1)
      | .rs => decide (draw < (x.floorAt (q - 32)).1 % 2 ^ 32)
    (if up then t.1 + 1 else t.1, false, up)

/-- The code of T × 2^q, which lies on the format's grid and does not exceed its largest finite value. -/
def encodeF (f : Fmt) (neg : Bool) (t : Nat) (q : Int) : Nat :=
  if t < 2 ^ f.fbits then f.withSign neg t
  else
    let t' := if t = 2 ^ (f.fbits + 1) then t / 2 else t
    let q' := if t = 2 ^ (f.fbits + 1) then q + 1 else q
    f.withSign neg ((q' + f.bias + f.fbits).toNat * 2 ^ f.fbits + (t' - 2 ^ f.fbits))

/-- Whether T × 2^q exceeds the largest finite value of a format. -/
def overflowsF (f : Fmt) (t : Nat) (q : Int) : Bool :=
  match decodeF f f.maxCode with
  | .fin _ m e => if q ≤ e then decide (m * 2 ^ (e - q).toNat < t) else decide (m < t * 2 ^ (q - e).toNat)
  | _ => false

/-- R41: the result of an overflow. -/
def overflowCode (f : Fmt) (rm : Rm) (sat neg away : Bool) : Nat :=
  let toInf : Bool := match rm with
    | .ne => true | .rz => false | .rd => neg | .ru => !neg | .rs => away
  match f with
  | .e2m1 | .e3m5 => f.withSign neg f.maxCode
  | .e4m3 => if sat then f.withSign neg f.maxCode else if toInf then f.nanCode else f.withSign neg f.maxCode
  | .e5m2 => if !sat && toInf then f.withSign neg f.infCode else f.withSign neg f.maxCode
  | _ => if toInf then f.withSign neg f.infCode else f.withSign neg f.maxCode

/-- Rounds a positive magnitude with a sign into a format: code and flags (R40, R41). -/
def roundF (f : Fmt) (rm : Rm) (sat neg : Bool) (draw : Nat) (x : Mag) : Nat × Nat :=
  let l := x.lead
  let qmin : Int := 1 - (f.bias : Int) - f.fbits
  let q := max (l - f.fbits) qmin
  let r := roundAt rm neg draw x q
  if overflowsF f r.1 q then (overflowCode f rm sat neg (r.2.2 || r.2.1), flOF + flNX)
  else
    let rt := if rm = .rs then Rm.ne else rm
    let u := roundAt rt neg 0 x (l - f.fbits)
    -- the rounding to unbounded exponents is below the smallest normal value 2^(1 − bias)
    let tiny := decide (l - f.fbits + (Nat.log2 u.1 : Int) < 1 - (f.bias : Int))
    (encodeF f neg r.1 q, if r.2.1 then 0 else if tiny then flUF + flNX else flNX)

/-! ## Results -/

/-- An exact result, before rounding: a NaN, an infinity, a zero with its sign, or a signed magnitude. -/
inductive Exact where
  | nan
  | inf (neg : Bool)
  | zero (neg : Bool)
  | val (neg : Bool) (x : Mag)
deriving DecidableEq, Repr

/-- A signed dyadic number as an exact result, with the sign of a zero. -/
def Exact.ofDyadic (z : Int) (e : Int) (zeroNeg : Bool) : Exact :=
  if z = 0 then .zero zeroNeg else .val (decide (z < 0)) (.rat z.natAbs 1 e)

/-- Delivers an exact result in a format (R41, R44, R47): code and the flags of the delivery. -/
def deliver (f : Fmt) (rm : Rm) (sat : Bool) (draw : Nat) (x : Exact) : Nat × Nat :=
  match x with
  | .nan => (f.nanCode, if f = .e2m1 then flNV else 0)
  | .zero neg => (f.withSign neg 0, 0)
  | .inf neg =>
    match f with
    | .e4m3 => if sat then (f.withSign neg f.maxCode, flNX) else (f.nanCode, flNV)
    | .e5m2 => if sat then (f.withSign neg f.maxCode, flNX) else (f.withSign neg f.infCode, 0)
    | .e2m1 => (f.withSign neg f.maxCode, flNX)
    | .e3m5 => if neg then (f.nanCode, flNV) else (f.maxCode, flNX)
    | _ => (f.withSign neg f.infCode, 0)
  | .val neg m => if f = .e3m5 ∧ neg then (f.nanCode, flNV) else roundF f rm sat neg draw m

/-- A decoded value as an exact result. -/
def FV.exact : FV → Exact
  | .nan _ => .nan
  | .inf n => .inf n
  | .fin n m e => if m = 0 then .zero n else .val n (.rat m 1 e)
/-- Invalid for a signalling NaN operand (R45). -/
def FV.snanFlag : FV → Nat
  | .nan true => flNV
  | _ => 0
def FV.isNan : FV → Bool
  | .nan _ => true
  | _ => false
def FV.neg : FV → FV
  | .nan s => .nan s
  | .inf n => .inf (!n)
  | .fin n m e => .fin (!n) m e
def FV.isNeg : FV → Bool
  | .nan _ => false
  | .inf n => n
  | .fin n _ _ => n
def FV.isZero : FV → Bool
  | .fin _ 0 _ => true
  | _ => false
/-- The value as a signed integer times a power of two; zero for the special values. -/
def FV.dyadic : FV → Int × Int
  | .fin n m e => (if n then -(m : Int) else (m : Int), e)
  | _ => (0, 0)

/-- The exact sum of two dyadic numbers. -/
def addDyadic (a b : Int × Int) : Int × Int :=
  let e := min a.2 b.2
  (a.1 * 2 ^ (a.2 - e).toNat + b.1 * 2 ^ (b.2 - e).toNat, e)

/-- Flags of `fl` joined. -/
def orF (a b : Nat) : Nat := Nat.lor a b

/-- The sum of two values with the zero sign of R43. -/
def addFV (rm : Rm) (a b : FV) : Exact × Nat :=
  let sn := orF a.snanFlag b.snanFlag
  match a, b with
  | .nan _, _ => (.nan, sn)
  | _, .nan _ => (.nan, sn)
  | .inf x, .inf y => if x = y then (.inf x, sn) else (.nan, orF sn flNV)
  | .inf x, _ => (.inf x, sn)
  | _, .inf y => (.inf y, sn)
  | .fin x m _, .fin y n _ =>
    let s := addDyadic a.dyadic b.dyadic
    let zn := if m = 0 ∧ n = 0 ∧ x = y then x else decide (rm = .rd)
    (Exact.ofDyadic s.1 s.2 zn, sn)

/-- The product of two values. -/
def mulFV (a b : FV) : FV × Nat :=
  let sn := orF a.snanFlag b.snanFlag
  match a, b with
  | .nan _, _ => (.nan false, sn)
  | _, .nan _ => (.nan false, sn)
  | .inf x, .inf y => (.inf (x != y), sn)
  | .inf x, .fin y n _ => if n = 0 then (.nan false, orF sn flNV) else (.inf (x != y), sn)
  | .fin x m _, .inf y => if m = 0 then (.nan false, orF sn flNV) else (.inf (x != y), sn)
  | .fin x m e, .fin y n k => (.fin (x != y) (m * n) (e + k), sn)

/-- The quotient of two values (R45). -/
def divFV (a b : FV) : Exact × Nat :=
  let sn := orF a.snanFlag b.snanFlag
  match a, b with
  | .nan _, _ => (.nan, sn)
  | _, .nan _ => (.nan, sn)
  | .inf _, .inf _ => (.nan, orF sn flNV)
  | .inf x, .fin y _ _ => (.inf (x != y), sn)
  | .fin x _ _, .inf y => (.zero (x != y), sn)
  | .fin x m e, .fin y n k =>
    if n = 0 then (if m = 0 then (.nan, orF sn flNV) else (.inf (x != y), orF sn flDZ))
    else if m = 0 then (.zero (x != y), sn) else (.val (x != y) (.rat m n (e - k)), sn)

/-- The square root (R45). -/
def sqrtFV (a : FV) : Exact × Nat :=
  match a with
  | .nan s => (.nan, if s then flNV else 0)
  | .inf true => (.nan, flNV)
  | .inf false => (.inf false, 0)
  | .fin n m e =>
    if m = 0 then (.zero n, 0) else if n then (.nan, flNV)
    else if e % 2 = 0 then (.val false (.root m (e / 2)), 0) else (.val false (.root (2 * m) ((e - 1) / 2)), 0)

/-- b × c + a with one rounding (R43, R186). -/
def fmaFV (rm : Rm) (b c a : FV) : Exact × Nat :=
  let p := mulFV b c
  let s := addFV rm p.1 a
  (s.1, orF (orF p.2 s.2) a.snanFlag)

/-- A rounding of a result with flags of its operation: code and all flags. -/
def finishF (f : Fmt) (rm : Rm) (draw : Nat) (r : Exact × Nat) : Nat × Nat :=
  let d := deliver f rm false draw r.1
  (d.1, orF d.2 r.2)

/-! ## Comparisons and selections -/

/-- The order of two values that are not NaNs: −1, 0 or 1, with −0 equal to +0. -/
def cmpFV (a b : FV) : Int :=
  let rank : FV → Int := fun x => match x with
    | .inf true => -1 | .inf false => 1 | _ => 0
  if rank a ≠ rank b then (if rank a < rank b then -1 else 1)
  else if rank a ≠ 0 then 0
  else
    let d := addDyadic a.dyadic b.neg.dyadic
    if d.1 < 0 then -1 else if d.1 = 0 then 0 else 1

/-- Floating compares (R102, R190): 0 equal, 1 less, 2 less or equal, 3 unordered; result and flags. -/
def fcompare (op : Nat) (a b : FV) : Bool × Nat :=
  let sn := orF a.snanFlag b.snanFlag
  if a.isNan || b.isNan then (op == 3, if op = 1 ∨ op = 2 then flNV else sn)
  else (match op with
    | 0 => decide (cmpFV a b = 0)
    | 1 => decide (cmpFV a b < 0)
    | 2 => decide (cmpFV a b ≤ 0)
    | _ => false, 0)

/-- Minimum and maximum (R46) on codes of one format: −0 below +0; a signalling NaN raises invalid. -/
def fminmax (f : Fmt) (isMax numPref : Bool) (a b : Nat) : Nat × Nat :=
  let x := decodeF f a
  let y := decodeF f b
  let sn := orF x.snanFlag y.snanFlag
  if x.isNan || y.isNan then
    (if numPref && !(x.isNan && y.isNan) then (if x.isNan then b else a) else f.nanCode, sn)
  else
    let c := cmpFV x y
    let aFirst : Bool := if c = 0 then (x.isNeg || !y.isNeg) else decide (c < 0)   -- a orders at or below b
    (if isMax then (if aFirst then b else a) else (if aFirst then a else b), sn)

/-! ## Conversions (R47, R48) -/

/-- Floating to floating. -/
def cvtFF (d s : Fmt) (rm : Rm) (sat : Bool) (draw code : Nat) : Nat × Nat :=
  let x := decodeF s code
  let r := deliver d rm sat draw x.exact
  (r.1, orF r.2 x.snanFlag)

/-- Floating to an integer of `w` bits: the value and the flags. -/
def cvtFI (w : Nat) (sgn : Bool) (s : Fmt) (rm : Rm) (draw code : Nat) : Int × Nat :=
  let lo : Int := if sgn then -(2 ^ (w - 1)) else 0
  let hi : Int := if sgn then 2 ^ (w - 1) - 1 else 2 ^ w - 1
  match decodeF s code with
  | .nan _ => (0, flNV)
  | .inf n => (if n then lo else hi, flNV)
  | .fin n m e =>
    if m = 0 then (0, 0)
    else
      let r := roundAt rm n draw (.rat m 1 e) 0
      let v : Int := if n then -(r.1 : Int) else r.1
      if v < lo then (lo, flNV) else if hi < v then (hi, flNV) else (v, if r.2.1 then 0 else flNX)

/-- An integer to floating. -/
def cvtIF (d : Fmt) (rm : Rm) (draw : Nat) (v : Int) : Nat × Nat :=
  deliver d rm false draw (Exact.ofDyadic v 0 false)

/-! ## Binary32 operations rounded to nearest even, on codes -/

/-- Addition. -/
def addF32 (a b : Nat) : Nat × Nat := finishF .f32 .ne 0 (addFV .ne (decodeF .f32 a) (decodeF .f32 b))

/-- One level of the pairwise tree of R53: absent operands pass the other unchanged. -/
def treeLevel (op : Nat → Nat → Nat × Nat) : List (Option Nat) → List (Option Nat) × Nat
  | some a :: some b :: r =>
    let x := op a b
    let y := treeLevel op r
    (some x.1 :: y.1, orF x.2 y.2)
  | a :: b :: r => let y := treeLevel op r; (a.or b :: y.1, y.2)
  | [a] => ([a], 0)
  | [] => ([], 0)

/-- The whole tree, `fuel` levels. -/
def treeReduce (op : Nat → Nat → Nat × Nat) : Nat → List (Option Nat) → Option Nat × Nat
  | 0, xs => ((xs.head?).getD none, 0)
  | k + 1, xs =>
    let l := treeLevel op xs
    let r := treeReduce op k l.1
    (r.1, orF l.2 r.2)

end Sys2Proof.Machine
end

