-- ==== Sys2Proof/Machine/Slice.lean ====
section
/-! DEFINITION. Block words: DRAM and stash words, a slice's blocks (R126 to R129), signatures (R136), and what a home
reads and writes (R122, R132, R152, R273). -/

namespace Sys2Proof.Machine

/-! ## Storage words -/

/-- The block word that holds a byte. -/
def bwOf (fa : Nat) : Nat := fa / 16
/-- The chunk that holds a byte. -/
def chunkOf (fa : Nat) : Nat := fa / 64
def regionOf (fa : Nat) : Nat := fa / 2048
/-- The place of a byte's block word in its region. -/
def ixOf (fa : Nat) : Nat := fa / 16 % 128
/-- The fabric address of a block word of a region. -/
def wordFa (region ix : Nat) : Nat := region * 2048 + ix * 16

/-- A block word of storage and whether it is poisoned. -/
def State.rawWord (s : State) (canon : Nat) : BlockWord × Bool :=
  (BitVec.ofNat 128 (natOf (s.bytes (canon / 16 * 16) 16)), s.poison.has (canon / 16))
/-- Sets a block word of storage and its poison. -/
def State.setRaw (s : State) (canon : Nat) (w : BlockWord) (p : Bool) : State :=
  { s.setBytes (canon / 16 * 16) (bytesOf 16 w.toNat) with poison := Map.set false s.poison (canon / 16) p }

/-! ## Signatures (R136) -/

/-- The two bits that a chunk marks. -/
def sigBits (c : Nat) : Nat × Nat :=
  let x := fun a b => Nat.xor a b
  (x (x (x (bitsOf c 8 0) (bitsOf c 17 9)) (x (bitsOf c 26 18) (bitsOf c 35 27))) (x (bitsOf c 44 36) (bitsOf c 49 45)),
   c * 0x9E3779B97F4A7C15 % 2 ^ 64 / 2 ^ 55)
/-- The signature of one chunk. -/
def sigOf (c : Nat) : Sig := BitVec.ofNat 512 (Nat.lor (2 ^ (sigBits c).1) (2 ^ (sigBits c).2))
/-- Whether a chunk hits a signature. -/
def sigHit (g : Sig) (c : Nat) : Bool := g.getLsbD (sigBits c).1 && g.getLsbD (sigBits c).2
/-- SIGACC OR SIGRCV of a station. -/
def Slice.sig (l : Slice) : Sig := l.sigrcv.foldl (fun a e => a ||| e.2) l.sigacc

/-! ## DRAM with its guards (R273) -/

/-- Puts a block word in DRAM; a guarded region's mirror or parity word follows, here or by a message to its cube. -/
def State.putDram (s : State) (fa canon : Nat) (w : BlockWord) (p : Bool) : State :=
  let old := (s.rawWord canon).1
  let s1 := s.setRaw canon w p
  match guardPlace s.tables fa with
  | none => s1
  | some (cube, vault, byte, isXor) =>
    let g := vaultFa cube (vault * 2 ^ 32 + byte)
    let d := if isXor then old ^^^ w else w
    if cube = s.cube then s1.setRaw g (if isXor then (s1.rawWord g).1 ^^^ d else d) (if isXor then (s1.rawWord g).2 else p)
    else s1.send (.guardUpdate g d isXor (p && !isXor))

/-! ## Blocks of a slice -/

/-- R126: the set of a region. -/
def setOfRegion (x : Nat) : Nat :=
  Nat.xor (Nat.xor (Nat.xor (bitsOf x 9 0) (bitsOf x 19 10)) (Nat.xor (bitsOf x 29 20) (bitsOf x 39 30))) (bitsOf x 44 40)

/-- A word of a slice for an asker with a parcel tag, with whether its block is a home block: a block of another tag does not
serve it (R120). -/
def Slice.find (l : Slice) (tag region ix : Nat) : Option (Bool × Line) :=
  l.blocks.findSome? (fun b =>
    if b.region = region ∧ b.ptag = tag then (b.lines.find? (fun w => w.ix == ix)).map (fun w => (b.home, w)) else none)

/-- Whether a slice holds a word, under whatever tag. -/
def Slice.holds (l : Slice) (region ix : Nat) : Bool :=
  l.blocks.any (fun b => b.region == region && b.lines.any (fun w => w.ix == ix))

/-! ## Stash windows (R125) -/

/-- The stash bytes that a window maps a block word onto. -/
def State.winCanon (s : State) (stn : Nat) (w : Window) (ix : Nat) : Nat := stashFa s.cube stn (w.stash + 16 * ix)
/-- The fabric address of a window's block word. -/
def Window.faOf (w : Window) (ix : Nat) : Nat := Map.get 0 w.fas (ix / 4) * 64 + ix % 4 * 16
/-- A window's block word with its data, which stands in the stash; the line is placed by the window. -/
def State.winData (s : State) (stn : Nat) (w : Window) (x : WLine) : Line :=
  let d := s.rawWord (s.winCanon stn w x.ix)
  ⟨x.ix, d.1, x.dirty, d.2, x.expiry, false⟩
/-- The window of a slice that maps a chunk, and the chunk's place in it. -/
def Slice.windowOf (l : Slice) (chunk : Nat) : Option (Window × Nat) :=
  l.windows.findSome? (fun w => (w.fas.find? (fun e => e.2 == chunk)).map (fun e => (w, e.1)))
/-- A word of a window of a station, if a window maps its chunk. -/
def State.windowLine (s : State) (stn fa : Nat) : Option (Option Line) :=
  ((s.stn stn).slice.windowOf (chunkOf fa)).map (fun e =>
    (e.1.lines.find? (fun x => x.ix == e.2 * 4 + fa / 16 % 4)).map (s.winData stn e.1))
/-- Puts a block word into a window: its bytes go to the stash. -/
def State.putWin (s : State) (stn : Nat) (w : Window) (x : Line) : State :=
  (s.setRaw (s.winCanon stn w x.ix) x.data x.poison).modSlice stn (fun l =>
    { l with windows := l.windows.map (fun v => if v.va = w.va then
        { v with lines := ⟨x.ix, x.dirty, x.expiry⟩ :: v.lines.filter (fun y => y.ix != x.ix) } else v) })

/-- Moves the block that holds a word to the front: the most recently used. -/
def touchBlocks (region ix : Nat) (bs : List Block) : List Block :=
  let hit := fun (b : Block) => b.region == region && b.lines.any (fun w => w.ix == ix)
  bs.filter hit ++ bs.filter (fun b => !hit b)

/-- The block of a station's slice that holds a word is the most recently used (R129). -/
def State.useStn (s : State) (stn fa : Nat) : State :=
  s.modSlice stn (fun l => { l with blocks := touchBlocks (regionOf fa) (ixOf fa) l.blocks })

/-- Changes a word that is present. -/
def Slice.modLine (l : Slice) (region ix : Nat) (f : Line → Line) : Slice :=
  { l with blocks := touchBlocks region ix (l.blocks.map (fun b =>
      if b.region = region then { b with lines := b.lines.map (fun w => if w.ix = ix then f w else w) } else b)) }

/-- The words of a set and the tags it uses. -/
def setUse (set : Nat) (bs : List Block) : Nat × Nat :=
  let mine := bs.filter (fun b => setOfRegion b.region == set)
  (mine.length, mine.foldl (fun a b => a + b.lines.length) 0)

/-- Takes the least recently used block of a set out. -/
def takeLru (set : Nat) (bs : List Block) : List Block × Option Block :=
  let r := bs.reverse
  match r.find? (fun b => setOfRegion b.region == set) with
  | none => (bs, none)
  | some v => ((r.eraseP (fun b => setOfRegion b.region == set)).reverse, some v)

/-- R129: frees blocks of a set, least recently used first, until a block of `n` words fits; what was freed. -/
def makeRoom (set n : Nat) : Nat → List Block → List Block → List Block × List Block
  | 0, bs, out => (bs, out)
  | k + 1, bs, out =>
    let u := setUse set bs
    if u.1 < 32 ∧ u.2 + n ≤ 512 then (bs, out)
    else match takeLru set bs with
    | (_, none) => (bs, out)
    | (bs', some v) => makeRoom set n k bs' (out ++ [v])

/-- Maximal runs of words with consecutive places. -/
def runsOf : List Line → List (List Line)
  | [] => []
  | w :: ws =>
    match runsOf ws with
    | (x :: xs) :: rs => if x.ix = w.ix + 1 then (w :: x :: xs) :: rs else [w] :: (x :: xs) :: rs
    | rs => [w] :: rs

/-- Allocates one block, evicting as needed. -/
def addBlock (b : Block) (st : List Block × List Block) : List Block × List Block :=
  let r := makeRoom (setOfRegion b.region) b.lines.length 33 st.1 st.2
  (b :: r.1, r.2)

/-- R127: a fill of words (in ascending order) trimmed to the gaps of what is present, each maximal gap a block of its
own; the blocks evicted for it. -/
def Slice.fill (l : Slice) (home : Bool) (region ptag : Nat) (ws : List Line) : Slice × List Block :=
  let new := ws.filter (fun w => !l.holds region w.ix)
  let r := (runsOf new).foldl (fun st run => addBlock ⟨home, region, ptag, run⟩ st) (l.blocks, [])
  ({ l with blocks := r.1 }, r.2)

/-- R131: what is left of some blocks without the words that a test picks, after the blocks already seen: each becomes its
runs, one tag each. Where the set lacks a tag for such a split, the clean words that would stay are dropped; a run of dirty words
that still finds no tag is given out to be written back (log entry 84). -/
def trimBlocks (gone : Block → Line → Bool) : List Block → List Block → List Block × List Block
  | [], seen => (seen, [])
  | b :: bs, seen =>
    let room := 32 - (setUse (setOfRegion b.region) (seen ++ bs)).1
    let stay := b.lines.filter (fun w => !gone b w)
    let runs := runsOf stay
    let kept := if runs.length ≤ max 1 room then runs else runsOf (stay.filter (fun w => w.dirty))
    let r := trimBlocks gone bs (seen ++ (kept.take (max 1 room)).map (fun x => { b with lines := x }))
    (r.1, (kept.drop (max 1 room)).map (fun x => { b with lines := x }) ++ r.2)
/-- Removes the words of a slice's blocks that a test picks; what has to be written back for want of tags. -/
def Slice.trim (l : Slice) (gone : Block → Line → Bool) : Slice × List Block :=
  let r := trimBlocks gone l.blocks []
  ({ l with blocks := r.1 }, r.2)

/-! ## What a home reads -/

/-- A member's data at the same byte for a reconstruction (R272): its place; none outside this cube's reach. -/
def State.groupMembers (s : State) (fa : Nat) : List (Nat × Nat × Nat) :=
  match regionFor s.tables fa with
  | none => []
  | some e =>
    let l := layoutOf e
    let off := fa - l.base
    let p := posOf l (off / 2 ^ l.gran)
    let within := off % 2 ^ l.gran
    if l.guard = 3 then [rowAt s.tables l ((p.1 + 1) % l.ccount) (p.2 + 1) within]
    else if l.guard = 0 then []
    else
      let k := guardK l.guard
      ((List.range (k + 1)).filter (fun j => p.1 / (k + 1) * (k + 1) + j != p.1)).map
        (fun j => rowAt s.tables l (p.1 / (k + 1) * (k + 1) + j) p.2 within)

/-- Whether a block word of a region under rebuilding has not been rebuilt at this cube (R272). -/
def State.unbuilt (s : State) (fa canon : Nat) : Bool :=
  !bitAt fa 55 && (match regionFor s.tables fa with
    | some e =>
      let l := layoutOf e
      l.state == 2 && l.guard != 0 && !s.tables.rebuilt.has (canon / 16) &&
        s.tables.taken.has (l.cstart + (posOf l ((fa - l.base) / 2 ^ l.gran)).1)
    | none => false)

/-- A member's block word, if this cube has it at hand. -/
def State.memberWord (s : State) (m : Nat × Nat × Nat) : Option (BlockWord × Bool) :=
  let a := vaultFa m.1 (m.2.1 * 2 ^ 32 + m.2.2)
  if m.1 = s.cube then some (s.rawWord a) else (s.tables.buf.find? (fun e => e.1 == a / 16)).map (fun e => e.2)

/-- The block words of other cubes that the reconstruction of a block word still needs (R272). -/
def State.rebuildNeeds (s : State) (fa canon : Nat) : List Nat :=
  if s.unbuilt fa canon then
    (s.groupMembers (fa / 16 * 16)).filterMap (fun m =>
      if (s.memberWord m).isNone then some (vaultFa m.1 (m.2.1 * 2 ^ 32 + m.2.2)) else none)
  else []

/-- A block word as its home on this cube holds it: home block, DRAM or stash. -/
def State.homeWord (s : State) (pl : Place) (fa : Nat) : BlockWord × Bool :=
  if pl.stash then s.rawWord pl.canon
  else match (s.stn pl.stn).slice.find pl.ptag (regionOf fa) (ixOf fa) with
  | some (true, w) => (w.data, w.poison)
  | _ => s.rawWord pl.canon

/-- The blocks that serve `n` bytes at a home are the most recently used (R129). -/
def State.useHome (s : State) (pl : Place) (fa n : Nat) : State :=
  if pl.stash then s
  else s.modSlice pl.stn (fun l => (List.range ((fa % 16 + n + 15) / 16)).foldl (fun l k =>
    { l with blocks := touchBlocks (regionOf fa) (ixOf fa + k) l.blocks }) l)

/-- `n` bytes from an address as its home holds them, and the poisoned block words among them. -/
def State.homeBytes (s : State) (pl : Place) (fa n : Nat) : List Byte × List Nat :=
  let first := bwOf fa
  let ks := List.range ((fa % 16 + n + 15) / 16)
  let ws := ks.map (fun k => s.homeWord { pl with canon := pl.canon / 16 * 16 + 16 * k } ((first + k) * 16))
  (((ws.map (fun w => bytesOf 16 w.1.toNat)).flatten.drop (fa % 16)).take n,
   (ks.zip ws).filterMap (fun e => if e.2.2 then some (first + e.1) else none))

/-! ## Messages one after another -/

/-- The request number of a message. -/
def msgId : Msg → Nat
  | .write w => w.id
  | .hostWrite _ w => w.id
  | .atomic a => a.id
  | .readRequest r => r.id
  | _ => 0

/-- Sends the first of some requests; each later one follows when the one before it has been acknowledged. -/
def State.sendSeq (s : State) (ms : List Msg) : State :=
  match ms with
  | [] => s
  | m :: rest => let s1 := s.send m; if rest.isEmpty then s1 else { s1 with after := s1.after ++ [(msgId m, rest)] }

/-! ## Error log (R292) -/

/-- R292: an error record goes to a parcel's log with a strong store, and WR is then incremented as a release; or the drop is
counted. Records whose increment is still on its way take their places in order. -/
def State.logError (s : State) (ptag typ fa count : Nat) : State :=
  match s.parcelOf ptag with
  | none => s
  | some p =>
    match s.place p.elog with
    | .error _ => s
    | .ok pl =>
      if pl.cube ≠ s.cube then s
      else
        let out := Map.get 0 s.plat.logging p.elog
        let wr := natOf (s.homeBytes pl p.elog 8).1 + out
        let rd := natOf (s.homeBytes { pl with canon := pl.canon + 8 } (p.elog + 8) 8).1
        if (wr + 2 ^ 64 - rd) % 2 ^ 64 = 1024 then s.countError 11 1
        else
          let i := s.freshId
          let j := i.2.freshId
          let bs := ([typ * 2 ^ 56 + fa % 2 ^ 56, s.datum, ptag * 2 ^ 48 + count * 2 ^ 32, 0].map (bytesOf 8)).flatten
          let a := p.elog + 64 + 32 * (wr % 1024)
          let n := (s.stn pl.stn).slice.relseq + 1
          let s1 := j.2.modSlice pl.stn (fun l => { l with relseq := n })
          { s1 with plat := { s1.plat with logging := Map.set 0 s1.plat.logging p.elog (out + 1) } }.sendSeq
            [.write ⟨i.1, .cube, pl.stn, a, a, bs, [], 1, 3, 0, 0, 0, p.ptag⟩,
             .atomic ⟨j.1, .cube, pl.stn, p.elog, p.elog, 0, false, 1, 0, 2, 3, 0, 0, (s.stn pl.stn).slice.sig, n, p.ptag⟩]

/-! ## Reconstruction -/

/-- R272: rebuilds a block word from the members of its group; a member that is poisoned poisons it, which is
logged. -/
def State.rebuild (s : State) (fa canon : Nat) : State :=
  if s.unbuilt fa canon then
    let ms := (s.groupMembers (fa / 16 * 16)).map (fun m => (s.memberWord m).getD (0, true))
    let bad := ms.any (fun m => m.2) || ms.isEmpty
    let w := ms.foldl (fun a m => a ^^^ m.1) 0
    let s0 := s.setRaw canon (if bad then 0 else w) bad
    let s1 := match bad, s.place fa with
      | true, .ok pl => s0.logError pl.ptag 5 (fa / 16 * 16) 1
      | _, _ => s0
    { s1 with tables := { s1.tables with rebuilt := s1.tables.rebuilt.add (canon / 16) } }
  else s

/-! ## What a home writes -/

/-- The bytes of a block word with `bs` put in from `off`. -/
def mergeWord (w : BlockWord) (off : Nat) (bs : List Byte) : BlockWord :=
  let old := bytesOf 16 w.toNat
  BitVec.ofNat 128 (natOf (old.take off ++ bs ++ old.drop (off + bs.length)))

/-- Splits bytes from an address at block-word boundaries. -/
def splitAtWords : Nat → Nat → List Byte → List (Nat × List Byte)
  | 0, _, _ => []
  | _, _, [] => []
  | k + 1, a, bs => let n := 16 - a % 16; (a, bs.take n) :: splitAtWords k (a + n) (bs.drop n)

/-- The block-word pieces of a write. -/
def piecesOf (a : Nat) (bs : List Byte) : List (Nat × List Byte) := splitAtWords (bs.length / 16 + 2) a bs

/-- R132: a dirty word that is written back although its data is uncorrectable is logged for the parcel whose tag its block
carries, and counted; it goes back poisoned. -/
def State.chargeBad (s : State) (stn fa ptag : Nat) (w : Line) : State :=
  if (s.stn stn).slice.bad.has (bwOf fa) then
    let s1 := s.modSlice stn (fun l => { l with bad := l.bad.del (bwOf fa) })
    if w.poison then (s1.logError ptag 2 fa 1).countError 3 1 else s1
  else s

/-- Writes a home block word of a station's slice to DRAM (R129). -/
def State.homeToDram (s : State) (stn region ptag : Nat) (w : Line) : State :=
  let fa := wordFa region w.ix
  match s.place fa with
  | .ok pl => (s.chargeBad stn fa ptag w).putDram fa pl.canon w.data w.poison
  | .error _ => s

/-- The words of some chunks that are still on their way in a fill are not to be installed. -/
def Fill.voidWhere (f : Fill) (pick : Nat → Bool) : Fill :=
  { f with void := (List.range 32).foldl (fun v k => if pick (f.region * 32 + k) then v.add (f.region * 32 + k) else v) f.void }
/-- What a station has changed is not overwritten by a fill that was asked for before (R144). -/
def State.voidFills (s : State) (stn : Nat) (pick : Nat → Bool) : State :=
  s.modSlice stn (fun l => { l with fills := l.fills.map (fun f => f.voidWhere pick) })

/-- Sends a copy's dirty word back to its home; the station waits for it to be acknowledged. -/
def State.writeBack (s : State) (stn region ptag : Nat) (w : Line) : State :=
  let fa := wordFa region w.ix
  let r := ((s.chargeBad stn fa ptag w).voidFills stn (fun c => c == chunkOf fa)).freshId
  let s1 := r.2.modSlice stn (fun l => { l with wbOut := l.wbOut ++ [(r.1, bwOf fa)] })
  s1.send (.writeBack ⟨fa, w.data, w.poison, stn, r.1, ptag, .cube⟩)

/-- Writes the dirty words of a block of a station's slice back: a home block's to DRAM, a copy's to their homes. -/
def State.spillBlock (s : State) (stn : Nat) (b : Block) : State :=
  b.lines.foldl (fun st w =>
    if !w.dirty then st else if b.home then st.homeToDram stn b.region b.ptag w else st.writeBack stn b.region b.ptag w) s

/-- Removes the words of a station's blocks that a test picks, writing back what finds no tag (R131). -/
def State.trimSlice (s : State) (stn : Nat) (gone : Block → Line → Bool) : State :=
  let r := (s.stn stn).slice.trim gone
  r.2.foldl (fun st b => st.spillBlock stn b) (s.modSlice stn (fun _ => r.1))

/-- Blocks of another tag give way to words of a region that are filled under a tag (R120): they are replaced, as in R129. -/
def State.yieldTag (s : State) (stn region ptag : Nat) (ws : List Line) : State :=
  let other := fun (b : Block) => b.region == region && b.ptag != ptag && b.lines.any (fun w => ws.any (fun x => x.ix == w.ix))
  let bs := (s.stn stn).slice.blocks
  (bs.filter other).foldl (fun st b => st.spillBlock stn b)
    (s.modSlice stn (fun l => { l with blocks := bs.filter (fun b => !other b) }))

/-- R127, R129: fills words into a station's slice and writes back what that evicts. -/
def State.fillSlice (s : State) (stn : Nat) (home : Bool) (region ptag : Nat) (ws : List Line) : State :=
  let s0 := s.yieldTag stn region ptag ws
  let r := (s0.stn stn).slice.fill home region ptag ws
  r.2.foldl (fun st b => st.spillBlock stn b) (s0.modSlice stn (fun _ => r.1))

/-- Writes part of one block word at its home, within the block word: the state, and whether it was performed. A write of
less than the block word to a poisoned one is not (R152). -/
def State.putHomeWord (s : State) (pl : Place) (fa : Nat) (bs : List Byte) : State × Bool :=
  let old := s.homeWord pl fa
  if old.2 ∧ bs.length < 16 then (s, false)
  else
    let w := mergeWord old.1 (fa % 16) bs
    if pl.stash then (s.setRaw pl.canon w false, true)
    else match (s.stn pl.stn).slice.find pl.ptag (regionOf fa) (ixOf fa) with
    | some (true, _) =>
      (s.modSlice pl.stn (fun l => l.modLine (regionOf fa) (ixOf fa) (fun x => { x with data := w, dirty := true, poison := false })), true)
    | _ => (s.fillSlice pl.stn true (regionOf fa) pl.ptag [⟨ixOf fa, w, true, false, 0, false⟩], true)

end Sys2Proof.Machine
end

