-- ==== Sys2Proof/Machine/Translate.lean ====
section
/-! DEFINITION. Reads that an instruction makes before it acts; the page walk, the TLB and the checks of an access (R59,
R149, R250 to R253). -/

namespace Sys2Proof.Machine

/-! ## Reads that must be at hand -/

/-- What a read that must be at hand gives: a value, block words to ask another cube for, a wait for a held write, or a
trap's cause and address. -/
inductive Got (α : Type) where
  | ok (a : α)
  | need (fas : List Nat)
  | hold
  | bad (cause : Nat) (addr : Nat)
deriving DecidableEq, Repr

def Got.bind {α β : Type} (x : Got α) (f : α → Got β) : Got β :=
  match x with
  | .ok a => f a
  | .need l => .need l
  | .hold => .hold
  | .bad c a => .bad c a

/-- Whether a write to a chunk is held at a station of this cube (R135). -/
def State.chunkHeld (s : State) (stn fa : Nat) : Bool := (s.stn stn).home.held.any (fun h => h.1 == chunkOf fa)

/-- Words that a reader has asked other cubes for and received. -/
abbrev ReadBuf := List (Nat × BlockWord × Bool)

/-- A block word as its home holds it now (R250): at hand on this cube, from the reader's buffer otherwise. -/
def State.wordAtHome (s : State) (buf : ReadBuf) (pl : Place) (fa : Nat) : Got (BlockWord × Bool) :=
  if pl.cube = s.cube then
    (if s.chunkHeld pl.stn fa then .hold
     else if s.rebuildNeeds fa pl.canon ≠ [] then .need (s.rebuildNeeds fa pl.canon)
     else .ok ((s.rebuild fa pl.canon).homeWord pl fa))
  else match buf.find? (fun e => e.1 == bwOf fa) with
  | some e => .ok e.2
  | none => .need [fa / 16 * 16]

/-- A block word as a station's own reads find it: a fresh or dirty word of its windows or slice, else the home's. A word on its
way back to its home is waited for. -/
def State.wordAtStn (s : State) (buf : ReadBuf) (stn : Nat) (pl : Place) (fa : Nat) : Got (BlockWord × Bool) :=
  if (s.stn stn).slice.wbOut.any (fun e => e.2 == bwOf fa) then .hold
  else match (if pl.stash then none else s.windowLine stn fa) with
  | some (some w) => if w.dirty || decide (s.datum ≤ w.expiry) then .ok (w.data, w.poison) else s.wordAtHome buf pl fa
  | some none => s.wordAtHome buf pl fa
  | none =>
    match (if pl.stash then none else (s.stn stn).slice.find pl.ptag (regionOf fa) (ixOf fa)) with
    | some (false, w) => if w.dirty || decide (s.datum ≤ w.expiry) then .ok (w.data, w.poison) else s.wordAtHome buf pl fa
    | some (true, _) => s.wordAtHome buf pl fa
    | none => s.wordAtHome buf pl fa

/-- The bytes of consecutive block words, each given by `f`; the first poisoned block word traps with its address. -/
def gather (f : Nat → Got (BlockWord × Bool)) (report : Nat → Nat) : Nat → Nat → Got (List Byte)
  | 0, _ => .ok []
  | k + 1, bw => (f bw).bind (fun w =>
      if w.2 then .bad causePOISON (report bw)
      else (gather f report k (bw + 1)).bind (fun r => .ok (bytesOf 16 w.1.toNat ++ r)))

/-- `n` bytes within one region by a word reader; `ta` is the address reported for `fa`. -/
def readBytes (f : Nat → Got (BlockWord × Bool)) (fa ta n : Nat) : Got (List Byte) :=
  (gather (fun bw => f (bw * 16)) (fun bw => if bw * 16 ≤ fa then ta else ta + (bw * 16 - fa)) ((fa % 16 + n + 15) / 16) (bwOf fa)).bind
    (fun bs => .ok ((bs.drop (fa % 16)).take n))

/-- The place of an address, or the trap. -/
def State.placeG (s : State) (fa ta : Nat) : Got Place :=
  match s.place fa with | .ok p => .ok p | .error c => .bad c ta

/-! ## The page walk (R250, R251) -/

/-- What an access needs of a mapping. -/
inductive Need where
  | any | r | w | rw | x
deriving DecidableEq, Repr

/-- A translation found: fabric page and size, R, W, X. -/
structure Leaf where
  fa : Nat
  size : Nat
  r : Bool
  w : Bool
  x : Bool
deriving DecidableEq, Repr

def Leaf.allows (l : Leaf) : Need → Bool
  | .any => true | .r => l.r | .w => l.w | .rw => l.r && l.w | .x => l.x

/-- R251: a malformed entry at a level. -/
def pteMalformed (e level : Nat) : Bool :=
  let addr := bitsOf e 55 8
  let leaf := bitAt e 1
  bitsOf e 63 56 != 0 || bitsOf e 7 5 != 0 || (level == 3 && !leaf) || (!leaf && bitsOf e 4 2 != 0) ||
  (!leaf && level == 1 && addr % 16 != 0) ||
  (leaf && addr % (if level = 1 then 2 ^ 22 else if level = 2 then 2 ^ 13 else 2 ^ 8) != 0)

/-- The tag of translations of the kernel table (R246). -/
def kernelTag : Nat := 65536

/-- The level-1 base of a parcel's table, or of the kernel table of a station. -/
def State.level1 (s : State) (stn ptag : Nat) : Option Nat :=
  if ptag = kernelTag then some (vaultFa s.cube (stn * 2 ^ 32 + 0xFFF00000 + s.plat.kernelTable))
  else (s.parcelOf ptag).map (fun p => p.l1base)

/-- One level of the walk after another. -/
def State.walkFrom (s : State) (buf : ReadBuf) (va : Nat) : List (Nat × Nat × Nat) → Nat → Nat → Got Leaf
  | [], _, _ => .bad causePAGE va
  | (hi, lo, size) :: ls, level, table =>
    let a := table + 8 * bitsOf va hi lo
    (s.placeG a va).bind (fun pl =>
    (s.wordAtHome buf pl a).bind (fun w =>
      let e := w.1.toNat / 2 ^ (8 * (a % 16)) % 2 ^ 64
      if w.2 then .bad causePOISON va
      else if !bitAt e 0 || pteMalformed e level then .bad causePAGE va
      else if bitAt e 1 then .ok ⟨bitsOf e 55 8 * 256, size, bitAt e 2, bitAt e 3, bitAt e 4⟩
      else s.walkFrom buf va ls (level + 1) (bitsOf e 55 8 * 256)))

/-- R250: the walk of a virtual address under a table. -/
def State.walk (s : State) (buf : ReadBuf) (stn ptag va : Nat) : Got Leaf :=
  match s.level1 stn ptag with
  | none => .bad causePAGE va
  | some base => s.walkFrom buf va [(47, 30, 2 ^ 30), (29, 21, 2 ^ 21), (20, 16, 2 ^ 16)] 1 base

/-- A TLB entry that covers an address (R252). -/
def Tlb.hit (ptag va : Nat) (e : Tlb) : Bool := e.ptag == ptag && decide (e.va ≤ va ∧ va < e.va + e.size)

/-- Installs a translation; the TLB keeps the newest 4,096. -/
def State.installTlb (s : State) (stn ptag va : Nat) (l : Leaf) : State :=
  s.modStn stn (fun t => { t with tlb := (⟨ptag, va / l.size * l.size, l.size, l.fa, l.r, l.w, l.x⟩ ::
    t.tlb.filter (fun e => !Tlb.hit ptag va e)).take 4096 })

/-- A translation for an access: the fabric address and whether it came from a walk. -/
def State.translate (s : State) (buf : ReadBuf) (stn ptag va : Nat) (need : Need) : Got (Nat × Bool) :=
  if 2 ^ 48 ≤ va then .bad causePROT va
  else
    let fin := fun (l : Leaf) (walked : Bool) =>
      if l.allows need then Got.ok (l.fa + va % l.size, walked) else .bad causePROT va
    match (s.stn stn).tlb.find? (Tlb.hit ptag va) with
    | some e => fin ⟨e.fa, e.size, e.r, e.w, e.x⟩ false
    | none => (s.walk buf stn ptag va).bind (fun l => fin l true)

/-! ## An instruction's accesses -/

namespace Exec

/-- The tag that a context's WIN `0b00` accesses translate under (R246). -/
def tag : Exec Nat := do
  let s ← get
  return if s.cur.sup then kernelTag else s.ptagAt s.hand.at_.stn

/-- Takes a value that must be at hand: asks other cubes for what is missing and stalls, waits for a held write, or
traps. -/
def got {α : Type} (x : Got α) : Exec α := do
  match x with
  | .ok a => return a
  | .hold => stall
  | .bad c a => trap c a
  | .need fas =>
    for fa in fas do
      let s ← get
      let c := s.cur
      if !c.flow.asked.contains (bwOf fa) then
        let r := s.freshId
        let l := s.hand.at_
        set (r.2.modCtx l (fun c => { c with flow := { c.flow with asked := bwOf fa :: c.flow.asked } }))
        modify (fun s => s.send (.readRequest ⟨r.1, .task l c.tid, l.stn, .buffer l.stn, fa, fa, 16, 0, 0, 0, 0, s.datum⟩))
    stall

/-- Translates one virtual address; a walk's translation is installed behind the access (R252). -/
def translate (va : Nat) (need : Need) : Exec Nat := do
  let s ← get
  let l := s.hand.at_
  let tg ← tag
  let r ← got (s.translate s.cur.flow.rbuf l.stn tg va need)
  -- a miss on a page that a walk in progress covers waits for that walk
  let covered := fun (m : Msg) => match m with | .pageWalk n g a => n == l.stn && g == tg && a / 65536 == va / 65536 | _ => false
  if r.2 && !s.net.any covered then modify (fun s => s.send (.pageWalk l.stn tg va))
  return r.1

/-- The fabric address that an address in a window names, checked (R148). -/
def faOf (win : Win) (ea : Nat) (need : Need) : Exec Nat := do
  match win with
  | .va => translate ea need
  | .lin =>
    check (decide (ea < 2 ^ 38)) causePROT ea
    return vaultFa (← get).cube ea
  | .fa =>
    check (decide (ea < 2 ^ 56)) causePROT ea
    return ea

/-- R120, R288: the home of a fabric address, which the acting context may reach; `ea` is reported otherwise. -/
def home (win : Win) (fa ea : Nat) : Exec Place := do
  let s ← get
  match s.reach ⟨s.hand.at_.stn, s.cur.sup, s.cur.sup && decide (win ≠ .lin)⟩ fa with
  | .ok p => return p
  | .error c => trap c ea

/-- One block word's share of an access, checked: where it lies and how many bytes. -/
structure Part where
  fa : Nat
  ea : Nat
  len : Nat
  pl : Place
deriving DecidableEq, Repr

/-- The block-word parts of `n` bytes from `ea`, each translated and checked, in ascending order (R149, R253). -/
def parts (win : Win) (need : Need) : Nat → Nat → Nat → Exec (List Part)
  | 0, _, _ => pure []
  | k + 1, ea, n => do
    if n = 0 then return []
    let len := min n (16 - ea % 16)
    let fa ← faOf win ea need
    let pl ← home win fa ea
    return ⟨fa, ea, len, pl⟩ :: (← parts win need k (ea + len) (n - len))

/-- R71 item 3: `.fa` in user mode. -/
def winPriv (win : Win) : Exec Unit := do
  check (decide (win ≠ .fa) || (← ctx).sup) causePRIV 0

/-- The checks of R149 on an access of `n` bytes: alignment where the access needs it, then every page. -/
def access (win : Win) (need : Need) (aligned : Bool) (ea n : Nat) : Exec (List Part) := do
  check (!aligned || ea % n == 0) causeALIGN ea
  parts win need (n / 16 + 2) ea n

/-- `n` bytes from a virtual address, read as a plain load before the instruction acts. -/
def readNow (need : Need) (ea n : Nat) : Exec (List Byte) := do
  let ps ← parts .va need (n / 16 + 2) ea n
  let s ← get
  let mut out : List Byte := []
  for p in ps do
    modify (fun t => t.useStn t.hand.at_.stn p.fa)
    out := out ++ (← got (readBytes (fun fa => s.wordAtStn s.cur.flow.rbuf s.hand.at_.stn { p.pl with canon := p.pl.canon / 16 * 16 } fa) p.fa p.ea p.len))
  return out

end Exec

end Sys2Proof.Machine
end

