-- ==== Sys2Proof/Machine/Packets.lean ====
section
/-! DEFINITION. Packets: the header and its CRC (R259), the payloads of R299, numbering at the source (R262), and the
answers and acknowledgements of a destination (R263). -/

namespace Sys2Proof.Machine

/-! ## CRC-32 of IEEE 802.3 (R259) -/

def crcBit (c : Nat) : Nat := if c % 2 = 1 then Nat.xor (c / 2) 0xEDB88320 else c / 2
def crcByte (c b : Nat) : Nat := crcBit (crcBit (crcBit (crcBit (crcBit (crcBit (crcBit (crcBit (Nat.xor c b))))))))
def crc32 (bs : List Byte) : Nat := Nat.xor (bs.foldl (fun c b => crcByte c b.toNat) 0xFFFFFFFF) 0xFFFFFFFF

/-! ## Header -/

/-- The four doublewords of a header. -/
def hdrDws (h : Hdr) : List Nat :=
  [h.typ * 2 ^ 58 + h.cls * 2 ^ 56 + h.dnode * 2 ^ 43 + h.snode * 2 ^ 30 + h.dstn * 2 ^ 24 + h.sstn * 2 ^ 18 +
     h.len * 2 ^ 9 + h.hops * 2 ^ 4 + h.resv % 16,
   h.seq * 2 ^ 40 + h.onode * 2 ^ 27 + h.ostn * 2 ^ 21 + h.qual * 2 ^ 16 + h.pgen,
   h.retry * 2 ^ 60 + (if h.fwd then 2 ^ 59 else 0) + h.resv / 16 % 8 * 2 ^ 56 + h.addr,
   h.pmask * 2 ^ 48 + h.ptag * 2 ^ 32 + h.ecrc]

/-- The 32 bytes of a header. -/
def hdrBytes (h : Hdr) : List Byte := ((hdrDws h).map (bytesOf 8)).flatten

/-- A header from its four doublewords. -/
def hdrOfDws (d : List Nat) : Hdr :=
  let a := d.getD 0 0
  let b := d.getD 1 0
  let c := d.getD 2 0
  let e := d.getD 3 0
  { typ := bitsOf a 63 58, cls := bitsOf a 57 56, dnode := bitsOf a 55 43, snode := bitsOf a 42 30, dstn := bitsOf a 29 24
    sstn := bitsOf a 23 18, len := bitsOf a 17 9, hops := bitsOf a 8 4, resv := bitsOf a 3 0 + 16 * bitsOf c 58 56
    seq := bitsOf b 63 40, onode := bitsOf b 39 27, ostn := bitsOf b 26 21, qual := bitsOf b 20 16, pgen := bitsOf b 15 0
    retry := bitsOf c 63 60, fwd := bitAt c 59, addr := bitsOf c 55 0, pmask := bitsOf e 63 48, ptag := bitsOf e 47 32
    ecrc := bitsOf e 31 0 }

/-- Bytes of doublewords. -/
def dwBytes (ds : List Nat) : List Byte := (ds.map (bytesOf 8)).flatten
/-- The eight doublewords of a record (R16). -/
def recDws (r : Rec) : List Nat :=
  [r.kind * 2 ^ 56 + (if r.arrived then 2 ^ 51 else 0) + (if r.pinlost then 2 ^ 50 else 0) +
     (if r.latedrop then 2 ^ 49 else 0) + (if r.pin then 2 ^ 48 else 0) + r.pc % 2 ^ 48,
   r.deadline, r.wclass * 2 ^ 32 + r.budget, r.frame, r.joinctr, r.obitctr, r.arg0.toNat, r.arg1.toNat]

/-- The payload bytes: of a payload whose layout the spec does not give, those of the record, entry or data that it carries (log
entry 9). -/
def bodyBytes : Body → List Byte
  | .raw bs => bs
  | .signed bs _ _ _ => bs
  | .mgmt what a b => dwBytes [what, a, b]
  | .fe a => dwBytes [a.op, a.operand]
  | .guard _ d _ _ => bytesOf 16 d.toNat
  | .wait w => bytesOf 8 w.val.toNat
  | .wake w => bytesOf 8 w.val.toNat
  | .published _ g => bytesOf 64 g.toNat
  | .writeBack w => bytesOf 16 w.data.toNat
  | .record r => dwBytes (recDws r.body)
  | .result r => bytesOf 8 r.entry.toNat ++ bytesOf 8 r.value.toNat
  | .demand _ => []
  | .ack _ _ _ => []
  | .nack _ _ moved => [if moved then 0 else 1]
  | .cancel _ => []
  | .cancelled => []
  | .handover _ _ _ _ _ _ => []
  | .table _ => []
  | .install _ _ _ => []
  | .parcelMap _ => []
  | .reset _ => []
  | .survey dest => dwBytes [dest]

/-- The ECRC of a packet (R259). -/
def ecrcOf (h : Hdr) (b : Body) : Nat :=
  crc32 (hdrBytes { h with ecrc := 0, hops := 0, retry := 0, fwd := false } ++ bodyBytes b)

/-- A packet with its length and ECRC. -/
def mkPacket (h : Hdr) (b : Body) : Packet :=
  let h1 := { h with len := (bodyBytes b).length }
  ⟨{ h1 with ecrc := ecrcOf h1 b }, b⟩

/-! ## Payloads (R299) -/

/-- Doublewords of bytes. -/
def dwsOf : Nat → List Byte → List Nat
  | 0, _ => []
  | k + 1, bs => natOf (bs.take 8) :: dwsOf k (bs.drop 8)

/-- The PMASK of poisoned block words, counted from the block word that holds an address. -/
def pmaskOf (addr : Nat) (ps : List Nat) : Nat :=
  ps.foldl (fun m p => if bwOf addr ≤ p ∧ p < bwOf addr + 16 then Nat.lor m (2 ^ (p - bwOf addr)) else m) 0
/-- The poisoned block words that a PMASK names. -/
def pmaskWords (addr m : Nat) : List Nat :=
  ((List.range 16).filter (fun i => bitAt m i)).map (fun i => bwOf addr + i)

/-- A signature's 64 bytes and back. -/
def sigBytes (g : Sig) : List Byte := bytesOf 64 g.toNat
def sigOfBytes (bs : List Byte) : Sig := BitVec.ofNat 512 (natOf (bs.take 64))

def readReqBytes (r : ReadReq) : List Byte := dwBytes [r.lease * 512 + r.bytes]
def atomReqBytes (a : AtomReq) : List Byte :=
  dwBytes [(if a.dest = 0 then 0 else 32) + (if a.w32 then 16 else 0) + a.op, a.operand, a.extra]
def readRepBytes (r : ReadRep) : List Byte :=
  dwBytes [r.expiry, match r.sig with | some _ => 1 | none => 0] ++ r.data ++
    (match r.sig with | some g => sigBytes g | none => [])
def atomRepBytes (r : AtomRep) : List Byte :=
  dwBytes [if r.req.dest = 0 then 0 else r.old, (match r.sig with | some _ => 32 | none => 0) + r.flags] ++
    (match r.sig with | some g => sigBytes g | none => [])

/-! ## Sending from a source (R262) -/

/-- A source by its number at its node: a station, or, for an OHA, the endpoint that PTAG names (R259, R262). -/
def srcNo (snode sstn ptag : Nat) : Nat := if 4096 ≤ snode then 64 + ptag else sstn
/-- The station field that stands for a source number. -/
def stnField (no : Nat) : Nat := if 64 ≤ no then 0 else no

/-- The numbered pairs of a source. -/
def SendPair.isFor (p : SendPair) (snode sstn dnode dstn cls : Nat) : Bool :=
  p.snode == snode && p.sstn == sstn && p.dnode == dnode && p.dstn == dstn && p.cls == cls

/-- Whether a number may be sent: every number at or below s − 4,096 has been acknowledged. -/
def windowOpen (p : SendPair) (seq : Nat) : Bool :=
  !p.unacked.any (fun u => !u.acked && decide (4096 ≤ (seq + 2 ^ 24 - u.seq) % 2 ^ 24))

/-- Sends a numbered packet: it is kept until it is acknowledged, and is due again after the retry time. -/
def State.export (s : State) (snode dnode dstn stn typ cls qual addr pmask ptag : Nat) (b : Body) (m : Msg) : State :=
  let sstn := srcNo snode stn ptag
  let ps := s.e2e.pairs
  let p := (ps.find? (fun p => p.isFor snode sstn dnode dstn cls)).getD ⟨snode, sstn, dnode, dstn, cls, 0, [], [], false⟩
  let seq := (p.last + 1) % 2 ^ 24
  let pkt := mkPacket { typ := typ, cls := cls, dnode := dnode, snode := snode, dstn := dstn, sstn := stnField sstn, len := 0, seq := seq
                        onode := dnode, ostn := dstn, qual := qual, pgen := s.tables.gen, addr := addr, pmask := pmask
                        ptag := ptag } b
  let sent : Sent := ⟨seq, pkt, m, false, false⟩
  let now := windowOpen p seq && p.waiting.isEmpty
  let p' := if now then { p with last := seq, unacked := p.unacked ++ [sent] }
    else { p with last := seq, waiting := p.waiting ++ [sent] }
  let s1 := { s with e2e := { s.e2e with pairs := p' :: ps.filter (fun p => !p.isFor snode sstn dnode dstn cls) } }
  if now then
    (s1.send (.packetRouting pkt)).schedule (s1.datum + s1.router.retry) (.retryTimeout snode sstn cls dnode dstn seq)
  else s1

/-- The parcel tag of an endpoint by its number among all of the system's: 256 × node + number. -/
def State.endpointTag (s : State) (no : Nat) : Nat :=
  match s.hosts.endpoints.find? (fun e => e.node == no / 256 && e.ix == no % 256) with | some e => e.ptag | none => no % 256
/-- The number of the endpoint that a node and a parcel tag name. -/
def State.endpointOf (s : State) (node ptag : Nat) : Nat :=
  match s.hosts.endpoints.find? (fun e => e.node == node && e.ptag == ptag) with | some e => 256 * node + e.ix | none => 256 * node + ptag % 256

/-- A report to the fabric manager in class S (R257, R265, R269, R281, R282): what it says (a number of the model) and about what. -/
def State.tellManager (s : State) (what about : Nat) : State :=
  let s1 := s.report what about
  match s.router.manager with
  | some e => s1.export s.cube (e / 256) 0 0 0x12 3 0 0 0 (s.endpointTag e) (.mgmt what about 0) .none
  | none => s1

/-- A packet without a number. -/
def State.emit (s : State) (h : Hdr) (b : Body) : State := s.send (.packetRouting (mkPacket h b))

/-! ## Answering at a destination (R263) -/

/-- The header of an answer to a packet. -/
def backTo (p : PktSrc) (cube typ : Nat) : Hdr :=
  { typ := typ, cls := p.cls, dnode := p.snode, snode := cube, dstn := stnField p.sstn, sstn := p.ostn, len := 0, seq := p.seq
    onode := p.onode, ostn := p.ostn, addr := p.addr, ptag := p.ptag }

/-- Changes the filter of a packet's pair. -/
def State.modFilter (s : State) (p : PktSrc) (f : Filter → Filter) : State :=
  { s with e2e := { s.e2e with filters := s.e2e.filters.map (fun x =>
      if x.snode = p.snode ∧ x.sstn = p.sstn ∧ x.onode = p.onode ∧ x.ostn = p.ostn ∧ x.cls = p.cls then f x else x) } }

/-- The header of an acknowledgement: that of a forwarded copy goes to the packet's original destination, which forwarded
it (R263). -/
def ackHdr (p : PktSrc) (cube : Nat) : Hdr :=
  let h := backTo p cube 0x0E
  if p.fwd then { h with dnode := p.onode, dstn := p.ostn } else h

/-- A wait's packet has been performed: it is acknowledged, with word of whether the wait was armed (R157). -/
def State.ackWait (s : State) (p : PktSrc) (armed : Bool) : State :=
  (s.modFilter p (fun x => { x with performed := x.performed.add p.seq })).emit (ackHdr p s.cube) (.ack p.snode p.sstn armed)

/-- A packet has been performed: it is acknowledged. -/
def State.ackPkt (s : State) (p : PktSrc) : State := s.ackWait p false

/-- A packet has been performed and is answered: the answer is cached and sent, then the acknowledgement. -/
def State.replyPkt (s : State) (p : PktSrc) (typ pmask : Nat) (b : Body) : State :=
  let r := mkPacket { (backTo p s.cube typ) with pmask := pmask } b
  let s1 := s.modFilter p (fun x => { x with replies := x.replies ++ [(p.seq, r)] })
  (s1.send (.packetRouting r)).ackPkt p

/-- A packet is refused: the answer REFUSED, or MOVED for an address that no entry holds (R259, R268); that of a forwarded copy goes to
the one that forwarded it. REFUSED is kept for a second copy; after MOVED the packet may come again. -/
def State.nackPkt (s : State) (p : PktSrc) (moved : Bool) : State :=
  let h := backTo p s.cube 0x0D
  let r := mkPacket (if p.fwd then { h with dnode := p.onode, dstn := p.ostn } else h) (.nack p.snode p.sstn moved)
  (s.modFilter p (fun x => if moved then { x with bits := x.bits.del p.seq } else { x with replies := x.replies ++ [(p.seq, r)] })).send
    (.packetRouting r)

end Sys2Proof.Machine
end

