-- ==== Sys2Proof/Machine/Home.lean ====
section
/-! DEFINITION. The home side of memory: serving reads and leases (R134), holding and performing writes (R135), atomics
(R156), full/empty forms (R154), waiters (R157, R158), witnesses and publication (R137 to R139), write-backs. -/

namespace Sys2Proof.Machine

/-- The cube that asked. -/
def srcCube (cube : Nat) : Src → Nat
  | .packet p => p.snode
  | _ => cube

/-- The numbers of SCOPE at and above which synchronisation passes between stations: `.cube`, `.dom`. -/
def scopeWide (scope : Nat) : Bool := decide (2 ≤ scope)

/-! ## Waiting conditions -/

/-- R114, R157, R219, R230: whether a word's value satisfies a wait. -/
def condHolds (c : WaitCond) (m v : Nat) : Bool :=
  match c with
  | .eq => m == v
  | .ne => m != v
  | .ge => decide (v ≤ m)
  | .lt => decide (m < v)
  | .join => decide (v % 2 ^ 63 ≤ m % 2 ^ 63) || bitAt m 63
  | .cpwait => Nat.land m v == v || bitAt m 63
  | .tile => decide (v % 2 ^ 63 ≤ m % 2 ^ 63) || bitAt m 63

/-- A 64-bit word at its home, and whether it is poisoned. -/
def State.homeDw (s : State) (pl : Place) (fa : Nat) : Nat × Bool :=
  let r := s.homeBytes pl fa 8
  (natOf r.1, !r.2.isEmpty)

/-! ## Leases -/

/-- The latest expiry granted on a chunk (R134). -/
def State.leaseMax (s : State) (stn fa : Nat) : Nat := Map.get 0 (s.stn stn).home.leasemax (chunkOf fa)
/-- Whether a chunk's leases still run: the datum has not passed LEASEMAX. -/
def State.leased (s : State) (stn fa : Nat) : Bool :=
  decide (s.leaseMax stn fa ≠ 0) && decide (s.datum ≤ s.leaseMax stn fa)
/-- Grants a lease until a datum on the chunks of a range. -/
def State.grant (s : State) (stn fa n expiry : Nat) : State :=
  let chunks := (List.range (chunkOf (fa + n - 1) + 1 - chunkOf fa)).map (fun k => chunkOf fa + k)
  s.modHome stn (fun h => { h with leasemax := chunks.foldl (fun m c => Map.set 0 m c (max expiry (Map.get 0 m c))) h.leasemax })

/-- The expiry of a lease asked for now (R134): 1 a copy, 2 a replica; 0 where no copy is made. A home that a resize changes
grants none (R281), nor one whose stripe is being copied, since its leases have gone with the copy (R270). -/
def State.expiryFor (s : State) (pl : Place) (fa lease : Nat) : Nat :=
  let l := s.leases fa
  let n := if lease = 2 then (if l.2 = 0 then l.1 else l.2) else l.1
  if lease = 0 ∨ n = 0 ∨ pl.stash ∨ s.homeMoves fa ∨ s.copyingAt fa then 0 else s.datum + n

/-! ## Witnesses and publication -/

/-- The 8-byte words that `n` bytes touch: a witness is kept for each (log entry 75). -/
def wordsOf (fa n : Nat) : List Nat := (List.range ((fa + n - 1) / 8 + 1 - fa / 8)).map (fun k => fa / 8 + k)
/-- The witnesses of an access's words that name a station other than the given one (R137), oldest first. -/
def State.foreignWitnesses (s : State) (home fa n cube stn : Nat) : List Witness :=
  (s.stn home).home.witnesses.filter (fun w => (wordsOf fa n).contains w.word && (w.cube != cube || w.stn != stn))
/-- The signature that an acquire brings: that of its words' foreign witnesses, if it has any (R139). -/
def sigOfWitnesses : List Witness → Option Sig
  | [] => none
  | w :: ws => some (ws.foldl (fun g x => g ||| x.sig) w.sig)
/-- A demand names a witness. -/
def Witness.is (w : Witness) (d : Demand) : Bool := w.cube == d.cube && w.stn == d.stn && w.seq == d.seq
/-- The witness whose publication an access must wait for next: after the one already waited for, if any. -/
def State.mustPublish (s : State) (home fa n cube stn : Nat) (done : Option Demand) : Option Witness :=
  let ws := s.foreignWitnesses home fa n cube stn
  match done with
  | some d => if ws.any (fun w => w.is d) then ((ws.dropWhile (fun w => !w.is d)).drop 1).head? else ws.head?
  | none => ws.head?
/-- R138: the home demands that a witness's station publish. -/
def State.demand (s : State) (w : Witness) (p : PubFor) : State := s.send (.publicationDemand ⟨w.cube, w.stn, w.seq, p⟩)
/-- R137: records a release's witness for its words, in place of any earlier one. -/
def State.record (s : State) (home fa n cube stn seq : Nat) (sig : Sig) : State :=
  let ks := wordsOf fa n
  let new := ks.map (fun k => (⟨k, cube, stn, seq, sig⟩ : Witness))
  s.modHome home (fun h => { h with witnesses := h.witnesses.filter (fun x => !ks.contains x.word) ++ new })
/-- R137: whether a slice, which holds up to 4,096 witnesses, has room for those of some words. -/
def State.witnessRoom (s : State) (home fa n : Nat) : Bool :=
  let ks := wordsOf fa n
  decide (((s.stn home).home.witnesses.filter (fun x => !ks.contains x.word)).length + ks.length ≤ 4096)
/-- R137: the oldest witness is retired: its publication is demanded, and it is forgotten once that is complete. -/
def State.retireOldest (s : State) (home : Nat) : State :=
  match (s.stn home).home.witnesses with
  | o :: _ => if (s.stn home).home.retiring then s
    else (s.modHome home (fun h => { h with retiring := true })).demand o (.witness (o.word * 8))
  | [] => s

/-- Publications complete in the order in which they began (R138). -/
def State.flushPubs (s : State) (stn : Nat) : Nat → State
  | 0 => s
  | k + 1 =>
    match (s.stn stn).slice.pubs with
    | p :: ps =>
      if p.waits.isEmpty then
        ((s.modSlice stn (fun l => { l with pubs := ps })).send (.publicationComplete p.demand p.sig)).flushPubs stn k
      else s
    | [] => s

/-- The dirty words among a slice's copies: fabric address, tag, line (R138). -/
def Slice.dirtyWords (l : Slice) : List (Nat × Nat × Line) :=
  (l.blocks.map (fun b =>
    if b.home then [] else (b.lines.filter (fun w => w.dirty)).map (fun w => (wordFa b.region w.ix, b.ptag, w)))).flatten
/-- The dirty words that a station holds of other homes: slice copies and window words (R138). -/
def State.dirtyWords (s : State) (stn : Nat) : List (Nat × Nat × Line) :=
  (s.stn stn).slice.dirtyWords ++
  ((s.stn stn).slice.windows.map (fun w => (w.lines.filter (fun x => x.dirty)).map (fun x =>
    (w.faOf x.ix, w.ptag, s.winData stn w x)))).flatten

/-- Marks every copied word clean. -/
def Slice.cleaned (l : Slice) : Slice :=
  { l with blocks := l.blocks.map (fun b =>
             if b.home then b else { b with lines := b.lines.map (fun w => { w with dirty := false }) })
           windows := l.windows.map (fun w => { w with lines := w.lines.map (fun x => { x with dirty := false }) }) }

/-- R138: a station begins a publication: a snapshot of its dirty words goes back to their homes, and SIGACC is
cleared. It also waits for the write-backs that are already on their way, so that what they carry has been performed (R144). -/
def State.beginPublication (s : State) (d : Demand) : State :=
  let ws := s.dirtyWords d.stn
  let s := ws.foldl (fun st w => (st.chargeBad d.stn w.1 w.2.1 w.2.2).voidFills d.stn (fun c => c == chunkOf w.1)) s
  let ids := (List.range ws.length).map (fun k => s.counts.id + k)
  let ms := (ids.zip ws).map (fun e =>
    Msg.writeBack ⟨e.2.1, e.2.2.2.data, e.2.2.2.poison, d.stn, e.1, e.2.2.1, .cube⟩)
  let s1 := s.modSlice d.stn (fun l =>
    { l.cleaned with sigacc := 0, pubs := l.pubs ++ [⟨d, l.wbOut.map (fun e => e.1) ++ ids, l.sig⟩]
                     wbOut := l.wbOut ++ (ids.zip ws).map (fun e => (e.1, bwOf e.2.1)) })
  let s2 := { s1 with counts := { s1.counts with id := s1.counts.id + ids.length } }
  (s2.sendAll ms).flushPubs d.stn 1

/-- A write-back of a station has been acknowledged. -/
def State.wbDone (s : State) (stn id : Nat) : State :=
  let s1 := s.modSlice stn (fun l =>
    { l with wbOut := l.wbOut.filter (fun e => e.1 != id)
             pubs := l.pubs.map (fun p => { p with waits := p.waits.filter (fun i => i != id) }) })
  s1.flushPubs stn (s1.stn stn).slice.pubs.length

/-! ## Waking (R158) -/

/-- A waiter is answered: at once, or after the publication that its acquire demands (R139). -/
def State.answerWait (s : State) (home : Nat) (w : WaitReg) (m : Nat) (poisoned : Bool) : State :=
  let msg : WakeMsg := ⟨w, w64 m, poisoned, none⟩
  if poisoned ∨ !scopeWide w.scope ∨ w.cond = .cpwait then s.send (.wake msg)
  else match s.mustPublish home w.fa 8 (srcCube s.cube w.src) w.stn none with
  | some x => s.demand x (.wait msg)
  | none => s.send (.wake msg)

/-- The waiters that one write wakes are woken in an order that is not defined (log entry 6). -/
def rotate {α : Type} (k : Nat) (xs : List α) : List α := xs.drop (k % xs.length) ++ xs.take (k % xs.length)

/-- R158: after a write at a home, wakes every waiter on a changed word whose condition holds; `all` wakes every waiter
on the words (a threshold crossing, or poison). `before` is the state before the write. -/
def State.wakeWaiters (s before : State) (pl : Place) (fa n : Nat) (all : Bool) : State :=
  let ws := (s.stn pl.stn).home.waiters
  let hit := fun (w : WaitReg) =>
    decide (w.fa < fa + n ∧ fa < w.fa + 8) &&
    (let p : Place := { pl with canon := pl.canon + w.fa - fa }
     let v := s.homeDw p w.fa
     v.2 || all || (decide (before.homeDw p w.fa ≠ v) && condHolds w.cond v.1 w.val.toNat))
  let woken := ws.filter hit
  if woken.isEmpty then s
  else
    let r := s.freshChoice
    let s1 := r.2.modHome pl.stn (fun h => { h with waiters := ws.filter (fun w => !hit w) })
    (rotate (Config.wakeOrder r.1) woken).foldl (fun st w =>
      let v := s.homeDw { pl with canon := pl.canon + w.fa - fa } w.fa
      st.answerWait pl.stn w v.1 v.2) s1

/-! ## Performing writes -/

/-- Puts bytes at their home on this cube, block word by block word; the poisoned block words not written (R152). -/
def State.putHome (s : State) (pl : Place) (fa : Nat) (bs : List Byte) : State × List Nat :=
  (piecesOf fa bs).foldl (fun r p =>
    let q := r.1.putHomeWord { pl with canon := pl.canon + p.1 - fa } p.1 p.2
    (q.1, if q.2 then r.2 else r.2 ++ [bwOf p.1])) (s, [])

/-- Marks a block word at its home poisoned. -/
def State.poisonHome (s : State) (pl : Place) (fa : Nat) : State :=
  if pl.stash then { s with poison := s.poison.add (pl.canon / 16) }
  else match (s.stn pl.stn).slice.find pl.ptag (regionOf fa) (ixOf fa) with
  | some (true, _) => s.modSlice pl.stn (fun l => l.modLine (regionOf fa) (ixOf fa) (fun x => { x with poison := true, dirty := true }))
  | _ => { s with poison := s.poison.add (pl.canon / 16) }

/-- Performs a write at its home and evaluates the waiters; the poisoned block words not written. -/
def State.performWrite (s : State) (pl : Place) (fa : Nat) (bs : List Byte) (poison : List Nat) : State × List Nat :=
  let r := s.putHome pl fa bs
  let s1 := poison.foldl (fun st bw => st.poisonHome { pl with canon := pl.canon + bw * 16 - fa / 16 * 16 } (bw * 16)) r.1
  (s1.wakeWaiters s pl fa bs.length false, r.2)

/-- The chunks that `n` bytes touch. -/
def chunksIn (fa n : Nat) : List Nat := (List.range (chunkOf (fa + n - 1) + 1 - chunkOf fa)).map (fun k => chunkOf fa + k)

/-- Holds an operation at its home behind what is held on each of its chunks (R135). -/
def State.holdOp (s : State) (stn fa n : Nat) (m : Msg) : State :=
  (s.modHome stn (fun h => { h with held := h.held ++ (chunksIn fa n).map (fun c => (c, m))
                                    since := h.since ++ [(chunkOf fa, s.datum)] })).schedule
    ((chunksIn fa n).foldl (fun d c => max d (s.leaseMax stn (c * 64))) s.datum + 1) (.heldWriteRelease (chunkOf fa))

/-! ## Answers -/

/-- Answers a read. -/
def State.answerRead (s : State) (r : ReadRep) : State :=
  match r.req.src with
  | .packet p => s.replyPkt p 0x01 (pmaskOf r.req.fa r.poison) (.raw (readRepBytes r))
  | _ => s.send (.readReply r)

/-- Acknowledges a write; `poison` names the poisoned block words that it did not change. -/
def State.answerWrite (s : State) (w : WriteReq) (poison : List Nat) : State :=
  match w.src with
  | .packet p => s.replyPkt p 0x03 (pmaskOf w.fa poison) (.raw [])
  | _ => s.send (.writeAcknowledgement { w with poison := poison })

/-- Answers an atomic or a full/empty form. -/
def State.answerAtomic (s : State) (r : AtomRep) : State :=
  match r.req.src with
  | .packet p => s.replyPkt p 0x05 (if r.poisoned then 1 else 0) (.raw (atomRepBytes r))
  | _ => s.send (.atomicReply r)

/-! ## Reads -/

/-- Serves a read at its home: data, poison and a lease. -/
def State.serveRead (s : State) (pl : Place) (r : ReadReq) : State :=
  let sig := if r.order = 2 ∧ scopeWide r.scope then
      sigOfWitnesses (s.foreignWitnesses pl.stn r.fa r.bytes (srcCube s.cube r.src) r.stn) else none
  let e := if s.chunkHeld pl.stn r.fa then 0 else s.expiryFor pl r.fa r.lease
  let d := s.homeBytes pl r.fa r.bytes
  let s1 := s.useHome pl r.fa r.bytes
  (if e = 0 then s1 else s1.grant pl.stn r.fa r.bytes e).answerRead ⟨r, e, d.1, d.2, sig⟩

/-- The block words that the reconstruction of a range needs from other cubes, and the range rebuilt (R272). -/
def State.rangeNeeds (s : State) (pl : Place) (fa n : Nat) : List Nat :=
  ((List.range ((fa % 16 + n + 15) / 16)).map (fun k =>
    s.rebuildNeeds (fa / 16 * 16 + 16 * k) (pl.canon / 16 * 16 + 16 * k))).flatten
def State.rebuildRange (s : State) (pl : Place) (fa n : Nat) : State :=
  (List.range ((fa % 16 + n + 15) / 16)).foldl (fun st k =>
    st.rebuild (fa / 16 * 16 + 16 * k) (pl.canon / 16 * 16 + 16 * k)) s

/-- Asks other cubes for block words that the cube needs for itself. The reads are strong, so that they follow the cube's earlier
strong stores to the same home (R123). -/
def State.askWords (s : State) (ptag : Nat) (fas : List Nat) : State :=
  fas.foldl (fun st fa =>
    if st.tables.bufAsked.has (bwOf fa) then st
    else
      let r := st.freshId
      { r.2 with tables := { r.2.tables with bufAsked := r.2.tables.bufAsked.add (bwOf fa) } }.send
        (.readRequest ⟨r.1, .cube, 0, .answer, fa, fa, 16, 1, 0, 0, ptag, s.datum⟩)) s
/-- Asks other cubes for block words that a reconstruction needs; the message waits at the back of the line. -/
def State.askMembers (s : State) (fas : List Nat) (m : Msg) : State := (s.askWords 0 fas).send m

/-- A read at its home on this cube: it waits behind a held write, an acquire demands publication from the station that
its witness names, and a word still to be rebuilt is reconstructed. -/
def State.homeRead (s : State) (pl : Place) (r : ReadReq) (done : Option Demand) : State :=
  if (chunksIn r.fa r.bytes).any (fun c => s.chunkHeld pl.stn (c * 64)) then s.holdOp pl.stn r.fa r.bytes (.readRequest r)
  else
    if s.rangeNeeds pl r.fa r.bytes ≠ [] then s.askMembers (s.rangeNeeds pl r.fa r.bytes) (.readRequest r)
    else
      let s1 := s.rebuildRange pl r.fa r.bytes
      match (if r.order = 2 ∧ scopeWide r.scope then s1.mustPublish pl.stn r.fa r.bytes (srcCube s.cube r.src) r.stn done else none) with
      | some w => s1.demand w (.read r)
      | none => s1.serveRead pl r

/-! ## Writes -/

/-- Whether a write at a range has to wait: a held operation on a chunk of it, a lease still running (R135), or its stripe being
copied (R270). -/
def State.blockedAt (s : State) (stn fa n : Nat) : Bool :=
  (chunksIn fa n).any (fun c => s.chunkHeld stn (c * 64) || s.leased stn (c * 64) || s.copyingAt (c * 64))

/-- The home blocks of this cube give up the words at some canonical block words: dirty ones are written back, and, where
`drop` is set, the words are dropped (R141). -/
def State.evictHomes (s : State) (pick : Nat → Bool) (drop : Bool) : State :=
  let hit := fun (st : State) (region : Nat) (w : Line) =>
    match st.place (wordFa region w.ix) with | .ok p => pick (p.canon / 16) | .error _ => false
  s.stnIxs.foldl (fun st n =>
    (st.stn n).slice.blocks.foldl (fun st b =>
      if !b.home then st
      else b.lines.foldl (fun st w =>
        if !hit st b.region w then st
        else
          let t := if w.dirty then st.homeToDram n b.region b.ptag w else st
          if drop then t.trimSlice n (fun c x => c.home && c.region == b.region && x.ix == w.ix)
          else t.modSlice n (fun l => l.modLine b.region w.ix (fun x => { x with dirty := false }))) st) st) s

/-- The latest lease that a home of this cube has granted. -/
def State.lastLease (s : State) : Nat :=
  s.stations.foldl (fun m e => e.2.home.leasemax.foldl (fun m x => max m x.2) m) 0

/-- Whether a packet brings a guard's update. -/
def isGuard (b : Body) : Bool := match b with | .guard _ _ _ _ => true | _ => false
/-- Whether the guard of some word written to DRAM is still to be updated: its write-back is not yet acknowledged (R273). -/
def State.guardsOut (s : State) : Bool :=
  s.net.any (fun m => match m with | .guardUpdate _ _ _ _ => true | .packetRouting p => isGuard p.body | _ => false) ||
  s.e2e.pairs.any (fun p => (p.unacked ++ p.waiting).any (fun u => !u.acked && isGuard u.pkt.body))

/-- Every home of this cube writes its dirty home words to DRAM and drops its home blocks. -/
def State.emptyHomes (s : State) : State :=
  s.stnIxs.foldl (fun st n =>
    ((st.stn n).slice.blocks.foldl (fun st b =>
      if b.home then b.lines.foldl (fun st w => if w.dirty then st.homeToDram n b.region b.ptag w else st) st else st) st).modSlice n
      (fun l => { l with blocks := l.blocks.filter (fun b => !b.home) })) s

/-- A bank engine's write: to DRAM, invalidating the word in every home block (R141). -/
def State.dramWrite (s : State) (pl : Place) (fa : Nat) (bs : List Byte) : State × List Nat :=
  let r := (piecesOf fa bs).foldl (fun (r : State × List Nat) p =>
    let canon := pl.canon + p.1 - fa
    let t := r.1.evictHomes (fun bw => bw == canon / 16) true
    let old := t.rawWord canon
    if old.2 && decide (p.2.length < 16) then (t, r.2 ++ [bwOf p.1])
    else (t.putDram p.1 (canon / 16 * 16) (mergeWord old.1 (p.1 % 16) p.2) false, r.2)) (s, [])
  (r.1.wakeWaiters s pl fa bs.length false, r.2)

/-- The `counter` of a bank engine's write, which goes to DRAM. -/
def bankCounter : Nat := 4

/-- Performs a write request: the witness of a release (R137), which a waiter that the write wakes already finds (R157), its
bytes, its acknowledgement. -/
def State.serveWrite (s : State) (pl : Place) (w : WriteReq) : State :=
  let s1 := if w.order = 2 ∧ scopeWide w.scope then
      s.record pl.stn w.fa w.data.length (srcCube s.cube w.src) w.stn w.relseq w.sig
    else s
  let r := if w.counter = bankCounter then s1.dramWrite pl w.fa w.data else s1.performWrite pl w.fa w.data w.poison
  r.1.answerWrite w r.2

/-- Whether a write, an atomic is a release that records a witness (R137). -/
def writeWitnesses (w : WriteReq) : Bool := w.order == 2 && scopeWide w.scope
def atomWitnesses (a : AtomReq) : Bool := (a.order == 2 || a.order == 3) && scopeWide a.scope

/-- A write at its home on this cube. -/
def State.homeWrite (s : State) (pl : Place) (w : WriteReq) : State :=
  if s.blockedAt pl.stn w.fa w.data.length then s.holdOp pl.stn w.fa w.data.length (.write w)
  else
    if s.rangeNeeds pl w.fa w.data.length ≠ [] then s.askMembers (s.rangeNeeds pl w.fa w.data.length) (.write w)
    else if writeWitnesses w && !s.witnessRoom pl.stn w.fa w.data.length then
      (s.holdOp pl.stn w.fa w.data.length (.write w)).retireOldest pl.stn
    else (s.rebuildRange pl w.fa w.data.length).serveWrite pl w

/-- A host's write-back clears its host-table entry once the whole chunk has been written back (R278). -/
def State.hostWrote (s : State) (node fa : Nat) : State :=
  let mark := fun (e : Nat × Nat × Nat) =>
    if e.1 = node ∧ e.2.1 = chunkOf fa then (e.1, e.2.1, Nat.lor e.2.2 (2 ^ (bwOf fa % 4))) else e
  { s with hosts := { s.hosts with table := (s.hosts.table.map mark).filter (fun e => e.2.2 != 15) } }

/-- A write-back at its home (R135): behind any held write to its chunk, otherwise at once. That of a dead host is discarded and
counted, unless a HOLD has come for its chunk since (R278, log entry 97). -/
def State.serveWriteBack (s : State) (pl : Place) (w : WbMsg) : State :=
  let host : Option Nat := match w.src with | .packet p => if 4096 ≤ p.snode then some p.snode else none | _ => none
  if (host.map (fun n => s.hosts.dead.has n && !s.hosts.table.any (fun e => e.1 == n && e.2.1 == chunkOf w.fa))).getD false then
    (match w.src with | .packet p => (s.countError 9 1).ackPkt p | _ => s)
  else
  let s := match host with | some n => s.hostWrote n w.fa | none => s
  let s1 := (s.performWrite pl w.fa (bytesOf 16 w.data.toNat) (if w.poison then [bwOf w.fa] else [])).1
  match w.src with
  | .packet p => s1.ackPkt p
  | _ => s1.wbDone w.stn w.pubId
def State.homeWriteBack (s : State) (pl : Place) (w : WbMsg) : State :=
  if s.chunkHeld pl.stn w.fa || s.copyingAt w.fa then s.holdOp pl.stn w.fa 16 (.writeBack w) else s.serveWriteBack pl w

/-! ## Atomics (R156) -/

/-- Signed value of a `w`-bit number. -/
def sgn (w v : Nat) : Int := signed w v

/-- The new value of an atomic, or none where it writes nothing, and its flags. -/
def atomNew (op : Nat) (w32 : Bool) (m v extra : Nat) : Option Nat × Nat :=
  let w := if w32 then 32 else 64
  match op with
  | 0 => (some ((m + v) % 2 ^ w), 0)
  | 1 => (some (Nat.land m v), 0)
  | 2 => (some (Nat.lor m v), 0)
  | 3 => (some (Nat.xor m v), 0)
  | 4 => (some (if sgn w v < sgn w m then v else m), 0)
  | 5 => (some (min m v), 0)
  | 6 => (some (if sgn w m < sgn w v then v else m), 0)
  | 7 => (some (max m v), 0)
  | 8 => (some v, 0)
  | 9 => (if m = extra then some v else none, 0)
  | 10 => (some ((m + v) % 2 ^ w), 0)
  | 11 => let r := addF32 m v; (some r.1, r.2)
  | 21 => (some ((m + 1) % 2 ^ 63 + 2 ^ 63), 0)
  | _ => let r := fminmax .f32 true true m v; (some r.1, r.2)

/-- Whether an atomic's order has an acquire half, a release half. -/
def AtomOrd.acq (o : Nat) : Bool := o == 1 || o == 3
def AtomOrd.rel (o : Nat) : Bool := o == 2 || o == 3

/-- An error log's WR has been incremented: one record less is on its way (R292). -/
def State.logged (s : State) (a : AtomReq) : State :=
  let out := Map.get 0 s.plat.logging a.fa
  if a.src = .cube ∧ a.op = 0 ∧ out ≠ 0 then { s with plat := { s.plat with logging := Map.set 0 s.plat.logging a.fa (out - 1) } } else s

/-- Performs an atomic at its home, and answers with the old value. -/
def State.serveAtomic (s : State) (pl : Place) (a : AtomReq) : State :=
  let n := if a.w32 then 4 else 8
  let s := s.useHome pl a.fa n
  let d := s.homeBytes pl a.fa n
  if !d.2.isEmpty then s.answerAtomic ⟨a, 0, 0, true, none⟩
  else
    let m := natOf d.1
    let r := atomNew a.op a.w32 m a.operand a.extra
    let cube := srcCube s.cube a.src
    let foreign := sigOfWitnesses (s.foreignWitnesses pl.stn a.fa n cube a.stn)
    let sig := if AtomOrd.acq a.order ∧ scopeWide a.scope then foreign else none
    let s1 := if atomWitnesses a then s.record pl.stn a.fa n cube a.stn a.relseq (a.sig ||| foreign.getD 0) else s
    let s2 := match r.1 with
      | none => s1
      | some v =>
        let t := (s1.performWrite pl a.fa (bytesOf n v) []).1.logged a
        if a.op = 10 ∧ m < a.extra ∧ a.extra ≤ v then t.wakeWaiters s1 pl a.fa n true else t
    s2.answerAtomic ⟨a, m, r.2, false, sig⟩

/-! ## Full/empty forms (R154) -/

/-- Whether a full/empty form can act on its word. -/
def feReady (op : Nat) (full : Bool) : Bool :=
  match op with
  | 16 => full
  | 17 => full
  | 18 => !full
  | _ => true

/-- One full/empty form's test and action; it is answered, an acquire after the publication that its witness asks for. -/
def State.feAct (s : State) (pl : Place) (a : AtomReq) : State :=
  let k := pl.canon / 8
  let d := s.homeDw pl a.fa
  if d.2 ∧ a.op ≠ 20 then s.answerAtomic ⟨a, 0, 0, true, none⟩
  else
    let cube := srcCube s.cube a.src
    let s1 := if atomWitnesses a then s.record pl.stn a.fa 8 cube a.stn a.relseq a.sig else s
    let s2 := if a.op = 18 ∨ a.op = 19 then (s1.performWrite pl a.fa (bytesOf 8 a.operand) []).1 else s1
    let f := match a.op with | 16 => true | 17 => false | 18 => true | 19 => true | _ => false
    let s3 := { s2 with full := Map.set false s2.full k f }
    let ws := s.foreignWitnesses pl.stn a.fa 8 cube a.stn
    match (if AtomOrd.acq a.order ∧ scopeWide a.scope then ws.head? else none) with
    | some w => s3.demand w (.answer ⟨a, d.1, 0, false, sigOfWitnesses ws⟩)
    | none => s3.answerAtomic ⟨a, d.1, 0, false, none⟩

/-- The request that a message holds. -/
def feOf : Msg → Option AtomReq
  | .atomic a => some a
  | _ => none

/-- Serves the held requests of a word, in arrival order, as far as they can act (R154). -/
def State.feServe (s : State) (pl : Place) (fa : Nat) : Nat → State
  | 0 => s
  | k + 1 =>
    match (s.stn pl.stn).home.feHeld.find? (fun h => h.1 == fa) with
    | some (_, .atomic a) =>
      if feReady a.op (s.full.has (pl.canon / 8)) then
        ((s.modHome pl.stn (fun h => { h with feHeld := h.feHeld.eraseP (fun h => h.1 == fa) })).feAct pl a).feServe pl fa k
      else s
    | _ => s

/-- A full/empty form at its stash: it is held only where its word's bit does not let it act; whatever is held then waits for
the same value of the bit, so that the order of arrival is kept. -/
def State.homeFe (s : State) (pl : Place) (a : AtomReq) : State :=
  if atomWitnesses a && !s.witnessRoom pl.stn a.fa 8 then (s.send (.atomic a)).retireOldest pl.stn
  else if !feReady a.op (s.full.has (pl.canon / 8)) then
    s.modHome pl.stn (fun h => { h with feHeld := h.feHeld ++ [(a.fa, .atomic a)] })
  else
    let s1 := s.feAct pl a
    s1.feServe pl a.fa (s1.stn pl.stn).home.feHeld.length

/-- An atomic or full/empty form at its home on this cube. -/
def State.homeAtomic (s : State) (pl : Place) (a : AtomReq) (done : Option Demand) : State :=
  let n := if a.w32 then 4 else 8
  if 16 ≤ a.op ∧ a.op ≤ 20 then s.homeFe pl a
  else if s.blockedAt pl.stn a.fa n then s.holdOp pl.stn a.fa n (.atomic a)
  else
    if s.rangeNeeds pl a.fa n ≠ [] then s.askMembers (s.rangeNeeds pl a.fa n) (.atomic a)
    else
      let s1 := s.rebuildRange pl a.fa n
      match (if a.order ≠ 0 ∧ scopeWide a.scope then s1.mustPublish pl.stn a.fa n (srcCube s.cube a.src) a.stn done else none) with
      | some w => s1.demand w (.atomic a)
      | none =>
        if atomWitnesses a && !s1.witnessRoom pl.stn a.fa n then (s1.holdOp pl.stn a.fa n (.atomic a)).retireOldest pl.stn
        else s1.serveAtomic pl a

/-! ## Waits (R157) -/

/-- Compares and arms in one step: the waiter is answered, or registered. -/
def State.homeWait (s : State) (pl : Place) (w : WaitReg) : State × Bool :=
  let s := s.useHome pl w.fa 8
  let d := s.homeDw pl w.fa
  if d.2 then (s.answerWait pl.stn w 0 true, false)
  else if condHolds w.cond d.1 w.val.toNat then (s.answerWait pl.stn w d.1 false, false)
  else (s.modHome pl.stn (fun h => { h with waiters := h.waiters ++ [w] }), true)

end Sys2Proof.Machine
end

