-- ==== Sys2Proof/Machine/Records.lean ====
section
/-! DEFINITION. Continuation records (R16), ready stores (R19, R233 to R235), where a record goes while its station is
pre-empted (R158, R243), and retirement (R22, R23). -/

namespace Sys2Proof.Machine

/-! ## Record images -/

/-- A record of its eight doublewords. -/
def recOfDws (d : List Nat) : Rec :=
  let a := d.getD 0 0
  { kind := bitsOf a 63 56, arrived := bitAt a 51, pinlost := bitAt a 50, latedrop := bitAt a 49, pin := bitAt a 48
    pc := bitsOf a 47 1 * 2, deadline := d.getD 1 0, wclass := bitsOf (d.getD 2 0) 39 32, budget := bitsOf (d.getD 2 0) 31 0
    frame := d.getD 3 0, joinctr := d.getD 4 0, obitctr := d.getD 5 0, arg0 := w64 (d.getD 6 0), arg1 := w64 (d.getD 7 0) }

/-- The reserved bits of a record's doublewords are zero (R6, R16). -/
def recReservedOk (d : List Nat) : Bool :=
  bitsOf (d.getD 0 0) 55 52 == 0 && !bitAt (d.getD 0 0) 0 && bitsOf (d.getD 2 0) 63 40 == 0

/-! ## The ready store -/

/-- The stash byte of a record slot (R234). -/
def slotByte (slot : Nat) : Nat := readyStore + 64 * slot
/-- The stash-linear fabric address of a record slot: TASKREC (R80, R234). -/
def State.slotFa (s : State) (stn slot : Nat) : Nat := stashFa s.cube stn (slotByte slot)
/-- Writes a record's image into its slot. The cube keeps what it acts on beside the image and never reads the image back: a store
to the record of a live task, which has no defined effect, keeps its value there until the image is next written and is not acted
on (R17, log entry 91). -/
def State.putImage (s : State) (stn : Nat) (r : RecEntry) : State :=
  s.setBytes (s.slotFa stn r.slot) (dwBytes (recDws r.body))

/-- The order of records in a ready store: key, then arrival (R19). -/
def RecLt (a b : RecEntry) : Bool := decide (a.key < b.key) || (a.key == b.key && decide (a.arr < b.arr))
/-- The record of a list that orders last, first. -/
def lastRec : List RecEntry → Option RecEntry
  | [] => none
  | r :: rs => match lastRec rs with | none => some r | some x => some (if RecLt x r then r else x)
def firstRec : List RecEntry → Option RecEntry
  | [] => none
  | r :: rs => match firstRec rs with | none => some r | some x => some (if RecLt x r then x else r)

/-- The lowest free record slot, among 4,096. -/
def freeSlot (used : NSet) : Option Nat := (List.range (used.length + 1)).find? (fun i => !used.has i && decide (i < 4096))

/-- Whether a station's spill region has room for another record (R234). -/
def State.spillRoom (s : State) (stn : Nat) : Bool :=
  decide (64 * ((s.stn stn).sched.spilled.length + 1) ≤ (s.stn stn).sched.spillSz)
/-- Whether a station can take another record: a free slot, or room in its spill region (R234). -/
def State.canInsert (s : State) (stn : Nat) : Bool := (freeSlot (s.stn stn).sched.slots).isSome || s.spillRoom stn

/-- R19, R235: the key of a record that enters a ready store now. -/
def State.keyOf (s : State) (stn : Nat) (r : Rec) : Nat :=
  if r.deadline ≠ 0 then r.deadline else s.datum + (s.stn stn).sched.horizon

/-- Puts a record that has a slot into the ready records. -/
def State.addReady (s : State) (stn : Nat) (r : RecEntry) : State :=
  (s.modSched stn (fun c => { c with ready := c.ready ++ [r], slots := c.slots.add r.slot })).putImage stn r

/-- A record goes to its station's spill. -/
def State.addSpill (s : State) (stn : Nat) (r : RecEntry) : State := s.modSched stn (fun c => { c with spilled := c.spilled ++ [r] })
/-- A record leaves its station's store and spill; its slot is given back. -/
def State.dropRecord (s : State) (stn : Nat) (r : RecEntry) : State :=
  s.modSched stn (fun c => { c with
    ready := c.ready.filter (fun x => x.tid != r.tid)
    spilled := c.spilled.filter (fun x => x.tid != r.tid)
    slots := if c.ready.any (fun x => x.tid == r.tid) then c.slots.del r.slot else c.slots })

/-- R234: a record enters a ready store; its key and arrival order are given. Every spilled record orders after every held one: a
record that a spilled one precedes goes to the spill, and where that has no room the first spilled one takes the free slot; a full
store sends the record that orders last to the spill. -/
def State.insertAs (s : State) (stn : Nat) (r : RecEntry) : State :=
  let c := (s.stn stn).sched
  match freeSlot c.slots, firstRec c.spilled, lastRec c.ready with
  | some k, none, _ => s.addReady stn { r with slot := k }
  | some k, some f, _ =>
    if RecLt r f then s.addReady stn { r with slot := k }
    else if s.spillRoom stn then s.addSpill stn r
    else ((s.dropRecord stn f).addReady stn { f with slot := k }).addSpill stn r
  | none, _, some l =>
    if RecLt r l then ((s.dropRecord stn l).addSpill stn l).addReady stn { r with slot := l.slot } else s.addSpill stn r
  | none, _, none => s.addSpill stn r

/-- A record enters a ready store with a new key and arrival order (R235). -/
def State.insertReady (s : State) (stn : Nat) (r : RecEntry) : State :=
  let n := (s.stn stn).sched.arrivals
  (s.modSched stn (fun c => { c with arrivals := n + 1 })).insertAs stn { r with key := s.keyOf stn r.body, arr := n }

/-- A record slot is given back. -/
def State.releaseSlot (s : State) (stn slot : Nat) : State := s.modSched stn (fun c => { c with slots := c.slots.del slot })

/-! ## While a station is pre-empted -/

/-- The other stations of a station's parcel that are not pre-empted, by ascending logical number starting above its own
(R243). -/
def State.otherStns (s : State) (stn : Nat) : List Nat :=
  match s.parcelAt stn with
  | none => []
  | some p =>
    let ss := servedStns s.tables.parcels p
    let after := (ss.dropWhile (fun x => x != stn)).drop 1
    let before := ss.takeWhile (fun x => x != stn)
    (after ++ before).filter (fun x => !(s.stn x).sched.preempted && decide ((s.stn x).boot = .released))

/-- Whether stealing, MOVE and balancing may take a record (R238): unpinned, kind 0, not held. -/
def RecEntryMovable (r : RecEntry) : Bool := r.body.kind == 0 && !r.body.pin && r.heldFor.isNone

/-- A record leaves a station for another (R140): the station publishes first. -/
def State.sendRecord (s : State) (stn cube dst : Nat) (r : RecEntry) : State :=
  s.beginPublication ⟨s.cube, stn, 0, .record cube dst r⟩

/-- Sends a record of a pre-empted station on: to the parcel's running stations in turn, held there when it may not run
elsewhere, or, where none is running, to the station's own spill, and to its store while that has no room (R243). -/
def State.sendAway (s : State) (stn : Nat) (r : RecEntry) : State :=
  let ds := s.otherStns stn
  let c := (s.stn stn).sched
  match ds[c.moveTurn % ds.length]? with
  | some d =>
    (s.modSched stn (fun c => { c with moveTurn := c.moveTurn + 1 })).sendRecord stn s.cube d
      (if RecEntryMovable r then r else { r with heldFor := r.heldFor.or (some stn) })
  | none =>
    let r1 := { r with heldFor := if r.heldFor = some stn then none else r.heldFor }
    if s.spillRoom stn then s.addSpill stn r1 else s.insertReady stn r1

/-- Where a record goes that becomes ready at a station: its ready store, or, while it is pre-empted, another station of
the parcel (R114, R158, R243). -/
def State.makeReady (s : State) (stn : Nat) (r : RecEntry) : State :=
  if (s.stn stn).sched.preempted then s.sendAway stn r else s.insertReady stn r

/-- A parked record becomes ready at its station, to go on as its `resume` says. -/
def State.unpark (s : State) (stn : Nat) (r : RecEntry) (next : Resume) : State :=
  (s.modSched stn (fun c => { c with parked := c.parked.filter (fun x => x.tid != r.tid) })).makeReady stn { r with resume := next }

/-! ## Where a record is -/

/-- The stations with the records they hold. -/
def State.records (s : State) : List (Nat × RecEntry) :=
  (s.stations.map (fun e => (e.2.sched.parked ++ e.2.sched.ready ++ e.2.sched.spilled).map (fun r => (e.1, r)))).flatten

/-- Whether a record, on its way, is a task's: a demand that lets it leave, a message that carries it. -/
def demandCarries (d : Demand) (tid : Nat) : Bool := match d.pubFor with | .record _ _ r => r.tid == tid | _ => false
def msgCarries (m : Msg) (tid : Nat) : Bool :=
  match m with
  | .recordMove _ r => r.tid == tid
  | .publicationComplete d _ => demandCarries d tid
  | .packetRouting p => (match p.body with | .record r => r.tid == tid | _ => false)
  | _ => false
/-- Whether a task's record is on its way between stations. -/
def State.recordMoving (s : State) (tid : Nat) : Bool :=
  s.net.any (fun m => msgCarries m tid) || s.stations.any (fun e => e.2.slice.pubs.any (fun p => demandCarries p.demand tid)) ||
  s.e2e.pairs.any (fun p => (p.unacked ++ p.waiting).any (fun u => msgCarries u.msg tid && !u.acked))

/-! ## Messages one after another -/

/-- A request has been acknowledged: what waited for it is sent. -/
def State.proceed (s : State) (id : Nat) : State :=
  match s.after.find? (fun e => e.1 == id) with
  | none => s
  | some e => ({ s with after := s.after.filter (fun e => e.1 != id) }).sendSeq e.2

/-! ## Retirement -/

/-- The statuses with which an update also sets bit 63 (R22). -/
def breaks (status : Nat) : Bool := status == 2 || status == 3 || status == 4 || status == 6

/-- A counter's fabric address, as an atomic of the task would form it; none where the update cannot be made. Table words that other
cubes hold are looked for among those that the cube has read. -/
def State.counterFa (s : State) (stn va : Nat) : Got (Option Nat) :=
  if va = 0 then .ok none
  else match s.translate s.tables.buf stn (s.ptagAt stn) va .rw with
  | .ok r => .ok (match s.reach ⟨stn, false, false⟩ r.1 with | .ok _ => if va % 8 = 0 then some r.1 else none | .error _ => none)
  | .hold => .hold
  | .need fas => .need fas
  | .bad _ _ => .ok none

/-- The next release number of a station. -/
def State.nextRel (s : State) (stn : Nat) : Nat × State :=
  ((s.stn stn).slice.relseq + 1, s.modSlice stn (fun l => { l with relseq := l.relseq + 1 }))

/-- A counter update: adds 1, and sets bit 63 for a breaking status, as a release at domain scope (R22, R209). -/
def State.counterMsg (s : State) (stn fa ptag : Nat) (broken : Bool) : Msg × State :=
  let i := s.freshId
  let q := i.2.nextRel stn
  (.atomic ⟨i.1, .cube, stn, fa, fa, if broken then 21 else 0, false, 1, 0, 2, 3, 0, 0, (s.stn stn).slice.sig, q.1, ptag⟩, q.2)

/-- A strong store of the cube's own. -/
def State.storeMsg (s : State) (stn fa ptag : Nat) (bs : List Byte) : Msg × State :=
  let i := s.freshId
  (.write ⟨i.1, .cube, stn, fa, fa, bs, [], 1, 3, 0, 0, 0, ptag⟩, i.2)

/-- A counter's update, or the error record of one that cannot be made. -/
def State.counterStep (s : State) (stn ptag va : Nat) (fa : Option Nat) (broken : Bool) : List Msg × State :=
  if va = 0 then ([], s)
  else match fa with
  | none => ([], s.logError ptag 6 va 1)
  | some a => let r := s.counterMsg stn a ptag broken; ([r.1], r.2)

/-- R22, R23: a task retires with a status and a trap cause: its status word, its join counter and its obituary counter,
in that order. The addresses of the counters have been formed. -/
def State.retireWith (s : State) (stn : Nat) (r : RecEntry) (status cause : Nat) (join obit : Option Nat) : State :=
  let ptag := s.ptagAt stn
  let word := status + cause % 256 * 256 + s.datum % 2 ^ 48 * 2 ^ 16
  let a : List Msg × State :=
    if r.reply = 0 then ([], s)
    else match s.reach ⟨stn, false, false⟩ r.reply with
    | .ok _ => if r.reply % 8 = 0 then (let m := s.storeMsg stn r.reply ptag (bytesOf 8 word); ([m.1], m.2)) else ([], s.logError ptag 6 r.reply 1)
    | .error _ => ([], s.logError ptag 6 r.reply 1)
  let b := a.2.counterStep stn ptag r.body.joinctr join (breaks status)
  let c := if r.body.arrived then ([], b.2) else b.2.counterStep stn ptag r.body.obitctr obit true
  c.2.sendSeq (a.1 ++ b.1 ++ c.1)

/-- Forgets the words that the cube has read from other cubes for itself, since a later use reads them again. -/
def State.forgetRead (s : State) : State :=
  if s.tables.buf.isEmpty then s else { s with tables := { s.tables with buf := [], bufAsked := [] } }

/-- Retires a task whose counters' tables are at hand; none while words of them are still to be read. -/
def State.retire? (s : State) (stn : Nat) (r : RecEntry) (status cause : Nat) : Option State :=
  match s.counterFa stn r.body.joinctr, s.counterFa stn r.body.obitctr with
  | .ok j, .ok o => some (s.forgetRead.retireWith stn r status cause j o)
  | _, _ => none
/-- A retirement that waits asks other cubes for the table words that it needs; it is then tried again. -/
def State.askRetire (s : State) (stn : Nat) (r : RecEntry) : State :=
  let need := fun (g : Got (Option Nat)) => match g with | .need fas => fas | _ => []
  s.askWords (s.ptagAt stn) (need (s.counterFa stn r.body.joinctr) ++ need (s.counterFa stn r.body.obitctr))

/-- R25, R111: a record that is refused retires FAULT to its reply address, without updating any counter. -/
def State.refuseRecord (s : State) (stn reply : Nat) : State :=
  s.retireWith stn { body := {}, tid := 0, ptag := 0, reply := reply, key := 0, arr := 0, slot := 0, sig := none, heldFor := none
                     resume := .again } 3 0 none none

end Sys2Proof.Machine
end

