-- ==== Sys2Proof/Machine/Requester.lean ====
section
/-! DEFINITION. The requester's side of memory: what an acquire drops (R139), where read data goes (R125, R127, R134),
how accesses in flight complete (R123, R152, R154, R156), and what a woken task does next (R158). -/

namespace Sys2Proof.Machine

/-! ## Signatures received -/

/-- The largest lease length among the regions that map memory of a tenant's parcels and the defaults (R136). -/
def State.maxLease (s : State) (tenant : Option Nat) : Nat :=
  s.tables.regions.foldl (fun m e =>
    let l := layoutOf e.2
    let mine := (List.range l.ccount).any (fun i =>
      (s.parcelsOf (Map.get 0 s.tables.cubes (l.cstart + i) % 4096)).any (fun p =>
        some p.tenant == tenant && Nat.land p.vmask l.vmask != 0))
    if l.valid && mine then max m (max l.copyLease l.repLease) else m) (max s.tables.copyLease s.tables.repLease)

/-- R139: a station drops every clean non-home word whose chunk hits a signature, those that are still on their way to it among
them, and keeps the signature until every lease that may stand has passed (R136). -/
def State.acquireSig (s : State) (stn : Nat) (g : Sig) : State :=
  let gone := fun (fa : Nat) (dirty : Bool) => !dirty && sigHit g (chunkOf fa)
  let until_ := s.datum + s.maxLease (s.tenantAt stn)
  let s1 := (s.trimSlice stn (fun b w => !b.home && gone (wordFa b.region w.ix) w.dirty)).modSlice stn (fun l =>
    { l with windows := l.windows.map (fun w => { w with lines := w.lines.filter (fun x => !gone (w.faOf x.ix) x.dirty) })
             fills := l.fills.map (fun f => { f with voidSig := f.voidSig ||| g })
             sigrcv := l.sigrcv ++ [(until_, g)] })
  s1.schedule (until_ + 1) (.sigrcvExpiry stn)

/-! ## Where read data goes -/

/-- The whole block words among bytes from an address. -/
def wordsIn (fa : Nat) (bs : List Byte) : List (Nat × BlockWord) :=
  (piecesOf fa bs).filterMap (fun p => if p.2.length = 16 then some (p.1, BitVec.ofNat 128 (natOf p.2)) else none)

/-- Whether a word that has come is to be kept: its lease still runs (R134), and nothing that the station has acquired or
changed since it was asked for makes it stale (R139, R144). -/
def Fill.keeps (f : Fill) (datum : Nat) (w : Line) : Bool :=
  let c := chunkOf (wordFa f.region w.ix)
  decide (datum ≤ w.expiry) && !f.void.has c && !sigHit f.voidSig c

/-- Whether a present word gives way to one that has come: it is clean, its lease has passed, and it is no younger (R127,
R134). -/
def renews (datum : Nat) (dirty : Bool) (old : Nat) (new : Line) : Bool :=
  !dirty && decide (old < datum) && decide (old ≤ new.expiry)

/-- Installs words as copies: in a window that maps their chunk, otherwise in the slice, a maximal gap as one block; words
present are kept unless their lease has passed (R125, R127, R134). -/
def State.installCopies (s : State) (stn : Nat) (f : Fill) : State :=
  let ls := f.lines.filter (f.keeps s.datum)
  let win := fun (st : State) (w : Line) => (st.stn stn).slice.windowOf (chunkOf (wordFa f.region w.ix))
  let s1 := ls.foldl (fun st w =>
    match win st w with
    | some (v, c) =>
      let ix := c * 4 + w.ix % 4
      if v.lines.any (fun x => x.ix == ix && !renews s.datum x.dirty x.expiry w) then st else st.putWin stn v { w with ix := ix }
    | none => st) s
  let rest := ls.filter (fun w => (win s w).isNone)
  let s2 := s1.modSlice stn (fun l => rest.foldl (fun l w =>
    l.modLine f.region w.ix (fun x => if renews s.datum x.dirty x.expiry w then w else x)) l)
  s2.fillSlice stn false f.region f.ptag rest

/-- A leased reply reaches its station: its words join their fill, which is installed once it is whole; each chunk's lease is
timed. -/
def State.takeCopies (s : State) (r : ReadRep) : State :=
  let stn := r.req.stn
  let ls := (wordsIn r.req.fa r.data).map (fun e =>
    (⟨ixOf e.1, e.2, false, r.poison.contains (bwOf e.1), r.expiry, r.req.lease == 2⟩ : Line))
  let fs := (s.stn stn).slice.fills
  let s1 := match fs.find? (fun f => f.reqs.contains r.req.id) with
    | some f =>
      let g := { f with reqs := f.reqs.filter (fun i => i != r.req.id)
                        lines := f.lines.filter (fun w => decide (w.ix < ixOf r.req.fa)) ++ ls ++
                          f.lines.filter (fun w => decide (ixOf r.req.fa < w.ix)) }
      let others := fs.filter (fun f => !f.reqs.contains r.req.id)
      if g.reqs.isEmpty then (s.modSlice stn (fun l => { l with fills := others })).installCopies stn g
      else s.modSlice stn (fun l => { l with fills := g :: others })
    | none => s
  (chunksIn r.req.fa r.data.length).foldl (fun st c => st.schedule (r.expiry + 1) (.leaseExpiry stn c)) s1

/-- A reply without a lease answers a request of a fill: its words are not copied. -/
def State.dropFill (s : State) (stn id : Nat) : State :=
  s.modSlice stn (fun l => { l with fills := l.fills.filter (fun f => !f.reqs.contains id) })

/-- R134: the clean copies of a chunk whose lease has passed are dropped. -/
def State.expireChunk (s : State) (stn chunk : Nat) : State :=
  (s.trimSlice stn (fun b w =>
    !b.home && !w.dirty && decide (wordFa b.region w.ix / 64 = chunk) && decide (w.expiry < s.datum))).modSlice stn (fun l =>
      { l with windows := l.windows.map (fun w => { w with lines := w.lines.filter (fun x =>
          x.dirty || decide (w.faOf x.ix / 64 ≠ chunk) || decide (s.datum ≤ x.expiry)) }) })

/-! ## Accesses in flight -/

/-- A poison report becomes pending; an earlier one stays (R152, R248). -/
def Ctx.poisoned (c : Ctx) (addr : Nat) : Ctx :=
  { c with flow := { c.flow with ppend := c.flow.ppend.or (some (w64 addr)) } }

/-- The lower of an address and one that may stand already. -/
def lower (a : Nat) (b : Option Nat) : Option Nat := some (match b with | some x => min a x | none => a)

/-- What an entry of posted elements comes to: once it has left its queue and every element has been acknowledged, its lowest
poisoned address is reported (R152). -/
def Ctx.settlePosted (c : Ctx) (num : Nat) : Ctx :=
  match c.flow.vposted.find? (fun v => v.num == num) with
  | some v =>
    if v.queued || !v.ids.isEmpty then c
    else
      let d := { c with flow := { c.flow with vposted := c.flow.vposted.filter (fun v => v.num != num) } }
      match v.bad with | some a => d.poisoned a | none => d
  | none => c

/-- Changes what is kept of an entry's posted elements. -/
def Ctx.modPosted (c : Ctx) (num : Nat) (f : VPosted → VPosted) : Ctx :=
  let vs := c.flow.vposted
  let v := f ((vs.find? (fun v => v.num == num)).getD ⟨num, true, [], none⟩)
  { c with flow := { c.flow with vposted := v :: vs.filter (fun v => v.num != num) } }

/-- An entry has left its queue and the pipeline. -/
def Ctx.postedOver (c : Ctx) (num : Nat) : Ctx :=
  if c.flow.vposted.any (fun v => v.num == num) then (c.modPosted num (fun v => { v with queued := false })).settlePosted num else c

/-- A posted store or atomic has been acknowledged: poison that it met is reported, that of a vector instruction's elements once all
of them have been (R152). -/
def Ctx.postedDone (c : Ctx) (id : Nat) (bad : Option Nat) : Ctx :=
  match c.flow.vposted.find? (fun v => v.ids.contains id) with
  | some v =>
    (c.modPosted v.num (fun v => { v with ids := v.ids.filter (fun i => i != id)
                                          bad := match bad with | some a => lower a v.bad | none => v.bad })).settlePosted v.num
  | none => match bad with | some a => c.poisoned a | none => c

/-- The value of loaded bytes. -/
def loadValue (bs : List Byte) (signed? : Bool) : Word :=
  if signed? then BitVec.ofInt 64 (signed (8 * bs.length) (natOf bs)) else w64 (natOf bs)

/-- The registers that an access's result goes to, with their values. -/
def Flight.results (f : Flight) (bs : List Byte) : List (Nat × Word) :=
  match f.kind with
  | .load (.reg r _ sg) => [(r, loadValue bs sg)]
  | .load (.pair r) => [(r, w64 (natOf (bs.take 8))), (r + 1, w64 (natOf (bs.drop 8)))]
  | .atomic (some r) _ => [(r, w64 (natOf bs))]
  | _ => []

/-- Writes a result to a register that still waits for it. -/
def Ctx.deliver (c : Ctx) (owes : List Nat) (r : Nat) (v : Word) : Ctx := if owes.contains r then c.writePhys r v else c

/-- The station cycles of 3.3 GHz that a load took, as far as the datum says: what the two ticks at its ends leave open is a
free value (log entry 3). -/
def State.latency (s : State) (asked : Nat) : Nat × State :=
  let f := s.freshWord
  (33 * (s.datum - asked - 1) / 10 + f.1.toNat % 8, f.2)

/-- R294: a load's latency is sampled once, as the load completes: under source 0 that of an ordered one, under 1 any other's. -/
def State.sampleLoad (s : State) (stn : Nat) (ordered : Bool) (asked : Nat) : State :=
  if s.plat.monitors.isEmpty then s
  else let x := s.latency asked; x.2.observe (if ordered then 0 else 1) stn x.1

/-- An access whose parts have all arrived completes: its registers are written, its GSETs resolve, its poison is
reported, a load's latency is sampled. -/
def State.finishFlight (s : State) (l : Loc) (f : Flight) : State :=
  let bs := (f.pieces.map (fun p => p.data)).flatten
  let bad := f.pieces.find? (fun p => p.poison)
  let vs := f.results bs
  let s := match f.kind with | .load _ => s.sampleLoad l.stn f.strong f.asked | _ => s
  let fr := match bad with | some _ => s.freshWord | none => (0, s)
  let vs' := if bad.isSome then vs.map (fun e => (e.1, fr.1)) else vs
  let s1 := fr.2.modCtx l (fun c =>
    let c1 := vs'.foldl (fun c e => c.deliver f.owes e.1 e.2) c
    match bad with | some p => c1.poisoned p.va | none => c1)
  f.gsets.foldl (fun st g =>
    let v := ((if g.2.2 then vs'.drop 1 else vs').head?.map (fun e => e.2)).getD 0
    st.send (.guardSlotResolution l g.1 (if g.2.1 then v == 0 else v != 0))) s1

/-- Gives the pieces of a context's accesses that a request carries their answer, bytes from an address with the
poisoned block words among them; completes the access when nothing more is awaited. -/
def State.arrive (s : State) (l : Loc) (id fa : Nat) (data : List Byte) (poison : List Nat) : State :=
  let fs := (s.ctx l).flow.flights
  let isF := fun (g : Flight) => g.pieces.any (fun p => p.id == id)
  match fs.find? isF with
  | none => s
  | some f =>
    let f' := { f with pieces := f.pieces.map (fun p => if p.id = id then
        { p with id := 0, data := (data.drop (p.fa - fa)).take p.len, poison := poison.contains (bwOf p.fa) } else p) }
    if f'.pieces.all (fun p => p.id == 0) then
      (s.modCtx l (fun c => { c with flow := { c.flow with flights := c.flow.flights.filter (fun g => !isF g) } })).finishFlight l f'
    else s.modCtx l (fun c => { c with flow := { c.flow with flights := c.flow.flights.map (fun g => if isF g then f' else g) } })

/-- A read reply reaches the one who asked. -/
def State.takeRead (s : State) (r : ReadRep) : State :=
  let s1 := match r.sig with | some g => s.acquireSig r.req.stn g | none => s
  let s2 := if r.expiry = 0 then s1.dropFill r.req.stn r.req.id else s1.takeCopies r
  let ws : ReadBuf := (wordsIn r.req.fa r.data).map (fun e => (bwOf e.1, e.2, r.poison.contains (bwOf e.1)))
  match r.req.src with
  | .task l tid =>
    if (s2.ctx l).tid ≠ tid then s2
    else match r.req.dest with
    | .buffer _ =>
      let wants := fun (asked : List Nat) => ws.any (fun w => asked.contains w.1)
      (s2.modCtx l (fun c =>
        if wants c.flow.asked then { c with flow := { c.flow with rbuf := ws ++ c.flow.rbuf } } else c)).modVec l.stn (fun v =>
          let take := fun (e : VEntry) => if e.at_ = l ∧ wants e.asked then { e with buf := ws ++ e.buf } else e
          { v with queues := v.queues.map (fun q => (q.1, q.2.map take)), pipe := v.pipe.map take })
    | _ => s2.arrive l r.req.id r.req.fa r.data r.poison
  | .engine stn => s2.modEng stn (fun e =>
      let came := fun (b : Nat) => ws.any (fun w => w.1 == b)
      let who := (e.readsAsked.filter (fun x => x.2.any came)).map (fun x => x.1)
      { e with reads := who.foldl (fun m k => Map.set [] m k (ws ++ Map.get [] m k)) e.reads
               readsAsked := who.foldl (fun m k => Map.set [] m k ((Map.get [] m k).filter (fun x => !came x))) e.readsAsked })
  | .cube => { s2 with tables := { s2.tables with buf := ws ++ s2.tables.buf, bufAsked := s2.tables.bufAsked.del (bwOf r.req.fa) } }
  | .packet _ => s2


/-- The register value of an atomic's old value (R156). -/
def atomValue (a : AtomReq) (old : Nat) : Nat :=
  if a.w32 ∧ (a.op = 4 ∨ a.op = 6) then (BitVec.ofInt 64 (signed 32 old)).toNat else old

/-- A stalled instruction completes with a value, or traps POISON (R152, R154, R157). -/
def State.completeWaiting (s : State) (l : Loc) (dest : Nat) (v : Word) (poison : Option Nat) : State :=
  let n := (s.ctx l).flow.waitWords
  let s1 := s.modCtx l (fun c => { c with flow := { c.flow with waitOn := none, waitWords := 0 } })
  match poison with
  | some a => s1.trapOf l causePOISON (w64 a) n
  | none => s1.modCtx l (fun c => (c.writeG dest v).retire n)

/-- A write acknowledgement: what waited for it follows; its counter falls, and poison that it met is reported; a local store
completes, or traps POISON precisely (R123, R152). -/
def State.takeWriteAck (s : State) (w : WriteReq) : State :=
  match w.src with
  | .task l tid =>
    let s := s.proceed w.id
    let bad := if w.poison.isEmpty then none else some w.va
    if (s.ctx l).tid ≠ tid then s
    else if (s.ctx l).flow.waitOn = some w.id then s.completeWaiting l 0 0 bad
    else (s.modCtx l (fun c => (c.addCount w.counter false).postedDone w.id bad)).arrive l w.id w.fa [] []
  | .engine stn => s.modEng stn (fun e =>
      { e with writesOut := e.writesOut.filter (fun i => i != w.id)
               wroteBad := if w.poison.isEmpty then e.wroteBad else e.wroteBad ++ [(w.id, w.va)] })
  | .cube => s.proceed w.id
  | .packet _ => s
/-- An atomic's reply: its flags are ORed into FFLAGS, its counter falls and its register is written (R156). -/
def State.takeAtomic (s : State) (r : AtomRep) : State :=
  let a := r.req
  let s1 := match r.sig with | some g => s.acquireSig a.stn g | none => s
  match a.src with
  | .task l tid =>
    if (s1.ctx l).tid ≠ tid then s1
    else if (s1.ctx l).flow.waitOn = some a.id then
      (s1.modCtx l (fun c => { c with csr := { c.csr with fflags := Nat.lor c.csr.fflags r.flags } })).completeWaiting l a.dest
        (w64 r.old) (if r.poisoned then some a.va else none)
    else
      (s1.modCtx l (fun c =>
        let c1 := c.addCount a.counter false
        let c2 := { c1 with csr := { c1.csr with fflags := Nat.lor c1.csr.fflags r.flags } }
        if a.dest = 0 then c2.postedDone a.id (if r.poisoned then some a.va else none) else c2)).arrive l a.id a.fa (bytesOf 8 (atomValue a r.old)) (if r.poisoned then [bwOf a.fa] else [])
  | .engine stn => s1.modEng stn (fun e =>
      { e with writesOut := e.writesOut.filter (fun i => i != a.id)
               wroteBad := if r.poisoned then e.wroteBad ++ [(a.id, a.va)] else e.wroteBad })
  | .cube =>
    s1.proceed a.id
  | .packet _ => s1

/-! ## Waking a task (R114, R158, R230) -/

/-- The value that a wait writes to its register. -/
def wakeValue (m : WakeMsg) : Word :=
  if m.reg.cond = .join then (if m.val.getLsbD 63 then 6 else 0) else m.val

/-- Two signatures together. -/
def sigBoth : Option Sig → Option Sig → Option Sig
  | some a, some b => some (a ||| b)
  | some a, none => some a
  | none, b => b

/-- R158: the task that a wake names completes its wait in place, or goes back to a ready store; what its acquire drops is dropped
where it waits, or, for a record, where it next runs (R114, R140). -/
def State.takeWake (s : State) (m : WakeMsg) : State :=
  let next : Resume := if m.poisoned then .again else .complete m.reg.dest (wakeValue m) m.reg.words
  match (match m.reg.src, m.reg.tid with | .task l _, 0 => some l | _, tid => s.whereIs tid) with
  | some l =>
    let s1 := match m.sig with | some g => s.acquireSig l.stn g | none => s
    let c := s1.ctx l
    if c.flow.waitOn.isSome then
      s1.completeWaiting l m.reg.dest (wakeValue m) (if m.poisoned then some m.reg.va else none)
    else s1.modCtx l (fun c => { c with flow := { c.flow with susp := match c.flow.susp with
      | some (.park _ _) => some (.park next true)
      | x => x } })
  | none =>
    -- the record parks where it suspended, or where a resize has moved it (R281)
    match s.records.find? (fun e => e.2.tid == m.reg.tid && (s.stn e.1).sched.parked.contains e.2) with
    | some (n, r) => s.unpark n { r with sig := sigBoth r.sig m.sig } next
    | none => s

/-- A wait has been armed: its issue cycles are charged (R20) and the task parks (R14, R157). In supervisor mode the instruction stays stalled until it is
answered (log entry 12). -/
def State.parkWaiting (s : State) (l : Loc) : State :=
  s.modCtx l (fun c => if c.sup then c else
    let d := c.charge c.flow.waitWords
    { d with flow := { d.flow with waitOn := none, waitWords := 0, susp := some (.park .again false) } })

end Sys2Proof.Machine
end

