-- ==== Sys2Proof/Machine/Access.lean ====
section
/-! DEFINITION. How an instruction's access is ordered behind earlier ones (R123, R144, R145, R150, R151), and how a
station looks for and fills block words (R125 to R128). -/

namespace Sys2Proof.Machine

/-! ## Waiting for earlier accesses -/

/-- A wait counter of R123 by its number. -/
def State.waitCount (s : State) (l : Loc) (n : Nat) : Nat :=
  match n with
  | 1 => (s.ctx l).flow.c1
  | 2 => (s.ctx l).flow.c2
  | 3 => s.c3of (s.ctx l).tid
  | _ => 0

/-- Whether an earlier vector memory instruction of a context still has to touch a block word (R166). -/
def State.vecTouches (s : State) (l : Loc) (bw : Nat) : Bool :=
  (Map.get [] (s.stn l.stn).vec.queues l.core ++ (s.stn l.stn).vec.pipe).any (fun e =>
    e.at_ == l && e.elems.any (fun x => bwOf x.2.1 == bw))

/-- Whether an access in flight touches a block word. -/
def Flight.touches (f : Flight) (bw : Nat) : Bool := f.pieces.any (fun p => bwOf p.fa == bw)

/-- Whether an earlier strong store or atomic is in flight (R145). -/
def Flight.strongStore (f : Flight) : Bool :=
  f.strong && (match f.kind with | .load _ => false | _ => true)

namespace Exec

/-- R151: waits for the counter that WC names. -/
def waitWC (wc : Nat) : Exec Unit := do
  let s ← get
  wait (s.waitCount s.hand.at_ wc == 0)

/-- No access of a task is performed before its earlier acquire completes (R150). -/
def afterAcquire : Exec Unit := do
  let c ← ctx
  wait (!c.flow.flights.any (fun f => f.acquire))

/-- An access waits for the task's earlier accesses to the same block words (R144, R166). -/
def afterSame (bws : List Nat) : Exec Unit := do
  let s ← get
  wait (!bws.any (fun b => s.cur.flow.flights.any (fun f => f.touches b) || s.vecTouches s.hand.at_ b))

/-- R123: the local accesses of a task are performed in program order: one waits for an earlier one still in flight. -/
def afterLocal (ps : List Part) : Exec Unit := do
  let s ← get
  let l := s.hand.at_
  let mine := fun (fa : Nat) => match s.place fa with | .ok pl => s.isLocal l.stn pl | .error _ => false
  wait (!ps.any (fun p => s.isLocal l.stn p.pl) ||
    !s.cur.flow.flights.any (fun f => f.pieces.any (fun p => p.id != 0 && mine p.fa)))

/-- An instruction's own read of `n` bytes: a plain load, after the task's earlier accesses (R144, R150). -/
def readOwn (ea n : Nat) : Exec (List Byte) := do
  afterAcquire
  let ps ← parts .va .r (n / 16 + 2) ea n
  afterSame (ps.map (fun p => bwOf p.fa))
  afterLocal ps
  readNow .r ea n

/-- R145: a strong store or atomic is sent only after the one before it has been performed. -/
def afterStrong : Exec Unit := do
  let c ← ctx
  wait (!c.flow.flights.any (fun f => f.strongStore))

/-- Earlier vector instructions of the task have completed. -/
def drained : Exec Unit := do
  let s ← get
  wait (!s.vecPending s.hand.at_)

/-- Whether an access in flight is a store or atomic. -/
def isStoring (f : Flight) : Bool := match f.kind with | .load _ => false | _ => true

/-- R137, R150: what a release waits for. A wide one waits for vector instructions, posted operations, local stores that are
held, and loads in flight, which must not return what happens after it (R144, log entry 82); a narrow one for accesses homed here
and vector stores. -/
def beforeRelease (scope : Scope) : Exec Unit := do
  drained
  let c ← ctx
  match scope with
  | .core => wait (!c.flow.flights.any (fun f => f.pieces.any (fun p => p.id != 0) && (match f.kind with | .store 0 => true | .atomic _ 0 => true | .load _ => true | _ => false)))
  | .stn => wait (!c.flow.flights.any (fun f => f.pieces.any (fun p => p.id != 0) && (match f.kind with | .store 0 => true | .atomic _ 0 => true | .load _ => true | _ => false)))
  | .cube => wait (c.flow.c1 == 0 && c.flow.flights.all (fun f => match f.kind with | .store 2 => true | .atomic _ 2 => true | _ => false))
  | .dom => wait (c.flow.c1 == 0 && c.flow.c2 == 0 && c.flow.flights.isEmpty)

end Exec

/-- The numbers of SCOPE (R67). -/
def scopeNum : Scope → Nat
  | .core => 0 | .stn => 1 | .cube => 2 | .dom => 3
/-- Acquire and release halves of an ORDER (R67). -/
def Order.isAcq : Sys2Proof.Order → Bool
  | .acq => true | .ar => true | _ => false
def Order.isRel : Sys2Proof.Order → Bool
  | .rel => true | .ar => true | _ => false

/-- Starts an access in flight, or completes it where everything is at hand. -/
def Exec.launch (f : Flight) : Exec Unit := do
  let s ← get
  let l := s.hand.at_
  let s1 := s.modCtx l (fun c => { c with flow := f.owes.foldl (fun fl r => fl.disown r) c.flow })
  if f.pieces.all (fun p => p.id == 0) then set (s1.finishFlight l f)
  else set (s1.modCtx l (fun c => { c with flow := { c.flow with flights := c.flow.flights ++ [f] } }))

/-! ## A station's own copy before a strong access (R145) -/

/-- The dirty words of a chunk that a station holds of another home, in its slice and windows: window or not, and the
line. -/
def State.ownDirty (s : State) (stn chunk : Nat) : Bool :=
  let l := (s.stn stn).slice
  l.blocks.any (fun b => !b.home && b.lines.any (fun w => w.dirty && wordFa b.region w.ix / 64 == chunk)) ||
  l.windows.any (fun w => w.lines.any (fun x => x.dirty && w.faOf x.ix / 64 == chunk))

/-- Writes back the dirty words of a station that a test picks by fabric address, copies and window words to their homes
and, with `homes`, home blocks to DRAM; they stay, clean. -/
def State.flushWords (s : State) (stn : Nat) (homes : Bool) (pick : Nat → Bool) : State :=
  let l := (s.stn stn).slice
  let sel := fun (b : Block) (w : Line) => w.dirty && (homes || !b.home) && pick (wordFa b.region w.ix)
  let s1 := s.modSlice stn (fun l =>
    { l with blocks := l.blocks.map (fun b => { b with lines := b.lines.map (fun w => if sel b w then { w with dirty := false } else w) })
             windows := l.windows.map (fun w => { w with lines := w.lines.map (fun x =>
               if x.dirty && pick (w.faOf x.ix) then { x with dirty := false } else x) }) })
  let s2 := l.blocks.foldl (fun st b => b.lines.foldl (fun st w =>
    if sel b w then (if b.home then st.homeToDram stn b.region b.ptag w else st.writeBack stn b.region b.ptag w) else st) st) s1
  l.windows.foldl (fun st w => w.lines.foldl (fun st x =>
    let fa := w.faOf x.ix
    if x.dirty && pick fa then st.writeBack stn (regionOf fa) w.ptag { (s.winData stn w x) with ix := ixOf fa } else st) st) s2

/-- Drops the clean words of a station that a test picks, and those still on their way to it. -/
def State.dropWords (s : State) (stn : Nat) (homes : Bool) (pick : Nat → Bool) : State :=
  ((s.trimSlice stn (fun b w => (homes || !b.home) && !w.dirty && pick (wordFa b.region w.ix))).voidFills stn (fun c =>
    (List.range 4).any (fun k => pick (c * 64 + 16 * k)))).modSlice stn (fun l =>
      { l with windows := l.windows.map (fun w => { w with lines := w.lines.filter (fun x => x.dirty || !pick (w.faOf x.ix)) }) })

/-- R145: a strong access first writes back and drops its station's copy of its chunk, and waits for the write-backs. -/
def Exec.cleanChunk (fa : Nat) : Exec Unit := do
  let s ← get
  let n := s.hand.at_.stn
  let pick := fun (a : Nat) => chunkOf a == chunkOf fa
  if s.ownDirty n (chunkOf fa) then set (s.flushWords n false pick)
  let s ← get
  Exec.wait (!(s.stn n).slice.wbOut.any (fun e => e.2 / 4 == chunkOf fa))
  set (s.dropWords n false pick)

/-! ## Looking for a block word -/

/-- What a station finds of a block word: the word, a wait, or that it must be fetched from its home. -/
inductive Look where
  | have_ (w : BlockWord) (poison : Bool)
  | stall
  | fetch
deriving DecidableEq, Repr

/-- Whether a line may serve a load now (R134). -/
def Line.fresh (w : Line) (datum : Nat) : Bool := w.dirty || decide (datum ≤ w.expiry)

/-- Looks for a block word at a station (R123, R125, R127). -/
def State.look (s : State) (stn : Nat) (pl : Place) (fa : Nat) : Look :=
  let l := (s.stn stn).slice
  if l.wbOut.any (fun e => e.2 == bwOf fa) then .stall
  else match (if pl.stash then none else s.windowLine stn fa) with
  | some (some w) => if w.fresh s.datum then .have_ w.data w.poison else .fetch
  | some none => .fetch
  | none =>
    let atHome : Look :=
      if s.isLocal stn pl && !s.chunkHeld stn fa && (s.rebuildNeeds fa pl.canon).isEmpty then
        (let r := (s.rebuild fa pl.canon).homeWord pl fa; .have_ r.1 r.2)
      else .fetch
    match (if pl.stash then none else l.find pl.ptag (regionOf fa) (ixOf fa)) with
    | some (false, w) => if w.fresh s.datum then .have_ w.data w.poison else atHome
    | _ => atHome

/-! ## Fills (R127, R128) -/

/-- The places in a region that a fill of some places takes: those asked for, all with `.span`, otherwise as many more
on either side as the predictor chooses, as far as they have the same home. -/
def State.fillIxs (s : State) (pl : Place) (region lo hi : Nat) (span : Bool) (ext : Nat × Nat) : List Nat :=
  let a := if span then 0 else lo - min lo ext.1
  let b := if span then 127 else min 127 (hi + ext.2)
  ((List.range (b + 1 - a)).map (fun k => a + k)).filter (fun i =>
    match s.place (wordFa region i) with
    | .ok q => q.cube == pl.cube && q.stn == pl.stn
    | .error _ => false)

/-- A fill of home blocks from DRAM at the home's own station. -/
def State.fillHome (s : State) (pl : Place) (region lo hi : Nat) (span : Bool) : State :=
  let r := s.freshChoice
  let ixs := r.2.fillIxs pl region lo hi span (Config.fillExtent r.1)
  let ws := ixs.filterMap (fun i =>
    match r.2.place (wordFa region i) with
    | .ok q =>
      let w := r.2.homeWord q (wordFa region i)
      if r.2.unbuilt (wordFa region i) q.canon then none else some (⟨i, w.1, false, w.2, 0, false⟩ : Line)
    | .error _ => none)
  r.2.fillSlice pl.stn true region pl.ptag ws

/-- Splits places into requests of at most eight consecutive ones. -/
def chunksOf8 : Nat → List Nat → List (Nat × Nat)
  | 0, _ => []
  | _, [] => []
  | k + 1, i :: is =>
    let run := (i :: is).zip (List.range 8) |>.takeWhile (fun e => e.1 == i + e.2)
    (i, run.length) :: chunksOf8 k ((i :: is).drop run.length)

/-- The lease that an access asks for: 0 none, 1 a copy, 2 a replica (R128, R133). -/
def State.leaseFor (s : State) (pl : Place) (fa : Nat) (h : Hint) : Nat :=
  if pl.stash ∨ h = .nt then 0
  else if (s.leases fa).1 = 0 ∧ (h ≠ .rep ∨ (s.leases fa).2 = 0) then 0
  else if h = .rep ∧ (s.leases fa).2 ≠ 0 then 2 else 1

/-- Whether a station lacks a block word, or holds it clean past its lease: a fill asks for no other (R127, R134). -/
def State.lacks (s : State) (stn : Nat) (pl : Place) (fa : Nat) : Bool :=
  match s.windowLine stn fa with
  | some x => (x.map (fun w => !w.fresh s.datum)).getD true
  | none => match (s.stn stn).slice.find pl.ptag (regionOf fa) (ixOf fa) with
    | some (home, w) => !home && !w.fresh s.datum
    | none => true

/-- Asks a word's home for it with a lease, and for what the fill takes beside it; the request that carries the word has
the given number, and all requests of the fill are kept together (R127). -/
def State.askFill (s : State) (id : Nat) (src : Src) (stn : Nat) (dest : Dest) (pl : Place) (fa va n : Nat) (h : Hint) : State :=
  let lease := s.leaseFor pl fa h
  let lo := ixOf fa
  if lease = 0 then
    s.send (.readRequest ⟨id, src, stn, dest, fa / 16 * 16, va / 16 * 16, 16, 0, 0, 0, pl.ptag, s.datum⟩)
  else
    let inWin := (s.windowLine stn fa).isSome
    let r := s.freshChoice
    let ext := if inWin then (lo % 4, 3 - lo % 4) else Config.fillExtent r.1
    let hi := ixOf (fa + n - 1)
    let ixs := (r.2.fillIxs pl (regionOf fa) lo hi (h == .span && !inWin) ext).filter (fun i =>
      i == lo || s.lacks stn pl (wordFa (regionOf fa) i))
    let reqs := chunksOf8 128 (if ixs.contains lo then ixs else [lo])
    let t := reqs.foldl (fun (x : State × List Nat) q =>
      let mine := decide (q.1 ≤ lo ∧ lo < q.1 + q.2)
      let i := x.1.freshId
      let k := if mine then id else i.1
      let a := wordFa (regionOf fa) q.1
      ((if mine then x.1 else i.2).send (.readRequest ⟨k, src, stn, dest, a, va + a - fa, 16 * q.2, 0, 0, lease, pl.ptag, s.datum⟩),
       x.2 ++ [k])) (r.2, [])
    t.1.modSlice stn (fun l => { l with fills := l.fills ++ [⟨t.2, regionOf fa, pl.ptag, [], [], 0⟩] })

/-! ## Dirtying a copy -/

/-- A station dirties a copy or window word of a chunk: SIGACC (R136). -/
def State.markSig (s : State) (stn fa : Nat) : State :=
  s.modSlice stn (fun l => { l with sigacc := l.sigacc ||| sigOf (chunkOf fa) })

/-- Drops the replicas of a chunk at a station (R133). -/
def State.dropReplicas (s : State) (stn fa : Nat) : State :=
  s.trimSlice stn (fun b w => b.region == regionOf fa && !b.home && w.replica && decide (w.ix / 4 = ixOf fa / 4))

/-- Puts bytes into a copy or window word of a station, present or allocated whole. -/
def State.putCopy (s : State) (stn : Nat) (pl : Place) (fa : Nat) (old : BlockWord) (bs : List Byte) : State :=
  let w := mergeWord old (fa % 16) bs
  let set := fun (x : Line) => { x with data := w, dirty := true, poison := false }
  let s1 := match (s.stn stn).slice.windowOf (chunkOf fa) with
    | some (v, c) =>
      let ix := c * 4 + fa / 16 % 4
      s.putWin stn v ⟨ix, w, true, false, ((v.lines.find? (fun (y : WLine) => y.ix == ix)).map (fun (y : WLine) => y.expiry)).getD 0, false⟩
    | none =>
      match (s.stn stn).slice.find pl.ptag (regionOf fa) (ixOf fa) with
      | some _ => s.modSlice stn (fun l => l.modLine (regionOf fa) (ixOf fa) set)
      | none => s.fillSlice stn false (regionOf fa) pl.ptag [⟨ixOf fa, w, true, false, 0, false⟩]
  s1.markSig stn fa

end Sys2Proof.Machine
end

