-- ==== Sys2Proof/Machine/Float.lean ====
section
/-! DEFINITION. Scalar floating-point instructions (R99 to R102). -/

namespace Sys2Proof.Machine

/-- The number format of a page of set F (R72). -/
def fmtOf : FFmt → Fmt
  | .f32 => .f32 | .bf16 => .bf16 | .f16 => .f16

/-- The code in the low bits of a register (R37). -/
def codeIn (f : Fmt) (w : Word) : Nat := w.toNat % 2 ^ f.width

/-- R50: flags of an instruction whose only element position is 0 meet FTRAPEN, or are ORed into FFLAGS. -/
def withFlags (c : Ctx) (fl : Nat) (done : Ctx) (s : State) : Out :=
  if Nat.land fl c.csr.ftrapen ≠ 0 then .next (s.trap causeFPE (w64 fl))
  else .next (s.modCur (fun _ => ({ done with csr := { done.csr with fflags := Nat.lor done.csr.fflags fl } }).retire s.hand.words))

/-- A scalar floating operation: the stochastic state advances for `.rs`, after earlier vector instructions' advances
(R42, R51), the result is written and the flags act. -/
def scalarF (srcs : List Nat) (a : Nat) (rm : Rm) (f : Ctx → Nat → Word × Nat) (s : State) : Out :=
  if srcs.any s.cur.owed || (decide (rm = .rs) && s.vecPending s.hand.at_) then .next s
  else
    let c := s.cur
    let c1 := if rm = .rs then { c with csr := { c.csr with rndseed := rsAdvance c.csr.rndseed } } else c
    let draw := if rm = .rs then rsDraw c1.csr.rndseed.toNat 0 else 0
    let r := f c draw
    withFlags c r.2 (c1.writeG a r.1) s

/-- A two-source operation on decoded values. -/
def float2 (o : FOps) (op : FV → FV → Exact × Nat) (s : State) : Out :=
  let f := fmtOf o.fmt
  scalarF [o.b, o.c] o.a o.rm (fun c draw =>
    let r := finishF f o.rm draw (op (decodeF f (codeIn f (c.readG o.b))) (decodeF f (codeIn f (c.readG o.c))))
    (w64 r.1, r.2)) s

def execFadd (o : FOps) (s : State) : Out := float2 o (addFV o.rm) s
def execFsub (o : FOps) (s : State) : Out := float2 o (fun x y => addFV o.rm x y.neg) s
/-- The product as an exact result. -/
def mulExact (x y : FV) : Exact × Nat := let p := mulFV x y; (p.1.exact, p.2)
def execFmul (o : FOps) (s : State) : Out := float2 o mulExact s
def execFdiv (o : FOps) (s : State) : Out := float2 o divFV s
def execFsqrt (o : F1Ops) (s : State) : Out :=
  let f := fmtOf o.fmt
  scalarF [o.b] o.a o.rm (fun c draw =>
    let r := finishF f o.rm draw (sqrtFV (decodeF f (codeIn f (c.readG o.b))))
    (w64 r.1, r.2)) s
/-- R99: gB × gC + gA with one rounding. -/
def execFma (o : FOps) (s : State) : Out :=
  let f := fmtOf o.fmt
  scalarF [o.a, o.b, o.c] o.a o.rm (fun c draw =>
    let v := fun r => decodeF f (codeIn f (c.readG r))
    let r := finishF f o.rm draw (fmaFV o.rm (v o.b) (v o.c) (v o.a))
    (w64 r.1, r.2)) s

/-- A minimum or maximum of R46. -/
def floatMinMax (o : FOps) (isMax numPref : Bool) (s : State) : Out :=
  let f := fmtOf o.fmt
  scalarF [o.b, o.c] o.a .ne (fun c _ =>
    let r := fminmax f isMax numPref (codeIn f (c.readG o.b)) (codeIn f (c.readG o.c))
    (w64 r.1, r.2)) s
def execFmin (o : FOps) (s : State) : Out := floatMinMax o false false s
def execFmax (o : FOps) (s : State) : Out := floatMinMax o true false s
def execFminn (o : FOps) (s : State) : Out := floatMinMax o false true s
def execFmaxn (o : FOps) (s : State) : Out := floatMinMax o true true s

/-- The sign bit of a code set, cleared, inverted: bit operations that raise no flag (R44). -/
def signPart (f : Fmt) (x : Nat) : Nat := x / f.signBit % 2 * f.signBit
def execFneg (o : F1Ops) (s : State) : Out :=
  let f := fmtOf o.fmt
  scalarF [o.b] o.a .ne (fun c _ => (w64 (Nat.xor (codeIn f (c.readG o.b)) f.signBit), 0)) s
def execFabs (o : F1Ops) (s : State) : Out :=
  let f := fmtOf o.fmt
  scalarF [o.b] o.a .ne (fun c _ => (w64 (codeIn f (c.readG o.b) % f.signBit), 0)) s
def execFsgn (o : FOps) (s : State) : Out :=
  let f := fmtOf o.fmt
  scalarF [o.b, o.c] o.a .ne (fun c _ =>
    (w64 (codeIn f (c.readG o.b) % f.signBit + signPart f (codeIn f (c.readG o.c))), 0)) s

/-- A type of R74 as a number format, or an integer's width and signedness. -/
inductive CKind where
  | fp (f : Fmt)
  | int (w : Nat) (sgn : Bool)
deriving DecidableEq, Repr
def cKind : CTy → CKind
  | .f32 => .fp .f32 | .bf16 => .fp .bf16 | .f16 => .fp .f16 | .e4m3 => .fp .e4m3 | .e5m2 => .fp .e5m2
  | .i64 => .int 64 true | .n64 => .int 64 false | .i32 => .int 32 true | .n32 => .int 32 false
  | .i16 => .int 16 true | .n16 => .int 16 false | .i8 => .int 8 true | .n8 => .int 8 false

/-- The width of a conversion type. -/
def CKind.width : CKind → Nat
  | .fp f => f.width
  | .int w _ => w

/-- One conversion of R47 and R48: the source's low bits to the destination's bits (an integer result modulo 2^w), and
flags. -/
def convert (d s : CKind) (rm : Rm) (sat : Bool) (draw code : Nat) : Nat × Nat :=
  match d, s with
  | .fp fd, .fp fs => cvtFF fd fs rm sat draw code
  | .fp fd, .int w sg => cvtIF fd rm draw (if sg then signed w code else code)
  | .int w sg, .fp fs => let r := cvtFI w sg fs rm draw code; ((r.1 % 2 ^ w).toNat, r.2)
  | .int w _, .int _ _ => (code % 2 ^ w, 0)

/-- R101: an integer result is sign- or zero-extended. -/
def execFcvt (o : FcvtOps) (s : State) : Out :=
  scalarF [o.b] o.a o.rm (fun c draw =>
    let ks := cKind o.s
    let r := convert (cKind o.d) ks o.rm o.sat draw ((c.readG o.b).toNat % 2 ^ ks.width)
    (match cKind o.d with | .int w true => wInt (signed w r.1) | _ => w64 r.1, r.2)) s

/-- A floating compare (R102). -/
def floatCmp (o : FOps) (op : Nat) (s : State) : Out :=
  let f := fmtOf o.fmt
  scalarF [o.b, o.c] o.a .ne (fun c _ =>
    let r := fcompare op (decodeF f (codeIn f (c.readG o.b))) (decodeF f (codeIn f (c.readG o.c)))
    (if r.1 then 1 else 0, r.2)) s
def execFeq (o : FOps) (s : State) : Out := floatCmp o 0 s
def execFlt (o : FOps) (s : State) : Out := floatCmp o 1 s
def execFle (o : FOps) (s : State) : Out := floatCmp o 2 s
def execFun_ (o : FOps) (s : State) : Out := floatCmp o 3 s

end Sys2Proof.Machine
end

