-- ==== Sys2Proof/Machine/Special.lean ====
section
/-! DEFINITION. The special functions of R199. A value is computed to some 400 bits by series; where it is not exact it
carries a last bit that keeps it between the format's values, so that one rounding of it is the rounding of the exact
value. -/

namespace Sys2Proof.Machine

/-- π, ln 2 and 2/√π, times 2^400, rounded down. -/
def fxPi : Nat :=
  8112377246730971238862271351300894519161151600179265203591191037615230905373990498745523360926816815427566779727327576236
def fxLn2 : Nat :=
  1789879222497203190815761498240779176894896805856420935579692301363062920687047601279850318367644315849030039181347319086
def fxTwoRootPi : Nat :=
  2913756966668194800300214067270034030186276855045544562015353861004409627435460814446341471088463227900768995815277951550

/-- e^y for 0 ≤ y < 1, both times 2^400: the terms from the i-th. -/
def fxExpLoop (y : Nat) : Nat → Nat → Nat → Nat → Nat
  | 0, _, _, s => s
  | k + 1, i, t, s => let t' := t * y / 2 ^ 400 / i; fxExpLoop y k (i + 1) t' (s + t')

/-- 2^x as a number times a power of two; x is times 2^400. -/
def fxExp2 (x : Int) : Nat × Int :=
  (fxExpLoop ((x % 2 ^ 400).toNat * fxLn2 / 2 ^ 400) 110 1 (2 ^ 400) (2 ^ 400), x / 2 ^ 400 - 400)
/-- e^x likewise. -/
def fxExp (x : Int) : Nat × Int := fxExp2 (x * 2 ^ 400 / fxLn2)

/-- The terms of the sine or cosine series from the i-th power; y is the square of the argument. -/
def fxSinLoop (y : Int) : Nat → Nat → Int → Int → Int
  | 0, _, _, s => s
  | k + 1, i, t, s => let t' := -(t * y / 2 ^ 400 / ((i + 1) * (i + 2) : Nat)); fxSinLoop y k (i + 2) t' (s + t')

/-- sin or cos of |x|; x is times 2^400. -/
def fxSin (x : Nat) (cosine : Bool) : Int :=
  let q := 2 * x / fxPi
  let r := (2 * x - q * fxPi) / 2
  let y : Int := ((r * r / 2 ^ 400 : Nat) : Int)
  let sn := fxSinLoop y 90 1 r r
  let cs := fxSinLoop y 90 0 (2 ^ 400) (2 ^ 400)
  match (if cosine then q + 1 else q) % 4 with
  | 0 => sn | 1 => cs | 2 => -sn | _ => -cs

/-- The terms of atanh z from the i-th power; w is z squared. -/
def fxAtanhLoop (w : Nat) : Nat → Nat → Nat → Nat → Nat
  | 0, _, _, s => s
  | k + 1, i, t, s => let t' := t * w / 2 ^ 400; fxAtanhLoop w k (i + 2) t' (s + t' / (i + 2))
/-- log2 of m × 2^e, times 2^400. -/
def fxLog2 (m : Nat) (e : Int) : Int :=
  let l := Nat.log2 m
  let z := (m - 2 ^ l) * 2 ^ 400 / (m + 2 ^ l)
  ((l : Int) + e) * 2 ^ 400 + (2 * fxAtanhLoop (z * z / 2 ^ 400) 140 1 z z * 2 ^ 400 / fxLn2 : Nat)

/-- The terms of the error function's series from the n-th. -/
def fxErfLoop (y : Nat) : Nat → Nat → Nat → Bool → Int → Int
  | 0, _, _, _, s => s
  | k + 1, n, p, neg, s =>
    let p' := p * y / 2 ^ 400 / n
    let t : Int := ((p' / (2 * n + 1) : Nat) : Int)
    fxErfLoop y k (n + 1) p' (!neg) (if neg then s - t else s + t)
/-- erf x for x ≥ 0, times 2^400. -/
def fxErf (x : Nat) : Nat := (fxErfLoop (x * x / 2 ^ 400) 600 1 x true x).toNat * fxTwoRootPi / 2 ^ 400

/-- A magnitude that lies just above n / d × 2^e: what is not exact stays so. -/
def between (n d : Nat) (e : Int) : Exact := .val false (.rat (2 * n + 1) (2 * d) e)
/-- The same with a sign. -/
def betweenS (z : Int) (d : Nat) (e : Int) : Exact := .val (decide (z < 0)) (.rat (2 * z.natAbs + 1) (2 * d) e)
/-- A signed result. -/
def Exact.signed (x : Exact) (neg : Bool) : Exact :=
  match x with
  | .val n m => .val (n != neg) m
  | y => y

/-- One over the square root of m × 2^e. -/
def rsqrtExact (m : Nat) (e : Int) : Exact :=
  let m1 := if e % 2 = 0 then m else 2 * m
  let h : Int := -(e / 2)
  if isqrt m1 * isqrt m1 = m1 then .val false (.rat 1 (isqrt m1) h) else between (isqrt (2 ^ 800 / m1)) 1 (h - 400)

/-- Special function `op` of a finite value other than zero. -/
def specialFin (op : Nat) (neg : Bool) (m : Nat) (e : Int) : Exact × Nat :=
  let one : Exact := .val false (.rat 1 1 0)
  let big := decide (2 ^ 10 ≤ m * 2 ^ (e + 200).toNat / 2 ^ 200)
  let mag : Nat := if 0 ≤ e + 400 then m * 2 ^ (e + 400).toNat else m / 2 ^ (-(e + 400)).toNat
  -- the argument, held within ± 1,024 where the function has long reached its limits
  let lim : Nat := if big then 2 ^ 410 else mag
  let x : Int := if neg then -(lim : Int) else lim
  match op with
  | 0 =>
    if mag % 2 ^ 400 = 0 then (.val false (.rat 1 1 (x / 2 ^ 400)), 0)
    else (let r := fxExp2 x; between r.1 1 r.2, 0)
  | 1 =>
    if neg then (.nan, flNV)
    else if 2 ^ Nat.log2 m = m then (Exact.ofDyadic ((Nat.log2 m : Nat) + e) 0 false, 0)
    else (betweenS (fxLog2 m e) 1 (-400), 0)
  | 2 => (.val neg (.rat 1 m (-e)), 0)
  | 3 => if neg then (.nan, flNV) else (rsqrtExact m e, 0)
  | 4 => ((betweenS (fxSin mag false) 1 (-400)).signed neg, 0)
  | 5 => (betweenS (fxSin mag true) 1 (-400), 0)
  | 6 =>
    let u := fxExp (-(2 * (lim : Int)))
    ((between (2 ^ (-u.2).toNat - u.1) (2 ^ (-u.2).toNat + u.1) 0).signed neg, 0)
  | 7 =>
    let u := fxExp (-(lim : Int))
    (if neg then between u.1 (2 ^ (-u.2).toNat + u.1) 0 else
      .val false (.rat (2 ^ (-u.2).toNat) (2 ^ (-u.2).toNat + u.1) 0), 0)
  | 8 => ((if 11 * 2 ^ 400 ≤ lim then .val false (.rat (2 ^ 300 - 1) (2 ^ 300) 0) else between (fxErf lim) 1 (-400)).signed neg, 0)
  | 9 => (let r := fxExp x; between r.1 1 r.2, 0)
  | _ => (one, 0)

/-- Special function `op` of a value: the exact result and the flags of special operands (R199). -/
def specialExact (op : Nat) (x : FV) : Exact × Nat :=
  let one : Exact := .val false (.rat 1 1 0)
  match x with
  | .nan s => (.nan, if s then flNV else 0)
  | .inf n =>
    match op with
    | 1 => if n then (.nan, flNV) else (.inf false, 0)
    | 2 => (.zero n, 0)
    | 3 => if n then (.nan, flNV) else (.zero false, 0)
    | 4 => (.nan, flNV)
    | 5 => (.nan, flNV)
    | 6 => (one.signed n, 0)
    | 7 => (if n then .zero false else one, 0)
    | 8 => (one.signed n, 0)
    | _ => (if n then .zero false else .inf false, 0)
  | .fin n m e =>
    if m ≠ 0 then specialFin op n m e
    else match op with
    | 1 => (.inf true, flDZ)
    | 2 => (.inf n, flDZ)
    | 3 => (.inf n, flDZ)
    | 4 => (.zero n, 0)
    | 6 => (.zero n, 0)
    | 7 => (.val false (.rat 1 1 (-1)), 0)
    | 8 => (.zero n, 0)
    | _ => (one, 0)

/-- Whether a binary32 code lies within `k` units in the last place of a signed magnitude. -/
def withinUlps (k code : Nat) (neg : Bool) (x : Mag) : Bool :=
  match decodeF .f32 code, x with
  | .fin n m e, .rat a d h =>
    let q : Int := max (x.lead - 23) (-149)
    let lo := min (min e h) q
    let v : Int := (if n then -1 else 1) * (m * 2 ^ (e - lo).toNat * d : Nat)
    let y : Int := (if neg then -1 else 1) * (a * 2 ^ (h - lo).toNat : Nat)
    decide ((v - y).natAbs < k * 2 ^ (q - lo).toNat * d)
  | _, _ => false

/-- The error that page 0 allows, in units in the last place. -/
def specialUlps (op : Nat) : Nat := if op ≤ 3 ∨ op = 9 then 1 else 2

/-- A special function's result and flags. On page 0 an inexact result is a free value within the bound (log entry 7). -/
def specialRes (f : Fmt) (op code : Nat) : Nat × Nat :=
  let r := specialExact op (decodeF f code)
  let d := deliver f .ne false 0 r.1
  let c := Config.specialF32 op code % 2 ^ 32
  let v := match f, r.1 with
    | .f32, .val neg m => if d.2 ≠ 0 ∧ Nat.land d.2 flOF = 0 ∧ withinUlps (specialUlps op) c neg m then c else d.1
    | _, _ => d.1
  (v, orF d.2 r.2)

end Sys2Proof.Machine
end

