-- ==== Sys2Proof/Machine/VecOps.lean ====
section
/-! DEFINITION. What vector and predicate instructions do to a task's registers when they execute (R36, R53, R176 to
R179, R186 to R199): the context after, and the flags that each element position raised. -/

namespace Sys2Proof.Machine

/-! ## Elements and activity (R36, R176) -/

/-- What an instruction does: the context after it, and flags by element position. -/
abbrev VRes := Ctx × List (Nat × Nat)

/-- `n` numbers of `w` bits from the low end. -/
def chop (w : Nat) : Nat → Nat → List Nat
  | 0, _ => []
  | n + 1, x => x % 2 ^ w :: chop w n (x / 2 ^ w)
/-- The elements of a vector register. -/
def elemsOf (w : Nat) (v : VReg) : List Nat := chop w (8192 / w) v.toNat
/-- A number of elements. -/
def joinElems (w : Nat) (xs : List Nat) : Nat := xs.foldr (fun e a => e % 2 ^ w + 2 ^ w * a) 0
/-- A vector register of elements. -/
def ofElems (w : Nat) (xs : List Nat) : VReg := BitVec.ofNat 8192 (joinElems w xs)
/-- A predicate of bits, the first the lowest. -/
def ofBits (bs : List Bool) : Pred := BitVec.ofNat 256 (joinElems 1 (bs.map (fun b => if b then 1 else 0)))

/-- Whether PRED, under INV, selects a lane. -/
def laneSel (pred : Nat) (inv : Bool) (c : Ctx) (i : Nat) : Bool := (c.readK pred).getLsbD i != inv
/-- Whether an element is active (R176). -/
def elOn (pred : Nat) (inv : Bool) (c : Ctx) (vl w n : Nat) : Bool :=
  decide ((n * w + w - 1) / 32 < vl) && laneSel pred inv c (n * w / 32)
/-- Whether a lane is active. -/
def laneOn (q : VQ) (c : Ctx) (vl i : Nat) : Bool := elOn q.pred q.inv c vl 32 i

/-- The generator advances for `.rs` (R42). -/
def seedFor (rm : Rm) (c : Ctx) : Ctx :=
  if rm = .rs then { c with csr := { c.csr with rndseed := rsAdvance c.csr.rndseed } } else c
/-- The draw of an element position. -/
def drawFor (rm : Rm) (c : Ctx) (n : Nat) : Nat := if rm = .rs then rsDraw c.csr.rndseed.toNat n else 0

/-- Writes vA element by element: an active element takes its result, an inactive one is zero or stays. -/
def vElem (q : VQ) (w a : Nat) (vl : Nat) (c : Ctx) (f : Nat → Nat → Nat × Nat) : VRes :=
  let c1 := seedFor q.rm c
  let rs := (elemsOf w (c.readV a)).zipIdx.map (fun x =>
    if elOn q.pred q.inv c vl w x.2 then f (drawFor q.rm c1 x.2) x.2 else (if q.zero then 0 else x.1, 0))
  (c1.writeV a (ofElems w (rs.map (fun r => r.1))), (rs.zipIdx.map (fun r => (r.2, r.1.2))).filter (fun e => e.2 != 0))

/-- The elements of C: a vector register's, or a scalar's low bits broadcast (R75). -/
def cElems (w : Nat) (bc : Bool) (cn : Nat) (e : VEntry) (c : Ctx) : List Nat :=
  if bc then List.replicate (8192 / w) (e.scalar.toNat % 2 ^ w) else elemsOf w (c.readV cn)

/-- An element-wise operation on the codes of a, b and c. -/
def vOp3 (q : VQ) (w : Nat) (bc : Bool) (a b cn : Nat) (f : Nat → Nat → Nat → Nat → Nat × Nat) (e : VEntry) (c : Ctx) : VRes :=
  let xa := elemsOf w (c.readV a)
  let xb := elemsOf w (c.readV b)
  let xc := cElems w bc cn e c
  vElem q w a e.vl c (fun draw n => f draw (xa.getD n 0) (xb.getD n 0) (xc.getD n 0))

/-! ## Floating arithmetic (R186) -/

/-- A floating operation with one rounding on decoded operands. -/
def vFloat (o : VFOps) (op : FV → FV → FV → Exact × Nat) (e : VEntry) (c : Ctx) : VRes :=
  let f := fmtOf o.fmt
  vOp3 o.q f.width o.bc o.a o.b o.c (fun draw a b x =>
    finishF f o.q.rm draw (op (decodeF f a) (decodeF f b) (decodeF f x))) e c
/-- An operation on codes of a floating format. -/
def vBits (o : VFOps) (op : Fmt → Nat → Nat → Nat × Nat) (e : VEntry) (c : Ctx) : VRes :=
  let f := fmtOf o.fmt
  vOp3 o.q f.width o.bc o.a o.b o.c (fun _ _ b x => op f b x) e c

def vrunAdd (o : VFOps) : VEntry → Ctx → VRes := vFloat o (fun _ b c => addFV o.q.rm b c)
def vrunSub (o : VFOps) : VEntry → Ctx → VRes := vFloat o (fun _ b c => addFV o.q.rm b c.neg)
def vrunMul (o : VFOps) : VEntry → Ctx → VRes := vFloat o (fun _ b c => mulExact b c)
def vrunDiv (o : VFOps) : VEntry → Ctx → VRes := vFloat o (fun _ b c => divFV b c)
def vrunSqrt (o : VFOps) : VEntry → Ctx → VRes := vFloat o (fun _ b _ => sqrtFV b)
def vrunMin (o : VFOps) : VEntry → Ctx → VRes := vBits o (fun f b c => fminmax f false false b c)
def vrunMax (o : VFOps) : VEntry → Ctx → VRes := vBits o (fun f b c => fminmax f true false b c)
def vrunMinn (o : VFOps) : VEntry → Ctx → VRes := vBits o (fun f b c => fminmax f false true b c)
def vrunMaxn (o : VFOps) : VEntry → Ctx → VRes := vBits o (fun f b c => fminmax f true true b c)
def vrunNeg (o : VFOps) : VEntry → Ctx → VRes := vBits o (fun f b _ => (Nat.xor b f.signBit, 0))
def vrunAbs (o : VFOps) : VEntry → Ctx → VRes := vBits o (fun f b _ => (b % f.signBit, 0))
def vrunSgn (o : VFOps) : VEntry → Ctx → VRes := vBits o (fun f b c => (b % f.signBit + signPart f c, 0))
/-- The fused forms: the exact sum of the two terms with their signs as written. -/
def vrunFma (o : VFOps) : VEntry → Ctx → VRes := vFloat o (fun a b c => fmaFV o.q.rm b c a)
def vrunFms (o : VFOps) : VEntry → Ctx → VRes := vFloat o (fun a b c => fmaFV o.q.rm b c a.neg)
def vrunFnma (o : VFOps) : VEntry → Ctx → VRes := vFloat o (fun a b c => fmaFV o.q.rm b.neg c a.neg)
def vrunFnms (o : VFOps) : VEntry → Ctx → VRes := vFloat o (fun a b c => fmaFV o.q.rm b.neg c a)
/-- A special function (R199). -/
def vrunSpecial (o : VFOps) (op : Nat) : VEntry → Ctx → VRes := vBits o (fun f b _ => specialRes f op b)

/-! ## Integer, logical and shift (R188, R189) -/

/-- The width and signedness of an integer type. -/
def iTy : ITy → Nat × Bool
  | .i32 => (32, true) | .n32 => (32, false) | .i16 => (16, true) | .n16 => (16, false)
  | .i8 => (8, true) | .n8 => (8, false) | .i64 => (64, true) | .n64 => (64, false)
/-- The value of an element. -/
def iVal (w : Nat) (sg : Bool) (x : Nat) : Int := if sg then signed w x else x
/-- An exact result modulo 2^w, or clamped to the type (R38). -/
def iWrap (w : Nat) (sg sat : Bool) (v : Int) : Nat :=
  let lo : Int := if sg then -(2 ^ (w - 1)) else 0
  let hi : Int := if sg then 2 ^ (w - 1) - 1 else 2 ^ w - 1
  ((if sat then max lo (min v hi) else v) % 2 ^ w).toNat

/-- An integer operation on the values of b and c. -/
def vInt (o : VIOps) (op : Int → Int → Int) (e : VEntry) (c : Ctx) : VRes :=
  let t := iTy o.ty
  vOp3 o.q t.1 o.bc o.a o.b o.c (fun _ _ b x => (iWrap t.1 t.2 o.q.sat (op (iVal t.1 t.2 b) (iVal t.1 t.2 x)), 0)) e c
def vrunIadd (o : VIOps) : VEntry → Ctx → VRes := vInt o (fun b c => b + c)
def vrunIsub (o : VIOps) : VEntry → Ctx → VRes := vInt o (fun b c => b - c)
def vrunImul (o : VIOps) : VEntry → Ctx → VRes := vInt o (fun b c => b * c)
def vrunImulh (o : VIOps) : VEntry → Ctx → VRes := vInt o (fun b c => b * c / 2 ^ (iTy o.ty).1)
def vrunImin (o : VIOps) : VEntry → Ctx → VRes := vInt o (fun b c => min b c)
def vrunImax (o : VIOps) : VEntry → Ctx → VRes := vInt o (fun b c => max b c)
def vrunIabs (o : VIOps) : VEntry → Ctx → VRes := vInt o (fun b _ => (b.natAbs : Int))

/-- The width of a page of set W. -/
def wBits : WPage → Nat
  | .w32 => 32 | .w16 => 16 | .w8 => 8 | .w64 => 64
/-- A logical or shift operation on codes. -/
def vLogic (o : VLOps) (op : Nat → Nat → Nat → Nat) (e : VEntry) (c : Ctx) : VRes :=
  let w := wBits o.w
  vOp3 o.q w o.bc o.a o.b o.c (fun _ _ b x => (op w b x % 2 ^ w, 0)) e c
def vrunAnd (o : VLOps) : VEntry → Ctx → VRes := vLogic o (fun _ b c => Nat.land b c)
def vrunOr (o : VLOps) : VEntry → Ctx → VRes := vLogic o (fun _ b c => Nat.lor b c)
def vrunXor (o : VLOps) : VEntry → Ctx → VRes := vLogic o (fun _ b c => Nat.xor b c)
def vrunAndn (o : VLOps) : VEntry → Ctx → VRes := vLogic o (fun w b c => Nat.land b (2 ^ w - 1 - c))
def vrunSll (o : VLOps) : VEntry → Ctx → VRes := vLogic o (fun w b c => if w ≤ c then 0 else b * 2 ^ c)
def vrunSrl (o : VLOps) : VEntry → Ctx → VRes := vLogic o (fun w b c => if w ≤ c then 0 else b / 2 ^ c)
def vrunSra (o : VLOps) : VEntry → Ctx → VRes := vLogic o (fun w b c => (signed w b / 2 ^ (min c w) % 2 ^ w).toNat)

/-! ## Compares and predicates (R190, R191) -/

/-- Writes a predicate lane by lane: an active lane takes its bit, an inactive one is 0 or stays. -/
def kLanes (q : VQ) (a vl : Nat) (c : Ctx) (f : Nat → Bool) : Ctx :=
  c.writeK a (ofBits ((List.range 256).map (fun i =>
    if laneOn q c vl i then f i else if q.zero then false else (c.readK a).getLsbD i)))

/-- A compare of elements of `w` bits: the condition must hold for every element of a lane. -/
def vCompare (q : VQ) (w : Nat) (bc : Bool) (a b cn : Nat) (f : Nat → Nat → Bool × Nat) (e : VEntry) (c : Ctx) : VRes :=
  let rs := List.zipWith f (elemsOf w (c.readV b)) (cElems w bc cn e c)
  let per := 32 / w
  let hold := fun i => ((rs.drop (i * per)).take per).all (fun r => r.1)
  let fl := (rs.zipIdx.filter (fun r => r.1.2 != 0 && laneOn q c e.vl (r.2 * w / 32))).map (fun r => (r.2, r.1.2))
  (kLanes q a e.vl c hold, fl)

/-- A floating compare. -/
def vFCompare (o : VFOps) (op : Nat) (neg : Bool) (e : VEntry) (c : Ctx) : VRes :=
  let f := fmtOf o.fmt
  vCompare o.q f.width o.bc o.a o.b o.c (fun b x => let r := fcompare op (decodeF f b) (decodeF f x); (r.1 != neg, r.2)) e c
def vrunFeq (o : VFOps) : VEntry → Ctx → VRes := vFCompare o 0 false
def vrunFne (o : VFOps) : VEntry → Ctx → VRes := vFCompare o 0 true
def vrunFlt (o : VFOps) : VEntry → Ctx → VRes := vFCompare o 1 false
def vrunFle (o : VFOps) : VEntry → Ctx → VRes := vFCompare o 2 false
def vrunFun (o : VFOps) : VEntry → Ctx → VRes := vFCompare o 3 false

/-- The width and signedness of a compare's type. -/
def cmpTy : CmpTy → Nat × Bool
  | .i32 => (32, true) | .n32 => (32, false) | .i8 => (8, true) | .n8 => (8, false)
/-- An integer compare. -/
def vICompare (o : VCOps) (p : Int → Int → Bool) (e : VEntry) (c : Ctx) : VRes :=
  let t := cmpTy o.ty
  vCompare o.q t.1 o.bc o.a o.b o.c (fun b x => (p (iVal t.1 t.2 b) (iVal t.1 t.2 x), 0)) e c
def vrunIeq (o : VCOps) : VEntry → Ctx → VRes := vICompare o (fun b c => b == c)
def vrunIne (o : VCOps) : VEntry → Ctx → VRes := vICompare o (fun b c => b != c)
def vrunIlt (o : VCOps) : VEntry → Ctx → VRes := vICompare o (fun b c => decide (b < c))
def vrunIle (o : VCOps) : VEntry → Ctx → VRes := vICompare o (fun b c => decide (b ≤ c))

/-- Predicate logic. -/
def kLogic (o : VROps) (op : Bool → Bool → Bool) (e : VEntry) (c : Ctx) : VRes :=
  (kLanes o.q o.a e.vl c (fun i => op ((c.readK o.b).getLsbD i) ((c.readK o.c).getLsbD i)), [])
def vrunKand (o : VROps) : VEntry → Ctx → VRes := kLogic o (fun b c => b && c)
def vrunKor (o : VROps) : VEntry → Ctx → VRes := kLogic o (fun b c => b || c)
def vrunKxor (o : VROps) : VEntry → Ctx → VRes := kLogic o (fun b c => b != c)
def vrunKandn (o : VROps) : VEntry → Ctx → VRes := kLogic o (fun b c => b && !c)
def vrunKnot (o : VROps) : VEntry → Ctx → VRes := kLogic o (fun b _ => !b)

/-- Active lanes whose bit is set. -/
def kSet (o : VROps) (vl : Nat) (c : Ctx) : List Nat :=
  (List.range 256).filter (fun i => laneOn o.q c vl i && (c.readK o.b).getLsbD i)

/-- Writes vA lane by lane below VL; lanes at or above it follow ZERO. -/
def vrunSel (o : VROps) (e : VEntry) (c : Ctx) : VRes :=
  let xb := elemsOf 32 (c.readV o.b)
  let xc := elemsOf 32 (c.readV o.c)
  let rs := (elemsOf 32 (c.readV o.a)).zipIdx.map (fun x =>
    if x.2 < e.vl then (if laneSel o.q.pred o.q.inv c x.2 then xb else xc).getD x.2 0 else if o.q.zero then 0 else x.1)
  (c.writeV o.a (ofElems 32 rs), [])

/-! ## Conversion and quantisation (R192 to R195) -/

/-- Flags by position of results. -/
def flagsOf (rs : List (Nat × Nat)) : List (Nat × Nat) :=
  (rs.zipIdx.map (fun r => (r.2, r.1.2))).filter (fun e => e.2 != 0)

/-- VCVT. Destination elements from E on are zero (log entry 18 for VL 0). -/
def vrunCvt (o : VcvtOps) (e : VEntry) (c : Ctx) : VRes :=
  let kd := cKind o.d
  let ks := cKind o.s
  let w := max kd.width ks.width
  let c1 := seedFor o.q.rm c
  let xs := elemsOf ks.width (c.readV o.b)
  let rs := ((elemsOf kd.width (c.readV o.a)).take (8192 / w)).zipIdx.map (fun x =>
    if elOn o.q.pred o.q.inv c e.vl w x.2 then convert kd ks o.q.rm o.q.sat (drawFor o.q.rm c1 x.2) (xs.getD x.2 0)
    else (if o.q.zero then 0 else x.1, 0))
  (c1.writeV o.a (ofElems kd.width (rs.map (fun r => r.1))), flagsOf rs)

/-- The binary32 value in a scalar operand. -/
def scalarF32 (e : VEntry) : FV := decodeF .f32 (e.scalar.toNat % 2 ^ 32)

/-- VQ8: the whole destination is written. -/
def vrunQ8 (d : Fmt) (o : VROps) (e : VEntry) (c : Ctx) : VRes :=
  let c1 := seedFor o.q.rm c
  let rs := (elemsOf 32 (c.readV o.b)).zipIdx.map (fun x =>
    if laneOn o.q c e.vl x.2 then
      let p := mulExact (decodeF .f32 x.1) (scalarF32 e)
      let r := deliver d o.q.rm o.q.sat (drawFor o.q.rm c1 x.2) p.1
      (r.1, orF r.2 p.2)
    else (0, 0))
  (c1.writeV o.a (ofElems 8 (rs.map (fun r => r.1))), flagsOf rs)

/-- The larger of two magnitudes. -/
def fvMax (a b : FV) : FV := if cmpFV a b < 0 then b else a
/-- The magnitude of a value. -/
def FV.abs : FV → FV
  | .inf _ => .inf false
  | .fin _ m e => .fin false m e
  | x => x

/-- The E3M5 code of the scale of a block with a largest magnitude (R194). -/
def q4Scale (amax : FV) : Nat :=
  match amax with
  | .fin _ m e => if m = 0 then 0x60 else (roundF .e3m5 .ru false false 0 (.rat m 6 e)).1
  | _ => 0xFE

/-- An element of a block divided by the scale, rounded to E2M1: code and flags. -/
def q4Elem (rm : Rm) (draw scale : Nat) (x : FV) : Nat × Nat :=
  match x, decodeF .e3m5 scale with
  | .fin n m e, .fin _ k h => if m = 0 then deliver .e2m1 rm false draw (.zero n) else deliver .e2m1 rm false draw (.val n (.rat m k (e - h)))
  | y, _ => deliver .e2m1 rm false draw y.exact

/-- One block of VQ4: the scale, and code and flags of each element; `xs` are the products with their positions and
whether they are active. -/
def q4Block (rm : Rm) (c1 : Ctx) (xs : List (Bool × Nat × FV)) : Nat × List (Nat × Nat) :=
  if xs.any (fun x => x.1 && x.2.2.isNan) then (0xFF, xs.map (fun x => (0, if x.1 && x.2.2.isNan then flNV else 0)))
  else
    let amax := xs.foldl (fun m x => if x.1 then fvMax m x.2.2.abs else m) (.fin false 0 0)
    let s := q4Scale amax
    (s, xs.map (fun x => if x.1 then q4Elem rm (drawFor rm c1 x.2.1) s x.2.2 else (0, 0)))

/-- Splits a list into blocks of 8. -/
def blocks8 {α : Type} : Nat → List α → List (List α)
  | 0, _ => []
  | n + 1, xs => xs.take 8 :: blocks8 n (xs.drop 8)

/-- VQ4. -/
def vrunQ4 (o : VROps) (e : VEntry) (c : Ctx) : VRes :=
  let c1 := seedFor o.q.rm c
  let xs := (elemsOf 32 (c.readV o.b)).zipIdx.map (fun x =>
    (laneOn o.q c e.vl x.2, x.2, (mulFV (decodeF .f32 x.1) (scalarF32 e)).1))
  let bs := (blocks8 32 xs).map (q4Block o.q.rm c1)
  let rs := (bs.map (fun b => b.2)).flatten
  let out := joinElems 4 (rs.map (fun r => r.1)) + 2 ^ 1024 * joinElems 8 (bs.map (fun b => b.1))
  (c1.writeV o.a (BitVec.ofNat 8192 out), flagsOf rs)

/-- R35: the exact value e × s × b of an element; whether it is one of the invalid cases. -/
def scaledValue (el s b : FV) : Exact × Bool :=
  match s, b with
  | .nan _, _ => (.nan, true)
  | _, .nan _ => (.nan, true)
  | _, _ =>
    let p := mulFV (mulFV el s).1 b
    match p.1 with
    | .nan _ => (.nan, true)
    | v => (v.exact, false)

/-- VDQ4. -/
def vrunDq4 (o : VROps) (e : VEntry) (c : Ctx) : VRes :=
  let src := (c.readV o.b).toNat
  let codes := chop 4 256 src
  let scales := chop 8 32 (src / 2 ^ 1024)
  let band := decodeF .bf16 (e.scalar.toNat % 2 ^ 16)
  vElem o.q 32 o.a e.vl c (fun draw n =>
    let v := scaledValue (decodeF .e2m1 (codes.getD n 0)) (decodeF .e3m5 (scales.getD (n / 8) 0)) band
    let r := deliver .f32 o.q.rm false draw v.1
    (r.1, orF r.2 (if v.2 then flNV else 0)))

/-! ## Reductions and scans (R53, R196, R197) -/

/-- A present value of a reduction: its code, and the lowest element position that feeds it. -/
abbrev RVal := Option (Nat × Nat)

/-- One level of the tree with flags by position. -/
def redLevel (op : Nat → Nat → Nat × Nat) : List RVal → List RVal × List (Nat × Nat)
  | some a :: some b :: r =>
    let x := op a.1 b.1
    let y := redLevel op r
    let p := min a.2 b.2
    (some (x.1, p) :: y.1, if x.2 = 0 then y.2 else (p, x.2) :: y.2)
  | a :: b :: r => let y := redLevel op r; (a.or b :: y.1, y.2)
  | [a] => ([a], [])
  | [] => ([], [])
/-- The tree, `fuel` levels. -/
def redTree (op : Nat → Nat → Nat × Nat) : Nat → List RVal → RVal × List (Nat × Nat)
  | 0, xs => ((xs.head?).getD none, [])
  | k + 1, xs =>
    let l := redLevel op xs
    let r := redTree op k l.1
    (r.1, l.2 ++ r.2)

/-- A floating element as binary32: a NaN is canonical, and a signalling one raises invalid (R33, R45, R53). -/
def toF32 (f : Fmt) (code : Nat) : Nat × Nat :=
  let x := decodeF f code
  if x.isNan then (Fmt.nanCode .f32, x.snanFlag) else if f = .f32 then (code, 0) else cvtFF .f32 f .ne false 0 code

/-- The format of a floating page of a reduction. -/
def redFmt : RPage → Option Fmt
  | .f32 => some .f32 | .bf16 => some .bf16 | .f16 => some .f16 | _ => none

/-- A reduction: the combination and empty result of floating pages, and of integer pages. -/
def vReduce (o : VRedOps) (pre : Nat → Nat) (fop : Nat → Nat → Nat × Nat) (fempty : Nat) (iop : Int → Int → Int)
    (iempty : Nat) (e : VEntry) (c : Ctx) : VRes :=
  let q := o.q
  match redFmt o.page with
  | some f =>
    let xs := (elemsOf f.width (c.readV o.b)).zipIdx.map (fun x =>
      if elOn q.pred q.inv c e.vl f.width x.2 then (let r := toF32 f x.1; (some (pre r.1, x.2), r.2)) else (none, 0))
    let t := redTree fop 10 (xs.map (fun x => x.1))
    let own := (xs.zipIdx.map (fun x => (x.2, x.1.2))).filter (fun x => x.2 != 0)
    (c.writeV o.a (ofElems 32 [match t.1 with | some r => r.1 | none => fempty]), own ++ t.2)
  | none =>
    let sg := decide (o.page = .i32)
    let xs := (elemsOf 32 (c.readV o.b)).zipIdx.map (fun x => if laneOn q c e.vl x.2 then some (x.1, x.2) else none)
    let t := redTree (fun a b => (iWrap 32 sg q.sat (iop (iVal 32 sg a) (iVal 32 sg b)), 0)) 8 xs
    (c.writeV o.a (ofElems 32 [match t.1 with | some r => r.1 | none => iempty]), [])

/-- A bitwise operation on the codes of two 32-bit values. -/
def bitInt (f : Nat → Nat → Nat) (a b : Int) : Int := f (a % 2 ^ 32).toNat (b % 2 ^ 32).toNat

/-- A bitwise reduction has no range to be clamped to. -/
def unclamped (o : VRedOps) : VRedOps := { o with q := { o.q with sat := false } }

def posInf : Nat := 0x7F800000
def negInf : Nat := 0xFF800000
def vrunRsum (o : VRedOps) : VEntry → Ctx → VRes := vReduce o id addF32 0 (fun a b => a + b) 0
def vrunRmax (o : VRedOps) : VEntry → Ctx → VRes :=
  vReduce o id (fminmax .f32 true false) negInf max (if o.page = .i32 then 0x80000000 else 0)
def vrunRmin (o : VRedOps) : VEntry → Ctx → VRes :=
  vReduce o id (fminmax .f32 false false) posInf min (if o.page = .i32 then 0x7FFFFFFF else 0xFFFFFFFF)
def vrunRmaxn (o : VRedOps) : VEntry → Ctx → VRes := vReduce o id (fminmax .f32 true true) negInf max 0
def vrunRminn (o : VRedOps) : VEntry → Ctx → VRes := vReduce o id (fminmax .f32 false true) posInf min 0
def vrunRamax (o : VRedOps) : VEntry → Ctx → VRes := vReduce o (fun x => x % 2 ^ 31) (fminmax .f32 true false) 0 max 0
def vrunRiand (o : VRedOps) : VEntry → Ctx → VRes := vReduce (unclamped o) id addF32 0 (bitInt Nat.land) 0xFFFFFFFF
def vrunRior (o : VRedOps) : VEntry → Ctx → VRes := vReduce (unclamped o) id addF32 0 (bitInt Nat.lor) 0
def vrunRixor (o : VRedOps) : VEntry → Ctx → VRes := vReduce (unclamped o) id addF32 0 (bitInt Nat.xor) 0

/-- The outputs of a scan: the running value, and the value and flags of each position. `on` says which are active, `add`
combines, `out` rounds an output. -/
def scanLoop (add : Nat → Nat → Nat × Nat) (out : Nat → Nat × Nat) (zero : Bool) :
    Option Nat → List (Bool × Nat × Nat × Nat) → List (Nat × Nat)
  | _, [] => []
  | run, (on, old, x, fx) :: r =>
    if on then
      let c := match run with | some v => add v x | none => (x, 0)
      let y := out c.1
      (y.1, orF fx (orF c.2 y.2)) :: scanLoop add out zero (some c.1) r
    else (if zero then 0 else old, 0) :: scanLoop add out zero run r

/-- VSCAN. -/
def vrunScan (o : VRedOps) (e : VEntry) (c : Ctx) : VRes :=
  let q := o.q
  match redFmt o.page with
  | some f =>
    let w := f.width
    let xs := (List.zip (elemsOf w (c.readV o.a)) (elemsOf w (c.readV o.b))).zipIdx.map (fun x =>
      let r := toF32 f x.1.2
      (elOn q.pred q.inv c e.vl w x.2, x.1.1, r.1, r.2))
    let rs := scanLoop addF32 (fun v => if f = .f32 then (v, 0) else cvtFF f .f32 .ne false 0 v) q.zero none xs
    (c.writeV o.a (ofElems w (rs.map (fun r => r.1))), flagsOf rs)
  | none =>
    let sg := decide (o.page = .i32)
    let xs := (List.zip (elemsOf 32 (c.readV o.a)) (elemsOf 32 (c.readV o.b))).zipIdx.map (fun x =>
      (laneOn q c e.vl x.2, x.1.1, x.1.2, 0))
    let rs := scanLoop (fun a b => (iWrap 32 sg q.sat (iVal 32 sg a + iVal 32 sg b), 0)) (fun v => (v, 0)) q.zero none xs
    (c.writeV o.a (ofElems 32 (rs.map (fun r => r.1))), [])

/-! ## Permutations (R198) -/

/-- Writes vA lane by lane. -/
def vLanes (q : VQ) (a vl : Nat) (c : Ctx) (f : Nat → Nat) : VRes :=
  let rs := (elemsOf 32 (c.readV a)).zipIdx.map (fun x => if laneOn q c vl x.2 then f x.2 else if q.zero then 0 else x.1)
  (c.writeV a (ofElems 32 rs), [])
/-- The lane number that a C operand of kind X gives, read at issue. -/
def laneNum (e : VEntry) : Nat := e.scalar.toNat % 256

def vrunPerm (o : VROps) (e : VEntry) (c : Ctx) : VRes :=
  let xb := elemsOf 32 (c.readV o.b)
  let xc := elemsOf 32 (c.readV o.c)
  vLanes o.q o.a e.vl c (fun i => xb.getD (xc.getD i 0 % 256) 0)
def vrunRotl (o : VXOps) (e : VEntry) (c : Ctx) : VRes :=
  let xb := elemsOf 32 (c.readV o.b)
  vLanes o.q o.a e.vl c (fun i => xb.getD ((i + laneNum e) % 256) 0)
def vrunBcast (o : VXOps) (e : VEntry) (c : Ctx) : VRes :=
  let xb := elemsOf 32 (c.readV o.b)
  vLanes o.q o.a e.vl c (fun _ => xb.getD (laneNum e) 0)
def vrunCompr (o : VROps) (e : VEntry) (c : Ctx) : VRes :=
  let act := ((elemsOf 32 (c.readV o.b)).zipIdx.filter (fun x => laneOn o.q c e.vl x.2)).map (fun x => x.1)
  let rest := ((elemsOf 32 (c.readV o.a)).drop act.length).map (fun x => if o.q.zero then 0 else x)
  (c.writeV o.a (ofElems 32 (act ++ rest)), [])
/-- The lanes of VEXPND: the next source lane, and the old lanes with their numbers. -/
def expandLoop (on : Nat → Bool) (zero : Bool) : List Nat → List (Nat × Nat) → List Nat
  | _, [] => []
  | xs, (old, i) :: r =>
    if on i then xs.headD 0 :: expandLoop on zero (xs.drop 1) r
    else (if zero then 0 else old) :: expandLoop on zero xs r
def vrunExpnd (o : VROps) (e : VEntry) (c : Ctx) : VRes :=
  (c.writeV o.a (ofElems 32 (expandLoop (laneOn o.q c e.vl) o.q.zero (elemsOf 32 (c.readV o.b)) (elemsOf 32 (c.readV o.a)).zipIdx)), [])
/-- VINSR: the scalar operand holds the lane number above the value. -/
def vrunInsr (o : VXOps) (e : VEntry) (c : Ctx) : VRes :=
  (c.writeV o.a (ofElems 32 ((elemsOf 32 (c.readV o.a)).set (e.scalar.toNat / 2 ^ 32) (e.scalar.toNat % 2 ^ 32))), [])

end Sys2Proof.Machine
end

