-- ==== Sys2Proof/Machine/Vector.lean ====
section
/-! DEFINITION. Issue of vector and predicate instructions into a core's vector queue (R176 to R182, R51, R68), and the
meaning of each arithmetic one. -/

namespace Sys2Proof.Machine

/-! ## Binding (R68) -/

/-- How an instruction is bound to its guard slot at issue. -/
def bindOf (c : Ctx) (g : Option Guard) : Bind :=
  match g with
  | none => .free
  | some g => match c.slot g.slot with
    | .yes => .decided g.sense
    | .no => .decided (!g.sense)
    | .pending gid => .pending gid g.sense
/-- Whether a bound instruction executes; none while that is not known. -/
def bindRuns : Bind → Option Bool
  | .free => some true
  | .decided b => some b
  | .pending _ _ => none
/-- A binding once a GSET's outcome is known. -/
def Bind.resolve (b : Bind) (gid : Nat) (v : Bool) : Bind :=
  match b with
  | .pending g sense => if g = gid then .decided (v == sense) else b
  | x => x

namespace Exec

/-- Stalls until something is released: a queue entry or an inbox slot (R27, R180). -/
def waitSpace {α : Type} : Exec α := do
  modCtx (fun c => { c with flow := { c.flow with waitOn := some 0 } })
  stall

/-- For an instruction that the scalar core carries out itself: stalls until the guard slot is resolved, and tells
whether it executes (R68). -/
def guarded (g : Option Guard) : Exec Bool := do
  match bindRuns (bindOf (← ctx) g) with
  | none => stall
  | some b => return b

/-- Puts an entry into its core's vector queue; a full queue stalls the context (R180). -/
def enqueue (e : VEntry) : Exec Unit := do
  let s ← get
  let q := Map.get [] (s.stn e.at_.stn).vec.queues e.at_.core
  if q.length < 16 then
    set (s.modVec e.at_.stn (fun v => { v with queues := Map.set [] v.queues e.at_.core (q ++ [e]) }))
  else waitSpace

end Exec

/-- VECTOR_QUEUE_STALL_RELEASE: the contexts of a core that stall on its full queue issue again. -/
def execVectorQueueStallRelease (s : State) : Out :=
  match s.hand.msg with
  | .vectorQueueStallRelease stn core =>
    .next ((List.range 4).foldl (fun st k => st.modCtx ⟨stn, core, k⟩ (fun c =>
      if c.flow.waitOn = some 0 then { c with flow := { c.flow with waitOn := none } } else c)) s)
  | _ => .next s

/-! ## What a queue entry does when it executes -/

/-- The effect of an arithmetic vector instruction. -/
def vecRun (i : Instr) (e : VEntry) (c : Ctx) : VRes :=
  match i with
  | .vadd o => vrunAdd o e c
  | .vsub o => vrunSub o e c
  | .vmul o => vrunMul o e c
  | .vdiv o => vrunDiv o e c
  | .vsqrt o => vrunSqrt o e c
  | .vmin o => vrunMin o e c
  | .vmax o => vrunMax o e c
  | .vminn o => vrunMinn o e c
  | .vmaxn o => vrunMaxn o e c
  | .vneg o => vrunNeg o e c
  | .vabs o => vrunAbs o e c
  | .vsgn o => vrunSgn o e c
  | .vfma o => vrunFma o e c
  | .vfms o => vrunFms o e c
  | .vfnma o => vrunFnma o e c
  | .vfnms o => vrunFnms o e c
  | .viadd o => vrunIadd o e c
  | .visub o => vrunIsub o e c
  | .vimul o => vrunImul o e c
  | .vimulh o => vrunImulh o e c
  | .vimin o => vrunImin o e c
  | .vimax o => vrunImax o e c
  | .viabs o => vrunIabs o e c
  | .vand o => vrunAnd o e c
  | .vor o => vrunOr o e c
  | .vxor o => vrunXor o e c
  | .vandn o => vrunAndn o e c
  | .vsll o => vrunSll o e c
  | .vsrl o => vrunSrl o e c
  | .vsra o => vrunSra o e c
  | .vfeq o => vrunFeq o e c
  | .vfne o => vrunFne o e c
  | .vflt o => vrunFlt o e c
  | .vfle o => vrunFle o e c
  | .vfun o => vrunFun o e c
  | .vieq o => vrunIeq o e c
  | .vine o => vrunIne o e c
  | .vilt o => vrunIlt o e c
  | .vile o => vrunIle o e c
  | .kand o => vrunKand o e c
  | .kor o => vrunKor o e c
  | .kxor o => vrunKxor o e c
  | .kandn o => vrunKandn o e c
  | .knot o => vrunKnot o e c
  | .vsel o => vrunSel o e c
  | .vcvt o => vrunCvt o e c
  | .vq8E4m3 o => vrunQ8 .e4m3 o e c
  | .vq8E5m2 o => vrunQ8 .e5m2 o e c
  | .vq4 o => vrunQ4 o e c
  | .vdq4 o => vrunDq4 o e c
  | .vrsum o => vrunRsum o e c
  | .vrmax o => vrunRmax o e c
  | .vrmin o => vrunRmin o e c
  | .vrmaxn o => vrunRmaxn o e c
  | .vrminn o => vrunRminn o e c
  | .vramax o => vrunRamax o e c
  | .vriand o => vrunRiand o e c
  | .vrior o => vrunRior o e c
  | .vrixor o => vrunRixor o e c
  | .vscan o => vrunScan o e c
  | .vperm o => vrunPerm o e c
  | .vrotl o => vrunRotl o e c
  | .vbcast o => vrunBcast o e c
  | .vcompr o => vrunCompr o e c
  | .vexpnd o => vrunExpnd o e c
  | .vinsr o => vrunInsr o e c
  | .vexp2 o => vrunSpecial o 0 e c
  | .vlog2 o => vrunSpecial o 1 e c
  | .vrcp o => vrunSpecial o 2 e c
  | .vrsqrt o => vrunSpecial o 3 e c
  | .vsin o => vrunSpecial o 4 e c
  | .vcos o => vrunSpecial o 5 e c
  | .vtanh o => vrunSpecial o 6 e c
  | .vsigm o => vrunSpecial o 7 e c
  | .verf o => vrunSpecial o 8 e c
  | .vexp o => vrunSpecial o 9 e c
  | _ => (c, [])

/-- The OR of flags by position. -/
def orFlags (fs : List (Nat × Nat)) : Nat := fs.foldl (fun a f => orF a f.2) 0
/-- The lowest position that raised a flag enabled in `en`. -/
def lowFlag (en : Nat) (fs : List (Nat × Nat)) : Option Nat :=
  fs.foldl (fun m f => if Nat.land f.2 en = 0 then m else match m with | none => some f.1 | some p => some (min p f.1)) none

/-- An instruction takes effect: its registers are written and its flags ORed into FFLAGS (R50, R179). -/
def Ctx.takeEffect (r : VRes) : Ctx :=
  { r.1 with csr := { r.1.csr with fflags := Nat.lor r.1.csr.fflags (orFlags r.2) } }

/-- Issue of a vector instruction (R176, R177, R180): sources that are scalar are read, and it enters its queue. While
FTRAPEN is not zero, the context waits until a floating one has left the queue, and only then completes it or traps FPE (R50,
R51). -/
def issueVec (i : Instr) (srcs : List Nat) (val : Ctx → Word) (g : Option Guard) (fp : Bool) (s : State) : Out :=
  runSelf (do
    Exec.need srcs
    let s ← get
    let c := s.cur
    let l := s.hand.at_
    let b := bindOf c g
    if b = .decided false then modify State.retire
    else
      let r := s.freshId
      set r.2
      Exec.enqueue ⟨i, l, c.tid, c.pc, c.csr.vl, val c, b, [], 0, 0, false, [], [], r.1, s.datum⟩
      if fp && c.csr.ftrapen != 0 then
        Exec.modCtx (fun c => { c with flow := { c.flow with waitOn := some r.1, waitWords := s.hand.words } })
      else modify State.retire) s

/-- The scalar register that a broadcast form reads. -/
def bcRegs (bc : Bool) (c : Nat) : List Nat := if bc then [c] else []

/-- Issue of an instruction of majors `0b10000` and `0b10001`, `0b11101` and the floating compares. -/
def issueVF (i : Instr) (o : VFOps) (s : State) : Out :=
  issueVec i (bcRegs o.bc o.c) (fun c => if o.bc then c.readG o.c else 0) o.q.guard true s
def issueVI (i : Instr) (o : VIOps) (s : State) : Out :=
  issueVec i (bcRegs o.bc o.c) (fun c => if o.bc then c.readG o.c else 0) o.q.guard false s
def issueVL (i : Instr) (o : VLOps) (s : State) : Out :=
  issueVec i (bcRegs o.bc o.c) (fun c => if o.bc then c.readG o.c else 0) o.q.guard false s
def issueVC (i : Instr) (o : VCOps) (s : State) : Out :=
  issueVec i (bcRegs o.bc o.c) (fun c => if o.bc then c.readG o.c else 0) o.q.guard false s
def issueVR (i : Instr) (o : VROps) (s : State) : Out := issueVec i [] (fun _ => 0) o.q.guard false s
/-- Quantisation reads the scalar C. -/
def issueVQ (i : Instr) (o : VROps) (s : State) : Out := issueVec i [o.c] (fun c => c.readG o.c) o.q.guard true s
def issueVRed (i : Instr) (o : VRedOps) (s : State) : Out :=
  issueVec i [] (fun _ => 0) o.q.guard (redFmt o.page).isSome s
def issueVX (i : Instr) (o : VXOps) (s : State) : Out :=
  issueVec i (xRegs o.c) (fun c => c.xval o.c) o.q.guard false s

/-! ## The instructions -/

def execVadd (o : VFOps) (s : State) : Out := issueVF (.vadd o) o s
def execVsub (o : VFOps) (s : State) : Out := issueVF (.vsub o) o s
def execVmul (o : VFOps) (s : State) : Out := issueVF (.vmul o) o s
def execVdiv (o : VFOps) (s : State) : Out := issueVF (.vdiv o) o s
def execVsqrt (o : VFOps) (s : State) : Out := issueVF (.vsqrt o) o s
def execVmin (o : VFOps) (s : State) : Out := issueVF (.vmin o) o s
def execVmax (o : VFOps) (s : State) : Out := issueVF (.vmax o) o s
def execVminn (o : VFOps) (s : State) : Out := issueVF (.vminn o) o s
def execVmaxn (o : VFOps) (s : State) : Out := issueVF (.vmaxn o) o s
def execVneg (o : VFOps) (s : State) : Out := issueVF (.vneg o) o s
def execVabs (o : VFOps) (s : State) : Out := issueVF (.vabs o) o s
def execVsgn (o : VFOps) (s : State) : Out := issueVF (.vsgn o) o s
def execVfma (o : VFOps) (s : State) : Out := issueVF (.vfma o) o s
def execVfms (o : VFOps) (s : State) : Out := issueVF (.vfms o) o s
def execVfnma (o : VFOps) (s : State) : Out := issueVF (.vfnma o) o s
def execVfnms (o : VFOps) (s : State) : Out := issueVF (.vfnms o) o s
def execViadd (o : VIOps) (s : State) : Out := issueVI (.viadd o) o s
def execVisub (o : VIOps) (s : State) : Out := issueVI (.visub o) o s
def execVimul (o : VIOps) (s : State) : Out := issueVI (.vimul o) o s
def execVimulh (o : VIOps) (s : State) : Out := issueVI (.vimulh o) o s
def execVimin (o : VIOps) (s : State) : Out := issueVI (.vimin o) o s
def execVimax (o : VIOps) (s : State) : Out := issueVI (.vimax o) o s
def execViabs (o : VIOps) (s : State) : Out := issueVI (.viabs o) o s
def execVand (o : VLOps) (s : State) : Out := issueVL (.vand o) o s
def execVor (o : VLOps) (s : State) : Out := issueVL (.vor o) o s
def execVxor (o : VLOps) (s : State) : Out := issueVL (.vxor o) o s
def execVandn (o : VLOps) (s : State) : Out := issueVL (.vandn o) o s
def execVsll (o : VLOps) (s : State) : Out := issueVL (.vsll o) o s
def execVsrl (o : VLOps) (s : State) : Out := issueVL (.vsrl o) o s
def execVsra (o : VLOps) (s : State) : Out := issueVL (.vsra o) o s
def execVfeq (o : VFOps) (s : State) : Out := issueVF (.vfeq o) o s
def execVfne (o : VFOps) (s : State) : Out := issueVF (.vfne o) o s
def execVflt (o : VFOps) (s : State) : Out := issueVF (.vflt o) o s
def execVfle (o : VFOps) (s : State) : Out := issueVF (.vfle o) o s
def execVfun (o : VFOps) (s : State) : Out := issueVF (.vfun o) o s
def execVieq (o : VCOps) (s : State) : Out := issueVC (.vieq o) o s
def execVine (o : VCOps) (s : State) : Out := issueVC (.vine o) o s
def execVilt (o : VCOps) (s : State) : Out := issueVC (.vilt o) o s
def execVile (o : VCOps) (s : State) : Out := issueVC (.vile o) o s
def execKand (o : VROps) (s : State) : Out := issueVR (.kand o) o s
def execKor (o : VROps) (s : State) : Out := issueVR (.kor o) o s
def execKxor (o : VROps) (s : State) : Out := issueVR (.kxor o) o s
def execKandn (o : VROps) (s : State) : Out := issueVR (.kandn o) o s
def execKnot (o : VROps) (s : State) : Out := issueVR (.knot o) o s
def execVsel (o : VROps) (s : State) : Out := issueVR (.vsel o) o s
def execVcvt (o : VcvtOps) (s : State) : Out := issueVec (.vcvt o) [] (fun _ => 0) o.q.guard true s
def execVq8E4m3 (o : VROps) (s : State) : Out := issueVQ (.vq8E4m3 o) o s
def execVq8E5m2 (o : VROps) (s : State) : Out := issueVQ (.vq8E5m2 o) o s
def execVq4 (o : VROps) (s : State) : Out := issueVQ (.vq4 o) o s
def execVdq4 (o : VROps) (s : State) : Out := issueVQ (.vdq4 o) o s
def execVrsum (o : VRedOps) (s : State) : Out := issueVRed (.vrsum o) o s
def execVrmax (o : VRedOps) (s : State) : Out := issueVRed (.vrmax o) o s
def execVrmin (o : VRedOps) (s : State) : Out := issueVRed (.vrmin o) o s
def execVrmaxn (o : VRedOps) (s : State) : Out := issueVRed (.vrmaxn o) o s
def execVrminn (o : VRedOps) (s : State) : Out := issueVRed (.vrminn o) o s
def execVramax (o : VRedOps) (s : State) : Out := issueVRed (.vramax o) o s
def execVriand (o : VRedOps) (s : State) : Out := issueVRed (.vriand o) o s
def execVrior (o : VRedOps) (s : State) : Out := issueVRed (.vrior o) o s
def execVrixor (o : VRedOps) (s : State) : Out := issueVRed (.vrixor o) o s
def execVscan (o : VRedOps) (s : State) : Out := issueVRed (.vscan o) o s
def execVperm (o : VROps) (s : State) : Out := issueVR (.vperm o) o s
def execVrotl (o : VXOps) (s : State) : Out := issueVX (.vrotl o) o s
def execVbcast (o : VXOps) (s : State) : Out := issueVX (.vbcast o) o s
def execVcompr (o : VROps) (s : State) : Out := issueVR (.vcompr o) o s
def execVexpnd (o : VROps) (s : State) : Out := issueVR (.vexpnd o) o s
/-- VINSR reads the value and the lane number at issue. -/
def execVinsr (o : VXOps) (s : State) : Out :=
  issueVec (.vinsr o) (o.b :: xRegs o.c)
    (fun c => w64 ((c.xval o.c).toNat % 256 * 2 ^ 32 + (c.readG o.b).toNat % 2 ^ 32)) o.q.guard false s
def execVexp2 (o : VFOps) (s : State) : Out := issueVF (.vexp2 o) o s
def execVlog2 (o : VFOps) (s : State) : Out := issueVF (.vlog2 o) o s
def execVrcp (o : VFOps) (s : State) : Out := issueVF (.vrcp o) o s
def execVrsqrt (o : VFOps) (s : State) : Out := issueVF (.vrsqrt o) o s
def execVsin (o : VFOps) (s : State) : Out := issueVF (.vsin o) o s
def execVcos (o : VFOps) (s : State) : Out := issueVF (.vcos o) o s
def execVtanh (o : VFOps) (s : State) : Out := issueVF (.vtanh o) o s
def execVsigm (o : VFOps) (s : State) : Out := issueVF (.vsigm o) o s
def execVerf (o : VFOps) (s : State) : Out := issueVF (.verf o) o s
def execVexp (o : VFOps) (s : State) : Out := issueVF (.vexp o) o s

/-! ## The three that execute on the scalar core (R181) -/

def execKpopc (o : VROps) (s : State) : Out :=
  runSeq (do
    Exec.drained
    Exec.modCtx (fun c => c.writeG o.a (w64 (kSet o c.csr.vl c).length))) s
def execKfirst (o : VROps) (s : State) : Out :=
  runSeq (do
    Exec.drained
    Exec.modCtx (fun c => c.writeG o.a (w64 ((kSet o c.csr.vl c).headD 256)))) s
def execVextr (o : VXOps) (s : State) : Out :=
  runSeq (do
    Exec.need (xRegs o.c)
    Exec.drained
    Exec.modCtx (fun c =>
      c.writeG o.a (w64 ((elemsOf 32 (c.readV o.b)).getD ((c.xval o.c).toNat % 256) 0)))) s

end Sys2Proof.Machine
end

