-- ==== Sys2Proof/Machine/Handles.lean ====
section
/-! DEFINITION. Stream handles (R78, R171 to R175). -/

namespace Sys2Proof.Machine

def State.handle (s : State) (stn h : Nat) : Handle := Map.get {} (s.stn stn).handles h
def State.setHandle (s : State) (stn h : Nat) (x : Handle) : State :=
  s.modStn stn (fun t => { t with handles := Map.set {} t.handles h x })
/-- FREE: FILL + FREE equals NSLOT (R78). -/
def Handle.free (h : Handle) : Nat := h.nslot - h.fill

/-! ## Parking on a handle (R173) -/

/-- The count that a wait needs is met. -/
def Handle.meets (h : Handle) (filled : Bool) (n : Nat) : Bool := decide (n ≤ if filled then h.fill else h.free)

/-- A parked task is woken to execute its instruction again, in the ready store of its station (R165, R173). -/
def State.wakeParked (s : State) (stn tid : Nat) (k : Resume) : State :=
  match s.whereIs tid with
  | some l => s.modCtx l (fun c => { c with flow := { c.flow with susp := match c.flow.susp with
      | some (.park _ _) => some (.park k true)
      | x => x } })
  | none =>
    match (s.stn stn).sched.parked.find? (fun r => r.tid == tid) with
    | some r =>
      (s.modSched stn (fun c => { c with parked := c.parked.filter (fun r => r.tid != tid) })).makeReady stn { r with resume := k }
    | none => s

/-- Evaluates the waiters on a handle; those that are met, or that find it not valid, wake. While the station is
pre-empted they wait. -/
def State.wakeHandle (s : State) (stn h : Nat) : State :=
  if (s.stn stn).sched.preempted then s
  else
    let x := s.handle stn h
    let met := fun (w : HWaiter) => w.h == h && (!x.valid || x.meets w.filled w.count)
    let ws := (s.stn stn).hwaiters.filter met
    ws.foldl (fun st w => st.wakeParked stn w.tid .again)
      (s.modStn stn (fun t => { t with hwaiters := t.hwaiters.filter (fun w => !met w) }))

/-- Evaluates the waiters of every handle of a station, when it resumes. -/
def State.wakeHandles (s : State) (stn : Nat) : State := (List.range 16).foldl (fun st h => st.wakeHandle stn h) s

/-- The task parks where it is: its instruction's cycles are charged and a suspension follows (R14, R20). -/
def Exec.park (k : Resume) : Exec Unit := do
  let n := (← get).hand.words
  Exec.modCtx (fun c => let d := c.charge n; { d with flow := { d.flow with susp := some (.park k false) } })

/-- Whether a guarded handle instruction executes; it completes without effect where its slot says so (R175). -/
def handleOp (g : Option Guard) (wc : Nat) (srcs : List Nat) (m : Exec Unit) (s : State) : Out :=
  runSeq (do
    if ← Exec.guarded g then
      Exec.need srcs
      Exec.waitWC wc
      m) s

/-- HWAITF and HWAITE. In supervisor mode the wait stalls in place (log entry 12). -/
def handleWait (o : HOps) (filled : Bool) (s : State) : Out :=
  let c := s.cur
  let l := s.hand.at_
  match bindRuns (bindOf c o.guard) with
  | none => .next s
  | some false => .next s.retire
  | some true =>
    if (xRegs o.c).any c.owed || s.waitCount l o.wc != 0 then .next s
    else
      let h := s.handle l.stn o.h
      let n := (c.xval o.c).toNat
      if !h.valid || decide (h.nslot < n) then .next (s.trap causeHANDLE (w64 o.h))
      else if n = 0 ∨ h.meets filled n then .next s.retire
      else if c.sup then .next s
      else runSelf (do
        Exec.park .again
        modify (fun s => s.modStn l.stn (fun t => { t with hwaiters := t.hwaiters ++ [⟨o.h, filled, n, c.tid⟩] }))) s

def execHwaitf (o : HOps) (s : State) : Out := handleWait o true s
def execHwaite (o : HOps) (s : State) : Out := handleWait o false s

/-! ## Advancing (R174) -/

def execHadvp (o : HOps) (s : State) : Out :=
  handleOp o.guard o.wc (xRegs o.c) (do
    Exec.beforeRelease .stn
    let s ← get
    let l := s.hand.at_
    let h := s.handle l.stn o.h
    let n := (s.cur.xval o.c).toNat
    Exec.check (h.valid && decide (n ≤ h.free)) causeHANDLE o.h
    set ((s.setHandle l.stn o.h { h with pix := (h.pix + n) % h.nslot, fill := h.fill + n }).wakeHandle l.stn o.h)) s

def execHadvc (o : HOps) (s : State) : Out :=
  handleOp o.guard o.wc (xRegs o.c) (do
    Exec.drained
    let s ← get
    Exec.wait (!s.cur.flow.flights.any (fun f => !Exec.isStoring f))
    let l := s.hand.at_
    let h := s.handle l.stn o.h
    let n := (s.cur.xval o.c).toNat
    Exec.check (h.valid && decide (n ≤ h.fill)) causeHANDLE o.h
    set ((s.setHandle l.stn o.h { h with cix := (h.cix + n) % h.nslot, fill := h.fill - n }).wakeHandle l.stn o.h)) s

/-! ## HSET and HGET (R171, R172) -/

/-- The handle that a set-up record describes; none where a check of R172 fails. -/
def handleOf (a b : Nat) : Option Handle :=
  let nslot := bitsOf a 51 39
  let slotsz := bitsOf a 38 22
  let base := bitsOf a 21 0
  let mode := bitsOf b 63 62
  let fill := bitsOf b 36 24
  let cix := bitsOf b 23 12
  let pix := bitsOf b 11 0
  let ok := bitsOf a 63 52 == 0 && bitsOf b 61 37 == 0 && decide (1 ≤ nslot ∧ nslot ≤ 4096) &&
    decide (64 ≤ slotsz ∧ slotsz ≤ 65536) && slotsz % 64 == 0 && base % 64 == 0 && decide (base + slotsz * nslot ≤ readyStore) &&
    decide (mode < 2) && (mode == 0 || (decide (fill ≤ nslot ∧ pix < nslot ∧ cix < nslot) && pix == (cix + fill) % nslot))
  if !ok then none
  else if mode = 0 then some ⟨true, base, slotsz, nslot, 0, 0, 0, 0⟩
  else some ⟨true, base, slotsz, nslot, pix, cix, fill, 1⟩

def execHset (h b wc : Nat) (g : Option Guard) (s : State) : Out :=
  handleOp g wc [b] (do
    let va := ((← Exec.ctx).readG b).toNat
    if va = 0 then
      modify (fun s => (s.setHandle s.hand.at_.stn h { (s.handle s.hand.at_.stn h) with valid := false }).wakeHandle s.hand.at_.stn h)
    else
      Exec.check (va % 16 == 0) causeALIGN va
      let d := dwsOf 2 (← Exec.readOwn va 16)
      match handleOf (d.getD 0 0) (d.getD 1 0) with
      | none => Exec.trap causeHANDLE va
      | some x => modify (fun s => (s.setHandle s.hand.at_.stn h x).wakeHandle s.hand.at_.stn h)) s

/-- What HGET reads (R172). -/
def Handle.field (x : Handle) (cube stn sel : Nat) : Nat :=
  match sel with
  | 0 => x.fill
  | 1 => x.free
  | 2 => x.pix
  | 3 => x.cix
  | 4 => stashFa cube stn (x.base + x.cix * x.slotsz)
  | 5 => stashFa cube stn (x.base + x.pix * x.slotsz)
  | 6 => (if x.valid then 2 ^ 63 else 0) + x.nslot * 2 ^ 39 + x.slotsz * 2 ^ 22 + x.base
  | _ => x.nslot * x.slotsz

def execHget (a h : Nat) (x : XOp) (wc : Nat) (s : State) : Out :=
  runSeq (do
    Exec.need (xRegs x)
    Exec.waitWC wc
    let s ← get
    let n := (s.cur.xval x).toNat
    if 7 < n then Exec.ill
    else Exec.setReg a (w64 ((s.handle s.hand.at_.stn h).field s.cube s.hand.at_.stn n))) s

end Sys2Proof.Machine
end

