-- ==== Sys2Proof/Machine/MemEvents.lean ====
section
/-! DEFINITION. The memory system's events: requests at their homes, answers at the requesters, publication, held writes
and leases. An event whose message in hand is of another kind does nothing. -/

namespace Sys2Proof.Machine

/-- An event: what it does with the message in hand. -/
def onMsg (f : Msg → Option State) (s : State) : Out := .next ((f s.hand.msg).getD s)

/-- Class of a memory packet (R259): O for an ordered access, A otherwise. -/
def memClass (order : Nat) : Nat := if order = 0 then 1 else 0

/-- QUAL of a memory packet (R299): ORDER, and the scope of an acquire or a release, 0 for any other access. -/
def qualOf (ordered : Bool) (order scope : Nat) : Nat := (if ordered then scope * 4 else 0) + order

/-- READ_REQUEST (R299): served at its home; for a home on another cube it leaves as a packet. -/
def execReadRequest (s : State) : Out :=
  onMsg (fun m => match m with
    | .readRequest r =>
      match s.place r.fa with
      | .ok pl =>
        if pl.cube = s.cube then some (s.homeRead pl r none)
        else some (s.export s.cube pl.cube pl.stn r.stn 0x00 (memClass r.order) (qualOf (r.order == 2) r.order r.scope) r.fa 0 pl.ptag
          (.raw (readReqBytes r)) m)
      | .error _ => some (s.answerRead ⟨r, 0, List.replicate r.bytes 0, (wordsIn r.fa (List.replicate r.bytes 0)).map (fun e => bwOf e.1) ++ [bwOf r.fa], none⟩)
    | _ => none) s

/-- READ_REPLY (R299). -/
def execReadReply (s : State) : Out :=
  onMsg (fun m => match m with | .readReply r => some (s.takeRead r) | _ => none) s

/-- Before an engine's write leaves, its station's own copies of the chunks give way, dirty words going back first, so that none
stands in its way or hides it (R141, log entry 20): the state, once nothing has to be waited for. -/
def State.engineMayWrite (s : State) (w : WriteReq) : State × Bool :=
  match w.src with
  | .engine n =>
    let pick := fun (a : Nat) => (chunksIn w.fa w.data.length).contains (chunkOf a)
    if (chunksIn w.fa w.data.length).any (fun c => s.ownDirty n c) then (s.flushWords n false pick, false)
    else if (s.stn n).slice.wbOut.any (fun e => pick (e.2 * 16)) then (s, false)
    else (s.dropWords n false pick, true)
  | _ => (s, true)

/-- WRITE (R135). -/
def execWrite (s : State) : Out :=
  onMsg (fun m => match m with
    | .write w =>
      let t := s.engineMayWrite w
      if !t.2 then some (t.1.send m)
      else
      let s := t.1
      match s.place w.fa with
      | .ok pl =>
        if pl.cube = s.cube then some (s.homeWrite pl w)
        else some (s.export s.cube pl.cube pl.stn w.stn 0x02 (memClass w.order) (qualOf (w.order == 2) w.order w.scope) w.fa
          (pmaskOf w.fa w.poison) pl.ptag (.raw w.data) m)
      | .error _ => some (s.answerWrite w [])
    | .hostWrite node w => some (s.export s.cube node 0 0 0x02 0 1 w.fa 0 w.ptag (.raw w.data) (.write w))
    | _ => none) s

/-- WRITE_ACKNOWLEDGEMENT (R123). -/
def execWriteAcknowledgement (s : State) : Out :=
  onMsg (fun m => match m with | .writeAcknowledgement w => some (s.takeWriteAck w) | _ => none) s

/-- ATOMIC (R156); the full/empty forms (R154) travel the same way. -/
def execAtomic (s : State) : Out :=
  onMsg (fun m => match m with
    | .atomic a =>
      match s.place a.fa with
      | .ok pl =>
        if pl.cube = s.cube then some (s.homeAtomic pl a none)
        else some (s.export s.cube pl.cube pl.stn a.stn 0x04 0 (qualOf (a.order != 0) a.order a.scope) a.fa 0 pl.ptag
          (if a.op ≤ 12 then .raw (atomReqBytes a) else .fe a) m)
      | .error _ => some (s.answerAtomic ⟨a, 0, 0, true, none⟩)
    | _ => none) s

/-- ATOMIC_REPLY (R156). -/
def execAtomicReply (s : State) : Out :=
  onMsg (fun m => match m with | .atomicReply r => some (s.takeAtomic r) | _ => none) s

/-- A wait at its home on this cube: it is compared and armed, behind what is held on its chunk (R122, R135); a task whose wait was
armed parks. -/
def State.armHere (s : State) (pl : Place) (w : WaitReg) : State :=
  let r := s.homeWait pl w
  match w.src with
  | .packet p => r.1.ackWait p r.2
  | .task l _ => if r.2 then r.1.parkWaiting l else r.1
  | _ => r.1

/-- WAIT_ARM (R157): the home compares and arms, in the order in which it accepts what acts on the word. -/
def execWaitArm (s : State) : Out :=
  onMsg (fun m => match m with
    | .waitArm w =>
      match s.place w.fa with
      | .ok pl =>
        if pl.cube = s.cube then
          some (if s.chunkHeld pl.stn w.fa || s.copyingAt w.fa then s.holdOp pl.stn w.fa 8 m else s.armHere pl w)
        else some (s.export s.cube pl.cube pl.stn w.stn 0x09 0 0 w.fa 0 pl.ptag (.wait w) m)
      | .error _ => some (s.send (.wake ⟨w, 0, true, none⟩))
    | _ => none) s

/-- A tile-task record's dependence is satisfied (R219). -/
def State.tileWoken (s : State) (m : WakeMsg) : State :=
  let s1 := match m.sig with | some g => s.acquireSig m.reg.stn g | none => s
  let f := fun (t : TileTask) => if t.num = m.reg.tid then { t with ready := true, broken := m.poisoned || m.val.getLsbD 63 } else t
  State.send { s1 with tables := { s1.tables with tiles := s1.tables.tiles.map f } } (.tileTaskDispatch m.reg.ptag)

/-- WAKE (R158). A full ready store keeps the record waiting. -/
def execWake (s : State) : Out :=
  onMsg (fun m => match m with
    | .wake w =>
      match w.reg.src with
      | .packet p => some (s.export s.cube p.snode w.reg.stn (match s.place w.reg.fa with | .ok pl => pl.stn | .error _ => 0)
          0x0A 0 0 w.reg.fa 0 w.reg.ptag (.wake w) m)
      | _ =>
        if w.reg.cond = .tile then some (s.tileWoken w)
        else if (s.whereIs w.reg.tid).isNone && (s.recordMoving w.reg.tid || !s.canInsert w.reg.stn) then some (s.send m)
        else some (s.takeWake w)
    | _ => none) s

/-- The address that a demand is about. -/
def demandFa : PubFor → Option Nat
  | .read r => some r.fa
  | .atomic a => some a.fa
  | .wait w => some w.reg.fa
  | .answer r => some r.req.fa
  | .witness fa => some fa
  | _ => none

/-- The homes of this cube are emptied for a FENCE.ALIAS of another one, which hears of it once the leases granted here until then
have passed (R142). -/
def State.emptyForAlias (s : State) (d : Demand) : State :=
  s.emptyHomes.schedule (s.lastLease + 1) (.publicationComplete d 0)
/-- The answer reaches the contexts that wait for it. -/
def State.aliasDone (s : State) (stn id : Nat) : State :=
  (stnLocs stn).foldl (fun st l =>
    if (st.ctx l).flow.fenceOn.contains id then
      st.modCtx l (fun c => { c with flow := { c.flow with fenceOn := c.flow.fenceOn.filter (fun i => i != id) } })
    else st) s

/-- PUBLICATION_DEMAND (R138). -/
def execPublicationDemand (s : State) : Out :=
  onMsg (fun m => match m with
    | .publicationDemand d =>
      if d.cube = s.cube then
        (match d.pubFor with
         | .emptyHomes _ _ _ => some (s.emptyForAlias d)
         | _ => some (s.beginPublication d))
      else
        let home := match demandFa d.pubFor with
          | some fa => (match s.place fa with | .ok pl => pl.stn | .error _ => 0)
          | none => 0
        some (s.export s.cube d.cube d.stn home 0x0B 0 0 0 0 0 (.demand d) m)
    | _ => none) s

/-! ## Held operations (R135) -/

/-- Serves an operation that has waited at its home. -/
def State.serveHeld (s : State) (pl : Place) (m : Msg) : State :=
  match m with
  | .readRequest r => (s.rebuildRange pl r.fa r.bytes).serveRead pl r
  | .write w => (s.rebuildRange pl w.fa w.data.length).serveWrite pl w
  | .atomic a => (s.rebuildRange pl a.fa 8).serveAtomic pl a
  | .writeBack w => s.serveWriteBack pl w
  | .waitArm w => s.armHere pl w
  | _ => s

/-- Whether a held operation waits for the copying of its stripe (R270). -/
def waitsForCopy : Msg → Bool
  | .readRequest _ => false
  | _ => true
/-- Whether a held operation waits for leases to pass. -/
def waitsForLease : Msg → Bool
  | .write _ => true
  | .atomic _ => true
  | _ => false

/-- The witness whose publication a held operation must wait for next (R137, R139), after the one already waited for. -/
def State.heldWitness (s : State) (stn : Nat) (done : Option Demand) : Msg → Option (Witness × PubFor)
  | .readRequest r => if r.order = 2 ∧ scopeWide r.scope then
      (s.mustPublish stn r.fa r.bytes (srcCube s.cube r.src) r.stn done).map (fun w => (w, .read r)) else none
  | .atomic a => if a.order ≠ 0 ∧ scopeWide a.scope then
      (s.mustPublish stn a.fa (if a.w32 then 4 else 8) (srcCube s.cube a.src) a.stn done).map (fun w => (w, .atomic a)) else none
  | _ => none

/-- The address and bytes of a memory message. -/
def msgRange : Msg → Nat × Nat
  | .readRequest r => (r.fa, r.bytes)
  | .write w => (w.fa, w.data.length)
  | .atomic a => (a.fa, if a.w32 then 4 else 8)
  | .writeBack w => (w.fa, 16)
  | .waitArm w => (w.fa, 8)
  | _ => (0, 1)

/-- Whether a held operation finds room for its witness (R137). -/
def State.heldRoom (s : State) (stn : Nat) (m : Msg) : Bool :=
  (match m with | .write w => !writeWitnesses w | .atomic a => !atomWitnesses a | _ => true) ||
    s.witnessRoom stn (msgRange m).1 (msgRange m).2

/-- A held operation leaves the lines of its chunks; how long it was held is sampled (R294). -/
def State.unhold (s : State) (stn chunk : Nat) (p : Msg → Bool) : State :=
  let h := (s.stn stn).home
  let s1 := s.modHome stn (fun h => { h with held := h.held.filter (fun e => !p e.2), since := h.since.eraseP (fun e => e.1 == chunk) })
  match h.since.find? (fun e => e.1 == chunk) with
  | some e => s1.observe 5 stn (s.datum - e.2)
  | none => s1

/-- The oldest operation held on a chunk. -/
def State.heldHead (s : State) (stn chunk : Nat) : Option Msg :=
  ((s.stn stn).home.held.find? (fun h => h.1 == chunk)).map (fun h => h.2)

/-- The operations held on a chunk are served in arrival order: one that is the oldest on each of its chunks, a write once the datum
has passed their LEASEMAX, an operation that must wait for a publication once that is complete, `done` being the one that is. -/
def State.releaseHeld (s : State) (stn chunk : Nat) (done : Option Demand) : Nat → State
  | 0 => s
  | k + 1 =>
    match s.heldHead stn chunk with
    | none => s
    | some (.publicationDemand _) => s
    | some m =>
      let cs := chunksIn (msgRange m).1 (msgRange m).2
      if cs.any (fun c => s.heldHead stn c != some m) || (waitsForCopy m && s.copyingAt (chunk * 64)) then s
      else if waitsForLease m && cs.any (fun c => s.leased stn (c * 64)) then
        s.schedule (cs.foldl (fun d c => max d (s.leaseMax stn (c * 64))) s.datum + 1) (.heldWriteRelease chunk)
      else match s.heldWitness stn done m with
      | some (w, p) =>
        let d : Demand := ⟨w.cube, w.stn, w.seq, p⟩
        (s.modHome stn (fun h => { h with held := h.held.map (fun e => if e.2 = m then (e.1, .publicationDemand d) else e) })).send
          (.publicationDemand d)
      | none =>
        if !s.heldRoom stn m then s.retireOldest stn
        else match s.place (msgRange m).1 with
        | .ok pl =>
          cs.foldl (fun st c => st.releaseHeld stn c none k) ((s.unhold stn (chunkOf (msgRange m).1) (fun x => x == m)).serveHeld pl m)
        | .error _ => s

/-- Serves what every chunk of a home holds, as far as it can be served. -/
def State.releaseAll (s : State) (stn : Nat) : State :=
  (s.stn stn).home.held.foldl (fun st h => st.releaseHeld stn h.1 none (st.stn stn).home.held.length) s

/-- HELD_WRITE_RELEASE (R135). -/
def execHeldWriteRelease (s : State) : Out :=
  onMsg (fun m => match m with
    | .heldWriteRelease chunk =>
      match s.place (chunk * 64) with
      | .ok pl => some (s.releaseHeld pl.stn chunk none (s.stn pl.stn).home.held.length)
      | .error _ => none
    | _ => none) s

/-- A release from another cube leaves a witness without its signature, which no packet of R299 carries; the home learns it
as the publication completes (log entry 9). -/
def State.learnSig (s : State) (stn : Nat) (d : Demand) (sig : Sig) : State :=
  if d.cube = s.cube then s
  else s.modHome stn (fun h => { h with witnesses := h.witnesses.map (fun w =>
    if w.cube = d.cube ∧ w.stn = d.stn ∧ w.seq = d.seq then { w with sig := w.sig ||| sig } else w) })

/-- What follows a publication that a home asked for. -/
def State.afterPublication (s : State) (pl : Place) (d : Demand) : State :=
  let held := (s.stn pl.stn).home.held.find? (fun e => e.2 == .publicationDemand d)
  match held with
  | some (chunk, _) =>
    let back : Option Msg := match d.pubFor with | .read r => some (.readRequest r) | .atomic a => some (.atomic a) | _ => none
    let s1 := match back with
      | some m => s.modHome pl.stn (fun h => { h with held := h.held.map (fun (e : Nat × Msg) => if e.2 = Msg.publicationDemand d then (e.1, m) else e) })
      | none => s
    s1.releaseHeld pl.stn chunk (some d) (s1.stn pl.stn).home.held.length
  | none =>
    match d.pubFor with
    | .read r => s.homeRead pl r (some d)
    | .atomic a => s.homeAtomic pl a (some d)
    | .wait w => s.send (.wake { w with sig := sigOfWitnesses (s.foreignWitnesses pl.stn w.reg.fa 8 (srcCube s.cube w.reg.src) w.reg.stn) })
    | .answer r => s.answerAtomic r
    | .witness fa => (s.modHome pl.stn (fun h => { h with retiring := false, witnesses := h.witnesses.filter (fun x =>
        x.word != fa / 8 || !x.is d) })).releaseAll pl.stn
    | _ => s

/-- A command's 64 bytes (R26). -/
def cmdDws (c : Cmd) : List Nat :=
  [c.flags * 2 ^ 32 + c.ptag * 2 ^ 16 + c.opcode] ++ ((List.range 5).map (fun i => (c.opnd.getD i 0).toNat)) ++ [c.reply.toNat, c.tag]
/-- A command of its eight doublewords; `resv` notes a reserved bit. -/
def cmdOfDws (d : List Nat) : Cmd :=
  { flags := bitsOf (d.getD 0 0) 39 32, resv := bitsOf (d.getD 0 0) 63 40 != 0 || bitsOf (d.getD 7 0) 63 32 != 0
    ptag := bitsOf (d.getD 0 0) 31 16, opcode := bitsOf (d.getD 0 0) 15 0
    opnd := (List.range 5).map (fun i => w64 (d.getD (i + 1) 0)), reply := w64 (d.getD 6 0), tag := bitsOf (d.getD 7 0) 31 0 }

/-- PUBLICATION_COMPLETE (R138 to R141): the home serves what waited, or what leaves the station does so with
the signature. -/
def execPublicationComplete (s : State) : Out :=
  onMsg (fun m => match m with
    | .publicationComplete d sig =>
      match d.pubFor with
      | .record cube stn r =>
        if cube = s.cube then some (s.send (.recordMove stn { r with sig := some sig }))
        else
          -- what the task counts in C3 goes with it (R123)
          let r1 := { r with sig := some sig, c3 := s.c3of r.tid }
          some ({ (s.setC3 r.tid 0) with away := Map.set 0 s.away r.tid (cube + 1) }.export s.cube cube stn d.stn 0x06 0 0 0 0 r.ptag
            (.record r1) (.recordMove d.stn r1))
      | .command c =>
        let c1 := { c with sig := some sig }
        if c.cube = s.cube then some (s.send (.engineCommand c1))
        else some (s.export s.cube c.cube c.stn d.stn 0x07 0 0 0 0 c.cmd.ptag
          (.signed (dwBytes (cmdDws c.cmd)) (some sig) c.inbox c.tid) (.engineCommand c1))
      | .task cube stn p =>
        let p1 := { p with sig := some sig }
        if cube = s.cube then some (s.send (.taskPacket stn p1))
        else some (s.export s.cube cube stn d.stn 0x06 0 0 ((p.dws.getD 0 0).toNat) 0 ((p.dws.getD 2 0).toNat % 65536)
          (.signed (dwBytes (p.dws.map (fun w => w.toNat))) (some sig) 0 0) (.taskPacket stn p1))
      | .data cube stn a =>
        let a1 := { a with sig := some sig }
        if cube = s.cube then some (s.send (.dataArrivalWithHandler stn a1))
        else some (s.export s.cube cube stn d.stn 0x13 0 0 a.addr 0 a.ptag
          (.signed (dwBytes [a.pc, a.left] ++ a.data) (some sig) 0 0) (.dataArrivalWithHandler stn a1))
      | .emptyHomes cube stn id =>
        if cube = s.cube then some (s.aliasDone stn id)
        else if s.guardsOut then some (s.send m)
        else some (s.export s.cube cube stn 0 0x0B 0 0 0 0 0 (.published d sig) m)
      | p =>
        match demandFa p with
        | none => none
        | some fa =>
          match s.place fa with
          | .ok pl =>
            if pl.cube = s.cube then some ((s.learnSig pl.stn d sig).afterPublication pl d)
            else some (s.export s.cube pl.cube pl.stn d.stn 0x0B 0 0 0 0 0 (.published d sig) m)
          | .error _ => none
    | _ => none) s

/-- WRITE_BACK (R131, R135). -/
def execWriteBack (s : State) : Out :=
  onMsg (fun m => match m with
    | .writeBack w =>
      match s.place w.fa with
      | .ok pl =>
        if pl.cube = s.cube then some (s.homeWriteBack pl w)
        else some (s.export s.cube pl.cube pl.stn w.stn 0x0C 0 0 w.fa (if w.poison then 1 else 0) pl.ptag (.writeBack w) m)
      | .error _ => some (s.wbDone w.stn w.pubId)
    | _ => none) s

/-- LEASE_EXPIRY (R134). -/
def execLeaseExpiry (s : State) : Out :=
  onMsg (fun m => match m with | .leaseExpiry stn chunk => some (s.expireChunk stn chunk) | _ => none) s

/-- SIGRCV_EXPIRY (R136). -/
def execSigrcvExpiry (s : State) : Out :=
  onMsg (fun m => match m with
    | .sigrcvExpiry stn => some (s.modSlice stn (fun l => { l with sigrcv := l.sigrcv.filter (fun e => decide (s.datum ≤ e.1)) }))
    | _ => none) s

/-- Whether a message is the full/empty request with a number. -/
def isFeReq (id : Nat) : Msg → Bool
  | .atomic a => a.id == id && decide (16 ≤ a.op)
  | _ => false

/-- Whether a message is the full/empty request of another cube that a cancel names. -/
def isFeFrom (a : AtomReq) (m : Msg) : Bool :=
  match m with
  | .atomic b => b.id == a.id && decide (16 ≤ b.op) &&
      (match b.src, a.src with | .packet p, .packet q => p.snode == q.snode && p.sstn == q.sstn | _, _ => false)
  | _ => false

/-- A full/empty request that has left for another cube's stash is cancelled by a packet of the same pair, which follows it. -/
def State.cancelAway (s : State) (id : Nat) (m : Msg) : State :=
  match (s.e2e.pairs.map (fun p => (p.unacked ++ p.waiting).map (fun u => (p, u)))).flatten.find? (fun e =>
    isFeReq id e.2.msg && !e.2.answered) with
  | some (p, u) => (match u.msg with
    | .atomic a => s.export p.snode p.dnode p.dstn p.sstn 0x04 p.cls 0 a.fa 0 a.ptag (.cancel a) m
    | _ => s)
  | none => s

/-- A cancel of another cube at the stash: what is held, or has come and is not yet performed, is answered cancelled. -/
def State.cancelHere (s : State) (a : AtomReq) : Option State :=
  let held := (s.stations.map (fun e => e.2.home.feHeld.map (fun h => h.2))).flatten
  match (held ++ s.net).find? (isFeFrom a) with
  | some (.atomic b) =>
    let s1 := s.stnIxs.foldl (fun st n => st.modHome n (fun h => { h with feHeld := h.feHeld.filter (fun h => !isFeFrom a h.2) })) s
    let s2 := { s1 with net := s1.net.filter (fun m => !isFeFrom a m) }
    (match b.src with | .packet p => some (s2.replyPkt p 0x05 0 .cancelled) | _ => some s2)
  | _ => none

/-- FULL_EMPTY_CANCEL (R155): a held request, or one not yet at its stash, is cancelled and its instruction is left
unperformed; one already performed completes with its result. -/
def execFullEmptyCancel (s : State) : Out :=
  onMsg (fun m => match m with
    | .fullEmptyCancel l =>
      match (s.ctx l).flow.waitOn with
      | none => none
      | some id =>
        let heldAt := s.stations.find? (fun e => e.2.home.feHeld.any (fun h => isFeReq id h.2))
        let clear := fun (st : State) => st.modCtx l (fun c => { c with flow := { c.flow with waitOn := none, waitWords := 0 } })
        match heldAt with
        | some (n, _) => some (clear (s.modHome n (fun h => { h with feHeld := h.feHeld.filter (fun h => !isFeReq id h.2) })))
        | none =>
          if s.net.any (isFeReq id) then some (clear { s with net := s.net.filter (fun m => !isFeReq id m) })
          else some (s.cancelAway id m)
    | .feCancel a => s.cancelHere a
    | _ => none) s

/-- GUARD_UPDATE (R273): a mirror or parity word follows a write-back. -/
def execGuardUpdate (s : State) : Out :=
  onMsg (fun m => match m with
    | .guardUpdate fa d isXor poison =>
      let cube := bitsOf fa 54 43
      if cube = s.cube then
        let old := s.rawWord fa
        some (s.setRaw fa (if isXor then old.1 ^^^ d else d) (if isXor then old.2 else poison))
      else some (s.export s.cube cube (bitsOf fa 37 32) 0 0x02 0 0 fa (if poison then 1 else 0) 0 (.guard fa d isXor poison) m)
    | _ => none) s

/-- PAGE_WALK (R250, R252): a walk that finds a valid leaf installs its translation; a fault installs nothing. -/
def execPageWalk (s : State) : Out :=
  onMsg (fun m => match m with
    | .pageWalk stn ptag va =>
      match s.walk [] stn ptag va with
      | .ok l => some (s.installTlb stn ptag va l)
      | _ => none
    | _ => none) s

end Sys2Proof.Machine
end

