-- ==== Sys2Proof/Machine/Suspend.lean ====
section
/-! DEFINITION. Suspension (R14, R182), the save area (R236) and its pool (R237), starting and restoring a task (R15,
R235), and freeing a context. -/

namespace Sys2Proof.Machine

/-! ## The cube's own storage accesses (log entry 15) -/

/-- Reads bytes at their home on this cube; none where the address has no home here or a byte is poisoned. -/
def State.ownRead (s : State) (fa n : Nat) : Option (List Byte) :=
  match s.place fa with
  | .ok pl =>
    if pl.cube = s.cube then (let r := s.homeBytes pl fa n; if r.2.isEmpty then some r.1 else none) else none
  | .error _ => none
/-- Writes bytes at their home on this cube. -/
def State.ownWrite (s : State) (fa : Nat) (bs : List Byte) : State :=
  match s.place fa with
  | .ok pl => if pl.cube = s.cube then (s.putHome pl fa bs).1 else s
  | .error _ => s
/-- Whether an address is homed on this cube. -/
def State.ownFa (s : State) (fa : Nat) : Bool := match s.place fa with | .ok pl => pl.cube == s.cube | .error _ => false

/-! ## The save pool (R237) -/

/-- Whether a store of the cube's own to a block word has not been performed yet. -/
def State.storing (s : State) (fa : Nat) : Bool :=
  let isIt := fun (m : Msg) => match m with
    | .write w => w.src == .cube && bwOf w.fa == bwOf fa
    | _ => false
  s.net.any isIt || s.after.any (fun e => e.2.any isIt) ||
  s.e2e.pairs.any (fun p => (p.unacked ++ p.waiting).any (fun u => isIt u.msg && !u.answered))

/-- Eight bytes of another cube that the cube reads for itself: none, and asked for, until they are at hand. -/
def State.farRead (s : State) (ptag fa : Nat) : Option Nat × State :=
  if s.storing fa then (none, s)
  else match s.tables.buf.find? (fun e => e.1 == bwOf fa) with
  | some e => (if e.2.2 then none else some (e.2.1.toNat / 2 ^ (8 * (fa % 16)) % 2 ^ 64),
      { s with tables := { s.tables with buf := s.tables.buf.filter (fun e => e.1 != bwOf fa) } })
  | none => (none, s.askWords ptag [fa / 16 * 16])

/-- Pops a free area from a station's save pool: its address, none while the pool is empty or the area's link, which lies on
another cube for an area that a moved task has given back, is still to be read. -/
def State.popArea (s : State) (stn : Nat) : Option Nat × State :=
  let head := (s.stn stn).sched.savepool
  match s.ownRead head 8 with
  | none => (none, s)
  | some hb =>
    let a := natOf hb
    if a = 0 then (none, s)
    else if s.ownFa a then
      (match s.ownRead a 8 with
       | some nb => (some a, s.ownWrite head nb)
       | none => (none, s))
    else match s.farRead (s.ptagAt stn) a with
    | (some n, t) => (some a, t.ownWrite head (bytesOf 8 n))
    | (none, t) => (none, t)

/-- Pushes an area back, to the pool of the station where its task retires: its link is the old head, and the head names it (log
entry 92). -/
def State.pushArea (s : State) (stn a : Nat) : State :=
  let head := (s.stn stn).sched.savepool
  if a = 0 then s
  else match s.ownRead head 8 with
  | none => s
  | some hb =>
    if s.ownFa a then (s.ownWrite a hb).ownWrite head (bytesOf 8 a)
    else
      let m := s.storeMsg stn a (s.ptagAt stn) hb
      (m.2.send m.1).ownWrite head (bytesOf 8 a)

/-! ## The save area (R236) -/

/-- Where the images of the vector registers begin. -/
def saveV (n : Nat) : Nat := 2048 + 1024 * n

/-- The first 2,048 bytes of a save area. -/
def saveHead (c : Ctx) : List Byte :=
  let guards := (List.range 8).foldl (fun m j => if c.slot j = .yes then m + 2 ^ j else m) 0
  let vs := (List.range 32).foldl (fun m n => if c.csr.vsaved.has n then m + 2 ^ n else m) 0
  let dws : List Nat :=
    [c.csr.resume % 1024 * 2 ^ 48 + (if c.flow.ppend.isSome then 2 ^ 47 else 0) + (if c.flow.bpend then 2 ^ 46 else 0) +
       guards * 2 ^ 32 + c.csr.vl * 2 ^ 16 + c.csr.ftrapen * 2 ^ 8 + c.csr.fflags,
     c.csr.rndseed.toNat, vs * 2 ^ 32 + c.flow.fifo.length * 2 ^ 16, c.flow.fifopend,
     match c.flow.ppend with | some a => a.toNat | none => 0, 0, 0, 0]
  let gs := (List.range 63).map (fun i => (Map.get 0 c.files.g (i + 1)).toNat)
  let ks := ((List.range 7).map (fun i => bytesOf 32 (Map.get 0 c.files.k (i + 1)).toNat)).flatten
  let fs := ((List.range 16).map (fun i => match c.flow.fifo[i]? with
    | some e => bytesOf 8 e.1.toNat ++ bytesOf 8 e.2.toNat
    | none => List.replicate 16 0)).flatten
  (dws.map (bytesOf 8)).flatten ++ (gs.map (bytesOf 8)).flatten ++ List.replicate 8 0 ++ ks ++ fs ++ List.replicate 992 0

/-- The pieces of a save area that a suspension writes: its head, and the registers written since the first start. -/
def savePieces (c : Ctx) : List (Nat × List Byte) :=
  (0, saveHead c) ::
    ((List.range 32).filter (fun n => c.csr.vsaved.has n)).map (fun n => (saveV n, bytesOf 1024 (c.readV n).toNat))

/-- The reserved fields of a save area's head are zero. -/
def saveReservedOk (bs : List Byte) : Bool :=
  let d := fun i => natOf ((bs.drop (8 * i)).take 8)
  bitsOf (d 0) 63 58 == 0 && bitsOf (d 0) 45 40 == 0 && bitsOf (d 0) 31 25 == 0 && bitsOf (d 0) 15 13 == 0 &&
  bitsOf (d 0) 7 5 == 0 && bitsOf (d 2) 31 21 == 0 && bitsOf (d 2) 15 0 == 0 && bitsOf (d 3) 63 32 == 0 &&
  d 5 == 0 && d 6 == 0 && d 7 == 0 && ((bs.drop 568).take 8).all (fun b => b == 0) && ((bs.drop 1056).take 992).all (fun b => b == 0)

/-- A context's task state from the head of a save area and the vector images that it names. -/
def restoreFrom (bank : Map Word) (bs : List Byte) (vec : Nat → VReg) : Ctx :=
  let d := fun i => natOf ((bs.drop (8 * i)).take 8)
  let ns := (List.range 32).filter (fun n => bitAt (d 2) (32 + n))
  { busy := true
    files := {
      g := (List.range 63).foldl (fun m i => Map.set 0 m (i + 1) (w64 (d (8 + i)))) []
      k := (List.range 7).foldl (fun m i => Map.set 0 m (i + 1) (BitVec.ofNat 256 (natOf ((bs.drop (576 + 32 * i)).take 32)))) []
      v := ns.foldl (fun m n => Map.set 0 m n (vec n)) []
      bank := bank
      slots := (List.range 8).map (fun j => if bitAt (d 0) (32 + j) then .yes else .no) }
    csr := { resume := bitsOf (d 0) 57 48, vl := min (bitsOf (d 0) 24 16) 256, ftrapen := bitsOf (d 0) 12 8
             fflags := bitsOf (d 0) 4 0, rndseed := w64 (d 1), vsaved := ns.foldl (fun m n => NSet.add m n) [] }
    flow := {
      ppend := if bitAt (d 0) 47 then some (w64 (d 4)) else none
      bpend := bitAt (d 0) 46
      fifo := (List.range (min (bitsOf (d 2) 20 16) 16)).map (fun i =>
        (w64 (natOf ((bs.drop (800 + 16 * i)).take 8)), w64 (natOf ((bs.drop (808 + 16 * i)).take 8))))
      fifopend := bitsOf (d 3) 31 0 } }

/-- R15: a context as a task first starts in it. -/
def startOf (bank : Map Word) (r : Rec) : Ctx :=
  { busy := true
    files := { bank := bank
               g := Map.set 0 (Map.set 0 (Map.set 0 [] 1 r.arg0) 2 r.arg1) 63 Config.exitStub } }

/-- A context that holds no task; its kernel bank and trap registers stay (R246). -/
def Ctx.freed (c : Ctx) : Ctx :=
  { files := { bank := c.files.bank }
    csr := { tcause := c.csr.tcause, taddr := c.csr.taddr, tpc := c.csr.tpc, iwords := c.csr.iwords, taie := c.csr.taie
             pmode := c.csr.pmode } }

/-! ## What follows when a context or a slot is free -/

/-- A KMSG is raised in the lowest free context for each message that waits (R240, R248). -/
def State.deliverKmsgs (s : State) (stn : Nat) : Nat → State
  | 0 => s
  | k + 1 =>
    match (s.stn stn).kernel.pending, (stnLocs stn).find? (fun l => !(s.ctx l).busy) with
    | a :: _, some l =>
      ((s.modStn stn (fun t => { t with kernel := { t.kernel with pending := t.kernel.pending.drop 1 } })).enterTrap
        l causeKMSG (w64 a) 0 0).deliverKmsgs stn k
    | _, _ => s

/-- Whether any context of a station holds a task. -/
def State.anyTask (s : State) (stn : Nat) : Bool := (stnLocs stn).any (fun l => (s.ctx l).task.isSome)

/-- The record that leaves a pre-empted station next: held ones first, spilled ones only towards another station. -/
def State.nextAway (s : State) (stn : Nat) : Option RecEntry :=
  let c := (s.stn stn).sched
  match firstRec c.ready with
  | some r => if s.otherStns stn = [] ∧ !s.spillRoom stn then none else some r
  | none => if s.otherStns stn = [] then none else firstRec c.spilled
/-- Sends away every record of a station, in order (R243 step 4). -/
def State.sendAll_ (s : State) (stn : Nat) : Nat → State
  | 0 => s
  | k + 1 =>
    match s.nextAway stn with
    | none => s
    | some r => ((s.dropRecord stn r).sendAway stn r).sendAll_ stn k

/-- R243 steps 4 and 5: once no context of a pre-empted station holds a task, its records leave and PREEMPT is raised. -/
def State.preemptStep (s : State) (stn : Nat) : State :=
  if (s.stn stn).sched.preempted && !s.anyTask stn then
    let s1 := s.sendAll_ stn ((s.stn stn).sched.ready.length + (s.stn stn).sched.spilled.length)
    match (s1.stn stn).kernel.raise with
    | some _ => s1.send (.preemptRaised stn)
    | none => s1
  else s

/-- R234: spilled records come back when the store falls below 4,032 records. -/
def State.wantRefill (s : State) (stn : Nat) : State :=
  let c := (s.stn stn).sched
  if !c.spilled.isEmpty && !c.preempted && decide (c.slots.length < 4032) then s.send (.spillRefill stn) else s

/-- The mesh neighbours of a station: up, right, down, left. -/
def meshNeighbours (n : Nat) : List (Option Nat) :=
  [if n / 8 < 7 then some (n + 8) else none, if n % 8 < 7 then some (n + 1) else none,
   if 8 ≤ n then some (n - 8) else none, if n % 8 = 0 then none else some (n - 1)]
/-- The mesh neighbours in the same parcel, starting with the `k`-th direction. -/
def State.neighbours (s : State) (n k : Nat) : List Nat :=
  (((meshNeighbours n).drop (k % 4) ++ (meshNeighbours n).take (k % 4)).filterMap id).filter
    (fun m => s.ptagAt m != 0 && s.ptagAt m == s.ptagAt n)

/-- Whether a station is idle and may steal. -/
def State.idle (s : State) (n : Nat) : Bool :=
  let t := s.stn n
  t.steal.on && !t.sched.preempted && !t.sched.resuming && t.sched.ready.isEmpty && t.sched.spilled.isEmpty && (s.freeCtx n).isSome

/-- An idle station starts or goes on with a round. -/
def State.seekWork (s : State) (n : Nat) : State :=
  let t := s.stn n
  if s.idle n && !t.steal.waiting && decide (t.steal.until_ ≤ s.datum) then s.send (.stealRound n) else s

/-- A context becomes free: pending kernel messages are raised, a pre-emption goes on, and an idle station looks for
work. -/
def State.freeContext (s : State) (l : Loc) : State :=
  let s1 := s.modCtx l Ctx.freed
  (((s1.deliverKmsgs l.stn 256).wantRefill l.stn).preemptStep l.stn).seekWork l.stn

/-! ## Suspension (R14) -/

/-- What a suspension waits for: guard slots, C1 and C2, owed results, vector instructions, the instruction in hand. -/
def State.settled (s : State) (l : Loc) : Bool :=
  let c := s.ctx l
  c.files.slots.all (fun x => match x with | .pending _ => false | _ => true) && c.flow.c1 == 0 && c.flow.c2 == 0 &&
  c.flow.flights.isEmpty && c.flow.waitOn.isNone && !s.vecPending l

/-- The record as it is written at a suspension (R14 step 5). -/
def Ctx.recordNow (c : Ctx) (r : RecEntry) (frame pc : Nat) : RecEntry :=
  { r with body := { r.body with pc := pc, frame := frame, budget := c.csr.budget, deadline := c.csr.deadln.toNat
                                 latedrop := c.csr.latedrop } }

/-- Writes a save area: here at once, elsewhere by writes that the suspension then waits for. -/
def State.saveArea (s : State) (l : Loc) (frame : Nat) : State :=
  let c := s.ctx l
  if s.ownFa frame then (savePieces c).foldl (fun st p => st.ownWrite (frame + p.1) p.2) s
  else
    ((savePieces c).map (fun p => (piecesOf (frame + p.1) p.2))).flatten.foldl (fun st p =>
      let r := st.freshId
      let f : Flight := ⟨.store 0, [⟨r.1, p.1, p.1, p.2.length, [], false⟩], true, false, [], [], s.datum⟩
      (r.2.send (.write ⟨r.1, .task l c.tid, l.stn, p.1, p.1, p.2, [], 1, 3, 0, 0, 0, 0⟩)).modCtx l (fun c =>
        { c with flow := { c.flow with flights := c.flow.flights ++ [f] } })) s

/-- Where a suspended record goes. -/
def State.placeSuspended (s : State) (stn : Nat) (k : SuspKind) (r : RecEntry) : State :=
  match k with
  | .yield =>
    let n := (s.stn stn).sched.arrivals
    (s.modSched stn (fun c => { c with arrivals := n + 1 })).insertAs stn { r with arr := n }
  | .park resume true => s.makeReady stn { r with resume := resume }
  | .park resume false => s.modSched stn (fun c => { c with parked := c.parked ++ [{ r with resume := resume }] })
  | .preempt => s.insertReady stn r

/-- One turn of a suspension: it waits until the task has settled, saves, and frees the context. -/
def State.suspend (s : State) (l : Loc) : State :=
  let c := s.ctx l
  match c.task with
  | none => s.modCtx l (fun c => { c with flow := { c.flow with susp := none } })
  | some r =>
    let kind := c.flow.susp.getD .preempt
    let s := s.modCtx l (fun c => { c with flow := { c.flow with susp := some kind } })
    if !s.settled l then s
    else if c.flow.saved then
      let r' := c.recordNow r r.body.frame (if c.sup then c.csr.tpc else c.pc)
      -- the record's slot is free again before it is placed
      let s1 := (s.releaseSlot l.stn r.slot).modCtx l Ctx.freed
      (s1.placeSuspended l.stn kind r').freeContext l
    else
      match (if r.body.frame = 0 then s.popArea l.stn else (some r.body.frame, s)) with
      | (none, s1) => s1
      | (some a, s1) =>
        (s1.saveArea l a).modCtx l (fun c =>
          { c with task := some { r with body := { r.body with frame := a } }, flow := { c.flow with saved := true } })

/-- SUSPENSION. -/
def execSuspension (s : State) : Out :=
  match s.hand.msg with
  | .suspension l => .next (s.suspend l)
  | _ => .next s

/-- R234: up to 64 spilled records come back, earliest first. -/
def State.refill (s : State) (stn : Nat) : Nat → State
  | 0 => s
  | k + 1 =>
    let c := (s.stn stn).sched
    match firstRec c.spilled, freeSlot c.slots with
    | some r, some slot => ((s.dropRecord stn r).addReady stn { r with slot := slot }).refill stn k
    | _, _ => s
/-- BUDGET_TRAP (R20, R248): at a user boundary, before any other event. -/
def execBudgetTrap (s : State) : Out :=
  match s.hand.msg with
  | .budgetTrap l =>
    let c := s.ctx l
    if c.sup ∨ !c.flow.bpend then .next s
    else .next ((s.modCtx l (fun c => { c with flow := { c.flow with bpend := false } })).enterTrap l causeBUDGET 0 c.pc 0)
  | _ => .next s

/-- POISON_REPORT (R152, R248). -/
def execPoisonReport (s : State) : Out :=
  match s.hand.msg with
  | .poisonReport l a =>
    let c := s.ctx l
    if c.sup ∨ c.flow.ppend.isNone then .next s
    else .next ((s.modCtx l (fun c => { c with flow := { c.flow with ppend := none } })).enterTrap l causePOISON (w64 a) c.pc 0)
  | _ => .next s

end Sys2Proof.Machine
end

