-- ==== Sys2Proof/Machine/Commands.lean ====
section
/-! DEFINITION. Engine commands: PUSH, the result FIFO, the inboxes, guard slots that resolve, and how a command completes
(R26 to R28, R77, R141, R162 to R165, R207 to R209). -/

namespace Sys2Proof.Machine

/-! ## Commands -/

/-- QUIET and CTR of a command's FLAGS (R209). -/
def cmdQuiet (c : Cmd) : Bool := bitAt c.flags 0
def cmdCtr (c : Cmd) : Bool := bitAt c.flags 1
/-- Whether a command is of the matrix engine's opcodes. -/
def cmdMatrix (c : Cmd) : Bool := decide (c.opcode ≤ 5)
/-- A quiet command (R163): it delivers no entry and is counted in no FIFOPEND. -/
def quietCmd (c : Cmd) : Bool := cmdQuiet c && !cmdCtr c && cmdMatrix c && c.opcode != 3
/-- Whether a command's entry goes to the pushing task's FIFO and is counted. -/
def countedCmd (c : Cmd) : Bool := c.reply == 0 && !quietCmd c

/-- The bits of each operand that an opcode names (R208); none for an opcode that no engine has. -/
def operandBits (opcode : Nat) : Option (Nat × List Nat) :=
  let ids := 0x3FF + 0x3FF * 2 ^ 16 + 3 * 2 ^ 32
  let all := 2 ^ 64 - 1
  match opcode with
  | 0x0000 => some (0, [ids, all, 2 ^ 48 - 1, 0, 0])
  | 0x0001 => some (0, [ids, all, 2 ^ 42 - 1, 0, 0])
  | 0x0002 => some (0, [3 * 2 ^ 32, 2 ^ 32 - 1, 0, 0, 0])
  | 0x0003 => some (0, [0x3FF + 3 * 2 ^ 32, all, 0, all, 0])
  | 0x0004 => some (0, [0x3FF + 3 * 2 ^ 32, all, 0, 0, 0])
  | 0x0005 => some (0, [ids, all, 2 ^ 48 - 1, 0, 0])
  | 0x0100 => some (1, [all, 0, 0, 0, 0])
  | 0x0200 => some (2, [2 ^ 56 - 1, 0x3FF + 0x3FF * 2 ^ 16 + 0x3FF * 2 ^ 32 + 0x3FF * 2 ^ 48, 0, all, all])
  | 0x0300 => some (3, [all, all, all, 0, 0])
  | 0x0301 => some (3, [all, all, all, 0, 0])
  | _ => none

/-- An operand of a command. -/
def cmdOp (c : Cmd) (i : Nat) : Nat := (c.opnd.getD i 0).toNat

/-- Whether an operand's value uses only bits of a mask. -/
def within (v mask : Nat) : Bool := Nat.land v mask == v

/-- R208, R209: a malformed command for an inbox. -/
def cmdMalformed (inbox : Nat) (c : Cmd) : Bool :=
  match operandBits c.opcode with
  | none => true
  | some (e, masks) =>
    c.resv || e != inbox || (cmdQuiet c && !(cmdMatrix c && c.opcode != 3)) || (cmdCtr c && c.reply == 0) ||
    (List.range 5).any (fun i => !within (cmdOp c i) (masks.getD i 0))

/-- The fault VALUE of a cause with an address or other detail (R301). -/
def faultValue (cause detail : Nat) : Word := w64 (cause * 2 ^ 56 + detail % 2 ^ 56)

/-- Whether a parcel or one that it is nested in meets a test. -/
def State.nestedIn (s : State) : Nat → Parcel → (Parcel → Bool) → Bool
  | 0, p, f => f p
  | k + 1, p, f => f p || (match s.tables.parcels.find? (fun q => q.ptag == p.parent && p.parent != 0) with
    | some q => s.nestedIn k q f
    | none => false)

/-- Whether a command's parcel may use an inbox of a station: its own parcel, or for the bank a parcel that holds the vault
or is nested in the one that does (R225). -/
def State.cmdParcelOk (s : State) (stn inbox ptag : Nat) : Bool :=
  if inbox = 2 then
    (match s.parcelOf ptag with
     | some p => s.nestedIn s.tables.parcels.length p (fun q => bitAt q.vmask stn)
     | none => false)
  else s.ptagAt stn == ptag && ptag != 0

/-- What is wrong with a command on arrival (R26, R301); a dispatcher's is well formed. -/
def State.cmdFault (s : State) (c : CmdMsg) : Option Word :=
  if c.src = .cube then none
  else if cmdMalformed c.inbox c.cmd then some (faultValue causeILL 0)
  else if !s.cmdParcelOk c.stn c.inbox c.cmd.ptag then some (faultValue causePROT 0)
  else none

/-! ## How a command completes (R162, R164, R209) -/

/-- Answers a task, here or at the cube that the command came from. -/
def State.answerTask (s : State) (c : CmdMsg) (r : ResultMsg) : Msg × State :=
  match c.src with
  | .packet p => (.resultOrStatus { r with tid := (p.snode + 1) * 2 ^ 56 + r.tid }, s)
  | _ => (.resultOrStatus r, s)

/-- The first doubleword of a result entry (R164). -/
def entryWord (flags status tag : Nat) : Word := w64 (flags * 2 ^ 40 + status * 2 ^ 32 + tag)

/-- A command completes: after the updates `pre` of its bitmap, its entry goes to the FIFO or to memory, or its counter is
updated, and then C3 falls. A counter or an address that cannot be used is noted in the parcel's error log. -/
def State.finishCmd (s : State) (stn : Nat) (c : CmdMsg) (pre : List Msg) (status flags : Nat) (value : Word) : State :=
  let k := c.cmd
  let e := entryWord flags status k.tag
  let drop : ResultMsg := ⟨c.tid, e, value, false, false, true⟩
  let reply := k.reply.toNat
  let fin := fun (st : State) (ms : List Msg) (r : ResultMsg) => let a := st.answerTask c r; a.2.sendSeq (pre ++ ms ++ [a.1])
  let ok := fun (fa align : Nat) => fa % align == 0 && decide (fa < 2 ^ 56) &&
    (match s.reachAs (s.engTenant stn (c.inbox == 2)) false false fa with | .ok _ => true | .error _ => false)
  if quietCmd k then fin s [] drop
  else if reply = 0 then fin s [] { drop with toFifo := true, counted := true }
  else if cmdCtr k then
    if ok reply 8 then (let m := s.counterMsg stn reply k.ptag (breaks status); fin m.2 [m.1] drop)
    else fin (s.logError k.ptag 6 reply 1) [] drop
  else if ok (reply / 16 * 16) 16 then
    (let m := s.storeMsg stn (reply / 16 * 16) k.ptag (bytesOf 8 e.toNat ++ bytesOf 8 value.toNat); fin m.2 [m.1] drop)
  else fin (s.logError k.ptag 6 reply 1) [] drop

/-! ## The result FIFO (R27, R165) -/

/-- The doublewords FIFOCNT and FIFOPEND of a save area with an entry more in its FIFO image (R165, R236). -/
def countedMore (d16 d24 : Nat) (r : ResultMsg) : List Byte := bytesOf 8 (d16 + 2 ^ 16) ++ bytesOf 8 (if r.counted then d24 - 1 else d24)
/-- Appends an entry to the FIFO image of a save area, whose counts are given; none where it is full. Here the image is written at
once, on another cube by strong stores, the entry first. -/
def State.putEntry (s : State) (ptag frame d16 d24 : Nat) (r : ResultMsg) : Option State :=
  let n := bitsOf d16 20 16
  let entry := bytesOf 8 r.entry.toNat ++ bytesOf 8 r.value.toNat
  if 16 ≤ n then none
  else if s.ownFa frame then some ((s.ownWrite (frame + 800 + 16 * n) entry).ownWrite (frame + 16) (countedMore d16 d24 r))
  else
    let a := s.storeMsg 0 (frame + 800 + 16 * n) ptag entry
    let b := a.2.storeMsg 0 (frame + 16) ptag (countedMore d16 d24 r)
    some (b.2.sendSeq [a.1, b.1])

/-- Appends an entry to the FIFO image of a suspended task's save area (R27): whether it has been appended, and the state; on another
cube the image's counts are read first. -/
def State.appendImage (s : State) (ptag frame : Nat) (r : ResultMsg) : Bool × State :=
  let put := fun (t : State) (d16 d24 : Nat) => match t.putEntry ptag frame d16 d24 r with | some u => (true, u) | none => (false, t)
  if s.ownFa frame then
    (match s.ownRead (frame + 16) 16 with
     | some bs => put s (natOf (bs.take 8)) (natOf (bs.drop 8))
     | none => (false, s))
  else if s.storing (frame + 16) then (false, s)
  else match s.tables.buf.find? (fun e => e.1 == bwOf (frame + 16)) with
  | some e => put { s with tables := { s.tables with buf := s.tables.buf.filter (fun e => e.1 != bwOf (frame + 16)) } }
      (e.2.1.toNat % 2 ^ 64) (e.2.1.toNat / 2 ^ 64)
  | none => (false, s.askWords ptag [frame + 16])

/-- A result for a task, R27: it enters the FIFO, or the image in the save area, and wakes a parked POP; whether it has been
delivered, since it may have to wait at the engine, and the state. A task that has moved to another cube has its results sent
after it. -/
def State.deliverResult (s : State) (r : ResultMsg) : Bool × State :=
  if !r.toFifo then (true, s)
  else match s.whereIs r.tid with
  | some l =>
    let f := (s.ctx l).flow
    if f.saved || decide (16 ≤ f.fifo.length) then (false, s)
    else (true, s.modCtx l (fun c => { c with flow := { c.flow with
      fifo := c.flow.fifo ++ [(r.entry, r.value)]
      fifopend := if r.counted then c.flow.fifopend - 1 else c.flow.fifopend
      susp := match c.flow.susp with | some (.park .pop _) => some (.park .pop true) | x => x } }))
  | none =>
    match s.records.find? (fun e => e.2.tid == r.tid) with
    | some (stn, e) =>
      if e.resume = .pop ∧ !s.canInsert stn then (false, s) else
      let x := s.appendImage e.ptag e.body.frame r
      if x.1 ∧ e.resume = .pop ∧ (x.2.stn stn).sched.parked.any (fun y => y.tid == r.tid) then (true, x.2.unpark stn e .again) else x
    | none => (!s.recordMoving r.tid, s)

/-- The cube to which a task of this one has moved, if it is neither here nor on its way. -/
def State.movedTo (s : State) (tid : Nat) : Option Nat :=
  let cube := Map.get 0 s.away tid
  if cube = 0 ∨ (s.whereIs tid).isSome ∨ s.records.any (fun e => e.2.tid == tid) ∨ s.recordMoving tid then none else some (cube - 1)

/-- RESULT_OR_STATUS: a result of this cube's tasks, or one that goes to the cube its command came from. -/
def execResultOrStatus (s : State) : Out :=
  match s.hand.msg with
  | .resultOrStatus r =>
    let node := r.tid / 2 ^ 56 - 1
    if 2 ^ 56 ≤ r.tid ∧ node ≠ s.cube then
      .next (s.export s.cube node 0 0 0x08 0 0 0 0 0 (.result { r with tid := r.tid % 2 ^ 56 }) s.hand.msg)
    else
      let q := { r with tid := r.tid % 2 ^ 56 }
      match s.movedTo q.tid with
      | some cube => .next (s.export s.cube cube 0 0 0x08 0 0 0 0 0 (.result q) s.hand.msg)
      | none =>
        let x := s.deliverResult q
        .next (if !x.1 then x.2.requeue s.hand.msg else if q.dropsC3 then x.2.setC3 q.tid (x.2.c3of q.tid - 1) else x.2)
  | _ => .next s

def execPop (a wc : Nat) (s : State) : Out :=
  runSelf (do
    Exec.waitWC wc
    let c ← Exec.ctx
    match c.flow.fifo with
    | e :: es =>
      Exec.modCtx (fun c => { c with flow := { c.flow with fifo := es } })
      Exec.setPair a e.1 e.2
      modify State.retire
    | [] =>
      if c.flow.fifopend = 0 then
        Exec.setPair a (w64 (255 * 2 ^ 32)) 0
        modify State.retire
      else if c.sup then Exec.stall   -- log entry 12
      else Exec.park .pop) s

def execTrypop (a wc : Nat) (s : State) : Out :=
  runSeq (do
    Exec.waitWC wc
    let c ← Exec.ctx
    match c.flow.fifo with
    | e :: es =>
      Exec.modCtx (fun c => { c with flow := { c.flow with fifo := es } })
      Exec.setPair a e.1 e.2
    | [] => Exec.setPair a (w64 (255 * 2 ^ 32)) 0) s

def execRfcnt (a wc : Nat) (s : State) : Out :=
  runSeq (do
    Exec.waitWC wc
    Exec.modCtx (fun c => c.writeG a (w64 (c.flow.fifopend % 2 ^ 16 * 2 ^ 16 + c.flow.fifo.length)))) s

/-! ## Completion bitmaps (R209) -/

/-- The element width in bits of a format code. -/
def tfmtBits (f : Nat) : Nat := [32, 16, 16, 8, 8, 4, 8, 8, 16, 16, 32, 32, 64, 64].getD f 8
/-- Extent `i`; 1 at and above RANK, where extents are ignored. -/
def Desc.extent (d : Desc) (i : Nat) : Nat := d.ext.getD i 1
/-- Stride `i`. -/
def Desc.stride (d : Desc) (i : Nat) : Int := d.str.getD i 0

/-- The entry of a parcel's tensor table (R200). -/
def State.tensor (s : State) (ptag id : Nat) : Option Desc := Map.get none s.tables.tensors (id + 1024 * ptag)
/-- The doublewords and bits that record chunks. -/
def chunkMasks (cs : List Nat) : List (Nat × Nat) :=
  let dws := (cs.map (fun c => c / 63)).eraseDups
  dws.map (fun d => (d, cs.foldl (fun m c => if c / 63 = d then Nat.lor m (2 ^ (c % 63)) else m) 0))
/-- BROKEN in the doublewords that record chunks. -/
def brokenMasks (cs : List Nat) : List (Nat × Nat) := ((cs.map (fun c => c / 63)).eraseDups).map (fun d => (d, 2 ^ 63))

/-- Updates of bitmap doublewords, each by atomic OR at its home; one that cannot be made is logged. -/
def State.bitmapMsgs (s : State) (stn : Nat) (bank : Bool) (ptag base : Nat) (masks : List (Nat × Nat)) : List Msg × State :=
  if base = 0 then ([], s)
  else masks.foldl (fun r e =>
    let fa := base + 8 * e.1
    let ok := base % 8 == 0 && decide (fa < 2 ^ 56) && (match r.2.reachAs (r.2.engTenant stn bank) false false fa with | .ok _ => true | .error _ => false)
    if ok then
      let i := r.2.freshId
      (r.1 ++ [.atomic ⟨i.1, .cube, stn, fa, fa, 2, false, e.2, 0, 0, 3, 0, 0, 0, 0, ptag⟩], i.2)
    else (r.1, r.2.logError ptag 6 fa 1)) ([], s)

/-- Every chunk of a tensor, counted from its BASE. -/
def Desc.chunks (d : Desc) : List Nat :=
  if d.ext.any (fun x => x == 0) then []
  else
    let top := (List.range d.rank).foldl (fun a i => a + (d.extent i - 1) * (max (d.stride i) 0).toNat) 0
    List.range (((top + 1) * tfmtBits d.fmt + 4095) / 4096)
/-- The chunk of the element at a linear offset. -/
def Desc.chunkOf (d : Desc) (l : Int) : Option Nat :=
  let b := l * (tfmtBits d.fmt : Nat) / 4096
  if b < 0 then none else some b.toNat

/-- The chunks that the tensor of a bank's slot contributes: none where its entry is invalid or OUT does not write its format. -/
def slotChunks (d : Option Desc) : List Nat := match d with | some d => if d.fmt ≤ 2 then d.chunks else [] | none => []

/-- The BROKEN bits of a command that is refused on arrival: MST's destination, and for BKRUN the slot that OSEL names at first. -/
def State.refusedMasks (s : State) (c : CmdMsg) : List (Nat × Nat) :=
  if c.inbox = 0 ∧ c.cmd.opcode = 3 then brokenMasks (((s.tensor c.cmd.ptag (bitsOf (cmdOp c.cmd 0) 9 0)).map Desc.chunks).getD [])
  else if c.inbox = 2 ∧ c.cmd.opcode = 0x0200 then brokenMasks (slotChunks (s.tensor c.cmd.ptag (bitsOf (cmdOp c.cmd 1) 9 0)))
  else []

/-! ## Inboxes -/

/-- The opcode under which a dispatched tile task travels as one command (R219); no command of R26 can hold it. Its
operands are the record's doublewords 0 to 3. -/
def tileOpcode : Nat := 0x10000

/-- The commands of a tile task: MZERO or MLD, the steps, and MST, which alone takes a place in the inbox (TAG 0). -/
def tileCmds (c : CmdMsg) : List CmdMsg :=
  let d := fun i => cmdOp c.cmd i
  let acc := bitsOf (d 0) 51 50 * 2 ^ 32
  let tc := bitsOf (d 1) 41 32
  let i0 := d 2 % 2 ^ 32
  let j0 := d 2 / 2 ^ 32
  let k0 := d 3 % 2 ^ 32
  let mk := fun (flags opcode tag : Nat) (ops : List Nat) (reply : Word) =>
    { c with cmd := ⟨flags, false, c.cmd.ptag, opcode, (List.range 5).map (fun i => w64 (ops.getD i 0)), reply, tag⟩ }
  [ if bitAt (d 0) 49 then mk 1 4 1 [tc + acc, i0 + j0 * 2 ^ 32] 0 else mk 1 2 1 [acc, 0] 0,
    mk 1 (if bitsOf (d 0) 55 52 = 1 then 5 else 0) 1
      [bitsOf (d 1) 9 0 + bitsOf (d 1) 25 16 * 2 ^ 16 + acc, i0 + k0 * 2 ^ 32, j0 + bitsOf (d 3) 47 32 * 2 ^ 32] 0,
    mk (if c.cmd.reply = 0 then 0 else 2) 3 0 [tc + acc, i0 + j0 * 2 ^ 32] c.cmd.reply ]

/-- The places taken in a matrix inbox: a tile task takes one, to its end. -/
def matrixPlaces (q : List CmdMsg) : Nat := (q.filter (fun c => c.src != .cube || c.cmd.tag == 0)).length

/-- The places taken in an inbox, and its depth; a bank inbox has one queue per parcel (R27, R225). -/
def State.inboxOf (s : State) (stn inbox ptag : Nat) : Nat × Nat :=
  let e := (s.stn stn).eng
  match inbox with
  | 0 => (matrixPlaces e.matrix.inbox, 32)
  | 1 => (e.copy.inbox.length, 32)
  | 2 => ((Map.get [] (s.vault stn).queues ptag).length, 64)
  | _ => (e.coll.inbox.length, 32)

/-- Whether an inbox has room, counting commands on their way to it. -/
def State.inboxRoom (s : State) (stn inbox ptag : Nat) : Bool :=
  let q := s.inboxOf stn inbox ptag
  let coming := s.net.filter (fun m => match m with
    | .engineCommand c => c.cube == s.cube && c.stn == stn && c.inbox == inbox && (inbox != 2 || c.cmd.ptag == ptag)
    | _ => false)
  decide (q.1 + coming.length < q.2)

/-- The event with which a station's matrix engine takes up the command at its inbox's head. -/
def matrixMsg (stn : Nat) (c : CmdMsg) : Msg :=
  match c.cmd.opcode with
  | 0 => .mmaCommand stn
  | 1 => .mtravCommand stn
  | 2 => .mzeroCommand stn
  | 3 => .mstCommand stn
  | 4 => .mldCommand stn
  | _ => .mmasdCommand stn
/-- The event with which the router interface takes up a command. -/
def collMsg (stn : Nat) (c : CmdMsg) : Msg := if c.cmd.opcode = 0x0300 then .clredCommand stn else .clmcastCommand stn

/-- A command enters an inbox; an engine that was idle takes it up. -/
def State.enterInbox (s : State) (c : CmdMsg) : State :=
  let n := c.stn
  let e := (s.stn n).eng
  match c.inbox with
  | 0 =>
    let cs := if c.cmd.opcode = tileOpcode then tileCmds c else [c]
    let s1 := s.modEng n (fun e => { e with matrix := { e.matrix with inbox := e.matrix.inbox ++ cs } })
    (match e.matrix.inbox, cs with
    | [], d :: _ => s1.send (matrixMsg n d)
    | _, _ => s1)
  | 1 =>
    let s1 := s.modEng n (fun e => { e with copy := { e.copy with inbox := e.copy.inbox ++ [c] } })
    if e.copy.inbox.isEmpty then s1.send (.cpchainCommand n) else s1
  | 2 =>
    (s.modVault n (fun v => { v with queues := Map.set [] v.queues c.cmd.ptag (Map.get [] v.queues c.cmd.ptag ++ [c]) })).send
      (.bkrunCommand n)
  | _ =>
    let s1 := s.modEng n (fun e => { e with coll := { e.coll with inbox := e.coll.inbox ++ [c] } })
    if e.coll.inbox.isEmpty then s1.send (collMsg n c) else s1

/-- An inbox that was full has room: contexts of the station that stall on it try again (R27). -/
def State.inboxFreed (s : State) (stn inbox before : Nat) : State :=
  if (if inbox = 2 then 64 else 32) ≤ before then s.send (.pushStallRelease stn inbox) else s

/-- PUSH_STALL_RELEASE: contexts that stall for room in an inbox of their station issue again. -/
def execPushStallRelease (s : State) : Out :=
  match s.hand.msg with
  | .pushStallRelease stn inbox =>
    let free := fun (c : Ctx) => if c.flow.waitOn = some 0 then { c with flow := { c.flow with waitOn := none } } else c
    .next ((stnLocs stn).foldl (fun u l => u.modCtx l free) s)
  | _ => .next s

/-- A quiet command's outcome goes to its accumulator (R214). -/
def Accum.record (a : Accum) (status flags : Nat) (value : Word) : Accum :=
  { a with astat := max a.astat status, aflg := Nat.lor a.aflg flags
           value := if (status = 3 ∨ status = 4) ∧ a.astat ≠ 3 ∧ a.astat ≠ 4 ∧ a.value = 0 then value else a.value }
def State.modAcc (s : State) (stn ix : Nat) (f : Accum → Accum) : State :=
  s.modEng stn (fun e => { e with matrix := { e.matrix with accs := Map.set {} e.matrix.accs ix (f (Map.get {} e.matrix.accs ix)) } })

/-- ENGINE_COMMAND: a command arrives at a station; it completes FAULT, with its bitmap's BROKEN bits (R209), waits for room, or enters
its inbox. In a bank's queue those beyond its 64 places wait in arrival order, behind it (R225). A carried signature is dropped
against first (R141). -/
def execEngineCommand (s : State) : Out :=
  match s.hand.msg with
  | .engineCommand c =>
    let q := s.inboxOf c.stn c.inbox c.cmd.ptag
    let acked := fun (t : State) => match c.src with | .packet p => t.ackPkt p | _ => t
    match s.cmdFault c with
    | some v =>
      let s1 := if quietCmd c.cmd then s.modAcc c.stn (bitsOf (cmdOp c.cmd 0) 33 32) (fun a => a.record 3 0 v) else s
      let b := s1.bitmapMsgs c.stn (c.inbox == 2) c.cmd.ptag (cmdOp c.cmd 3) (s1.refusedMasks c)
      .next (acked (b.2.finishCmd c.stn c b.1 3 0 v))
    | none =>
      if q.2 ≤ q.1 && c.inbox != 2 then .next (s.requeue s.hand.msg)
      else
        let s1 := match c.sig with | some g => s.acquireSig c.stn g | none => s
        .next (acked (s1.enterInbox c))
  | _ => .next s

/-! ## Issue of a command (R163, R207) -/

/-- Sends a command towards its inbox: to another station's after a publication (R141). -/
def State.dispatchCmd (s : State) (stn : Nat) (c : CmdMsg) : State :=
  if c.cube = s.cube ∧ c.stn = stn then s.send (.engineCommand c) else s.beginPublication ⟨s.cube, stn, 0, .command c⟩

/-- Whether two commands are of one task and go to one inbox. -/
def sameWay (a b : CmdMsg) : Bool := a.tid == b.tid && a.cube == b.cube && a.stn == b.stn && a.inbox == b.inbox

/-- Whether an earlier command of a task to the same inbox still waits for its station's publication. -/
def State.wayBusy (s : State) (stn : Nat) (c : CmdMsg) : Bool :=
  let isIt := fun (d : Demand) => match d.pubFor with | .command x => sameWay x c | _ => false
  (s.stn stn).slice.pubs.any (fun p => isIt p.demand) ||
  s.net.any (fun m => match m with | .publicationComplete d _ => isIt d | _ => false)

/-- A command is issued by a task (R163): held under a guard slot, or sent on its way; C3 and FIFOPEND rise. -/
def Exec.issueCmd (cube stn inbox : Nat) (k : Cmd) (g : Option Guard) : Exec Unit := do
  let s ← get
  let l := s.hand.at_
  let c := s.cur
  let m : CmdMsg := ⟨k, inbox, stn, cube, .task l c.tid, c.tid, none⟩
  let b := bindOf c g
  if b = .decided false then pure ()
  else
    let hold := (bindRuns b).isNone || (s.stn l.stn).eng.heldCmds.any (fun h => sameWay h.msg m)
    if !hold then
      Exec.wait (!s.wayBusy l.stn m)
      if cube = s.cube && stn = l.stn && !s.inboxRoom stn inbox k.ptag then Exec.waitSpace
    modify (fun s =>
      let s1 := s.setC3 c.tid (s.c3of c.tid + 1)
      s1.modCtx l (fun c => if countedCmd k then { c with flow := { c.flow with fifopend := c.flow.fifopend + 1 } } else c))
    if hold then
      modify (fun s => s.modEng l.stn (fun e => { e with heldCmds := e.heldCmds ++ [⟨m, l.core, l.ctx, b, countedCmd k⟩] }))
    else modify (fun s => s.dispatchCmd l.stn m)

/-- The release that a command is (R28, R141): the task's earlier stores have been performed. -/
def Exec.beforeCommand : Exec Unit := Exec.beforeRelease .dom

/-- A selector (R163): the cube, station and inbox, or nothing where it is bad. A LOCAL one whose CUBE or STN is not 0 is taken as bad
(log entry 90). -/
def State.selector (s : State) (stn v : Nat) (ignoreInbox : Bool) : Option (Nat × Nat × Nat) :=
  let loc := bitAt v 63
  let inbox := bitsOf v 58 56
  let cube := bitsOf v 43 32
  let n := bitsOf v 5 0
  if bitsOf v 62 59 != 0 || bitsOf v 47 44 != 0 || bitsOf v 15 6 != 0 || (!ignoreInbox && decide (3 < inbox)) ||
      (loc && (cube != 0 || n != 0)) then none
  else if loc then some (s.cube, stn, inbox)
  else if s.tenantAt stn ≠ none ∧ s.tenantHoldsStn (s.tenantAt stn) cube n then some (cube, n, inbox) else none

/-- Issues an instruction that builds a command: it is discarded where its guard slot says so (R68), and where the slot is
still undecided an instruction that would trap waits for it. -/
def runCmd (g : Option Guard) (m : Exec Unit) (s : State) : Out :=
  match bindRuns (bindOf s.cur g) with
  | some false => .next s.retire
  | some true => runSeq m s
  | none => match m s with
    | .error (.trap _ _) _ => .next s
    | _ => runSeq m s

def execPush (a b wc : Nat) (g : Option Guard) (s : State) : Out :=
  runCmd g (do
    Exec.need [a, b]
    Exec.waitWC wc
    Exec.beforeCommand
    Exec.afterAcquire
    let c ← Exec.ctx
    let va := (c.readG b).toNat
    Exec.check (va % 64 == 0) causeALIGN va
    let d := dwsOf 8 (← Exec.readOwn va 64)
    let s ← get
    match s.selector s.hand.at_.stn (c.readG a).toNat false with
    | none => Exec.trap causePROT (c.readG a).toNat
    | some (cube, stn, inbox) => Exec.issueCmd cube stn inbox (cmdOfDws d) g) s

/-! ## Guard slots that resolve (R77) -/

/-- Releases or discards a station's held commands in order, each channel up to the first that is still undecided. -/
def State.releaseCmds (s : State) (stn : Nat) : List HeldCmd → List HeldCmd → State
  | kept, [] => s.modEng stn (fun e => { e with heldCmds := kept })
  | kept, h :: hs =>
    if kept.any (fun k => sameWay k.msg h.msg) then s.releaseCmds stn (kept ++ [h]) hs
    else match bindRuns h.bind with
    | none => s.releaseCmds stn (kept ++ [h]) hs
    | some true => (s.dispatchCmd stn h.msg).releaseCmds stn kept hs
    | some false =>
      let s1 := s.setC3 h.msg.tid (s.c3of h.msg.tid - 1)
      let s2 := s1.modCtx ⟨stn, h.core, h.ctx⟩ (fun c =>
        if h.fifo then { c with flow := { c.flow with fifopend := c.flow.fifopend - 1 } } else c)
      s2.releaseCmds stn kept hs

/-- GUARD_SLOT_RESOLUTION: the slot takes its value unless a later GSET has taken it over, and what was bound to it is
decided (R68, R77). -/
def execGuardSlotResolution (s : State) : Out :=
  match s.hand.msg with
  | .guardSlotResolution l gid v =>
    let s1 := s.modCtx l (fun c => { c with files := { c.files with slots := c.files.slots.map (fun x =>
      if x = .pending gid then (if v then .yes else .no) else x) } })
    let s2 := s1.modVec l.stn (fun q => { q with queues := q.queues.map (fun e => (e.1, e.2.map (fun x =>
      { x with bind := x.bind.resolve gid v }))) })
    let held := (s2.stn l.stn).eng.heldCmds.map (fun h => { h with bind := h.bind.resolve gid v })
    .next (s2.releaseCmds l.stn [] held)
  | _ => .next s

end Sys2Proof.Machine
end

