-- ==== Sys2Proof/Machine/Sync.lean ====
section
/-! DEFINITION. WAIT (R157), fences (R159), ranges (R160), stash windows (R161) and CWAIT (R162). -/

namespace Sys2Proof.Machine

/-! ## Waiting on a word -/

/-- Sends a wait on an 8-byte word to its home; the context stalls until the home has compared. -/
def Exec.armWait (cond : WaitCond) (win : Win) (ea : Nat) (v : Word) (dest order scope : Nat) : Exec Unit := do
  Exec.afterAcquire
  let ps ← Exec.access win .rw true ea 8
  match ps with
  | p :: _ =>
    Exec.afterSame [bwOf p.fa]
    Exec.afterLocal ps
    Exec.cleanChunk p.fa
    let s ← get
    let l := s.hand.at_
    let r := s.freshId
    let w : WaitReg := ⟨cond, p.fa, ea, v, .task l s.cur.tid, s.cur.tid, l.stn, dest, s.hand.words, order, scope, p.pl.ptag⟩
    set ((r.2.send (.waitArm w)).modCtx l (fun c =>
      { c with flow := { c.flow with waitOn := some r.1, waitWords := s.hand.words } }))
  | [] => pure ()

/-- WAIT under a condition: ORDER plain means `.acq.dom` (R150). -/
def waitOp (o : WaitOps) (cond : WaitCond) (s : State) : Out :=
  runSelf (do
    Exec.need [o.b, o.c]
    Exec.winPriv o.q.win
    Exec.waitWC o.q.wc
    let c ← Exec.ctx
    Exec.armWait cond o.q.win (c.readG o.b).toNat (c.readG o.c) o.a 2
      (if o.q.order = .plain then 3 else scopeNum o.q.scope)) s

def execWaitEq (o : WaitOps) (s : State) : Out := waitOp o .eq s
def execWaitNe (o : WaitOps) (s : State) : Out := waitOp o .ne s
def execWaitGe (o : WaitOps) (s : State) : Out := waitOp o .ge s
def execWaitLt (o : WaitOps) (s : State) : Out := waitOp o .lt s

/-! ## Fences -/

/-- R146: every earlier access of the task has been performed, and C1 and C2 are zero. -/
def Exec.fenced : Exec Unit := do
  Exec.drained
  let c ← Exec.ctx
  Exec.wait (c.flow.flights.isEmpty && c.flow.c1 == 0 && c.flow.c2 == 0)

def execFence (s : State) : Out := runSeq Exec.fenced s

/-- The number of a store, an atomic or a write-back that a message carries for a station's tasks and engines. -/
def storeIdAt (stn : Nat) : Msg → Option Nat
  | .write w => (match w.src with | .task l _ => if l.stn = stn then some w.id else none | .engine n => if n = stn then some w.id else none | _ => none)
  | .atomic a => (match a.src with | .task l _ => if l.stn = stn then some a.id else none | .engine n => if n = stn then some a.id else none | _ => none)
  | _ => none

/-- The numbers of a station's stores that have not been performed: those that its contexts have in flight or posted, its vector
instructions with elements to store, its engines' writes, its write-backs, and what waits at its own homes (R142). -/
def State.storesOut (s : State) (stn : Nat) : List Nat :=
  ((stnLocs stn).map (fun l => ((s.ctx l).flow.flights.filter Exec.isStoring).flatMap (fun f =>
      (f.pieces.map (fun p => p.id)).filter (fun i => i != 0)) ++ (s.ctx l).flow.vposted.map (fun v => v.num))).flatten ++
  (((s.stn stn).vec.queues.map (fun q => q.2)).flatten ++ (s.stn stn).vec.pipe).map (fun e => e.num) ++
  (s.stn stn).eng.writesOut ++ (s.stn stn).slice.wbOut.map (fun e => e.1) ++
  s.net.filterMap (storeIdAt stn) ++ ((s.stn stn).home.held.map (fun h => h.2)).filterMap (storeIdAt stn)

/-- The other cubes on which the tenant of a station has a parcel. -/
def State.domainCubes (s : State) (stn : Nat) : List Nat :=
  ((s.tables.peers.filter (fun e => e.1 != s.cube && some e.2.tenant == s.tenantAt stn)).map (fun e => e.1)).eraseDups

/-- FENCE.ALIAS asks another cube to empty its homes; its number is kept until the answer comes (log entry 24). -/
def State.askAlias (s : State) (l : Loc) (cube : Nat) : State :=
  let r := s.freshId
  (r.2.modCtx l (fun c => { c with flow := { c.flow with fenceOn := r.1 :: c.flow.fenceOn } })).send
    (.publicationDemand ⟨cube, 0, r.1, .emptyHomes s.cube l.stn r.1⟩)

/-- R142: the station's earlier stores, its dirty copies among them, are performed; then the homes of every cube of the tenant write
their home blocks to DRAM and drop them, and the leases granted until then pass. -/
def execFenceAlias (s : State) : Out :=
  runSeq (do
    let l := s.hand.at_
    match s.cur.flow.fence with
    | none =>
      Exec.fenced
      set (s.flushWords l.stn false (fun _ => true))
      let s ← get
      set (s.modCtx l (fun c => { c with flow := { c.flow with fence := some 0, fenceOn := s.storesOut l.stn } }))
      Exec.stall
    | some 0 =>
      Exec.wait (!s.cur.flow.fenceOn.any (fun i => (s.storesOut l.stn).contains i))
      let t := s.emptyHomes.modCtx l (fun c => { c with flow := { c.flow with fence := some (s.lastLease + 1), fenceOn := [] } })
      set ((s.domainCubes l.stn).foldl (fun st c => st.askAlias l c) t)
      Exec.stall
    | some d =>
      Exec.wait (decide (d ≤ s.datum) && s.cur.flow.fenceOn.isEmpty && !s.guardsOut)
      Exec.modCtx (fun c => { c with flow := { c.flow with fence := none } })) s

/-! ## Ranges (R131, R160) -/

/-- The pages of a virtual range, each with its fabric address and length; pages without a valid mapping are skipped. -/
def State.rangeMap (s : State) (buf : ReadBuf) (stn tag : Nat) : Nat → Nat → Nat → Got (List (Nat × Nat × Nat))
  | 0, _, _ => .ok []
  | k + 1, va, len =>
    if len = 0 then .ok []
    else
      let n := min len (65536 - va % 65536)
      let rest := s.rangeMap buf stn tag k (va + n) (len - n)
      match s.translate buf stn tag va .any with
      | .ok r => rest.bind (fun x => .ok ((va, r.1, n) :: x))
      | .need a => .need a
      | .hold => .hold
      | .bad c a => if c = causePAGE then rest else .bad c a

/-- The size of the space that a window addresses (R148). -/
def winLimit : Win → Nat
  | .va => 2 ^ 48 | .lin => 2 ^ 38 | .fa => 2 ^ 56

/-- A range cut at the ends of vaults or stashes: address and length. -/
def cutUnits (unit : Nat) : Nat → Nat → Nat → List (Nat × Nat)
  | 0, _, _ => []
  | k + 1, a, len =>
    if len = 0 then [] else let n := min len (unit - a % unit); (a, n) :: cutUnits unit k (a + n) (len - n)

/-- The fabric ranges of a range operation: of every page, or of every vault and stash that it enters. Each has to lie where the task
may reach it (R67, R120, R297; log entry 85). -/
def Exec.ranges (win : Win) (start len : Nat) : Exec (List (Nat × Nat)) := do
  Exec.check (decide (start + len ≤ winLimit win)) causePROT (max start (winLimit win))
  let s ← get
  let rs ← (match win with
    | .va => do
      let tg ← Exec.tag
      Exec.got (s.rangeMap s.cur.flow.rbuf s.hand.at_.stn tg (len / 65536 + 2) start len)
    | .lin => pure ((cutUnits (2 ^ 32) 65 start len).map (fun e => (e.1, vaultFa s.cube e.1, e.2)))
    | .fa =>
      let unit := if isStashFa start then 2 ^ 22 else 2 ^ 32
      pure ((cutUnits unit (len / unit + 2) start len).map (fun e => (e.1, e.1, e.2))))
  for r in rs do
    let _ ← Exec.home win r.2.1 r.1
  return rs.map (fun r => r.2)

/-- Whether a block word is touched by fabric ranges. -/
def inRanges (rs : List (Nat × Nat)) (fa : Nat) : Bool :=
  rs.any (fun r => decide (r.1 < fa / 16 * 16 + 16 ∧ fa / 16 * 16 < r.1 + r.2))

/-- FLUSHR, and INVR with `drop`. -/
def rangeOp (o : RangeOps) (drop : Bool) (s : State) : Out :=
  runSeq (do
    Exec.need (o.b :: xRegs o.c)
    Exec.winPriv o.win
    Exec.waitWC o.wc
    let c ← Exec.ctx
    let start := (c.readG o.b).toNat
    let len := (c.xval o.c).toNat
    if len != 0 then
      let rs ← Exec.ranges o.win start len
      Exec.afterAcquire
      let s ← get
      let n := s.hand.at_.stn
      let s1 := s.flushWords n true (inRanges rs)
      set s1
      Exec.wait (!(s1.stn n).slice.wbOut.any (fun e => inRanges rs (e.2 * 16)))
      -- a replica is dropped by either (R133)
      set (if drop then s1.dropWords n true (inRanges rs)
        else s1.trimSlice n (fun b w => !b.home && w.replica && inRanges rs (wordFa b.region w.ix)))) s

def execFlushr (o : RangeOps) (s : State) : Out := rangeOp o false s
def execInvr (o : RangeOps) (s : State) : Out := rangeOp o true s

/-! ## Stash windows (R125, R161) -/

/-- The fabric chunks of a window, numbered from its base. -/
def chunksOfRanges (base : Nat) : Nat → List (Nat × Nat × Nat) → List (Nat × Nat)
  | 0, _ => []
  | _, [] => []
  | k + 1, (va, fa, n) :: rs =>
    ((List.range (n / 64)).map (fun i => ((va - base) / 64 + i, chunkOf fa + i))) ++ chunksOfRanges base k rs

/-- A window takes over the slice's copies of its chunks, dirty words included; their data goes to the stash. -/
def State.takeOver (s : State) (stn : Nat) (w : Window) : State :=
  let ixOf := fun (fa : Nat) => (w.fas.find? (fun e => e.2 == chunkOf fa)).map (fun e => e.1 * 4 + fa / 16 % 4)
  let taken := ((s.stn stn).slice.blocks.map (fun b => if b.home then [] else
    b.lines.filterMap (fun x => (ixOf (wordFa b.region x.ix)).map (fun i => { x with ix := i })))).flatten
  let s1 := (s.trimSlice stn (fun b x => !b.home && (ixOf (wordFa b.region x.ix)).isSome)).modSlice stn (fun l =>
    { l with windows := l.windows ++ [w] })
  taken.foldl (fun st x => st.putWin stn w x) s1

/-- Whether two ranges overlap. -/
def overlap (a m b n : Nat) : Bool := decide (a < b + n ∧ b < a + m)

/-- SMAP. -/
def execSmap (a b c wc : Nat) (s : State) : Out :=
  runSeq (do
    Exec.need [a, b, c]
    Exec.waitWC wc
    let k ← Exec.ctx
    let st := (k.readG a).toNat
    let va := (k.readG b).toNat
    let len := (k.readG c).toNat
    Exec.check (st % 64 == 0) causeALIGN st
    Exec.check (va % 64 == 0) causeALIGN va
    Exec.check (len % 64 == 0 && len != 0) causeALIGN len
    let s ← get
    let n := s.hand.at_.stn
    let ws := (s.stn n).slice.windows
    Exec.check (!(decide (readyStore < st + len) || ws.any (fun w => overlap st len w.stash w.len) ||
      ws.any (fun w => overlap va len w.va w.len) || decide (32 ≤ ws.length) || decide (2 ^ 48 < va + len))) causePROT va
    let tg ← Exec.tag
    let rs ← Exec.got (s.rangeMap s.cur.flow.rbuf n tg (len / 65536 + 2) va len)
    set (s.takeOver n ⟨s.ptagAt n, va, len, st, chunksOfRanges va rs.length rs, []⟩)) s

/-- SUNMAP. -/
def execSunmap (b wc : Nat) (s : State) : Out :=
  runSeq (do
    Exec.need [b]
    Exec.waitWC wc
    let va := ((← Exec.ctx).readG b).toNat
    let s ← get
    let n := s.hand.at_.stn
    match (s.stn n).slice.windows.find? (fun w => w.va == va) with
    | none => pure ()
    | some w =>
      let mine := fun (fa : Nat) => w.fas.any (fun e => e.2 == chunkOf fa)
      let s1 := s.flushWords n false mine
      set s1
      Exec.wait (!(s1.stn n).slice.wbOut.any (fun e => mine (e.2 * 16)))
      set (s1.modSlice n (fun l => { l with windows := l.windows.filter (fun w => w.va != va) }))) s

/-! ## CWAIT -/

/-- CWAIT: a mask above 7 traps ILL (R162). -/
def execCwait (mask wc : Nat) (s : State) : Out :=
  runSeq (do
    if 7 < mask then Exec.ill
    Exec.waitWC wc
    let s ← get
    let l := s.hand.at_
    Exec.wait ((!bitAt mask 0 || s.waitCount l 1 == 0) && (!bitAt mask 1 || s.waitCount l 2 == 0) &&
      (!bitAt mask 2 || s.waitCount l 3 == 0))) s

end Sys2Proof.Machine
end

