-- ==== Sys2Proof/Machine/Tensors.lean ====
section
/-! DEFINITION. Tensor descriptors and the tensor table (R200 to R205), an engine's reads of tensors (R202), and the
instructions that build engine commands (R206 to R208, R211, R213, R214, R216, R225, R230, R231). -/

namespace Sys2Proof.Machine

/-! ## Descriptors (R201) -/

/-- The floating format of a format code, if it is one. -/
def tfmtFloat (f : Nat) : Option Fmt := [Fmt.f32, .bf16, .f16, .e4m3, .e5m2, .e2m1][f]?

/-- The 32-bit value numbered `i` of consecutive doublewords. -/
def half (ds : List Nat) (i : Nat) : Nat := (ds.getD (i / 2) 0) / 2 ^ (32 * (i % 2)) % 2 ^ 32

/-- A descriptor of its eight doublewords `d` and the sixteen of its extension record `x`. -/
def descOf (d x : List Nat) : Desc :=
  let rank := bitsOf (d.getD 0 0) 53 49
  let ext := (List.range 4).map (fun i => half d (2 + i)) ++ (List.range 12).map (half x)
  let str := (List.range 4).map (fun i => half d (6 + i)) ++ (List.range 12).map (fun i => half x (12 + i))
  { rank := rank, fmt := bitsOf (d.getD 0 0) 48 45, lin := bitAt (d.getD 0 0) 44, base := bitsOf (d.getD 0 0) 41 0 * 64
    ext := ext.take rank, str := (str.take rank).map (signed 32), segs := bitsOf (d.getD 5 0) 54 42
    bscale := bitsOf (d.getD 5 0) 41 0 * 64, bands := bitsOf (d.getD 6 0) 41 0 * 64, shape := bitsOf (d.getD 7 0) 41 0 * 64 }

/-- R204: the checks of a descriptor for entry `id` that need nothing more from memory. -/
def descOk (id : Nat) (d x : List Nat) : Bool :=
  let t := descOf d x
  bitsOf (d.getD 0 0) 63 54 == id && decide (t.fmt ≤ 13) && decide (1 ≤ t.rank ∧ t.rank ≤ 16) &&
  bitsOf (d.getD 0 0) 43 42 == 0 && bitsOf (d.getD 5 0) 63 55 == 0 && bitsOf (d.getD 6 0) 63 42 == 0 &&
  bitsOf (d.getD 7 0) 63 42 == 0 && (x.drop 12).all (fun w => w == 0) &&
  ((t.bscale == 0 && t.bands == 0) || (3 ≤ t.fmt && t.fmt ≤ 5)) &&
  (!(t.fmt == 5 || t.bscale != 0) ||
    (t.stride 0 == 1 && t.extent 0 % 8 == 0 && (t.str.drop 1).all (fun v => v % 8 == 0))) &&
  (t.shape != 0 || t.segs == 0)

/-- R203, R205: whether the first doubleword of a shape record and its lengths pass, for a tensor's EXT1. -/
def shapeHeadOk (w : Nat) : Bool :=
  decide (1 ≤ bitsOf w 12 0 ∧ bitsOf w 12 0 ≤ 4096) && bitsOf w 15 13 == 0 && bitsOf w 63 48 == 0
def shapeOk (w ext1 : Nat) (lens : List Nat) : Bool :=
  lens.foldl (· + ·) 0 == bitsOf w 47 16 && decide (bitsOf w 47 16 ≤ ext1)
/-- 16-bit values of bytes. -/
def lensOf : Nat → List Byte → List Nat
  | 0, _ => []
  | n + 1, bs => natOf (bs.take 2) :: lensOf n (bs.drop 2)

/-- Installs an entry on every station of the parcel at once (R204). -/
def State.setTensor (s : State) (ptag id : Nat) (d : Option Desc) : State :=
  { s with tables := { s.tables with tensors := Map.set none s.tables.tensors (id + 1024 * ptag) d } }

/-! ## Instructions that install entries -/

/-- Bytes from an address in a window, read as a plain load before the instruction acts. -/
def Exec.readIn (win : Win) (ea n : Nat) : Exec (List Byte) := do
  let ps ← Exec.parts win .r (n / 16 + 2) ea n
  let s ← get
  Exec.afterSame (ps.map (fun p => bwOf p.fa))
  let mut out : List Byte := []
  for p in ps do
    out := out ++ (← Exec.got (readBytes (fun fa => s.wordAtStn s.cur.flow.rbuf s.hand.at_.stn { p.pl with canon := p.pl.canon / 16 * 16 } fa) p.fa p.ea p.len))
  return out

/-- The segment lengths of a shape record, or none where it fails its checks. The record lies in the address space of its
tensor (R201). -/
def Exec.readShape (lin : Bool) (a ext1 : Nat) : Exec (Option (List Nat)) := do
  let win := if lin then Win.lin else Win.va
  let w := natOf (← Exec.readIn win a 8)
  if !shapeHeadOk w then return none
  let n := bitsOf w 12 0
  let lens := lensOf n (← Exec.readIn win (a + 8) (2 * n))
  return if shapeOk w ext1 lens then some lens else none

/-- An instruction that the scalar core carries out itself under a guard (R68, R207). -/
def Exec.underGuard (g : Option Guard) (wc : Nat) (srcs : List Nat) (m : Exec Unit) : Exec Unit := do
  if ← Exec.guarded g then
    Exec.need srcs
    Exec.waitWC wc
    m

/-- TDEF (R204). -/
def execTdef (o : EngOps) (s : State) : Out :=
  runSeq (Exec.underGuard o.guard o.wc [o.b, o.c] (do
    let c ← Exec.ctx
    let b := (c.readG o.b).toNat
    let id := (c.readG o.c).toNat
    if 1023 < id then Exec.ill
    let s ← get
    let ptag := s.ptagAt s.hand.at_.stn
    if b = 0 then modify (fun s => s.setTensor ptag id none)
    else
      Exec.check (b % 64 == 0) causeALIGN b
      Exec.afterAcquire
      let d := dwsOf 8 (← Exec.readIn .va b 64)
      let x ← if 4 < bitsOf (d.getD 0 0) 53 49 then Exec.readIn .va (b + 64) 128 else pure []
      let x := dwsOf 16 x
      let t := descOf d x
      Exec.check (descOk id d x) causeFMT b
      if t.shape ≠ 0 then
        match ← Exec.readShape t.lin t.shape (t.extent 1) with
        | none => Exec.trap causeFMT b
        | some lens => Exec.check (lens.length == t.segs) causeFMT b
      modify (fun s => s.setTensor ptag id (some t)))) s

/-- TSHP (R205). -/
def execTshp (o : EngOps) (s : State) : Out :=
  runSeq (Exec.underGuard o.guard o.wc [o.b, o.c] (do
    let c ← Exec.ctx
    let id := (c.readG o.b).toNat
    let a := (c.readG o.c).toNat
    if 1023 < id then Exec.ill
    let s ← get
    let ptag := s.ptagAt s.hand.at_.stn
    match s.tensor ptag id with
    | none => Exec.trap causeFMT id
    | some t =>
      if a = 0 then modify (fun s => s.setTensor ptag id (some { t with shape := 0, segs := 0 }))
      else
        Exec.check (a % 64 == 0) causeALIGN a
        Exec.afterAcquire
        match ← Exec.readShape t.lin a (t.extent 1) with
        | none => Exec.trap causeFMT a
        | some lens =>
          modify (fun s => s.setTensor ptag id (some { t with shape := bitsOf a 47 6 * 64, segs := lens.length })))) s

/-! ## Format combinations (R210) -/

/-- K per step and G of an implemented pair of formats. -/
def combo (a b : Nat) : Option (Nat × Nat) :=
  if a = 1 ∧ b = 1 then some (64, 16)
  else if (a = 3 ∨ a = 4) ∧ (b = 3 ∨ b = 4) then some (128, 32)
  else if a = 5 ∧ b = 5 then some (256, 64)
  else none
/-- Whether a format appears as A in some combination. -/
def comboA (a : Nat) : Bool := a == 1 || a == 3 || a == 4 || a == 5

/-- What is wrong with the tensors of MMA, MTRAV and MMASD: the identifier at fault, or the pair's K and G. -/
def comboCheck (seg : Bool) (ida idb : Nat) (a b : Option Desc) : Except Nat (Desc × Desc × Nat × Nat) :=
  match a, b with
  | none, _ => .error ida
  | _, none => .error idb
  | some x, some y =>
    match combo x.fmt y.fmt with
    | none => .error (if comboA x.fmt then idb else ida)
    | some (k, g) => if seg && x.shape == 0 then .error ida else .ok (x, y, k, g)

/-- R211, R216: the limits of MMA, MTRAV and MMASD that depend on no format: the operands' bits and the step count. -/
def mmaValuesOk (trav en : Bool) (ids o2 : Nat) : Bool :=
  within ids 0x03FF03FF &&
  (if trav then within o2 (2 ^ 42 - 1) && en && decide (1 ≤ bitsOf o2 39 32 ∧ bitsOf o2 39 32 ≤ 64)
   else within o2 (2 ^ 48 - 1) && decide (1 ≤ bitsOf o2 47 32))
/-- R206 step 3, R211: the limits that depend on the formats. -/
def mmaOriginsOk (trav : Bool) (k fmtB o1 o2 : Nat) : Bool :=
  ((trav && !bitAt o2 40) || o1 / 2 ^ 32 % k == 0) && (fmtB != 5 || o2 % 2 ^ 32 % 8 == 0)

/-! ## Commands of instructions (R207, R208) -/

/-- A command that an instruction builds for an inbox: its parcel's tag, REPLY and TAG 0. -/
def Exec.buildCmd (cube stn inbox opcode flags : Nat) (ops : List Nat) (g : Option Guard) : Exec Unit := do
  let s ← get
  let opnd := (List.range 5).map (fun i => w64 (ops.getD i 0))
  Exec.issueCmd cube stn inbox ⟨flags, false, s.ptagAt s.hand.at_.stn, opcode, opnd, 0, 0⟩ g

/-- A command for an engine of the executing station. -/
def Exec.ownCmd (inbox opcode flags : Nat) (ops : List Nat) (g : Option Guard) : Exec Unit := do
  let s ← get
  Exec.buildCmd s.cube s.hand.at_.stn inbox opcode flags ops g

/-- What every instruction that builds a command waits for: its sources, its wait counter, and the stores that it
releases (R151, R207). -/
def Exec.cmdReady (srcs : List Nat) (wc : Nat) : Exec Unit := do
  Exec.need srcs
  Exec.waitWC wc
  Exec.beforeCommand
  Exec.afterAcquire

/-- An illegal operand value unless a limit holds (R70). -/
def Exec.limit (ok : Bool) : Exec Unit := if ok then pure () else Exec.ill

/-- MMA, MTRAV and MMASD. -/
def mmaInstr (o : EngOps) (opcode : Nat) (trav seg : Bool) (s : State) : Out :=
  runCmd o.guard (do
    Exec.cmdReady [o.b, o.c, o.c + 1] o.wc
    let c ← Exec.ctx
    let s ← get
    let ids := (c.readG o.b).toNat
    let o1 := (c.readG o.c).toNat
    let o2 := (c.readG (o.c + 1)).toNat
    let stn := s.hand.at_.stn
    Exec.limit (mmaValuesOk trav (s.stn stn).eng.matrix.en ids o2)
    let ptag := s.ptagAt stn
    let ida := bitsOf ids 9 0
    let idb := bitsOf ids 25 16
    match comboCheck seg ida idb (s.tensor ptag ida) (s.tensor ptag idb) with
    | .error id => Exec.trap causeFMT id
    | .ok (_, y, k, _) =>
      Exec.limit (mmaOriginsOk trav k y.fmt o1 o2)
      Exec.ownCmd 0 opcode 1 [ids + o.a * 2 ^ 32, o1, o2] o.guard) s

def execMma (o : EngOps) (s : State) : Out := mmaInstr o 0 false false s
def execMtrav (o : EngOps) (s : State) : Out := mmaInstr o 1 true false s
def execMmasd (o : EngOps) (s : State) : Out := mmaInstr o 5 false true s

/-- MZERO. -/
def execMzero (o : EngOps) (s : State) : Out :=
  runCmd o.guard (do
    Exec.cmdReady [o.b] o.wc
    let c ← Exec.ctx
    let v := (c.readG o.b).toNat
    Exec.limit (decide (v < 2 ^ 32))
    Exec.ownCmd 0 2 1 [o.a * 2 ^ 32, v] o.guard) s

/-- MST and MLD. -/
def accInstr (o : EngOps) (opcode flags : Nat) (s : State) : Out :=
  runCmd o.guard (do
    Exec.cmdReady [o.b, o.c] o.wc
    let c ← Exec.ctx
    let s ← get
    let id := (c.readG o.b).toNat
    Exec.limit (decide (id ≤ 1023))
    match s.tensor (s.ptagAt s.hand.at_.stn) id with
    | none => Exec.trap causeFMT id
    | some t =>
      Exec.check (decide (t.fmt ≤ 2)) causeFMT id
      Exec.ownCmd 0 opcode flags [id + o.a * 2 ^ 32, (c.readG o.c).toNat] o.guard) s

def execMst (o : EngOps) (s : State) : Out := accInstr o 3 0 s
def execMld (o : EngOps) (s : State) : Out := accInstr o 4 1 s

/-- CPCHAIN (R230). -/
def execCpchain (o : EngOps) (s : State) : Out :=
  runCmd o.guard (do
    Exec.cmdReady [o.b] o.wc
    let c ← Exec.ctx
    let v := (c.readG o.b).toNat
    Exec.check (v % 256 == 0) causeALIGN v
    Exec.ownCmd 1 0x0100 0 [v] o.guard) s

/-- CPWAIT (R230). -/
def execCpwait (o : EngOps) (s : State) : Out :=
  runSelf (do
    Exec.need [o.b, o.c]
    Exec.waitWC o.wc
    let c ← Exec.ctx
    Exec.limit (!(c.readG o.c).getLsbD 63)
    Exec.armWait .cpwait .va (c.readG o.b).toNat (c.readG o.c) o.a 0 0) s

/-- BKRUN (R225): the vault above the station that the selector names. -/
def execBkrun (o : EngOps) (s : State) : Out :=
  runCmd o.guard (do
    Exec.cmdReady [o.a, o.b, o.c] o.wc
    let c ← Exec.ctx
    let s ← get
    let b := (c.readG o.b).toNat
    let ids := (c.readG o.c).toNat
    Exec.limit (within b (2 ^ 56 - 1) && within ids 0x03FF03FF03FF03FF)
    match s.selector s.hand.at_.stn (c.readG o.a).toNat true with
    | none => Exec.trap causePROT (c.readG o.a).toNat
    | some (cube, stn, _) =>
      Exec.check (bitsOf b 47 0 % 4 == 0) causeALIGN (bitsOf b 47 0)
      Exec.buildCmd cube stn 2 0x0200 0 [b, ids] o.guard) s

/-- R231: a collective descriptor's fields: COUNT, FMT, OP, SEQ, GROUP. -/
def collCount (d : Nat) : Nat := bitsOf d 62 56
def collFmt (d : Nat) : Nat := bitsOf d 54 52
def collOp (d : Nat) : Nat := bitsOf d 51 48
def collSeq (d : Nat) : Nat := bitsOf d 47 16
def collGroup (d : Nat) : Nat := bitsOf d 15 0
/-- The bytes of an element. -/
def collSize (d : Nat) : Nat := if collFmt d = 1 then 2 else 4
/-- A descriptor without a reserved field or code, and with a COUNT in range. -/
def collDescOk (mcast : Bool) (d : Nat) : Bool :=
  !bitAt d 63 && !bitAt d 55 && decide (collFmt d ≤ 3) && decide (collOp d ≤ 6) && (!mcast || collOp d == 0) &&
  decide (1 ≤ collCount d ∧ collCount d ≤ (if collFmt d = 1 then 128 else 64))
/-- An operation that its format allows. -/
def collOpOk (d : Nat) : Bool :=
  !((decide (4 ≤ collOp d) && decide (collFmt d ≤ 1)) || (collOp d == 3 && decide (2 ≤ collFmt d)))

/-- CLRED and CLMCAST (R231). -/
def collInstr (o : EngOps) (opcode : Nat) (mcast : Bool) (s : State) : Out :=
  runCmd o.guard (do
    Exec.cmdReady [o.a, o.b, o.c] o.wc
    let c ← Exec.ctx
    let d := (c.readG o.a).toNat
    let src := (c.readG o.b).toNat
    let dst := (c.readG o.c).toNat
    Exec.limit (collDescOk mcast d)
    Exec.check (collOpOk d) causeFMT d
    Exec.check (src % collSize d == 0) causeALIGN src
    Exec.check (dst % collSize d == 0) causeALIGN dst
    Exec.ownCmd 3 opcode 0 [d, src, dst] o.guard) s

def execClred (o : EngOps) (s : State) : Out := collInstr o 0x0300 false s
def execClmcast (o : EngOps) (s : State) : Out := collInstr o 0x0301 true s

/-- SENDH (R232). -/
def execSendh (o : EngOps) (s : State) : Out :=
  runSeq (Exec.underGuard o.guard o.wc [o.a, o.b, o.c, o.c + 1] (do
    let c ← Exec.ctx
    let s ← get
    let l := s.hand.at_
    let a := (c.readG o.a).toNat
    let n := (c.readG o.c).toNat
    let pc := (c.readG (o.c + 1)).toNat
    Exec.limit (n % 8 == 0 && decide (8 ≤ n ∧ n ≤ 240))
    let cube := bitsOf a 54 43
    let stn := bitsOf a 27 22
    Exec.check (decide (a < 2 ^ 56) && isStashFa a && decide (s.tenantAt l.stn ≠ none) &&
      s.tenantHoldsStn (s.tenantAt l.stn) cube stn && decide (a % 2 ^ 22 + n ≤ readyStore)) causePROT a
    Exec.check (decide (pc < 2 ^ 48)) causePROT pc
    Exec.check (a % 8 == 0) causeALIGN a
    Exec.check (pc % 2 == 0) causeALIGN pc
    Exec.beforeCommand
    Exec.afterAcquire
    let data ← Exec.readIn .va (c.readG o.b).toNat n
    let ptag := match holderOfStn (s.parcelsOf cube) stn with | some p => p.ptag | none => 0
    let count := if cube = s.cube then 1 else 2
    let d : DataArr := ⟨a, ptag, pc, c.csr.budget, data, none, .task l c.tid, count⟩
    modify (fun s => (s.modCtx l (fun c => c.addCount count true)).beginPublication ⟨s.cube, l.stn, 0, .data cube stn d⟩))) s

/-! ## An engine's accesses (R141, R202) -/

/-- Whose accesses they are: the station, the engine (numbered as its inbox, R163), the command's parcel. -/
structure Eye where
  stn : Nat
  eng : Nat
  ptag : Nat
deriving DecidableEq, Repr

/-- What an engine has read from other cubes. -/
def State.engBuf (s : State) (e : Eye) : ReadBuf := Map.get [] (s.stn e.stn).eng.reads e.eng

/-- An engine's step is done: what it read from other cubes is not kept. -/
def State.engDone (s : State) (stn eng : Nat) : State :=
  s.modEng stn (fun e => { e with reads := Map.set [] e.reads eng [] })

/-- Asks for block words that an engine needs, which are filled into its station's slice under a lease, as a task's would be
(R141). -/
def State.engineAsk (s : State) (y : Eye) (fas : List Nat) : State :=
  fas.foldl (fun st fa =>
    if (Map.get [] (st.stn y.stn).eng.readsAsked y.eng).contains (bwOf fa) then st
    else match st.place fa with
    | .error _ => st
    | .ok pl =>
      let r := st.freshId
      (r.2.modEng y.stn (fun e =>
        { e with readsAsked := Map.set [] e.readsAsked y.eng (bwOf fa :: Map.get [] e.readsAsked y.eng) })).askFill r.1
        (.engine y.stn) y.stn (.buffer y.stn) pl (fa / 16 * 16) (fa / 16 * 16) 16 .none) s

/-- What an engine's event does with reads: goes on, comes back later for what is not at hand, or fails with a cause and
an address. -/
def State.engineGot {α : Type} (s : State) (y : Eye) (m : Msg) (x : Got α) (k : α → State) (bad : Nat → Nat → State) : State :=
  match x with
  | .ok a => (k a).engDone y.stn y.eng
  | .need fas => (s.engineAsk y fas).requeue m
  | .hold => s.requeue m
  | .bad c a => (bad c a).engDone y.stn y.eng

/-- The fabric address of an engine's address in a parcel, and the address as it was used: virtual, or a vault-linear
fabric address where LIN is 1 (R202, R301). -/
def State.engFa (s : State) (y : Eye) (lin : Bool) (a : Nat) (need : Need) : Got (Nat × Nat) :=
  if lin then (if a < 2 ^ 38 then .ok (vaultFa s.cube a, vaultFa s.cube a) else .bad causePROT a)
  else (s.translate (s.engBuf y) y.stn y.ptag a need).bind (fun r => .ok (r.1, a))

/-- The home of an engine's address, which its parcel may reach. -/
def State.engPlace (s : State) (y : Eye) (lin : Bool) (a : Nat) (need : Need) : Got (Place × Nat × Nat) :=
  (s.engFa y lin a need).bind (fun f =>
    match s.reachAs (s.engTenant y.stn (y.eng == 2)) false false f.1 with
    | .ok p => .ok (p, f.1, f.2)
    | .error c => .bad c f.2)

/-- A block word as an engine of a station reads it: what has come for it, otherwise what a task of the station would find (R141). -/
def State.wordAtEng (s : State) (y : Eye) (pl : Place) (fa : Nat) : Got (BlockWord × Bool) :=
  match (s.engBuf y).find? (fun e => e.1 == bwOf fa) with
  | some e => .ok e.2
  | none => match s.look y.stn pl fa with
    | .have_ w p => .ok (w, p)
    | .stall => .hold
    | .fetch => .need [fa / 16 * 16]

/-- The block word that holds an engine's address, whether it is poisoned, and the address as used. -/
def State.engWord (s : State) (y : Eye) (lin : Bool) (a : Nat) : Got ((BlockWord × Bool) × Nat) :=
  (s.engPlace y lin a .r).bind (fun f =>
  (s.wordAtEng y { f.1 with canon := f.1.canon / 16 * 16 } (f.2.1 / 16 * 16)).bind (fun w =>
    .ok (w, f.2.2)))

/-- `n` bytes within one block word, as a number; a poisoned word fails. -/
def State.engField (s : State) (y : Eye) (lin : Bool) (a n : Nat) : Got Nat :=
  (s.engWord y lin a).bind (fun w =>
    if w.1.2 then .bad causePOISON w.2 else .ok (w.1.1.toNat / 2 ^ (8 * (a % 16)) % 2 ^ (8 * n)))

/-- Two things read, of which neither needs the other: what either lacks is asked for together. -/
def Got.both {α β γ : Type} (x : Got α) (y : Got β) (f : α → β → γ) : Got γ :=
  match x, y with
  | .ok a, .ok b => .ok (f a b)
  | .bad c a, _ => .bad c a
  | .need l, .need m => .need (l ++ m)
  | .need l, _ => .need l
  | .hold, .need m => .need m
  | .hold, _ => .hold
  | .ok _, .need m => .need m
  | .ok _, .hold => .hold
  | .ok _, .bad c a => .bad c a

/-- Bytes from an address, block word by block word; the poison bit of each byte's word. -/
def State.engBytes (s : State) (y : Eye) (lin : Bool) : Nat → Nat → Nat → Got (List (Byte × Bool))
  | 0, _, _ => .ok []
  | k + 1, a, n =>
    if n = 0 then .ok []
    else
      let len := min n (16 - a % 16)
      Got.both (s.engWord y lin a) (s.engBytes y lin k (a + len) (n - len)) (fun w r =>
        (((bytesOf 16 w.1.1.toNat).drop (a % 16)).take len).map (fun b => (b, w.1.2)) ++ r)

/-- Bytes from an address; poison among them fails at the address of the first poisoned word read. -/
def State.engClean (s : State) (y : Eye) (lin : Bool) (a n : Nat) : Got (List Byte) :=
  (s.engBytes y lin (n / 16 + 2) a n).bind (fun bs =>
    match bs.findIdx? (fun b => b.2) with
    | none => .ok (bs.map (fun b => b.1))
    | some i => (s.engFa y lin (a + i) .r).bind (fun f => .bad causePOISON f.2))

/-- Reads a list of things; what is not at hand of any of them is asked for together. -/
def Got.all {α β : Type} (f : α → Got β) : List α → Got (List β)
  | [] => .ok []
  | x :: xs => Got.both (f x) (Got.all f xs) (fun y ys => y :: ys)

/-- An address formed from a base and an offset, modulo 2^64. -/
def addrAt (base : Nat) (off : Int) : Nat := (((base : Int) + off) % 2 ^ 64).toNat

/-- R202: L(e) of an element given by its lowest indices; the rest are 0. -/
def Desc.linear (d : Desc) (e : List Nat) : Int :=
  (List.range d.rank).foldl (fun a i => a + (e.getD i 0 : Nat) * d.stride i) 0
/-- Whether an element lies inside the extents; the indices not given are 0. -/
def Desc.inside (d : Desc) (e : List Nat) : Bool :=
  (List.range (max d.rank e.length)).all (fun i => decide (e.getD i 0 < d.extent i))
/-- The byte of the element at a linear offset. -/
def Desc.elemAddr (d : Desc) (l : Int) : Nat := addrAt d.base (l * (tfmtBits d.fmt : Nat) / 8)

/-- The code of the element at a linear offset (R202). -/
def State.tensCode (s : State) (y : Eye) (d : Desc) (l : Int) : Got Nat :=
  let w := tfmtBits d.fmt
  (s.engField y d.lin (d.elemAddr l) ((w + 7) / 8)).bind (fun v =>
    .ok (if w = 4 then (if l % 2 = 0 then v % 16 else v / 16) else v))
/-- The code of its block scale; 1 where the tensor has none. -/
def State.tensScale (s : State) (y : Eye) (d : Desc) (l : Int) : Got Nat :=
  if d.bscale = 0 then .ok 0x60 else s.engField y d.lin (addrAt d.bscale (l / 8)) 1
/-- The code of the band scale at index 1 `e1` and dense index `h` of the higher ones; 1 where the tensor has none. -/
def State.tensBand (s : State) (y : Eye) (d : Desc) (e1 h : Nat) : Got Nat :=
  if d.bands = 0 then .ok 0x3F80
  else s.engField y d.lin (d.bands + 2 * (e1 / 64 + (d.extent 1 + 63) / 64 * h)) 2

/-- R203, R211: the segment lengths of a tensor's shape as an engine reads them at a command's start. -/
def State.engShape (s : State) (y : Eye) (d : Desc) : Got (List Nat) :=
  if d.shape = 0 then .ok []
  else
    (s.engClean y d.lin d.shape 8).bind (fun bs =>
    let w := natOf bs
    let refuse : Got (List Nat) := (s.engFa y d.lin d.shape .r).bind (fun f => .bad causeFMT f.1)
    if !shapeHeadOk w then refuse
    else (s.engClean y d.lin (d.shape + 8) (2 * bitsOf w 12 0)).bind (fun b =>
      let lens := lensOf (bitsOf w 12 0) b
      if shapeOk w (d.extent 1) lens then .ok lens else refuse))

end Sys2Proof.Machine
end

