-- ==== Sys2Proof/Machine/Matrix.lean ====
section
/-! DEFINITION. The matrix engine (R54, R55, R209 to R217): steps over tiles, the commands at its inbox's head, the traverse
latch. -/

namespace Sys2Proof.Machine

/-! ## One group (R54, R55) -/

/-- Truncates a dyadic number toward zero to a multiple of 2^q. -/
def truncTo (q : Int) (x : Int × Int) : Int × Int :=
  if q ≤ x.2 then x else (x.1.sign * ((x.1.natAbs / 2 ^ (q - x.2).toNat : Nat) : Int), q)

/-- floor(log2) of a non-zero dyadic number's magnitude. -/
def dyadicLead (x : Int × Int) : Int := (Nat.log2 x.1.natAbs : Int) + x.2

/-- The exact sum of finite terms, truncated first where the operands are bfloat16; −0 only where every term is −0. -/
def sumTerms (bf : Bool) (ts : List FV) : FV :=
  let nz := (ts.map FV.dyadic).filter (fun x => x.1 != 0)
  let kept := match nz with
    | x :: xs => if bf then nz.map (truncTo (xs.foldl (fun m y => max m (dyadicLead y)) (dyadicLead x) - 40)) else nz
    | [] => []
  let t := kept.foldl addDyadic (0, 0)
  if t.1 = 0 then .fin (ts.all FV.isNeg) 0 0 else .fin (decide (t.1 < 0)) t.1.natAbs t.2

/-- A group's contribution p, rounded to binary32, and its flags: `ts` are the products of the factors. -/
def groupSum (bf : Bool) (ts : List FV) (ba bb : FV) : Nat × Nat :=
  let s : FV × Nat :=
    if ts.any FV.isNan || (ts.contains (.inf true) && ts.contains (.inf false)) then (.nan false, flNV)
    else if ts.contains (.inf true) then (.inf true, 0)
    else if ts.contains (.inf false) then (.inf false, 0)
    else (sumTerms bf ts, 0)
  let x := mulFV s.1 ba
  let y := mulFV x.1 bb
  let r := deliver .f32 .ne false 0 y.1.exact
  (r.1, orF s.2 (orF x.2 (orF y.2 r.2)))

/-- Splits a list into groups of `g`. -/
def groupsOf {α : Type} (g : Nat) : Nat → List α → List (List α)
  | 0, _ => []
  | n + 1, xs => xs.take g :: groupsOf g n (xs.drop g)

/-- One element of the accumulator over a step: its groups in ascending order, each with its band factors. -/
def stepElem (bf : Bool) (g : Nat) (a b : List FV) (ba : FV) (bb : List FV) (acc : Nat) : Nat × Nat :=
  let ts := List.zipWith (fun x y => (mulFV x y).1) a b
  ((groupsOf g bb.length ts).zip bb).foldl (fun r e =>
    let p := groupSum bf e.1 ba e.2
    let q := addF32 r.1 p.1
    (q.1, orF r.2 (orF p.2 q.2))) (acc, 0)

/-! ## Tiles -/

/-- A factor: element and block scale (R35, R54). -/
def factorOf (fmt : Nat) (e : Nat × Nat × Nat) : FV :=
  (mulFV (decodeF ((tfmtFloat fmt).getD .f32) e.1) (decodeF .e3m5 e.2.1)).1
/-- A band scale. -/
def bandOf (e : Nat × Nat × Nat) : FV := decodeF .bf16 e.2.2

/-- Element (e1, e0) of a tensor with its block and band scale codes; +0, with no access, outside the extents (R211). -/
def State.tileElem (s : State) (y : Eye) (d : Desc) (band e1 e0 : Nat) : Got (Nat × Nat × Nat) :=
  if d.inside [e0, e1] then
    let l := d.linear [e0, e1]
    (s.tensCode y d l).bind (fun c => (s.tensScale y d l).bind (fun k => .ok (c, k, band)))
  else .ok (0, 0x60, band)

/-- `rows` rows of `cols` elements of a tensor from (e1, e0), row by row. -/
def State.readTile (s : State) (y : Eye) (d : Desc) (e1 e0 rows cols : Nat) : Got (List (List (Nat × Nat × Nat))) :=
  Got.all (fun i =>
    (if e1 + i < d.extent 1 then s.tensBand y d (e1 + i) 0 else .ok 0x3F80).bind (fun b =>
      Got.all (fun j => s.tileElem y d b (e1 + i) (e0 + j)) (List.range cols))) (List.range rows)

/-- The factors of row r of a tile read row by row. -/
def tileRow (fmt : Nat) (t : List (List (Nat × Nat × Nat))) (i : Nat) : List FV := (t.getD i []).map (factorOf fmt)
/-- The factors of column j. -/
def tileCol (fmt : Nat) (t : List (List (Nat × Nat × Nat))) (j : Nat) : List FV :=
  t.map (fun r => factorOf fmt (r.getD j (0, 0x60, 0x3F80)))
/-- The band scale of row i. -/
def tileBand (t : List (List (Nat × Nat × Nat))) (i : Nat) : FV := bandOf ((t.getD i []).getD 0 (0, 0x60, 0x3F80))

/-! ## Accumulators -/

/-- The values of an accumulator as a list, and back. -/
def accList (v : Map (BitVec 32)) : List Nat := (List.range 4096).map (fun i => (Map.get 0 v i).toNat)
def accMap (xs : List Nat) : Map (BitVec 32) :=
  (xs.zipIdx.filter (fun e => e.1 % 2 ^ 32 != 0)).map (fun e => (e.2, BitVec.ofNat 32 e.1))
/-- Every element the same bits. -/
def accFill (v : Nat) : Map (BitVec 32) := accMap (List.replicate 4096 v)

/-- A station's matrix engine. -/
def State.matrix (s : State) (stn : Nat) : Matrix := (s.stn stn).eng.matrix
def State.modMatrix (s : State) (stn : Nat) (f : Matrix → Matrix) : State := s.modEng stn (fun e => { e with matrix := f e.matrix })

/-- R217: an accumulator whose contents are undefined (R2). -/
def State.scramble (s : State) (stn q : Nat) : State :=
  let n := s.counts.free
  let vals := (List.range 4096).foldl (fun m i => Map.set 0 m i (Config.freeLane (n + i))) []
  { (s.modAcc stn q (fun a => { a with vals := vals })) with counts := { s.counts with free := n + 4096 } }

/-- R217: when a station changes parcel, its accumulators, sticky state and latch slots are cleared. -/
def State.clearMatrix (s : State) (stn : Nat) : State := s.modMatrix stn (fun m => { m with accs := [], latch := [] })

/-- The accumulator that a matrix command names. -/
def cmdAcc (c : Cmd) : Nat := bitsOf (cmdOp c 0) 33 32

/-- Whether a command of a task names an accumulator that is lent to the dispatcher (R217). -/
def Matrix.lent (m : Matrix) (c : CmdMsg) : Bool := bitAt m.dmask (cmdAcc c.cmd) && c.src != .cube

/-- The events with which a station's matrix engine works. -/
def matrixEvent (stn : Nat) (m : Msg) : Bool :=
  m == .mmaCommand stn || m == .mtravCommand stn || m == .mzeroCommand stn || m == .mstCommand stn || m == .mldCommand stn ||
  m == .mmasdCommand stn || m == .traverseTile stn

/-- The command at the head of the matrix inbox completes: a quiet one in its accumulator (R214), any as R209 says; the
next command is taken up. -/
def State.endMatrix (s : State) (stn : Nat) (pre : List Msg) (status flags : Nat) (value : Word) : State :=
  let m := s.matrix stn
  match m.inbox with
  | [] => s
  | c :: rest =>
    let q := cmdAcc c.cmd
    let s1 := if quietCmd c.cmd then s.modAcc stn q (fun a => a.record status flags value) else s
    let s2 := if m.lent c then s1.scramble stn q else s1
    let s3 := (s2.modMatrix stn (fun m =>
      { m with inbox := rest, trav := none, started := false, descs := [], segs := [], steps := 0, stepFlags := 0, waits := []
               fail := none })).engDone stn 0
    let s4 := { s3 with net := s3.net.filter (fun x => !matrixEvent stn x) }
    let s5 := s4.inboxFreed stn 0 m.inbox.length
    let s6 := match rest with | d :: _ => s5.send (matrixMsg stn d) | [] => s5
    s6.finishCmd stn c pre status flags value

/-- A command that fails with a cause and an address or identifier (R301). -/
def State.failMatrix (s : State) (stn cause detail : Nat) : State :=
  s.endMatrix stn [] (if cause = causePOISON then 4 else 3) (s.matrix stn).stepFlags (faultValue cause detail)

/-- Runs what an opcode's event does with the command at the head of the inbox, if it is of that opcode. -/
def onHead (opcode stn : Nat) (s : State) (f : CmdMsg → State) : State :=
  match (s.matrix stn).inbox with
  | c :: _ => if c.cmd.opcode = opcode then f c else s
  | [] => s

/-- What a matrix command that has been taken up starts with. -/
def State.startMatrix (s : State) (stn : Nat) (c : CmdMsg) (descs : List Desc) (segs : List Nat) : State :=
  let s1 := if (s.matrix stn).lent c then s.scramble stn (cmdAcc c.cmd) else s
  s1.modMatrix stn (fun m => { m with started := true, descs := descs, segs := segs })

/-! ## MMA, MMASD, MTRAV -/

/-- R210, R211, R213, R216: the start of MMA, MTRAV and MMASD; the shape of each ragged tensor is read (R203). -/
def State.startMma (s : State) (stn : Nat) (c : CmdMsg) (trav seg : Bool) (msg : Msg) (go : State → State) : State :=
  let k := c.cmd
  let y : Eye := ⟨stn, 0, k.ptag⟩
  let ida := bitsOf (cmdOp k 0) 9 0
  let idb := bitsOf (cmdOp k 0) 25 16
  match comboCheck seg ida idb (s.tensor k.ptag ida) (s.tensor k.ptag idb) with
  | .error id => s.failMatrix stn causeFMT id
  | .ok (a, b, kk, _) =>
    if !(mmaValuesOk trav (s.matrix stn).en (cmdOp k 0 % 2 ^ 32) (cmdOp k 2) && mmaOriginsOk trav kk b.fmt (cmdOp k 1) (cmdOp k 2)) then
      s.failMatrix stn causeILL 0
    else s.engineGot y msg (Got.both (s.engShape y a) (s.engShape y b) (fun x _ => x)) (fun segs => go (s.startMatrix stn c [a, b] segs)) (fun cause d => s.failMatrix stn cause d)

/-- The segment of a row. -/
def segOf : List Nat → Nat → Nat
  | [], _ => 0
  | n :: ns, r => if r < n then 0 else 1 + segOf ns (r - n)

/-- What a step does with an element: leaves it, accumulates, or sets it to −∞ (R212, R213). -/
inductive StepAct where
  | keep | add | negInf
deriving DecidableEq, Repr

/-- The rows that MMA updates (R211). -/
def mmaRows (a : Desc) (segs : List Nat) : Nat := if a.shape ≠ 0 then segs.foldl (· + ·) 0 else a.extent 1

/-- One step over a tile of A (64 rows of K) and of B (K rows of 64, or, for MMASD, 64 rows of K). -/
def applyStep (seg : Bool) (a b : Desc) (g : Nat) (ta tb : List (List (Nat × Nat × Nat))) (act : Nat → Nat → StepAct)
    (vals : List Nat) : List Nat × Nat :=
  let rows := (List.range 64).map (fun i => (tileRow a.fmt ta i, tileBand ta i))
  let cols := (List.range 64).map (fun j =>
    if seg then (tileRow b.fmt tb j, List.replicate ((ta.getD 0 []).length / g) (tileBand tb j))
    else (tileCol b.fmt tb j, (List.range (tb.length / g)).map (fun k => tileBand tb (k * g))))
  let out := vals.zipIdx.map (fun e =>
    let i := e.2 / 64
    let j := e.2 % 64
    match act i j with
    | .keep => (e.1, 0)
    | .negInf => (negInf, 0)
    | .add =>
      let r := rows.getD i ([], .fin false 0 0)
      let q := cols.getD j ([], [])
      stepElem (a.fmt == 1) g r.1 q.1 r.2 q.2 e.1)
  (out.map (fun e => e.1), out.foldl (fun f e => orF f e.2) 0)

/-- Writes a step's results together. -/
def State.storeStep (s : State) (stn q : Nat) (r : List Nat × Nat) : State :=
  ((s.modAcc stn q (fun x => { x with vals := accMap r.1 })).modMatrix stn (fun m =>
    { m with steps := m.steps + 1, stepFlags := orF m.stepFlags r.2 })).engDone stn 0

/-- Which elements a step of MMA or MTRAV updates (R211, R212). -/
def mmaAct (a b : Desc) (segs : List Nat) (i0 j0 : Nat) (i j : Nat) : StepAct :=
  if i0 + i < mmaRows a segs ∧ j0 + j < b.extent 0 then .add else .keep
/-- Which elements a step of MMASD updates, and how (R213). -/
def sdAct (segs : List Nat) (i0 j0 : Nat) (i j : Nat) : StepAct :=
  let total := segs.foldl (· + ·) 0
  if i0 + i < total ∧ j0 + j < total then (if segOf segs (i0 + i) = segOf segs (j0 + j) then .add else .negInf) else .keep

/-- One step of MMA or MMASD: both tiles are read, then the results are written together (R211, R213). -/
def State.mmaStep (s : State) (stn : Nat) (c : CmdMsg) (seg : Bool) (msg : Msg) : State :=
  let m := s.matrix stn
  let k := c.cmd
  let y : Eye := ⟨stn, 0, k.ptag⟩
  match m.descs with
  | [a, b] =>
    match combo a.fmt b.fmt with
    | none => s
    | some (kk, g) =>
      if m.steps = bitsOf (cmdOp k 2) 47 32 then s.endMatrix stn [] 0 m.stepFlags (w64 m.steps)
      else
        let i0 := cmdOp k 1 % 2 ^ 32
        let kb := cmdOp k 1 / 2 ^ 32 + m.steps * kk
        let j0 := cmdOp k 2 % 2 ^ 32
        let tiles := Got.both (s.readTile y a i0 kb 64 kk)
          (if seg then s.readTile y b j0 kb 64 kk else s.readTile y b kb j0 kk 64) (fun ta tb => (ta, tb))
        s.engineGot y msg tiles (fun t =>
          let act := if seg then sdAct m.segs i0 j0 else mmaAct a b m.segs i0 j0
          (s.storeStep stn (cmdAcc k) (applyStep seg a b g t.1 t.2 act
            (accList (Map.get {} m.accs (cmdAcc k)).vals))).send msg) (fun cause d => s.failMatrix stn cause d)
  | _ => s

/-- MMA_COMMAND: the start, then one step at a time. -/
def execMmaCommand (s : State) : Out :=
  match s.hand.msg with
  | .mmaCommand stn => .next (onHead 0 stn s (fun c =>
      if (s.matrix stn).started then s.mmaStep stn c false (.mmaCommand stn)
      else s.startMma stn c false false (.mmaCommand stn) (fun t => t.send (.mmaCommand stn))))
  | _ => .next s

/-- MMASD_COMMAND. -/
def execMmasdCommand (s : State) : Out :=
  match s.hand.msg with
  | .mmasdCommand stn => .next (onHead 5 stn s (fun c =>
      if (s.matrix stn).started then s.mmaStep stn c true (.mmasdCommand stn)
      else s.startMma stn c false true (.mmasdCommand stn) (fun t => t.send (.mmasdCommand stn))))
  | _ => .next s

/-! ## The traverse (R215, R216) -/

/-- What an MTRAV does next: load its tile, take a tile, move a tile on. -/
def travLoad : Nat := 0
def travTake : Nat := 1
def travMove : Nat := 2

/-- An MTRAV enters a phase; its wait, if it has to wait, ends at the latch timeout. -/
def State.travPhase (s : State) (stn phase : Nat) : State :=
  let due := s.datum + (s.matrix stn).timeout
  (s.modMatrix stn (fun m => { m with trav := m.trav.map (fun t => { t with phase := phase, deadline := due }) })).schedule
    (due + 1) (.latchTimeout stn)

/-- Whether what an MTRAV waits for at the latches is there. -/
def State.travReady (s : State) (stn : Nat) (t : Trav) : Bool :=
  let m := s.matrix stn
  if t.phase = travLoad then decide (m.latch.length < 2)
  else if t.phase = travTake then !m.latch.isEmpty
  else decide ((s.matrix m.next).latch.length < 2)

/-- A step of an MTRAV is over and its tile is gone: the next step, or the end. -/
def State.travNext (s : State) (stn : Nat) (c : CmdMsg) : State :=
  let s1 := s.modMatrix stn (fun m => { m with latch := m.latch.drop 1, trav := m.trav.map (fun t => { t with step := t.step + 1 }) })
  let m := s1.matrix stn
  match m.trav with
  | none => s1
  | some t =>
    if bitsOf (cmdOp c.cmd 2) 39 32 ≤ t.step then s1.endMatrix stn [] 0 m.stepFlags (w64 m.steps)
    else (s1.travPhase stn travTake).send (.mtravCommand stn)

/-- An MTRAV takes a tile from its latch and applies it. -/
def State.travApply (s : State) (stn : Nat) (c : CmdMsg) (t : Trav) (x : Tile) : State :=
  let m := s.matrix stn
  let k := c.cmd
  let y : Eye := ⟨stn, 0, k.ptag⟩
  match m.descs with
  | [a, b] =>
    if x.fmt ≠ b.fmt then s.failMatrix stn causeFMT (bitsOf (cmdOp k 0) 25 16)
    else match combo a.fmt b.fmt with
    | none => s
    | some (kk, g) =>
      let i0 := cmdOp k 1 % 2 ^ 32
      s.engineGot y (.mtravCommand stn) (s.readTile y a i0 x.korg 64 kk) (fun ta =>
        let s1 := s.storeStep stn (cmdAcc k) (applyStep false a b g ta (groupsOf 64 kk x.elems)
          (mmaAct a b m.segs i0 (cmdOp k 2 % 2 ^ 32)) (accList (Map.get {} m.accs (cmdAcc k)).vals))
        if t.step + 1 < bitsOf (cmdOp k 2) 39 32 || !bitAt (cmdOp k 2) 41 then
          (s1.travPhase stn travMove).send (.traverseTile stn)
        else s1.travNext stn c) (fun cause d => s.failMatrix stn cause d)
  | _ => s

/-- An MTRAV loads its own tile. -/
def State.travOwn (s : State) (stn : Nat) (c : CmdMsg) : State :=
  let m := s.matrix stn
  let k := c.cmd
  let y : Eye := ⟨stn, 0, k.ptag⟩
  match m.descs with
  | [a, b] =>
    match combo a.fmt b.fmt with
    | none => s
    | some (kk, _) =>
      let k0 := cmdOp k 1 / 2 ^ 32
      let j0 := cmdOp k 2 % 2 ^ 32
      s.engineGot y (.mtravCommand stn) (s.readTile y b k0 j0 kk 64) (fun tb =>
        let x : Tile := ⟨bitsOf (cmdOp k 0) 25 16, b.fmt, k0, j0, tb.flatten⟩
        (((s.engDone stn 0).modMatrix stn (fun m => { m with latch := m.latch ++ [x] })).travPhase stn travTake).send
          (.mtravCommand stn)) (fun cause d => s.failMatrix stn cause d)
  | _ => s

/-- MTRAV_COMMAND. -/
def execMtravCommand (s : State) : Out :=
  match s.hand.msg with
  | .mtravCommand stn => .next (onHead 1 stn s (fun c =>
      let m := s.matrix stn
      match m.started, m.trav with
      | true, some t =>
        if !s.travReady stn t then s.requeue (.mtravCommand stn)
        else if t.phase = travLoad then s.travOwn stn c
        else match m.latch with
          | x :: _ => if t.phase = travTake then s.travApply stn c t x else s
          | [] => s
      | _, _ => s.startMma stn c true false (.mtravCommand stn) (fun t =>
          ((t.modMatrix stn (fun m => { m with trav := some ⟨0, 0, 0, 0, 0⟩ })).travPhase stn
            (if bitAt (cmdOp c.cmd 2) 40 then travLoad else travTake)).send (.mtravCommand stn))))
  | _ => .next s

/-- TRAVERSE_TILE: the tile that an MTRAV has applied moves to an empty slot of the next station's latch. -/
def execTraverseTile (s : State) : Out :=
  match s.hand.msg with
  | .traverseTile stn => .next (onHead 1 stn s (fun c =>
      let m := s.matrix stn
      match m.trav, m.latch with
      | some t, x :: _ =>
        if t.phase ≠ travMove then s
        else if !s.travReady stn t then s.requeue (.traverseTile stn)
        else (s.modMatrix m.next (fun n => { n with latch := n.latch ++ [x] })).travNext stn c
      | _, _ => s))
  | _ => .next s

/-- LATCH_TIMEOUT: a wait at the latches that has lasted longer than the timeout ends its MTRAV. -/
def execLatchTimeout (s : State) : Out :=
  match s.hand.msg with
  | .latchTimeout stn =>
    let m := s.matrix stn
    match m.trav with
    | some t => if t.deadline < s.datum ∧ !s.travReady stn t then .next (s.endMatrix stn [] 5 m.stepFlags (w64 m.steps)) else .next s
    | none => .next s
  | _ => .next s

/-- R215: the MTRAVs that wait on a station's latch: its own, and those that move a tile there. -/
def State.latchWaiters (s : State) (stn : Nat) : List Nat :=
  s.stnIxs.filter (fun n =>
    let m := s.matrix n
    match m.trav with
    | some t => n == stn || (t.phase == travMove && m.next == stn)
    | none => false)

/-- R215: the reserved bits of TRVCFG's gB are zero. -/
def trvcfgOk (b : Nat) : Bool := !bitAt b 62 && bitsOf b 59 52 == 0 && bitsOf b 47 6 == 0

/-- TRVCFG (R215). -/
def execTrvcfg (o : EngOps) (s : State) : Out :=
  privilegedBy [o.b, o.c] (fun c => trvcfgOk (c.readG o.b).toNat) (runSeq (Exec.underGuard o.guard o.wc [o.b, o.c] (do
    let c ← Exec.ctx
    let s ← get
    let stn := s.hand.at_.stn
    let b := (c.readG o.b).toNat
    let t := (c.readG o.c).toNat
    Exec.limit (trvcfgOk b)
    let en := bitAt b 63
    let next := bitsOf b 5 0
    Exec.check (!en || (s.ptagAt next == s.ptagAt stn && s.ptagAt stn != 0)) causePROT b
    let s1 := s.modMatrix stn (fun m => { m with latch := [] })
    let s2 := (s1.latchWaiters stn).foldl (fun st n => st.endMatrix n [] 6 (st.matrix n).stepFlags (w64 (st.matrix n).steps)) s1
    set (s2.modMatrix stn (fun m =>
      { m with en := en, size := bitsOf b 61 60, dmask := bitsOf b 51 48, next := next
               timeout := if t = 0 then 1000000 else t }))))) s

/-! ## Accumulator access (R214) -/

/-- MZERO_COMMAND. -/
def execMzeroCommand (s : State) : Out :=
  match s.hand.msg with
  | .mzeroCommand stn => .next (onHead 2 stn s (fun c =>
      (s.modAcc stn (cmdAcc c.cmd) (fun _ => { vals := accFill (cmdOp c.cmd 1) })).endMatrix stn [] 0 0 4096))
  | _ => .next s

/-- The tensor C of MST and MLD, checked. -/
def State.accTensor (s : State) (c : CmdMsg) : Except Nat Desc :=
  let id := cmdOp c.cmd 0 % 1024
  match s.tensor c.cmd.ptag id with
  | none => .error id
  | some d => if d.fmt ≤ 2 then .ok d else .error id

/-- The elements of the accumulator that lie inside C and below TOTAL, with their linear offsets. -/
def accElems (d : Desc) (segs : List Nat) (i0 j0 : Nat) : List (Nat × Int) :=
  let rows := if d.shape ≠ 0 then segs.foldl (· + ·) 0 else d.extent 1
  (List.range 4096).filterMap (fun x =>
    let e := [j0 + x % 64, i0 + x / 64]
    if d.inside e && decide (i0 + x / 64 < rows) then some (x, d.linear e) else none)

/-- MLD_COMMAND: binary32 bits are copied, narrower formats widened. -/
def execMldCommand (s : State) : Out :=
  match s.hand.msg with
  | .mldCommand stn => .next (onHead 4 stn s (fun c =>
      let k := c.cmd
      let y : Eye := ⟨stn, 0, k.ptag⟩
      match s.accTensor c with
      | .error id => s.failMatrix stn causeFMT id
      | .ok d =>
        let data := (s.engShape y d).bind (fun segs =>
          Got.all (fun e => (s.tensCode y d e.2).bind (fun v => .ok (e.1, v)))
            (accElems d segs (cmdOp k 1 % 2 ^ 32) (cmdOp k 1 / 2 ^ 32)))
        s.engineGot y (.mldCommand stn) data (fun es =>
          let cv := es.map (fun e =>
            if d.fmt = 0 then (e.1, e.2, 0)
            else let r := cvtFF .f32 ((tfmtFloat d.fmt).getD .f32) .ne false 0 e.2; (e.1, r.1, r.2))
          let vals := cv.foldl (fun (m : Map (BitVec 32)) e => Map.set 0 m e.1 (BitVec.ofNat 32 e.2.1)) []
          let fl := Nat.land (cv.foldl (fun f e => orF f e.2.2) 0) flNV
          let s1 := if (s.matrix stn).lent c then s.scramble stn (cmdAcc k) else s
          (s1.modAcc stn (cmdAcc k) (fun _ => { vals := vals, aflg := fl })).endMatrix stn [] 0 fl (w64 es.length))
          (fun cause a => s.failMatrix stn cause a)))
  | _ => .next s

/-- Addresses of writes, up to the first that fails. -/
def State.placeAll (s : State) (y : Eye) (lin : Bool) : List (Nat × Nat) → Got (List (Nat × Nat × Nat) × Option (Nat × Nat))
  | [] => .ok ([], none)
  | (k, a) :: r =>
    match s.engPlace y lin a .w with
    | .ok p => (s.placeAll y lin r).bind (fun q => .ok ((k, p.2.1, p.2.2) :: q.1, q.2))
    | .bad c v => .ok ([], some (c, v))
    | .need l => .need l
    | .hold => .hold

/-- An engine's write, performed at its home: its number. -/
def State.engWrite (s : State) (y : Eye) (fa va : Nat) (bs : List Byte) (poison : List Nat) : Nat × State :=
  let r := s.freshId
  (r.1, (r.2.modEng y.stn (fun e => { e with writesOut := e.writesOut ++ [r.1] })).send
    (.write ⟨r.1, .engine y.stn, y.stn, fa, va, bs, poison, 0, 3, 0, 0, 0, y.ptag⟩))

/-- An engine's writes, in order: their numbers. -/
def State.engWrites (s : State) (y : Eye) (ws : List (Nat × Nat × List Byte)) : List Nat × State :=
  ws.foldl (fun r w => let q := r.2.engWrite y w.1 w.2.1 w.2.2 []; (r.1 ++ [q.1], q.2)) ([], s)

/-- MST completes: sticky state and its own outcome together (R214). VALUE is the recorded fault VALUE, or its own (R152), or
the number of elements written. -/
def State.endMst (s : State) (stn : Nat) (c : CmdMsg) (d : Option Desc) (own flags : Nat) (fault : Option Word) (written : Nat)
    (chunks : List Nat) : State :=
  let a := Map.get ({} : Accum) (s.matrix stn).accs (cmdAcc c.cmd)
  let status := max a.astat own
  let value := if a.astat = 0 ∨ a.value = 0 then fault.getD (w64 written) else a.value
  let s1 := s.modAcc stn (cmdAcc c.cmd) (fun a => { a with astat := 0, aflg := 0, value := 0 })
  let masks := if status = 0 then chunkMasks chunks else brokenMasks ((d.map Desc.chunks).getD [])
  let b := s1.bitmapMsgs stn false c.cmd.ptag (cmdOp c.cmd 3) masks
  b.2.endMatrix stn b.1 status (orF a.aflg flags) value

/-- MST_COMMAND: the elements are written at their homes; the command completes when every write has been performed. -/
def execMstCommand (s : State) : Out :=
  match s.hand.msg with
  | .mstCommand stn => .next (onHead 3 stn s (fun c =>
      let k := c.cmd
      let y : Eye := ⟨stn, 0, k.ptag⟩
      let m := s.matrix stn
      if m.started then
        let e := (s.stn stn).eng
        if m.waits.any (fun i => e.writesOut.contains i) then s.requeue (.mstCommand stn)
        else
          let bad := e.wroteBad.filter (fun x => m.waits.contains x.1)
          let own := match m.fail with | some f => f.1 | none => if bad.isEmpty then 0 else 4
          let d := m.descs.head?
          let es := match d with | some d => accElems d m.segs (cmdOp k 1 % 2 ^ 32) (cmdOp k 1 / 2 ^ 32) | none => []
          let chunks := match d with | some d => (es.filterMap (fun x => d.chunkOf x.2)).eraseDups | none => []
          (s.modEng stn (fun e => { e with wroteBad := e.wroteBad.filter (fun x => !m.waits.contains x.1) })).endMst stn c d own
            m.stepFlags ((m.fail.map (fun f => f.2)).or (bad.head?.map (fun x => faultValue causePOISON x.2)))
            (m.waits.length - bad.length) chunks
      else match s.accTensor c with
      | .error id => s.endMst stn c none 3 0 (some (faultValue causeFMT id)) 0 []
      | .ok d =>
        let s0 := if m.lent c then s.scramble stn (cmdAcc k) else s
        let vals := (Map.get ({} : Accum) (s0.matrix stn).accs (cmdAcc k)).vals
        let plan := (s.engShape y d).bind (fun segs =>
          let es := accElems d segs (cmdOp k 1 % 2 ^ 32) (cmdOp k 1 / 2 ^ 32)
          (s.placeAll y d.lin (es.map (fun e => (e.1, d.elemAddr e.2)))).bind (fun p => .ok (segs, p)))
        s.engineGot y (.mstCommand stn) plan (fun p =>
          let f := (tfmtFloat d.fmt).getD .f32
          let out := p.2.1.map (fun w =>
            let v := (Map.get 0 vals w.1).toNat
            let r := if d.fmt = 0 then (v, 0) else cvtFF f .f32 .ne false 0 v
            (w.2.1, w.2.2, bytesOf (f.width / 8) r.1, r.2))
          let ws := s0.engWrites y (out.map (fun w => (w.1, w.2.1, w.2.2.1)))
          (ws.2.modMatrix stn (fun m => { m with started := true, descs := [d], segs := p.1, waits := ws.1
                                                 stepFlags := out.foldl (fun fl w => orF fl w.2.2.2) 0
                                                 fail := p.2.2.map (fun x => (3, faultValue x.1 x.2)) })).send (.mstCommand stn))
          (fun cause a => s.endMst stn c (some d) (if cause = causePOISON then 4 else 3) 0 (some (faultValue cause a)) 0 [])))
  | _ => .next s

end Sys2Proof.Machine
end

