-- ==== Sys2Proof/Machine/Banks.lean ====
section
/-! DEFINITION. Bank engines and their vault sequencers (R220 to R225): shares, ports, moves, service. -/

namespace Sys2Proof.Machine

/-! ## Tensors of a bank command (R220) -/

/-- The elements of a tensor, and its bytes. -/
def Desc.count (d : Desc) : Nat := d.ext.foldl (· * ·) 1
def Desc.byteLen (d : Desc) : Nat := (d.count * tfmtBits d.fmt + 7) / 8
/-- Whether a tensor is dense: STR0 is 1 and each stride is the product of the lower extents. -/
def Desc.dense (d : Desc) : Bool :=
  (List.range d.rank).all (fun i => d.stride i == (((d.ext.take i).foldl (· * ·) 1 : Nat) : Int))
/-- Whether a vault's bank engines take a tensor. -/
def Desc.inVault (d : Desc) (v : Nat) : Bool :=
  d.lin && d.dense && decide (d.base < 2 ^ 38) && d.base / 2 ^ 32 == v && decide (d.base % 2 ^ 32 + d.byteLen ≤ 2 ^ 32)

/-- The identifier of a slot. -/
def slotId (c : Cmd) (k : Nat) : Nat := bitsOf (cmdOp c 1) (16 * k + 9) (16 * k)

/-- A slot's tensor, checked at its use. -/
def bankSlot (v : Nat) (r : BankRun) (k : Nat) : Got Desc :=
  match r.slots.getD k none with
  | some d => if d.inVault v then .ok d else .bad causeFMT (slotId r.cmd.cmd k)
  | none => .bad causeFMT (slotId r.cmd.cmd k)

/-- The first piece of a tensor that belongs to a bank, and how many do. -/
def Desc.share (d : Desc) (b : Nat) : Nat × Nat :=
  let p0 := d.base / 2048
  let first := p0 + (b + 128 - p0 % 128) % 128
  if d.byteLen = 0 then (first, 0)
  else
    let last := (d.base + d.byteLen - 1) / 2048
    (first, if first ≤ last then (last - first) / 128 + 1 else 0)

/-- What a bank engine reads through: the station under the vault, for the command's parcel. -/
def bankEye (v : Nat) (r : BankRun) : Eye := ⟨v, 2, r.cmd.cmd.ptag⟩

/-- A field of memory, and whether its block word is poisoned. -/
def State.bankField (s : State) (y : Eye) (a n : Nat) : Got (Nat × Bool) :=
  (s.engWord y true a).bind (fun w => .ok (w.1.1.toNat / 2 ^ (8 * (a % 16)) % 2 ^ (8 * n), w.1.2))

/-- The element at an index of a dense tensor with its scales, and whether any of them is poisoned; outside the tensor the
bytes read as zero. -/
def State.bankElem (s : State) (y : Eye) (d : Desc) (l : Int) : Got ((Nat × Nat × Nat) × Bool) :=
  if l < 0 ∨ (d.count : Int) ≤ l then .ok ((0, 0x60, 0x3F80), false)
  else
    let w := tfmtBits d.fmt
    let n := l.toNat
    let e0 := d.extent 0
    let e1 := d.extent 1
    (s.bankField y (d.elemAddr l) ((w + 7) / 8)).bind (fun c =>
    (if d.bscale = 0 then .ok (0x60, false) else s.bankField y (d.bscale + n / 8) 1).bind (fun k =>
    (if d.bands = 0 then .ok (0x3F80, false)
     else s.bankField y (d.bands + 2 * (n / e0 % e1 / 64 + (e1 + 63) / 64 * (n / (e0 * e1)))) 2).bind (fun b =>
      .ok ((if w = 4 then (if n % 2 = 0 then c.1 % 16 else c.1 / 16) else c.1, k.1, b.1), c.2 || k.2 || b.2))))

/-- Consecutive elements, and which of them are poisoned. -/
def State.bankElems (s : State) (y : Eye) (d : Desc) (l : Int) (n : Nat) : Got (List (Nat × Nat × Nat) × List Nat) :=
  (Got.all (fun (i : Nat) => s.bankElem y d (l + i)) (List.range n)).bind (fun es =>
    .ok (es.map (fun e => e.1), (es.zipIdx.filter (fun e => e.1.2)).map (fun e => e.2)))

/-- The exact value of an element with its scales (R35). -/
def bankValue (fmt : Nat) (e : Nat × Nat × Nat) : FV := (mulFV (factorOf fmt e) (bandOf e)).1

/-! ## Ports (R221, R222) -/

/-- A counter or register. -/
def Bank.port (b : Bank) (p : Nat) : Nat := (Map.get 0 b.ports p).toNat
def Bank.setPort (b : Bank) (p v : Nat) : Bank := { b with ports := Map.set 0 b.ports p (BitVec.ofNat 32 v) }

/-- The numbers of the ports that hold a register. -/
def portRBSEL : Nat := 5
def portRBPOS : Nat := 6
def portRBIDX : Nat := 7
def portXOFF : Nat := 9
def portYOFF : Nat := 10
def portMACSEL : Nat := 12
def portIA : Nat := 14
def portIR : Nat := 15
def portREP : Nat := 17
def portOSEL : Nat := 20
def portOPOS : Nat := 21
def portIDXSEL : Nat := 23
def portIDXPOS : Nat := 24
def portIDX : Nat := 25

/-- A lane of an accumulator. -/
def Bank.lane (b : Bank) (a l : Nat) : Nat := (Map.get 0 b.acc (8 * a + l)).toNat
def Bank.setLane (b : Bank) (a l v : Nat) : Bank := { b with acc := Map.set 0 b.acc (8 * a + l) (BitVec.ofNat 32 v) }

/-- What a move works on: the vault and bank, its command and bank engine, and the fabric address of its move word. -/
structure MoveCtx where
  v : Nat
  b : Nat
  run : BankRun
  bank : Bank
  at_ : Nat
deriving DecidableEq, Repr

/-- What a move does: the state, the command and the bank engine after it, and where the program goes if it jumps. -/
abbrev MoveRes := Got (State × BankRun × Bank × Option Nat)

/-- A move that fails at its move word (R301). -/
def MoveCtx.fail {α : Type} (m : MoveCtx) (cause : Nat) : Got α := .bad cause m.at_

/-- A read of a source port: its value and the flags that forming it raises. -/
def MoveCtx.read (m : MoveCtx) (src imm : Nat) : Got (Nat × Nat) :=
  if src = 0 then .ok (0, 0)
  else if src = 1 then .ok (imm, 0)
  else if src = 2 then .ok (cmdOp m.run.cmd.cmd 4 % 2 ^ 32, 0)
  else if src = 3 then .ok (cmdOp m.run.cmd.cmd 4 / 2 ^ 32, 0)
  else if src = 4 then .ok (m.b, 0)
  else if src = 8 then (bankSlot m.v m.run (m.bank.port portRBSEL)).bind (fun d => .ok ((d.share m.b).2, 0))
  else if src = 16 then .ok (m.bank.port portIR, 0)
  else if [5, 6, 7, 9, 10, 12, 14, 15, 17, 20, 21, 23, 24, 25].contains src then .ok (m.bank.port src, 0)
  else if 32 ≤ src ∧ src < 40 then
    let r := treeReduce addF32 3 ((List.range 8).map (fun l => some (m.bank.lane (src - 32) l)))
    .ok (r.1.getD 0, r.2)
  else m.fail causeILL

/-! ## Moves -/

/-- Changes the command that is running on a vault. -/
def State.setRun (s : State) (v : Nat) (r : BankRun) : State :=
  s.modVault v (fun q => { q with runs := q.runs.map (fun e => if some e.1 = q.serving then (e.1, r) else e) })

/-- Whether every bank has halted. -/
def BankRun.over (r : BankRun) : Bool := (List.range 128).all (fun b => (Map.get {} r.banks b).halted)

/-- Stores what a move did: its repetitions, and then the next word, unless the program has jumped. Past the last word the
engine halts. The sequencer is told when the command is over. -/
def State.moveDone (s : State) (m : MoveCtx) (rep flags : Nat) (r : BankRun) (b : Bank) (jump : Option Nat) : State :=
  let left := (m.bank.rep).getD rep
  let b1 := match jump with
    | some t => { b with pc := t, rep := none }
    | none => if left = 0 then { b with pc := b.pc + 1, rep := none } else { b with rep := some (left - 1) }
  let b2 := { b1 with halted := b1.halted || decide (r.prog.length ≤ b1.pc) }
  let r1 := { r with banks := Map.set {} r.banks m.b b2, flags := orF r.flags flags }
  let s1 := s.setRun m.v r1
  if r1.over then s1.send (.bkrunCommand m.v) else s1

/-- A bank move: the source is read, then the destination's effect happens (R222). A bank that faults stops the command; a
word that is not at hand is waited for. -/
def bankMove (f : MoveCtx → State → Nat → MoveRes) (s : State) : Out :=
  let v := s.hand.vault
  let b := s.hand.bank
  match (s.vault v).running with
  | none => .next s
  | some r =>
    let bank := Map.get {} r.banks b
    let m : MoveCtx := ⟨v, b, r, bank, r.fas.getD bank.pc 0⟩
    let w := moveFields s.hand.move
    let res : Got (State × BankRun × Bank × Option Nat × Nat) :=
      if w.imm ≠ 0 ∧ w.src ≠ 1 then m.fail causeILL
      else (m.read w.src w.imm).bind (fun x => (f m s x.1).bind (fun q => .ok (q.1, q.2.1, q.2.2.1, q.2.2.2, x.2)))
    match res with
    | .ok q => .next (q.1.moveDone m w.rep q.2.2.2.2 q.2.1 q.2.2.1 q.2.2.2.1)
    | .bad c d => .next ((s.setRun v { r with fail := some (if c = causePOISON then 4 else 3, faultValue c d) }).send (.bkrunCommand v))
    | _ => .next s

/-- A move that only changes its bank engine. -/
def bankOnly (f : MoveCtx → Nat → Got Bank) : MoveCtx → State → Nat → MoveRes :=
  fun m s x => (f m x).bind (fun b => .ok (s, m.run, b, none))

/-- RBFETCH: the next piece of the share, or the end. -/
def execRbfetch (s : State) : Out :=
  bankMove (fun m s _ =>
    let k := m.bank.port portRBSEL
    (bankSlot m.v m.run k).bind (fun d =>
      let sh := d.share m.b
      let pos := m.bank.port portRBPOS
      if sh.2 ≤ pos then .ok (s, m.run, { m.bank with halted := true }, none)
      else
        let w := tfmtBits d.fmt
        let l := (((sh.1 + 128 * pos) * 2048 : Nat) - (d.base : Int)) * 8 / (w : Int)
        (s.bankElems (bankEye m.v m.run) d l (2048 * 8 / w)).bind (fun es =>
          let b := { m.bank with row := es.1, rowPoison := es.2, rowSlot := k, rowFirst := l }
          .ok (s, m.run, (b.setPort portRBPOS (pos + 1)).setPort portRBIDX (l % 2 ^ 32).toNat, none)))) s

/-- IVLOAD: the first elements of a slot. EXT is taken as the number of the tensor's elements, the product of its extents (log entry
88). -/
def execIvload (s : State) : Out :=
  bankMove (fun m s x =>
    if 3 < x then m.fail causeILL
    else (bankSlot m.v m.run x).bind (fun d =>
      (s.bankElems (bankEye m.v m.run) d 0 (min d.count 2048)).bind (fun es =>
        .ok (s, m.run, { m.bank with ivb := es.1, ivPoison := es.2, ivSlot := x }, none)))) s

/-- Whether MAC takes operands of a format. -/
def macFmt (f : Nat) : Bool := f == 1 || f == 3 || f == 4 || f == 5

/-- The address of an element, as a bank engine reports it. -/
def State.bankAddr (s : State) (d : Desc) (l : Int) : Nat := vaultFa s.cube (d.elemAddr l)

/-- One lane of MAC: value and flags (R223); a NaN factor and 0 × ∞ are invalid, as R55 settles them. -/
def macLane (acc : Nat) (x y : FV) : Nat × Nat :=
  let r := finishF .f32 .ne 0 (fmaFV .ne x y (decodeF .f32 acc))
  (r.1, orF r.2 (if x.isNan || y.isNan then flNV else 0))

/-- MAC. -/
def execMac (s : State) : Out :=
  bankMove (fun m s _ =>
    let b := m.bank
    let xo := b.port portXOFF
    let yo := b.port portYOFF
    if b.row.length < xo + 8 ∨ b.ivb.length < yo + 8 then m.fail causePROT
    else
      (bankSlot m.v m.run b.rowSlot).bind (fun dx =>
      (bankSlot m.v m.run b.ivSlot).bind (fun dy =>
        if !macFmt dx.fmt || !macFmt dy.fmt then m.fail causeFMT
        else
          let bad := (List.range 8).findSome? (fun l =>
            if b.rowPoison.contains (xo + l) then some (s.bankAddr dx (b.rowFirst + (xo + l : Nat)))
            else if b.ivPoison.contains (yo + l) then some (s.bankAddr dy ((yo + l : Nat) : Int)) else none)
          match bad with
          | some a => .bad causePOISON a
          | none =>
            let a := b.port portMACSEL
            let ls := (List.range 8).map (fun l => macLane (b.lane a l) (bankValue dx.fmt (b.row.getD (xo + l) (0, 0, 0)))
              (bankValue dy.fmt (b.ivb.getD (yo + l) (0, 0, 0))))
            let b1 := ls.zipIdx.foldl (fun b e => b.setLane a e.2 e.1.1) b
            let r1 := { m.run with flags := ls.foldl (fun f e => orF f e.2) m.run.flags }
            .ok (s, r1, (b1.setPort portXOFF (xo + 8)).setPort portYOFF (yo + 8), none)))) s

/-- IADD. -/
def execIadd (s : State) : Out :=
  bankMove (bankOnly (fun m x => .ok (m.bank.setPort portIR (m.bank.port portIA + x)))) s
/-- ISHR. -/
def execIshr (s : State) : Out :=
  bankMove (bankOnly (fun m x => .ok (m.bank.setPort portIR (m.bank.port portIA / 2 ^ (x % 32))))) s

/-- A jump's target. -/
def MoveCtx.target (m : MoveCtx) (x : Nat) : Got Nat := if x < m.run.prog.length then .ok x else m.fail causeILL

/-- LOOP. -/
def execLoop (s : State) : Out :=
  bankMove (fun m s x =>
    let n := m.bank.port portREP
    if n = 0 then .ok (s, m.run, m.bank, none)
    else (m.target x).bind (fun t => .ok (s, m.run, m.bank.setPort portREP (n - 1), some t))) s
/-- JUMP. -/
def execJump (s : State) : Out := bankMove (fun m s x => (m.target x).bind (fun t => .ok (s, m.run, m.bank, some t))) s
/-- HALT. -/
def execHalt (s : State) : Out := bankMove (bankOnly (fun m _ => .ok { m.bank with halted := true })) s

/-- OUT: one element of the output tensor. -/
def execOut (s : State) : Out :=
  bankMove (fun m s x =>
    let k := m.bank.port portOSEL
    let r := { m.run with osels := m.run.osels.add k }
    (bankSlot m.v r k).bind (fun d =>
      if 2 < d.fmt then m.fail causeFMT
      else
        let pos := m.bank.port portOPOS
        if d.count ≤ pos then m.fail causePROT
        else
          let f := (tfmtFloat d.fmt).getD .f32
          let c := if d.fmt = 0 then (x, 0) else cvtFF f .f32 .ne false 0 x
          let y := bankEye m.v r
          (s.engPlace y true (d.elemAddr pos) .w).bind (fun p =>
            let i := s.freshId
            let s1 := (i.2.modEng m.v (fun e => { e with writesOut := e.writesOut ++ [i.1] })).send
              (.write ⟨i.1, .engine m.v, m.v, p.2.1, p.2.2, bytesOf (f.width / 8) c.1, [], 0, 3, bankCounter, 0, 0, y.ptag⟩)
            let ch := match d.chunkOf pos with | some ch => [(k, ch)] | none => []
            let r1 := { r with outs := r.outs + 1, flags := orF r.flags c.2, waits := r.waits ++ [i.1]
                               wrote := r.wrote ++ ch.filter (fun e => !r.wrote.contains e) }
            .ok (s1, r1, m.bank.setPort portOPOS (pos + 1), none)))) s

/-- IDXFETCH: the next index. -/
def execIdxfetch (s : State) : Out :=
  bankMove (fun m s _ =>
    (bankSlot m.v m.run (m.bank.port portIDXSEL)).bind (fun d =>
      if d.fmt ≠ 11 then m.fail causeFMT
      else
        let pos := m.bank.port portIDXPOS
        if d.count ≤ pos then m.fail causePROT
        else (s.engField (bankEye m.v m.run) true (d.elemAddr pos) 4).bind (fun x =>
          .ok (s, m.run, (m.bank.setPort portIDX x).setPort portIDXPOS (pos + 1), none)))) s

/-- ROWGET: row IDX of a slot. -/
def execRowget (s : State) : Out :=
  bankMove (fun m s x =>
    if 3 < x then m.fail causeILL
    else (bankSlot m.v m.run x).bind (fun d =>
      let ix := m.bank.port portIDX
      let n := d.extent 0
      if d.extent 1 ≤ ix ∨ 2048 < (n * tfmtBits d.fmt + 7) / 8 then m.fail causePROT
      else (s.bankElems (bankEye m.v m.run) d ((ix * n : Nat) : Int) n).bind (fun es =>
        let b := { m.bank with row := es.1, rowPoison := es.2, rowSlot := x, rowFirst := ((ix * n : Nat) : Int) }
        .ok (s, m.run, b.setPort portRBIDX (ix * n), none)))) s

/-- A write of an accumulator: lane 0, the others +0. -/
def execBankAccWrite (s : State) : Out :=
  let a := moveDest s.hand.move - 32
  bankMove (bankOnly (fun m x => .ok ((List.range 7).foldl (fun b l => b.setLane a (l + 1) 0) (m.bank.setLane a 0 x)))) s

/-- A write of a register or counter; NULL ignores it; a port that cannot be written fails (R221, R222). -/
def execBankPortWrite (s : State) : Out :=
  let p := moveDest s.hand.move
  bankMove (bankOnly (fun m x =>
    if p = 0 then .ok m.bank
    else if p = portRBSEL ∨ p = portOSEL ∨ p = portIDXSEL then (if 3 < x then m.fail causeILL else .ok (m.bank.setPort p x))
    else if p = portMACSEL then (if 7 < x then m.fail causeILL else .ok (m.bank.setPort p x))
    else if [6, 9, 10, 14, 17, 21, 24].contains p then .ok (m.bank.setPort p x)
    else m.fail causeILL)) s

/-- The move word at which a bank engine of a vault stands; none where it does not run. -/
def bankWord (s : State) (v b : Nat) : Option Nat :=
  match (s.vault v).running with
  | none => none
  | some r => let k := Map.get {} r.banks b; if k.halted then none else r.prog[k.pc]?

/-- Vault 0 running a program of one move word; its bank 0 has the next turn (log entry 13). -/
def State.placeMove (s : State) (w : Nat) : State :=
  let c : CmdMsg := ⟨⟨0, false, 0, 0x0200, [], 0, 0⟩, 2, 0, s.cube, .cube, 0, none⟩
  let run : BankRun := ⟨c, [w], [0], [none, none, none, none], [], 0, 0, [], [], [], none⟩
  { s.modVault 0 (fun q => { q with queues := Map.set [] q.queues 0 [c], runs := [(0, run)], serving := some 0 }) with
    turns := [⟨.bank 0 0, 0⟩] }

/-! ## The vault sequencer (R225) -/

/-- The queue that is served after another: by ascending parcel tag, in turn. -/
def Vault.nextQueue (q : Vault) (after : Nat) : Option Nat :=
  let ks := (q.queues.filter (fun e => !e.2.isEmpty)).map (fun e => e.1)
  (ks.find? (fun k => decide (after < k))).or ks.head?

/-- 20 µs in datum ticks. -/
def quantumTicks : Nat := 20000

/-- A vault turns to a parcel's queue for its quantum. -/
def State.turnTo (s : State) (v p : Nat) : State :=
  let due := s.datum + quantumTicks * Map.get 1 (s.vault v).weights p
  ((s.modVault v (fun q => { q with serving := some p, quantum := due })).schedule due (.bankQuantumExpiry v)).send (.bkrunCommand v)

/-- A bank command is over: its bitmap, its entry, the next command. -/
def State.endBank (s : State) (v p : Nat) (r : BankRun) : State :=
  let eng := (s.stn v).eng
  let bad := eng.wroteBad.filter (fun e => r.waits.contains e.1)
  let out : Option (Nat × Word) := r.fail.or (match bad with | e :: _ => some (4, faultValue causePOISON e.2) | [] => none)
  let s1 := (s.modEng v (fun e => { e with wroteBad := e.wroteBad.filter (fun x => !r.waits.contains x.1) })).engDone v 2
  let n := (Map.get [] (s.vault v).queues p).length
  let s2 := s1.modVault v (fun q => { q with queues := Map.set [] q.queues p ((Map.get [] q.queues p).drop 1)
                                             runs := q.runs.filter (fun e => e.1 != p) })
  let s3 := (s2.inboxFreed v 2 n).send (.bkrunCommand v)
  let named := (List.range 4).filter (fun k => r.osels.has k || (List.range 128).any (fun b => (Map.get {} r.banks b).port portOSEL == k))
  let chunks := (named.map (fun k => slotChunks (r.slots.getD k none))).flatten
  let masks := match out with | none => chunkMasks ((r.wrote.map (fun e => e.2)).eraseDups) | some _ => brokenMasks chunks
  let b := s3.bitmapMsgs v true r.cmd.cmd.ptag (cmdOp r.cmd.cmd 3) masks
  let res := out.getD (0, w64 (r.outs - bad.length))
  b.2.finishCmd v r.cmd b.1 res.1 r.flags res.2

/-- A bank command starts on every bank: its program, its slots' entries and the shapes of those that are ragged are read (R203, log
entry 87), and the home slices write back the dirty home words of its tensors (R141). -/
def State.startBank (s : State) (v p : Nat) (c : CmdMsg) : State :=
  let y : Eye := ⟨v, 2, c.cmd.ptag⟩
  let a := bitsOf (cmdOp c.cmd 0) 47 0
  let n := bitsOf (cmdOp c.cmd 0) 55 48 + 1
  let run : BankRun := ⟨c, [], [], (List.range 4).map (fun k => s.tensor c.cmd.ptag (slotId c.cmd k)), [], 0, 0, [], [], [], none⟩
  let fail := fun (cause d : Nat) =>
    s.endBank v p { run with fail := some (if cause = causePOISON then 4 else 3, faultValue cause d) }
  if a % 4 ≠ 0 then fail causeALIGN a
  else
    let prog := Got.all (fun i => (s.engFa y false (a + 4 * i) .r).bind (fun f =>
      (s.engField y false (a + 4 * i) 4).bind (fun w => .ok (w, f.1)))) (List.range n)
    let shapes := Got.all (fun d => s.engShape y d) (run.slots.filterMap id)
    s.engineGot y (.bkrunCommand v) (Got.both prog shapes (fun ws _ => ws)) (fun ws =>
      let ds := run.slots.filterMap (fun d => d.filter (fun d => d.inVault v))
      let pick := fun (bw : Nat) => ds.any (fun d =>
        decide (vaultFa s.cube d.base / 16 ≤ bw ∧ bw * 16 < vaultFa s.cube d.base + d.byteLen))
      ((s.evictHomes pick false).engDone v 2).modVault v (fun q =>
        { q with runs := q.runs ++ [(p, { run with prog := ws.map (fun w => w.1), fas := ws.map (fun w => w.2) })] })) fail

/-- BKRUN_COMMAND: the sequencer of a vault serves its queues. -/
def execBkrunCommand (s : State) : Out :=
  match s.hand.msg with
  | .bkrunCommand v =>
    let q := s.vault v
    match q.serving with
    | none => match q.nextQueue 0 with
      | some p => .next (s.turnTo v p)
      | none => .next s
    | some p =>
      match Map.get [] q.queues p with
      | [] => match q.nextQueue p with
        | some p' => .next (s.turnTo v p')
        | none => .next (s.modVault v (fun q => { q with serving := none }))
      | c :: _ =>
        match (q.runs.find? (fun e => e.1 == p)).map (fun e => e.2) with
        | none => .next (s.startBank v p c)
        | some r =>
          if r.fail.isNone && !r.over then .next s
          else if r.waits.any (fun i => (s.stn v).eng.writesOut.contains i) then .next (s.requeue s.hand.msg)
          else .next (s.endBank v p r)
  | _ => .next s

/-- BANK_QUANTUM_EXPIRY: every bank stops at a move boundary, its state stays, and the next queue is served. -/
def execBankQuantumExpiry (s : State) : Out :=
  match s.hand.msg with
  | .bankQuantumExpiry v =>
    let q := s.vault v
    match q.serving with
    | none => .next s
    | some p =>
      if s.datum < q.quantum then .next s
      else match q.nextQueue p with
        | some p' => .next (s.turnTo v p')
        | none => .next (s.modVault v (fun q => { q with serving := none }))
  | _ => .next s

end Sys2Proof.Machine
end

