-- ==== Sys2Proof/Machine/Atomic.lean ====
section
/-! DEFINITION. Atomics (R156) and arrival on an obituary counter (R23). -/

namespace Sys2Proof.Machine

/-- R23: a 64-bit add to the address that OBITCTR translates to marks the task's record arrived. -/
def Exec.noteArrival (fa : Nat) : Exec Unit := do
  let s ← get
  let c := s.cur
  let l := s.hand.at_
  match c.task with
  | none => pure ()
  | some t =>
    if t.body.obitctr != 0 && !c.sup then
      match s.translate c.flow.rbuf l.stn (s.ptagAt l.stn) t.body.obitctr .any with
      | .ok r => if r.1 = fa then Exec.modCtx (fun c => { c with task := some { t with body := { t.body with arrived := true } } })
      | .need as => Exec.got (.need as)
      | .hold => Exec.stall
      | .bad _ _ => pure ()

/-- The number that ORDER gives an atomic's request (R299). -/
def atomOrder : Sys2Proof.Order → Nat
  | .plain => 0 | .sg => 0 | .acq => 1 | .rel => 2 | .ar => 3

/-- An atomic of operation number `op`: `extra` is its second operand, read from the registers `more`. One without a
destination is posted where its home is remote; at a home of its own station its poison traps precisely (R152), and it
stalls until it is answered. -/
def atomicOp (o : AtomOps) (op : Nat) (more : List Nat) (extra : Ctx → Word) (s : State) : Out :=
  runSelf (do
    Exec.need (o.b :: o.c :: more)
    Exec.winPriv o.q.win
    Exec.waitWC o.q.wc
    Exec.afterAcquire
    let c ← Exec.ctx
    let ea := (c.readG o.b).toNat
    let n := if o.w32 then 4 else 8
    let ps ← Exec.access o.q.win .rw true ea n
    match ps with
    | p :: _ =>
      Exec.afterSame [bwOf p.fa]
      Exec.afterLocal ps
      Exec.afterStrong
      let ord := atomOrder o.q.order
      if Order.isRel o.q.order then Exec.beforeRelease o.q.scope
      Exec.cleanChunk p.fa
      if !o.w32 && (op == 0 || op == 10) then Exec.noteArrival p.fa
      let s ← get
      let l := s.hand.at_
      let r := s.freshId
      let q := if AtomOrd.rel ord then r.2.nextRel l.stn else (0, r.2)
      let k := if o.a = 0 then s.counterFor l.stn p.pl else 0
      let a : AtomReq := ⟨r.1, .task l c.tid, l.stn, p.fa, ea, op, o.w32, (c.readG o.c).toNat % 2 ^ (8 * n),
        (extra c).toNat % 2 ^ (8 * n), ord, if ord = 0 then 0 else scopeNum o.q.scope, o.a, k, (s.stn l.stn).slice.sig,
        q.1, p.pl.ptag⟩
      if o.a = 0 && s.isLocal l.stn p.pl then
        set ((q.2.send (.atomic a)).modCtx l (fun c =>
          { c with flow := { c.flow with waitOn := some r.1, waitWords := s.hand.words } }))
      else
        set ((q.2.send (.atomic a)).modCtx l (fun c => c.addCount k true))
        Exec.launch ⟨.atomic (if o.a = 0 then none else some (c.phys o.a)) k, [⟨r.1, p.fa, ea, 8, [], false⟩], true,
          AtomOrd.acq ord, if o.a = 0 then [] else [c.phys o.a], [], s.datum⟩
        modify State.retire
    | [] => modify State.retire) s

def execAadd (o : AtomOps) (s : State) : Out := atomicOp o 0 [] (fun _ => 0) s
def execAand (o : AtomOps) (s : State) : Out := atomicOp o 1 [] (fun _ => 0) s
def execAor (o : AtomOps) (s : State) : Out := atomicOp o 2 [] (fun _ => 0) s
def execAxor (o : AtomOps) (s : State) : Out := atomicOp o 3 [] (fun _ => 0) s
def execAminI (o : AtomOps) (s : State) : Out := atomicOp o 4 [] (fun _ => 0) s
def execAminN (o : AtomOps) (s : State) : Out := atomicOp o 5 [] (fun _ => 0) s
def execAmaxI (o : AtomOps) (s : State) : Out := atomicOp o 6 [] (fun _ => 0) s
def execAmaxN (o : AtomOps) (s : State) : Out := atomicOp o 7 [] (fun _ => 0) s
def execAswap (o : AtomOps) (s : State) : Out := atomicOp o 8 [] (fun _ => 0) s
def execAcas (o : AtomOps) (s : State) : Out := atomicOp o 9 [o.a] (fun c => c.readG o.a) s
def execAaddt (o : AtomOps) (s : State) : Out := atomicOp o 10 [o.c + 1] (fun c => c.readG (o.c + 1)) s
def execAfaddF32 (o : AtomOps) (s : State) : Out := atomicOp o 11 [] (fun _ => 0) s
def execAfmaxnF32 (o : AtomOps) (s : State) : Out := atomicOp o 12 [] (fun _ => 0) s

end Sys2Proof.Machine
end

