-- ==== Sys2Proof/Machine/Branch.lean ====
section
/-! DEFINITION. Branches, jumps and calls (R95, R96). -/

namespace Sys2Proof.Machine

/-- A conditional branch. -/
def branch (o : BrOps) (f : Word → Word → Bool) (s : State) : Out :=
  scalarTo [o.a, o.b] (fun c => c)
    (fun c => if f (c.readG o.a) (c.readG o.b) then relTarget c.pc o.off else s.nextOf) s

def execBeq (o : BrOps) (s : State) : Out := branch o (fun a b => a == b) s
def execBne (o : BrOps) (s : State) : Out := branch o (fun a b => a != b) s
def execBlt (o : BrOps) (s : State) : Out := branch o (fun a b => decide (a.toInt < b.toInt)) s
def execBge (o : BrOps) (s : State) : Out := branch o (fun a b => decide (b.toInt ≤ a.toInt)) s
def execBltN64 (o : BrOps) (s : State) : Out := branch o (fun a b => decide (a.toNat < b.toNat)) s
def execBgeN64 (o : BrOps) (s : State) : Out := branch o (fun a b => decide (b.toNat ≤ a.toNat)) s

/-- The link register (R76, R96). -/
def linkReg : Nat := 63

def execJmp (off : Int) (s : State) : Out := scalarTo [] (fun c => c) (fun c => relTarget c.pc off) s
def execCall (off : Int) (s : State) : Out :=
  scalarTo [] (fun c => c.writeG linkReg (w64 s.nextOf)) (fun c => relTarget c.pc off) s

/-- R96: the checks of a register target, made in order, and the jump; `link` writes g63 first. -/
def jumpReg (r : Nat) (link : Bool) (s : State) : Out :=
  if s.cur.owed r then .next s
  else
    let t := (s.cur.readG r).toNat
    if 2 ^ 48 ≤ t then .next (s.trap causePROT (w64 t))
    else if t % 2 = 1 then .next (s.trap causeALIGN (w64 t))
    else scalarTo [] (fun c => if link then c.writeG linkReg (w64 s.nextOf) else c) (fun _ => t) s

def execJr (a : Nat) (s : State) : Out := jumpReg a false s
def execCallr (a : Nat) (s : State) : Out := jumpReg a true s
def execRet (s : State) : Out := jumpReg linkReg false s

end Sys2Proof.Machine
end

