-- ==== Sys2Proof/Machine/Copy.lean ====
section
/-! DEFINITION. The copy engine: chains of transfer records, copies and gathers, their bitmaps and OWN bits (R226 to R229). -/

namespace Sys2Proof.Machine

/-! ## Transfer records (R226) -/

/-- A record's doubleword. -/
def recDw (img : List Byte) (i : Nat) : Nat := natOf ((img.drop (8 * i)).take 8)
def xFence (img : List Byte) : Bool := bitAt (recDw img 0) 63
def xDlin (img : List Byte) : Bool := bitAt (recDw img 0) 62
def xSlin (img : List Byte) : Bool := bitAt (recDw img 0) 61
def xRank (img : List Byte) : Nat := bitsOf (recDw img 0) 60 56
def xEsize (img : List Byte) : Nat := bitsOf (recDw img 0) 55 52
def xKind (img : List Byte) : Nat := bitsOf (recDw img 0) 51 49
def xOwn (img : List Byte) : Bool := bitAt (recDw img 0) 48
def xNext (img : List Byte) : Nat := bitsOf (recDw img 0) 47 0
def xBmap (img : List Byte) : Nat := bitsOf (recDw img 1) 47 0
def xSrc (img : List Byte) : Nat := recDw img 2
def xDst (img : List Byte) : Nat := recDw img 3
/-- EXT d. -/
def xExt (img : List Byte) (d : Nat) : Nat := natOf ((img.drop (32 + 4 * d)).take 4)
/-- The 40-bit signed strides in bytes. -/
def xSstr (img : List Byte) (d : Nat) : Int := signed 40 (natOf ((img.drop (96 + 5 * d)).take 5))
def xDstr (img : List Byte) (d : Nat) : Int := signed 40 (natOf ((img.drop (176 + 5 * d)).take 5))
/-- The address of a gather's index list: a virtual address whatever SLIN holds, which speaks of source addresses (log entry 89). -/
def xIdx (img : List Byte) : Nat := recDw img 6

/-- R226, R228: whether no field breaks the record's layout. -/
def xferOk (img : List Byte) : Bool :=
  let above := fun (n : Nat) => (List.range 16).all (fun d => decide (d < n) || (xSstr img d == 0 && xDstr img d == 0))
  bitsOf (recDw img 1) 63 48 == 0 && decide (xEsize img ≤ 4) && xNext img % 256 == 0 && xBmap img % 8 == 0 &&
  (if xKind img = 0 then
     decide (1 ≤ xRank img ∧ xRank img ≤ 16) && above (xRank img) &&
       (List.range 16).all (fun d => decide (d < xRank img) || xExt img d == 0)
   else xKind img == 1 && xRank img == 2 && above 2 && xExt img 3 == 0 &&
       (List.range 16).all (fun d => decide (d < 6) || xExt img d == 0))

/-- The element size. -/
def xSize (img : List Byte) : Nat := 2 ^ xEsize img
/-- The number of elements that a record moves. -/
def xTotal (img : List Byte) : Nat :=
  if xKind img = 1 then xExt img 0 * xExt img 1 else (List.range (min (xRank img) 16)).foldl (fun n d => n * xExt img d) 1
/-- The chunks of its destination. -/
def xChunks (img : List Byte) : Nat := (xTotal img * xSize img + 511) / 512

/-- The offset of element `n` under strides, dimension 0 fastest (R227). -/
def elemOff (img : List Byte) (str : Nat → Int) (n : Nat) : Int :=
  ((List.range (xRank img)).foldl (fun (r : Nat × Int) d =>
    (r.1 / xExt img d, r.2 + (r.1 % xExt img d : Nat) * str d)) (n, 0)).2

/-- Source and destination of element `n` of a copy. -/
def copyAddrs (img : List Byte) (n : Nat) : Nat × Nat :=
  (addrAt (xSrc img) (elemOff img (xSstr img) n), addrAt (xDst img) (elemOff img (xDstr img) n))
/-- Source and destination of element `e` of row `i` of a gather with index `x` (R228). -/
def gatherAddrs (img : List Byte) (i x e : Nat) : Nat × Nat :=
  (addrAt (xSrc img) ((x : Int) * xSstr img 1 + (e : Int) * xSstr img 0),
   addrAt (xDst img) ((i : Int) * xDstr img 1 + (e : Int) * xDstr img 0))

/-! ## The chain in hand -/

def State.copyEng (s : State) (stn : Nat) : Copy := (s.stn stn).eng.copy
def State.modCopy (s : State) (stn : Nat) (f : Copy → Copy) : State := s.modEng stn (fun e => { e with copy := f e.copy })
def State.modChain (s : State) (stn : Nat) (f : Chain → Chain) : State := s.modCopy stn (fun c => { c with chain := c.chain.map f })
/-- Changes a record under way. -/
def State.modXfer (s : State) (stn addr : Nat) (f : Xfer → Xfer) : State :=
  s.modChain stn (fun c => { c with active := c.active.map (fun x => if x.addr = addr ∧ x.phase ≠ 4 then f x else x) })

/-- The first failure of a chain counts; the walk is over. -/
def State.chainFail (s : State) (stn status : Nat) (v : Word) : State :=
  s.modChain stn (fun c => { c with ended := true, fail := c.fail.or (some (status, v)) })
/-- A record fails (R229). -/
def State.xferFail (s : State) (stn addr status : Nat) (v : Word) : State :=
  (s.chainFail stn status v).modXfer stn addr (fun x => { x with phase := 3 })
/-- Poison that a record met (R229). -/
def State.chainPoison (s : State) (stn a : Nat) : State :=
  s.modChain stn (fun c => if c.fail.isSome then c else { c with poison := c.poison.or (some (faultValue causePOISON a)) })
/-- The status of a cause (R301). -/
def causeStatus (cause : Nat) : Nat := if cause = causePOISON then 4 else 3

/-! ## Moving elements (R227) -/

/-- The parts of an element at its destination, each within a block word: fabric address, address as used, bytes. -/
def State.dstParts (s : State) (y : Eye) (lin : Bool) (a : Nat) (bs : List (Byte × Bool)) : Got (List (Nat × Nat × List (Byte × Bool))) :=
  let n := min bs.length (16 - a % 16)
  (s.engPlace y lin a .w).bind (fun p =>
    if n = bs.length then .ok [(p.2.1, p.2.2, bs)]
    else (s.engPlace y lin (addrAt a n) .w).bind (fun q => .ok [(p.2.1, p.2.2, bs.take n), (q.2.1, q.2.2, bs.drop n)]))

/-- The bytes of storage that an address range names, as far as it can be resolved. -/
def State.footBytes (s : State) (y : Eye) (lin : Bool) (a n : Nat) : Got (List Nat) :=
  (Got.all (fun (i : Nat) => match s.engPlace y lin (addrAt a i) .any with
    | .ok p => .ok [p.1.canon]
    | .bad _ _ => .ok []
    | .need l => .need l
    | .hold => .hold) (List.range n)).bind (fun xs => .ok xs.flatten)

/-- The addresses of a record's elements; a gather's indices are read as they stand. -/
def State.xferAddrs (s : State) (y : Eye) (img : List Byte) : Got (List (Nat × Nat)) :=
  if xKind img = 0 then .ok ((List.range (xTotal img)).map (copyAddrs img))
  else (Got.all (fun i => match s.engClean y false (xIdx img + 4 * i) 4 with
    | .ok b => .ok ((List.range (xExt img 0)).map (gatherAddrs img i (natOf b)))
    | .bad _ _ => .ok []
    | .need l => .need l
    | .hold => .hold) (List.range (xExt img 1))).bind (fun xs => .ok xs.flatten)

/-- The bytes that a record reads, and those that it writes. -/
def State.footprint (s : State) (y : Eye) (img : List Byte) (dst : Bool) : Got (List Nat) :=
  (s.xferAddrs y img).bind (fun as =>
  (Got.all (fun (e : Nat × Nat) => if dst then s.footBytes y (xDlin img) e.2 (xSize img) else s.footBytes y (xSlin img) e.1 (xSize img)) as).bind
    (fun xs => .ok xs.flatten))

/-- Bytes of a chain's records that are read and written without a FENCE between: their values are undefined (R227). -/
def State.overlaps (s : State) (y : Eye) (imgs : List (List Byte)) : Got (List Nat) :=
  (Got.all (fun i => s.footprint y i false) imgs).bind (fun src =>
  (Got.all (fun i => s.footprint y i true) imgs).bind (fun dst =>
    let ss := src.flatten
    .ok (dst.flatten.filter (fun a => ss.contains a))))

/-- Undefined bytes (R2). -/
def State.freeBytes (s : State) (n : Nat) : List Byte × State :=
  ((List.range n).map (fun i => Config.freeByte (s.counts.free + i)),
   { s with counts := { s.counts with free := s.counts.free + n } })

/-- Writes one part of an element: bytes that overlap are undefined, and poison is carried to its block word (R132). -/
def State.writePart (s : State) (y : Eye) (addr : Nat) (open_ : List Nat) (p : Nat × Nat × List (Byte × Bool)) : State :=
  let canon := match s.place p.1 with | .ok pl => pl.canon | .error _ => p.1
  let f := s.freeBytes p.2.2.length
  let bs := (p.2.2.zip f.1).zipIdx.map (fun e => if open_.contains (canon + e.2) then e.1.2 else e.1.1.1)
  let bad := (p.2.2.zipIdx.filterMap (fun b => if b.1.2 then some (bwOf (p.1 + b.2)) else none)).eraseDups
  let w := f.2.engWrite y p.1 p.2.1 bs bad
  w.2.modXfer y.stn addr (fun x => { x with waits := x.waits ++ [w.1] })

/-- The first poisoned byte of an element is the chain's poison. -/
def State.sourcePoison (s : State) (y : Eye) (img : List Byte) (src : Nat) (bs : List (Byte × Bool)) : State :=
  match bs.findIdx? (fun b => b.2) with
  | some i => (match s.engFa y (xSlin img) (src + i) .r with | .ok f => s.chainPoison y.stn f.2 | _ => s)
  | none => s

/-- Moves a run of elements, the source and destination of each given, that follow one another at the destination: each is read
through the station's slice, and they are written at their home as one write (R299: one packet where it lies on another cube). -/
def State.moveRun (s : State) (y : Eye) (addr : Nat) (img : List Byte) (open_ : List Nat) (run : List (Nat × Nat)) : Got State :=
  (Got.all (fun (a : Nat × Nat) => s.engBytes y (xSlin img) 3 a.1 (xSize img)) run).bind (fun es =>
    let bs := es.flatten
    let dst := ((run.head?).map (fun a => a.2)).getD 0
    (if bs.length ≤ 16 then s.dstParts y (xDlin img) dst bs
     else (s.engPlace y (xDlin img) dst .w).bind (fun p => .ok [(p.2.1, p.2.2, bs)])).bind (fun ps =>
      let s1 := (run.zip es).foldl (fun st e => st.sourcePoison y img e.1.1 e.2) s
      .ok (ps.foldl (fun st p => st.writePart y addr open_ p) s1)))

/-- Elements cut into runs: within one run the destinations follow one another inside one aligned 256 bytes, so that a run lies in
one stripe (R267) and one write holds it (R299). -/
def copyRuns (size : Nat) : List (Nat × Nat) → List (List (Nat × Nat))
  | [] => []
  | a :: r =>
    match copyRuns size r with
    | (b :: q) :: qs => if b.2 = a.2 + size ∧ a.2 / 256 = (b.2 + size - 1) / 256 then (a :: b :: q) :: qs else [a] :: (b :: q) :: qs
    | qs => [a] :: qs

/-- The elements of a copy from number `n` on that one write may hold: those of its 512-byte chunk, 256 bytes at most. -/
def nextRun (img : List Byte) (n : Nat) : List (Nat × Nat) :=
  let size := xSize img
  let k := min (min (256 / size) ((512 - n * size % 512) / size)) (xTotal img - n)
  ((copyRuns size ((List.range k).map (fun i => copyAddrs img (n + i)))).head?).getD []

/-! ## Bitmaps and OWN -/

/-- Updates of bitmap doublewords at a virtual base, each an atomic OR at its home; one that cannot be made is logged
(R209). -/
def State.virtMasks (s : State) (y : Eye) (addr base : Nat) : List (Nat × Nat) → Got State
  | [] => .ok s
  | (d, m) :: r =>
    if base = 0 then .ok s
    else if base % 8 ≠ 0 then (s.logError y.ptag 6 (base + 8 * d) 1).virtMasks y addr base r
    else match s.engPlace y false (base + 8 * d) .rw with
    | .ok p =>
      let i := s.freshId
      let s1 := (i.2.modEng y.stn (fun e => { e with writesOut := e.writesOut ++ [i.1] })).send
        (.atomic ⟨i.1, .engine y.stn, y.stn, p.2.1, p.2.2, 2, false, m, 0, 0, 3, 0, 0, 0, 0, y.ptag⟩)
      (s1.modXfer y.stn addr (fun x => { x with tail := x.tail ++ [i.1] })).virtMasks y addr base r
    | .bad _ _ => (s.logError y.ptag 6 (base + 8 * d) 1).virtMasks y addr base r
    | .need l => .need l
    | .hold => .hold

/-- Whether none of some writes is still to be performed. -/
def State.landed (s : State) (stn : Nat) (ids : List Nat) : Bool := !ids.any (fun i => (s.stn stn).eng.writesOut.contains i)

/-- Poison that a record's writes met is the chain's (R152). -/
def State.takeBad (s : State) (stn : Nat) (ids : List Nat) : State :=
  let bad := (s.stn stn).eng.wroteBad.filter (fun e => ids.contains e.1)
  let s1 := s.modEng stn (fun e => { e with wroteBad := e.wroteBad.filter (fun x => !ids.contains x.1) })
  match bad with | e :: _ => s1.chainPoison stn e.2 | [] => s1

/-- A record's data writes have been performed: bits of the chunks that have landed are set. -/
def State.setBits (s : State) (y : Eye) (x : Xfer) : Got State :=
  let total := xTotal x.image
  let done := if x.next = total then xChunks x.image else x.next * xSize x.image / 512
  let s1 := (s.takeBad y.stn x.waits).modXfer y.stn x.addr (fun x => { x with waits := [], bits := done })
  s1.virtMasks y x.addr (xBmap x.image) (chunkMasks ((List.range done).filter (fun c => decide (x.bits ≤ c))))

/-- The images of the records that a chain has started since its last FENCE. -/
def Chain.images (c : Chain) : List (List Byte) := c.active.map (fun x => x.image)

/-- What an event of the copy engine does with reads that are not all at hand. -/
def State.copyGot (s : State) (y : Eye) (m : Msg) (x : Got State) (bad : Nat → Nat → State) : State :=
  s.engineGot y m x (fun t => t.engDone y.stn 1) bad

/-! ## One step of a record -/

/-- A record of a chain makes one step. -/
def State.xferStep (s : State) (y : Eye) (c : Chain) (x : Xfer) (msg : Msg) : State :=
  let stn := y.stn
  let img := x.image
  let fail := fun (cause d : Nat) => (s.xferFail stn x.addr (causeStatus cause) (faultValue cause d)).send msg
  let again := fun (t : State) => t.send msg
  if x.phase = 3 then
    if !s.landed stn x.waits then s.requeue msg
    else
      let masks := brokenMasks ((List.range (xChunks img)).filter (fun k => decide (x.bits ≤ k)))
      s.copyGot y msg (((s.takeBad stn x.waits).virtMasks y x.addr (xBmap img) masks).bind (fun t =>
        .ok (again (t.modXfer stn x.addr (fun x => { x with phase := 5 }))))) fail
  else if x.phase = 5 then
    if !s.landed stn x.tail then s.requeue msg else again (s.modXfer stn x.addr (fun x => { x with phase := 4 }))
  else if x.phase = 2 then
    if !s.landed stn x.tail then s.requeue msg
    else again ((s.modXfer stn x.addr (fun x => { x with phase := 4 })).modChain stn (fun c => { c with consumed := c.consumed + 1 }))
  else if x.phase = 1 then s.requeue msg
  else if x.next = xTotal img then
    if !s.landed stn x.waits then s.requeue msg
    else again ((s.modXfer stn x.addr (fun x => { x with phase := 1 })).send (.transferRecordComplete stn x.addr))
  else if xBmap img ≠ 0 ∧ x.next * xSize img % 512 = 0 ∧ x.bits < x.next * xSize img / 512 then
    if !s.landed stn x.waits then s.requeue msg
    else s.copyGot y msg ((s.setBits y x).bind (fun t => .ok (again t))) fail
  else if xKind img = 0 then
    s.copyGot y msg ((s.overlaps y c.images).bind (fun open_ =>
      let run := nextRun img x.next
      (s.moveRun y x.addr img open_ run).bind (fun t =>
        .ok (again (t.modXfer stn x.addr (fun x => { x with next := x.next + max 1 run.length })))))) fail
  else if x.rows.isEmpty then
    -- a batch of at most 4,096 indices is split
    let i0 := x.next / xExt img 0
    let n := min 4096 (xExt img 1 - i0)
    s.copyGot y msg ((Got.all (fun k => (s.engClean y false (xIdx img + 4 * (i0 + k)) 4).bind (fun b => .ok (i0 + k, natOf b)))
        (List.range n)).bind (fun rows =>
      match rows.find? (fun r => decide (xExt img 2 ≤ r.2)) with
      | some r => (s.engFa y false (xIdx img + 4 * r.1) .r).bind (fun f =>
          .ok (again (s.xferFail stn x.addr 3 (faultValue causePROT f.1))))
      | none => .ok (again ((s.modXfer stn x.addr (fun x => { x with rows := rows })).send (.gatherSublist stn x.addr i0))))) fail
  else s.requeue msg

/-- GATHER_SUBLIST: the rows of a batch that lie with one owner are read and written (R228). -/
def execGatherSublist (s : State) : Out :=
  match s.hand.msg with
  | .gatherSublist stn addr i0 =>
    match (s.copyEng stn).chain, (s.copyEng stn).inbox with
    | some c, k :: _ =>
      let y : Eye := ⟨stn, 1, k.cmd.ptag⟩
      match c.active.find? (fun x => x.addr == addr && x.phase == 0) with
      | none => .next s
      | some x =>
        let img := x.image
        let owner := fun (r : Nat × Nat) => match s.engPlace y (xSlin img) (gatherAddrs img r.1 r.2 0).1 .r with
          | .ok p => some (p.1.cube, p.1.stn)
          | _ => none
        match x.rows with
        | [] => .next s
        | r0 :: _ =>
          let mine := x.rows.filter (fun r => decide (r = r0) || (owner r == owner r0 && (owner r).isSome))
          let rest := x.rows.filter (fun r => !mine.contains r)
          let elems := (mine.map (fun r => (List.range (xExt img 0)).map (gatherAddrs img r.1 r.2))).flatten
          let moved := (s.overlaps y c.images).bind (fun open_ =>
            (copyRuns (xSize img) elems).foldl (fun (g : Got State) run => g.bind (fun t => t.moveRun y addr img open_ run)) (.ok s))
          .next (s.copyGot y s.hand.msg (moved.bind (fun t =>
            let u := t.modXfer stn addr (fun x => { x with
              rows := rest, next := if rest.isEmpty then (i0 + min 4096 (xExt img 1 - i0)) * xExt img 0 else x.next })
            .ok (if rest.isEmpty then u else u.send (.gatherSublist stn addr i0))))
            (fun cause d => s.xferFail stn addr (causeStatus cause) (faultValue cause d)))
    | _, _ => .next s
  | _ => .next s

/-- TRANSFER_RECORD_COMPLETE: every chunk has been performed: the remaining bits are set and OWN is cleared with a strong
store (R227). -/
def execTransferRecordComplete (s : State) : Out :=
  match s.hand.msg with
  | .transferRecordComplete stn addr =>
    match (s.copyEng stn).chain, (s.copyEng stn).inbox with
    | some c, k :: _ =>
      let y : Eye := ⟨stn, 1, k.cmd.ptag⟩
      match c.active.find? (fun x => x.addr == addr && x.phase == 1) with
      | none => .next s
      | some x =>
        .next (s.copyGot y s.hand.msg ((s.setBits y x).bind (fun t =>
          (t.engPlace y false x.rec_ .w).bind (fun p =>
            let i := t.freshId
            let w : WriteReq := ⟨i.1, .engine stn, stn, p.2.1, p.2.2, bytesOf 8 (recDw x.image 0 - 2 ^ 48), [], 1, 3, 0, 0, 0, y.ptag⟩
            .ok (((i.2.modEng stn (fun e => { e with writesOut := e.writesOut ++ [i.1] })).send (.write w)).modXfer stn addr
              (fun x => { x with tail := x.tail ++ [i.1], phase := 2 })))))
          (fun cause d => s.xferFail stn addr (causeStatus cause) (faultValue cause d)))
    | _, _ => .next s
  | _ => .next s

/-! ## The walk (R229) -/

/-- The chain is over: its entry, and the next chain. -/
def State.endChain (s : State) (stn : Nat) (c : Chain) : State :=
  match (s.copyEng stn).inbox with
  | [] => s
  | k :: rest =>
    let out : Nat × Word := match c.poison, c.fail with
      | some p, _ => (4, p)
      | none, some f => f
      | none, none => (0, w64 (c.rec_ % 2 ^ 48 + min c.consumed 65535 * 2 ^ 48))
    let s1 := (s.modCopy stn (fun e => { e with inbox := rest, chain := none })).engDone stn 1
    let s2 := s1.inboxFreed stn 1 (rest.length + 1)
    let s3 := if rest.isEmpty then s2 else s2.send (.cpchainCommand stn)
    s3.finishCmd stn k [] out.1 0 out.2

/-- One record is read, and started; a FENCE waits for the earlier ones, which move on meanwhile. -/
def State.walkStep (s : State) (y : Eye) (c : Chain) (moving : List Xfer) (msg : Msg) : State :=
  let stn := y.stn
  let stop := fun (t : State) => (t.modChain stn (fun c => { c with ended := true })).send msg
  let fail := fun (cause d : Nat) => (s.chainFail stn (causeStatus cause) (faultValue cause d)).send msg
  if c.rec_ = 0 then stop s
  else if c.rec_ % 256 ≠ 0 then fail causeALIGN c.rec_
  else
    s.copyGot y msg ((s.engClean y false c.rec_ 256).bind (fun img =>
      (s.engFa y false c.rec_ .r).bind (fun f =>
        let x : Xfer := ⟨c.rec_, f.1, img, 0, 0, [], [], [], 0⟩
        if !xOwn img then .ok (stop s)
        else if !xferOk img then
          .ok (((s.modChain stn (fun c => { c with active := c.active ++ [{ x with phase := 3 }] })).chainFail stn 3
            (faultValue causeILL f.1)).send msg)
        else if xFence img && c.active.any (fun x => x.phase != 4) then .ok (match moving with | x :: _ => s.xferStep y c x msg | [] => s.requeue msg)
        else
          let before := if xFence img then [] else c.active
          let s1 := s.modChain stn (fun c => { c with rec_ := xNext img, active := before ++ [x] })
          -- bytes that an earlier record wrote and this one reads, without a FENCE between, are undefined
          (Got.all (fun z => s.footprint y z true) (before.map (fun z => z.image))).bind (fun ds =>
          (s.footprint y img false).bind (fun src =>
            let hit := ds.flatten.filter (fun a => src.contains a)
            .ok ((hit.foldl (fun st a =>
              let b := st.freeBytes 1
              let w := b.2.engWrite y a a b.1 []
              w.2.modXfer stn x.addr (fun x => { x with waits := x.waits ++ [w.1] })) s1).send msg)))))) fail

/-- CPCHAIN_COMMAND: the chain at the inbox's head is walked; its records overlap in time. -/
def execCpchainCommand (s : State) : Out :=
  match s.hand.msg with
  | .cpchainCommand stn =>
    match (s.copyEng stn).inbox with
    | [] => .next s
    | k :: _ =>
      let y : Eye := ⟨stn, 1, k.cmd.ptag⟩
      let msg := s.hand.msg
      match (s.copyEng stn).chain with
      | none => .next ((s.modCopy stn (fun e => { e with chain := some ⟨cmdOp k.cmd 0, 0, none, none, false, []⟩ })).send msg)
      | some c =>
        let live := c.active.filter (fun x => x.phase != 4)
        let moving := live.filter (fun x => x.phase != 1 && ((x.phase != 2 && x.phase != 5) || s.landed stn x.tail))
        if !c.ended && decide (live.length < 2) then .next (s.walkStep y c moving msg)
        else match moving with
        | x :: _ => .next (s.xferStep y c x msg)
        | [] => if live.isEmpty then .next (s.endChain stn c) else .next (s.requeue msg)
  | _ => .next s

end Sys2Proof.Machine
end

