-- ==== Sys2Proof/Machine/Ports.lean ====
section
/-! DEFINITION. The Otpin ports: flits, the replay buffer, flow control, port states (R255 to R258), the choice of a port
(R261), and the adaptation of a link (R289). -/

namespace Sys2Proof.Machine

def State.port (s : State) (n : Nat) : Port := Map.get {} s.router.ports n
def State.modPort (s : State) (n : Nat) (f : Port → Port) : State :=
  { s with router := { s.router with ports := Map.set {} s.router.ports n (f (s.port n)) } }

/-- R257: whether the router sends packets through a port. -/
def Port.usable (p : Port) : Bool := p.st == .up || p.st == .half
/-- R258: whether the far end has stopped a class; the classes O, A, C, S from the highest bit down. -/
def Port.stopped (p : Port) (cls : Nat) : Bool := bitAt p.stop (3 - cls)

/-- The flits that a packet takes. -/
def flitCount (p : Packet) : Nat := (32 + p.hdr.len + 55) / 56
/-- The flits in a port's buffer of a class: of the packet being received, and of whole packets not yet routed. -/
def Port.buffered (p : Port) (cls : Nat) : Nat :=
  (Map.get [] p.rx cls).length + ((p.rxq.filter (fun k => k.hdr.cls == cls)).map flitCount).sum

/-- R258: STOP of a class: set as its buffer passes the high watermark, cleared below the low one. -/
def Port.mark (p : Port) (cls : Nat) : Port :=
  let b := 2 ^ (3 - cls)
  let flits := p.buffered cls
  let on := if Config.watermarks.1 < flits then true else if flits < Config.watermarks.2 then false else bitAt p.stopping (3 - cls)
  { p with stopping := (if on then b else 0) + (if bitAt p.stopping (3 - cls) then p.stopping - b else p.stopping) }

/-! ## Flits (R255) -/

/-- A flit's bytes +0 to +59. -/
def flitBytes (f : Flit) : List Byte :=
  bytesOf 4 (f.lseq * 2 ^ 20 + f.lack * 2 ^ 8 + f.stop * 2 ^ 4 + f.cls * 4 + (if f.sop then 2 else 0) + (if f.eop then 1 else 0)) ++ f.data
/-- A flit with its LCRC. -/
def sealFlit (f : Flit) : Flit := { f with lcrc := crc32 (flitBytes f) }

/-- The flits of a packet, numbered from the port's next LSEQ. -/
def flitsOf (port : Port) (p : Packet) : List Flit :=
  let bs := hdrBytes p.hdr ++ bodyBytes p.body
  let n := flitCount p
  let whole : Option Packet := match p.body with | .raw _ => none | _ => some p
  (List.range n).map (fun i => sealFlit {
    lseq := (port.lseq + i) % 4096, lack := port.expect, stop := port.stopping, cls := p.hdr.cls, sop := i == 0, eop := i + 1 == n
    data := (((bs.drop (56 * i)).take 56) ++ List.replicate 56 0).take 56, lcrc := 0
    pkt := if i + 1 = n then whole else none })

/-- The datum ticks that 256 flits take on a port. -/
def flitTime (p : Port) : Nat := if p.st = .half then 328 else 164

/-- The next packet that a port may send: class S first, then in order; none of a stopped class (R258, R261). -/
def Port.nextOut (p : Port) : Option Packet :=
  let ok := fun (k : Packet) => !p.stopped k.hdr.cls
  (p.out.find? (fun k => k.hdr.cls == 3 && ok k)).or (p.out.find? ok)

/-- Sends queued packets, each whole, as far as STOP and the replay buffer of 1,024 flits let them (R256, R258). -/
def State.pump (s : State) (n : Nat) : Nat → State
  | 0 => s
  | k + 1 =>
    let p := s.port n
    match (if p.usable then p.nextOut else none) with
    | none => s
    | some pkt =>
      let fs := flitsOf p pkt
      if 1024 < p.replay.length + fs.length then s
      else
        let idle := p.replay.isEmpty
        let s1 := s.modPort n (fun p =>
          { p with out := p.out.erase pkt, lseq := (p.lseq + fs.length) % 4096, replay := p.replay ++ fs.map (fun f => (f, 0))
                   progress := if idle then s.datum else p.progress })
        (if idle then s1.schedule (s.datum + flitTime p) (.replayTimeout n) else s1).pump n k

/-- A packet leaves through a port; one whose HOPS would pass 31 is dropped (R260). -/
def State.egress (s : State) (n : Nat) (p : Packet) : State :=
  if 31 ≤ p.hdr.hops then s.countError 6 1
  else
    let q : Packet := { p with hdr := { p.hdr with hops := p.hdr.hops + 1 } }
    let s1 := s.modPort n (fun x => { x with out := x.out ++ [q] })
    s1.pump n (s1.port n).out.length

/-- R257, R261: the port for a packet: the one that the table names, or for class A the emptiest open candidate, a HALF one
last; none where no route is known. A cube's own report takes another port where that one is down. -/
def State.portFor (s : State) (h : Hdr) : Option Nat × State :=
  let cs := Map.get [] s.router.routes h.dnode
  if h.typ = 0x12 ∧ h.snode = s.cube then (((cs ++ List.range 8).find? (fun n => (s.port n).usable)).or cs.head?, s)
  else if h.cls ≠ 1 then (cs.head?, s)
  else
    let live := (cs.take 4).filter (fun n => (s.port n).usable && !(s.port n).stopped 1)
    let full := live.filter (fun n => (s.port n).st == .up)
    let pool := if full.isEmpty then live else full
    let load := fun n => ((s.port n).out.filter (fun k => k.hdr.cls == 1)).length
    let low := pool.foldl (fun m n => min m (load n)) (pool.head?.elim 0 load)
    let best := pool.filter (fun n => load n == low)
    match best with
    | [] => (cs.head?, s)
    | [n] => (some n, s)
    | _ =>
      let c := s.freshChoice
      (best[Config.portChoice c.1 % best.length]?, c.2)

/-! ## Port states (R257) -/

/-- What a port holds of its link when it trains: nothing. -/
def Port.fresh (p : Port) (st : PortSt) : Port :=
  { p with st := st, lanes := 0, lseq := 0, expect := 0, replay := [], rx := [], rxq := [], stop := 0, stopping := 0, discard := false }

/-- A port leaves UP or HALF: its replay buffer is lost, the fabric manager is told in class S (report 1), and it trains. -/
def State.retrain (s : State) (n : Nat) : State :=
  if (s.port n).usable then (s.modPort n (fun p => p.fresh .train)).tellManager 1 n else s

/-- A packet has been routed: it leaves the buffer of the port that it came through. -/
def State.leaveBuffer (s : State) (k : Packet) : State :=
  match s.router.ports.find? (fun e => e.2.rxq.contains k) with
  | some e => s.modPort e.1 (fun p => Port.mark { p with rxq := p.rxq.erase k } k.hdr.cls)
  | none => s

/-- REPLAY_TIMEOUT (R256): LACK has not advanced for 256 flit times: the flits are sent again from LACK; one that has been
replayed three times makes the port train. -/
def execReplayTimeout (s : State) : Out :=
  match s.hand.msg with
  | .replayTimeout n =>
    let p := s.port n
    if p.replay.isEmpty || !p.usable then .next s
    else if s.datum < p.progress + flitTime p then .next (s.schedule (p.progress + flitTime p) (.replayTimeout n))
    else if p.replay.any (fun f => decide (3 ≤ f.2)) then .next (s.retrain n)
    else
      .next ((s.modPort n (fun p => { p with replay := p.replay.map (fun f => (f.1, f.2 + 1)), progress := s.datum })).schedule
        (s.datum + flitTime p) (.replayTimeout n))
  | _ => .next s

/-- PORT_ENABLE (R257): a DOWN port trains. -/
def execPortEnable (s : State) : Out :=
  match s.hand.msg with
  | .portEnable n => .next (if (s.port n).st = .down then s.modPort n (fun p => p.fresh .train) else s)
  | _ => .next s

/-- TRAINING_COMPLETE (R257): eight lanes pass, at least four, or fewer; the node at the far end is known from then on (log entry 95). -/
def execTrainingComplete (s : State) : Out :=
  match s.hand.msg with
  | .trainingComplete n lanes far =>
    if (s.port n).st ≠ .train then .next s
    else
      let st : PortSt := if 8 ≤ lanes then .up else if 4 ≤ lanes then .half else .down
      let s1 := s.modPort n (fun p => { p with far := far, st := st, lanes := if 8 ≤ lanes then 8 else if 4 ≤ lanes then 4 else 0 })
      let s2 := if st = .down ∨ s1.timers.any (fun t => t.2 == .linkAdaptation n) then s1
        else s1.schedule (s1.datum + 100000000) (.linkAdaptation n)
      .next (s2.pump n (s2.port n).out.length)
  | _ => .next s

/-- LINK_DOWN (R257). -/
def execLinkDown (s : State) : Out :=
  match s.hand.msg with
  | .linkDown n => .next (s.retrain n)
  | _ => .next s

/-- LINK_ADAPTATION (R289): an UP or HALF port pauses for at most 1 µs; flits are held, never lost. What the pause takes is
time alone. -/
def execLinkAdaptation (s : State) : Out :=
  match s.hand.msg with
  | .linkAdaptation n =>
    .next (if (s.port n).usable then
      (s.modPort n (fun p => { p with progress := if p.replay.isEmpty then p.progress else p.progress + 1000 })).schedule
        (s.datum + 100000000) (.linkAdaptation n) else s)
  | _ => .next s

end Sys2Proof.Machine
end

