-- ==== Sys2Proof/Machine/Collect.lean ====
section
/-! DEFINITION. Collectives: the router interface of a station (R231), reduction slots and their results (R274 to R276), and
their packets (R300). -/

namespace Sys2Proof.Machine

/-! ## Values (R53, R231) -/

/-- An element widened to binary32, with flags; integers stand as they are. -/
def collWiden (fmt code : Nat) : Nat × Nat :=
  if fmt = 0 then toF32 .f32 code else if fmt = 1 then toF32 .bf16 code else (code, 0)
/-- Whether a value of a floating collective is a NaN. -/
def collNan (fmt v : Nat) : Bool := decide (fmt ≤ 1) && (decodeF .f32 v).isNan

/-- One combination. -/
def collComb (op fmt a b : Nat) : Nat × Nat :=
  if fmt ≤ 1 then
    match op with
    | 0 => addF32 a b
    | 2 => fminmax .f32 false false a b
    | _ => fminmax .f32 true false a b
  else
    let x := iVal 32 (fmt == 2) a
    let y := iVal 32 (fmt == 2) b
    (match op with
     | 0 => (a + b) % 2 ^ 32
     | 1 => if x < y then b else a
     | 2 => if y < x then b else a
     | 4 => Nat.land a b
     | 5 => Nat.lor a b
     | _ => Nat.xor a b, 0)

/-- The empty result. -/
def collEmpty (op fmt : Nat) : Nat :=
  match op with
  | 1 => if fmt ≤ 1 then negInf else if fmt = 2 then 0x80000000 else 0
  | 2 => if fmt ≤ 1 then posInf else if fmt = 2 then 0x7FFFFFFF else 0xFFFFFFFF
  | 4 => 0xFFFFFFFF
  | _ => 0

/-! ## Packets (R300) -/

/-- The collective descriptor of R231. -/
def collDw (group seq op fmt count : Nat) : Nat := count * 2 ^ 56 + fmt * 2 ^ 52 + op * 2 ^ 48 + seq * 2 ^ 16 + group
/-- The information doubleword. -/
def collInfo (nval first status missing : Nat) (nan inc : Bool) : Nat :=
  nval * 2 ^ 40 + first * 2 ^ 32 + status * 2 ^ 24 + (if inc then 2 ^ 17 else 0) + (if nan then 2 ^ 16 else 0) + missing

/-- Splits values into packets' shares with the number of the first of each; one empty share where there are none. -/
def collShares (per : Nat) (vals : List Nat) : List (Nat × List Nat) :=
  if vals.isEmpty then [(0, [])]
  else (List.range ((vals.length + per - 1) / per)).map (fun i => (per * i, (vals.drop (per * i)).take per))

/-- The payloads of a partial. -/
def partialPayloads (p : Partial) : List (List Byte) :=
  (collShares 60 p.vals).map (fun c =>
    dwBytes [collDw p.group p.seq p.op p.fmt p.count, collInfo c.2.length c.1 0 p.missing p.nanseen p.incomplete] ++
      (c.2.map (bytesOf 4)).flatten)
/-- The payloads of a result. -/
def resultPayloads (r : CollRes) : List (List Byte) :=
  (collShares (if r.fmt = 1 then 120 else 60) r.vals).map (fun c =>
    dwBytes [collDw r.group r.seq r.op r.fmt r.count, collInfo c.2.length c.1 r.status r.missing r.nanseen r.incomplete] ++
      (c.2.map (bytesOf (if r.fmt = 1 then 2 else 4))).flatten)

/-- Sends class C payloads through a port: between two routers the nodes are those at the port's ends. -/
def State.sendColl (s : State) (port typ ptag : Nat) (ps : List (List Byte)) : State :=
  ps.foldl (fun st b => st.egress port (mkPacket
    { typ := typ, cls := 2, dnode := (s.port port).far, snode := s.cube, dstn := 0, sstn := 0, len := 0, ptag := ptag } (.raw b))) s

/-- Values of `w` bytes each. -/
def valsOf (w : Nat) : Nat → List Byte → List Nat
  | 0, _ => []
  | n + 1, bs => natOf (bs.take w) :: valsOf w n (bs.drop w)

/-- The partial that a packet of a child port carries; one without values belongs to a CLMCAST. -/
def partialOf (ptag : Nat) (bs : List Byte) : Partial :=
  let d := natOf (bs.take 8)
  let i := natOf ((bs.drop 8).take 8)
  let n := bitsOf i 47 40
  { group := collGroup d, seq := collSeq d, op := collOp d, fmt := collFmt d, count := collCount d, first := bitsOf i 39 32
    vals := valsOf 4 n (bs.drop 16), missing := bitsOf i 15 0, nanseen := bitAt i 16, incomplete := bitAt i 17, mcast := n == 0
    hasData := n != 0, ptag := ptag, ref := 0 }
/-- The result that a packet carries. -/
def resultOf (ptag : Nat) (bs : List Byte) : CollRes :=
  let d := natOf (bs.take 8)
  let i := natOf ((bs.drop 8).take 8)
  { input := 72, group := collGroup d, seq := collSeq d, status := bitsOf i 31 24, missing := bitsOf i 15 0, nanseen := bitAt i 16
    incomplete := bitAt i 17, fmt := collFmt d, op := collOp d, count := collCount d, first := bitsOf i 39 32
    vals := valsOf (if collFmt d = 1 then 2 else 4) (bitsOf i 47 40) (bs.drop 16), ptag := ptag, ref := 0 }

/-- R299: the reserved bits and codes of a class C payload are zero, and its length is that of its values. -/
def collPayloadOk (isResult : Bool) (bs : List Byte) : Bool :=
  let d := natOf (bs.take 8)
  let i := natOf ((bs.drop 8).take 8)
  let st := bitsOf i 31 24
  decide (16 ≤ bs.length) && collDescOk false d && bitsOf i 63 48 == 0 && decide (bitsOf i 39 32 ≤ 127) &&
  decide (bitsOf i 47 40 ≤ (if isResult && collFmt d == 1 then 120 else 60)) && bitsOf i 23 18 == 0 &&
  (if isResult then st == 0 || st == 1 || st == 3 || st == 5 else st == 0) &&
  bs.length == 16 + bitsOf i 47 40 * (if isResult && collFmt d == 1 then 2 else 4)

/-! ## Slots -/

def State.modRouter (s : State) (f : Router → Router) : State := { s with router := f s.router }
/-- The tree entry of a group. -/
def State.tree (s : State) (group : Nat) : Option Tree := s.router.trees.find? (fun t => t.group == group)
def State.slotOf (s : State) (group seq : Nat) : Option RedSlot :=
  s.router.slots.find? (fun x => x.group == group && x.seq == seq)
/-- The inputs of a slot that was freed and is remembered (R276). -/
def State.rememberedSlot (s : State) (group seq : Nat) : Option (List Nat) :=
  (s.router.freed.find? (fun e => e.1 == group && e.2.1 == seq && decide (s.datum ≤ e.2.2.2))).map (fun e => e.2.2.1)

/-- Answers a contribution LATE or FAULT: back through its input (R300). -/
def State.answerPart (s : State) (input : Nat) (p : Partial) (status : Nat) : State :=
  s.send (.collectiveResult ⟨input, p.group, p.seq, status, 0, false, false, p.fmt, p.op, p.count, 0, [], p.ptag, p.ref⟩)

/-- The partials of a slot at the inputs 0 to 71, those without data absent. -/
def RedSlot.inputs (x : RedSlot) (i : Nat) : List (Option Nat) :=
  (List.range 72).map (fun n => match x.parts.find? (fun e => e.1 == n) with
    | some e => if e.2.hasData then e.2.vals[i]? else none
    | none => none)

/-- Element `i` of a slot's result: the pairwise tree over its inputs. -/
def RedSlot.element (x : RedSlot) (i : Nat) : Nat × Nat :=
  let t := treeReduce (collComb x.op x.fmt) 7 (x.inputs i)
  ((t.1).getD (collEmpty x.op x.fmt), t.2)

/-- Flags that a collective raised reach the entries of this cube's members (R164). -/
def State.collFlags (s : State) (x : RedSlot) (fl : Nat) : State :=
  x.parts.foldl (fun st e =>
    if e.1 < 64 then st.modEng e.1 (fun g => { g with coll := { g.coll with waits := g.coll.waits.map (fun w =>
      if w.num = e.2.ref then { w with flags := orF w.flags fl } else w) } }) else st) s

/-- The last 1,024 keys freed. -/
def lastKeys (l : List (Nat × Nat × List Nat × Nat)) : List (Nat × Nat × List Nat × Nat) := l.drop (l.length - 1024)

/-- R231: the partials of a slot as it completes, and those of later sources of a CLMCAST, which the first one's data outlives. -/
def RedSlot.sources (x : RedSlot) : RedSlot × List (Nat × Partial) :=
  let data := x.parts.filter (fun e => e.2.hasData)
  match (if x.mcast then data else []) with
  | f :: later => ({ x with parts := x.parts.map (fun e => if e.2.hasData ∧ e.1 ≠ f.1 then (e.1, { e.2 with hasData := false, vals := [], ref := 0 }) else e) },
      later)
  | [] => (x, [])

/-- R275: a slot completes: its partials are combined, the result goes to the parent or, at the root, down the tree, and the
slot frees. A second source of a CLMCAST completes FAULT. Waiting contributions try again. -/
def State.finishSlot (s0 : State) (x0 : RedSlot) (timed : Bool) : State :=
  let x : RedSlot := x0.sources.1
  let later : List (Nat × Partial) := x0.sources.2
  let s : State := later.foldl (fun (st : State) (e : Nat × Partial) => st.answerPart e.1 e.2 3) s0
  let tree := (s.tree x.group).getD ⟨x.group, none, [], 0⟩
  let es : List (Nat × Nat) := (List.range x.count).map x.element
  let nan := x.parts.any (fun e => e.2.nanseen)
  let inc := timed || x.parts.any (fun e => e.2.incomplete)
  let absent := (tree.expected.filter (fun n => !x.parts.any (fun e => e.1 == n))).length
  let missing := absent + x.parts.foldl (fun a e => a + e.2.missing) 0
  -- a total beyond the field has no stated value
  let m : Nat × State := if missing < 2 ^ 16 then (missing, s) else (let f := s.freshWord; (f.1.toNat % 2 ^ 16, f.2))
  let s1 := m.2.modRouter (fun r =>
    { r with slots := r.slots.filter (fun y => !(y.group == x.group && y.seq == x.seq)), waiting := []
             frags := r.frags.filter (fun e => !(e.2.group == x.group && e.2.seq == x.seq))
             freed := lastKeys (r.freed ++ [(x.group, x.seq, x.parts.map (fun e => e.1), s.datum + 1000000)]) })
  let s2 := s1.schedule (s.datum + 1000000) (.rememberedKeyExpiry x.group x.seq)
  let rounded := es.map (fun (e : Nat × Nat) => if x.fmt = 1 then cvtFF .bf16 .f32 .ne false 0 e.1 else (e.1, 0))
  let fl := es.foldl (fun a (e : Nat × Nat) => orF a e.2) 0
  let s3 : State := match tree.parent with
    | some port =>
      (s2.collFlags x fl).sendColl port 0x0F x.ptag (partialPayloads ⟨x.group, x.seq, x.op, x.fmt, x.count, 0,
        if x.mcast && !x.parts.any (fun e => e.2.hasData) then [] else es.map (fun (e : Nat × Nat) => e.1), m.1, nan, inc, x.mcast, true, x.ptag, 0⟩)
    | none =>
      -- to the inputs that took part; one whose contribution is still to come is answered LATE
      ((x.parts.map (fun (e : Nat × Partial) => e.1)).filter (fun n => !later.any (fun (e : Nat × Partial) => e.1 == n))).foldl (fun st n => st.send (.collectiveResult ⟨n, x.group, x.seq, if inc then 5 else 0, m.1, nan, inc, x.fmt,
        x.op, x.count, 0, rounded.map (fun (e : Nat × Nat) => e.1), x.ptag, 0⟩)) (s2.collFlags x (rounded.foldl (fun a (e : Nat × Nat) => orF a e.2) fl))
  s3.sendAll (s.router.waiting.map (fun (w : Nat × Partial) => Msg.collectiveContribution w.1 w.2))

/-- Gathers the packets of one partial: the whole of it once every value has arrived. -/
def State.gather (s : State) (input : Nat) (p : Partial) : Option Partial × State :=
  if !p.hasData ∨ p.vals.length = p.count then (some p, s)
  else
    let mine := fun (e : Nat × Partial) => e.1 == input && e.2.group == p.group && e.2.seq == p.seq
    let all := s.router.frags.filter mine ++ [(input, p)]
    let vs := (List.range p.count).map (fun i => all.findSome? (fun e => if e.2.first ≤ i then e.2.vals[i - e.2.first]? else none))
    if vs.all (fun v => v.isSome) then
      (some { p with first := 0, vals := vs.map (fun v => v.getD 0) },
       s.modRouter (fun r => { r with frags := r.frags.filter (fun e => !mine e) }))
    else (none, s.modRouter (fun r => { r with frags := r.frags ++ [(input, p)] }))

/-- Whether a packet is the last of its contribution, or its only one. -/
def partLast (p : Partial) : Bool := !p.hasData || decide (p.count ≤ p.first + p.vals.length)
/-- Answers a contribution once, with its last packet. -/
def State.refusePart (s : State) (input : Nat) (p : Partial) (status : Nat) : State :=
  if partLast p then s.answerPart input p status else s

/-- A whole partial joins its slot, which completes once every expected input is present. -/
def State.joinSlot (s : State) (tree : Tree) (x : RedSlot) (input : Nat) (p0 : Partial) : State :=
  let p := { p0 with nanseen := p0.nanseen || p0.vals.any (collNan p0.fmt) }
  let y := { x with parts := x.parts ++ [(input, p)], mcast := x.mcast || p.mcast }
  let s1 := s.modRouter (fun r => { r with slots := r.slots.map (fun z => if z.group = x.group ∧ z.seq = x.seq then y else z) })
  if tree.expected.all (fun n => y.parts.any (fun e => e.1 == n)) then s1.finishSlot y false else s1

/-- R274, R276: a packet of a contribution joins or allocates a slot, waits for one, or is refused. The first packet of a key allocates
the slot and starts its timer; an input is present once all its values have come. -/
def State.contribute (s : State) (input : Nat) (p : Partial) : State :=
  if (s.rememberedSlot p.group p.seq).isSome then (if partLast p then s.countError 8 1 else s).refusePart input p 1
  else match s.tree p.group with
  | none => s.refusePart input p 3
  | some tree =>
    let slot := s.slotOf p.group p.seq
    let wrong := fun (x : RedSlot) =>
      decide (x.op ≠ p.op ∨ x.fmt ≠ p.fmt ∨ x.count ≠ p.count) || x.parts.any (fun e => e.1 == input)
    if !tree.expected.contains input || (slot.map wrong).getD false then s.refusePart input p 3
    else if s.router.waiting.any (fun e => e.1 == input && e.2.group == p.group && e.2.seq == p.seq) ||
        (slot.isNone && decide (256 ≤ s.router.slots.length)) then
      s.modRouter (fun r => { r with waiting := r.waiting ++ [(input, p)] })
    else
      let timer := if tree.timer = 0 then 50000 else tree.timer
      let x := slot.getD ⟨p.group, p.seq, p.op, p.fmt, p.count, p.ptag, [], false, s.datum + timer⟩
      let s1 := if slot.isSome then s
        else (s.modRouter (fun r => { r with slots := r.slots ++ [x] })).schedule x.expiry (.slotTimerExpiry p.group p.seq)
      let g := s1.gather input p
      match g.1 with
      | some q => g.2.joinSlot tree x input q
      | none => g.2

/-- COLLECTIVE_CONTRIBUTION. -/
def execCollectiveContribution (s : State) : Out :=
  match s.hand.msg with
  | .collectiveContribution input p => .next (s.contribute input p)
  | _ => .next s

/-- SLOT_TIMER_EXPIRY (R275). -/
def execSlotTimerExpiry (s : State) : Out :=
  match s.hand.msg with
  | .slotTimerExpiry group seq =>
    match s.slotOf group seq with
    | some x => .next (if x.expiry ≤ s.datum then s.finishSlot x true else s)
    | none => .next s
  | _ => .next s

/-- REMEMBERED_KEY_EXPIRY (R276). -/
def execRememberedKeyExpiry (s : State) : Out :=
  match s.hand.msg with
  | .rememberedKeyExpiry group seq =>
    .next (s.modRouter (fun r => { r with freed := r.freed.filter (fun e =>
      !(e.1 == group && e.2.1 == seq && decide (e.2.2.2 ≤ s.datum))) }))
  | _ => .next s

/-! ## The router interface of a station (R231) -/

def State.modColl (s : State) (stn : Nat) (f : Coll → Coll) : State := s.modEng stn (fun e => { e with coll := f e.coll })

/-- The command at the inbox's head has been taken; the next one is taken up. -/
def State.collNext (s : State) (stn : Nat) : State :=
  let q := (s.stn stn).eng.coll.inbox
  let s1 := ((s.modColl stn (fun c => { c with inbox := q.drop 1 })).engDone stn 3).inboxFreed stn 3 q.length
  match q.drop 1 with
  | k :: _ => s1.send (collMsg stn k)
  | [] => s1

/-- The command's elements go to the cube's router as its contribution. -/
def State.sendPart (s : State) (stn : Nat) (k : CmdMsg) (mcast : Bool) (codes : List Nat) : State :=
  let d := cmdOp k.cmd 0
  let fmt := collFmt d
  let ws := codes.map (collWiden fmt)
  let vals := ws.map (fun w => if collOp d = 3 then w.1 % 2 ^ 31 else w.1)
  let n := s.freshId
  let s1 := (n.2.modColl stn (fun c => { c with waits := c.waits ++ [⟨n.1, k, ws.foldl (fun a w => orF a w.2) 0, [], none⟩] })).collNext stn
  s1.send (.collectiveContribution stn ⟨collGroup d, collSeq d, collOp d, fmt, collCount d, 0, vals, 0, vals.any (collNan fmt),
    false, mcast, !codes.isEmpty, k.cmd.ptag, n.1⟩)

/-- Takes up a collective command: its descriptor is checked, its elements are read and contributed. -/
def State.runColl (s : State) (stn opcode : Nat) (msg : Msg) : State :=
  match (s.stn stn).eng.coll.inbox with
  | [] => s
  | k :: _ =>
    if k.cmd.opcode ≠ opcode then s
    else
      let mcast := opcode == 0x0301
      let d := cmdOp k.cmd 0
      let src := cmdOp k.cmd 1
      let dst := cmdOp k.cmd 2
      let y : Eye := ⟨stn, 3, k.cmd.ptag⟩
      let fail := fun (cause detail : Nat) => (s.collNext stn).finishCmd stn k [] (causeStatus cause) 0 (faultValue cause detail)
      if !collDescOk mcast d then fail causeILL 0
      else if !collOpOk d then fail causeFMT 0
      else if src % collSize d ≠ 0 then fail causeALIGN src
      else if dst % collSize d ≠ 0 then fail causeALIGN dst
      else if mcast ∧ src = 0 then s.sendPart stn k mcast []
      else s.engineGot y msg
        (Got.all (fun (i : Nat) => s.engField y false (addrAt src (i * collSize d : Nat)) (collSize d)) (List.range (collCount d)))
        (fun codes => s.sendPart stn k mcast codes) fail

/-- CLRED_COMMAND. -/
def execClredCommand (s : State) : Out :=
  match s.hand.msg with
  | .clredCommand stn => .next (s.runColl stn 0x0300 s.hand.msg)
  | _ => .next s

/-- CLMCAST_COMMAND. -/
def execClmcastCommand (s : State) : Out :=
  match s.hand.msg with
  | .clmcastCommand stn => .next (s.runColl stn 0x0301 s.hand.msg)
  | _ => .next s

/-! ## Results (R276, R300) -/

/-- Whether a member's wait is for a result: that of its number, or of its key. -/
def CollWait.isFor (w : CollWait) (r : CollRes) : Bool :=
  if r.ref ≠ 0 then w.num == r.ref
  else collGroup (cmdOp w.cmd.cmd 0) == r.group && collSeq (cmdOp w.cmd.cmd 0) == r.seq

/-- A member's wait ends with its entry. -/
def State.endColl (s : State) (stn : Nat) (w : CollWait) (status : Nat) (value : Word) : State :=
  ((s.modColl stn (fun c => { c with waits := c.waits.filter (fun x => x.num != w.num) })).engDone stn 3).finishCmd
    stn w.cmd [] status w.flags value

/-- A result reaches a member: its values are written, and its entry follows once they have been performed. -/
def State.deliverColl (s : State) (stn : Nat) (r : CollRes) : State :=
  match (s.stn stn).eng.coll.waits.find? (fun w => w.isFor r) with
  | none => s
  | some w =>
    let y : Eye := ⟨stn, 3, w.cmd.cmd.ptag⟩
    let dst := cmdOp w.cmd.cmd 2
    let size := if r.fmt = 1 then 2 else 4
    let value := w64 ((if r.incomplete then 2 ^ 17 else 0) + (if r.nanseen then 2 ^ 16 else 0) + r.missing)
    match w.out with
    | some o =>
      if !s.landed stn w.waits then s.requeue (.collectiveResult { r with ref := w.num })
      else
        let bad := (s.stn stn).eng.wroteBad.filter (fun e => w.waits.contains e.1)
        let s1 := s.modEng stn (fun e => { e with wroteBad := e.wroteBad.filter (fun x => !w.waits.contains x.1) })
        (match bad with
         | e :: _ => s1.endColl stn w 4 (faultValue causePOISON e.2)
         | [] => s1.endColl stn w o.1 o.2)
    | none =>
      if r.status = 3 then s.endColl stn w 3 (faultValue causeFMT 0)
      else if r.status = 1 then s.endColl stn w 1 value
      else if dst = 0 then s.endColl stn w r.status value
      else
        let as := (List.range r.vals.length).map (fun i => (i, addrAt dst (i * size : Nat)))
        s.engineGot y (.collectiveResult { r with ref := w.num }) (s.placeAll y false as)
          (fun p => match p.2 with
            | some (cause, a) => s.endColl stn w (causeStatus cause) (faultValue cause a)
            | none =>
              let ws := s.engWrites y (p.1.map (fun e => (e.2.1, e.2.2, bytesOf size (r.vals.getD e.1 0))))
              (ws.2.modColl stn (fun c => { c with waits := c.waits.map (fun x =>
                if x.num = w.num then { x with waits := ws.1, out := some (r.status, value) } else x) })).send
                (.collectiveResult { r with ref := w.num }))
          (fun cause a => s.endColl stn w (causeStatus cause) (faultValue cause a))

/-- Gathers the packets of one result of the parent. -/
def State.gatherRes (s : State) (r : CollRes) : Option CollRes × State :=
  if r.status = 1 ∨ r.status = 3 ∨ r.vals.length = r.count then (some r, s)
  else
    let mine := fun (e : CollRes) => e.group == r.group && e.seq == r.seq
    let all := s.router.resFrags.filter mine ++ [r]
    let vs := (List.range r.count).map (fun i => all.findSome? (fun e => if e.first ≤ i then e.vals[i - e.first]? else none))
    if vs.all (fun v => v.isSome) then
      (some { r with first := 0, vals := vs.map (fun v => v.getD 0) },
       s.modRouter (fun x => { x with resFrags := x.resFrags.filter (fun e => !mine e) }))
    else (none, s.modRouter (fun x => { x with resFrags := x.resFrags ++ [r] }))

/-- COLLECTIVE_RESULT: a result of the parent, or its refusal of a partial, goes to the inputs that formed the partial (R276, R300); a
child port's leaves as packets; a member's is delivered. -/
def execCollectiveResult (s : State) : Out :=
  match s.hand.msg with
  | .collectiveResult r =>
    if r.input < 64 then .next (s.deliverColl r.input r)
    else if r.input < 72 then .next (s.sendColl (r.input - 64) 0x10 r.ptag (resultPayloads r))
    else
      let g := s.gatherRes r
      match g.1 with
      | none => .next g.2
      | some q =>
        let ins := (s.rememberedSlot q.group q.seq).getD []
        .next (ins.foldl (fun st n => st.send (.collectiveResult { q with input := n })) g.2)
  | _ => .next s

end Sys2Proof.Machine
end

