-- ==== Sys2Proof/Machine/Oha.lean ====
section
/-! DEFINITION. A host adapter's endpoints and its cache of chunks (R277): copies under leases, modified chunks, publication. -/

namespace Sys2Proof.Machine

/-! ## Endpoints -/

/-- An endpoint of an OHA. -/
def State.endpoint (s : State) (node ix : Nat) : Option Endpoint :=
  s.hosts.endpoints.find? (fun e => e.node == node && e.ix == ix)
def State.modEndpoint (s : State) (node ix : Nat) (f : Endpoint → Endpoint) : State :=
  { s with hosts := { s.hosts with endpoints := s.hosts.endpoints.map (fun e => if e.node = node ∧ e.ix = ix then f e else e) } }
/-- Changes the endpoints that a parcel tag names at an OHA (R259). -/
def State.modTagged (s : State) (node ptag : Nat) (f : Endpoint → Endpoint) : State :=
  { s with hosts := { s.hosts with endpoints := s.hosts.endpoints.map (fun e => if e.node = node ∧ e.ptag = ptag then f e else e) } }

/-- What a host is given, with the address beside it: data of a read; 2⁵⁶ and a completion; 2⁵⁷ added for a read that completes with
Unsupported Request (R297), 2⁵⁸ for poisoned data (R265). -/
def State.tellHost (s : State) (node ptag fa : Nat) (bs : List Byte) : State :=
  s.modTagged node ptag (fun e => { e with host := e.host ++ [(fa, bs)] })
def unsupported : Nat := 2 ^ 57
def poisonedRead : Nat := 2 ^ 58

/-- The home of an address for an endpoint, if its tag may reach it (R120, R277). -/
def State.hostReach (s : State) (e : Endpoint) (fa : Nat) : Option Place :=
  match s.reachAs (some e.tenant) false false fa with | .ok p => some p | .error _ => none

/-! ## The cache -/

/-- An OHA's cache. -/
def State.hostCache (s : State) (node : Nat) : Slice := Map.get {} s.hosts.caches node
def State.modCache (s : State) (node : Nat) (f : Slice → Slice) : State :=
  { s with hosts := { s.hosts with caches := Map.set {} s.hosts.caches node (f (s.hostCache node)) } }

/-- Whether a block holds words of a chunk under a tag; each block is of one chunk. -/
def Block.ofChunk (b : Block) (ptag chunk : Nat) : Bool :=
  b.ptag == ptag && b.region == chunk / 32 && b.lines.any (fun w => w.ix / 4 == chunk % 32)
/-- A word that may serve a host's read now (R134). -/
def State.hostWord (s : State) (node ptag fa : Nat) : Option Line :=
  match (s.hostCache node).find ptag (regionOf fa) (ixOf fa) with
  | some x => if x.2.fresh s.datum then some x.2 else none
  | none => none

/-- The chunks that 64 MiB hold. -/
def cacheChunks : Nat := 2 ^ 20

/-- Sends a modified word back to its home; the OHA waits for the acknowledgement. -/
def State.hostWriteBack (s : State) (node ptag fa : Nat) (w : Line) : State :=
  match s.place fa with
  | .error _ => s
  | .ok pl =>
    let r := s.freshId
    let m : WbMsg := ⟨fa, w.data, w.poison, 0, r.1, ptag, .cube⟩
    (r.2.modCache node (fun l => { l with wbOut := l.wbOut ++ [(r.1, bwOf fa)] })).export node pl.cube pl.stn 0 0x0C 0 0 fa
      (if w.poison then 1 else 0) ptag (.writeBack m) (.writeBack m)
/-- The modified words of a block go back. -/
def State.hostSpill (s : State) (node : Nat) (b : Block) : State :=
  b.lines.foldl (fun st w => if w.dirty then st.hostWriteBack node b.ptag (wordFa b.region w.ix) w else st) s

/-- Puts a word into the cache; the chunk is the most recently used, and the least recently used one makes room. -/
def State.hostPut (s : State) (node ptag fa : Nat) (w : Line) : State :=
  let l := s.hostCache node
  let mine := l.blocks.find? (fun b => b.ofChunk ptag (chunkOf fa))
  let b : Block := match mine with
    | some b => { b with lines := b.lines.filter (fun x => x.ix != w.ix) ++ [w] }
    | none => ⟨false, regionOf fa, ptag, [w]⟩
  let bs := b :: l.blocks.filter (fun b => !b.ofChunk ptag (chunkOf fa))
  (bs.drop cacheChunks).foldl (fun st b => st.hostSpill node b) (s.modCache node (fun l => { l with blocks := bs.take cacheChunks }))

/-- Takes a word out of the cache, sending it back if it is modified. -/
def State.hostDrop (s : State) (node ptag fa : Nat) : State :=
  match (s.hostCache node).find ptag (regionOf fa) (ixOf fa) with
  | none => s
  | some x =>
    let cut := fun (b : Block) => if b.ptag = ptag ∧ b.region = regionOf fa then { b with lines := b.lines.filter (fun y => y.ix != x.2.ix) } else b
    let s1 := s.modCache node (fun l => { l with blocks := (l.blocks.map cut).filter (fun b => !b.lines.isEmpty) })
    if x.2.dirty then s1.hostWriteBack node ptag (fa / 16 * 16) x.2 else s1

/-! ## Publication and acquisition (R136 to R139) -/

/-- SIGACC OR the signatures received whose time has not passed. -/
def State.hostSig (s : State) (node : Nat) : Sig :=
  let l := s.hostCache node
  (l.sigrcv.filter (fun e => decide (s.datum ≤ e.1))).foldl (fun a e => a ||| e.2) l.sigacc

/-- What follows an OHA's publication: a submission leaves with the signature (R140), or the home that demanded it is told. -/
def State.hostPublished (s : State) (node : Nat) (d : Demand) (sig : Sig) : State :=
  match d.pubFor with
  | .task cube stn p =>
    let ptag := (p.dws.getD 2 0).toNat % 65536
    s.export node cube stn 0 0x06 0 0 ((p.dws.getD 0 0).toNat) 0 ptag (.signed (dwBytes (p.dws.map (fun w => w.toNat))) (some sig) 0 0)
      (.taskPacket stn p)
  | p => match (demandFa p).map (fun fa => s.place fa) with
    | some (.ok pl) => s.export node pl.cube pl.stn 0 0x0B 0 0 0 0 0 (.published d sig) (.publicationComplete d sig)
    | _ => s

/-- Publications complete in the order in which they began (R138). -/
def State.flushHostPubs (s : State) (node : Nat) : Nat → State
  | 0 => s
  | k + 1 =>
    match (s.hostCache node).pubs with
    | p :: ps =>
      if p.waits.isEmpty then ((s.modCache node (fun l => { l with pubs := ps })).hostPublished node p.demand p.sig).flushHostPubs node k
      else s
    | [] => s

/-- An OHA publishes: its modified words go back, and SIGACC is cleared (R138). -/
def State.hostPublish (s : State) (node : Nat) (d : Demand) : State :=
  let sig := s.hostSig node
  let s1 := (s.hostCache node).dirtyWords.foldl (fun st w => st.hostWriteBack node w.2.1 w.1 w.2.2)
    (s.modCache node (fun l => { l.cleaned with sigacc := 0 }))
  (s1.modCache node (fun l => { l with pubs := l.pubs ++ [⟨d, l.wbOut.map (fun e => e.1), sig⟩] })).flushHostPubs node 1

/-- A write-back of an OHA has been acknowledged. -/
def State.hostWbDone (s : State) (node id : Nat) : State :=
  let s1 := s.modCache node (fun l =>
    { l with wbOut := l.wbOut.filter (fun e => e.1 != id), pubs := l.pubs.map (fun p => { p with waits := p.waits.filter (fun i => i != id) }) })
  s1.flushHostPubs node (s1.hostCache node).pubs.length

/-- An OHA has acquired: its clean words that hit the signature are dropped, and the signature is kept (R139). -/
def State.hostAcquire (s : State) (node ptag : Nat) (g : Sig) : State :=
  let kept := fun (b : Block) => { b with lines := b.lines.filter (fun w => w.dirty || !sigHit g (chunkOf (wordFa b.region w.ix))) }
  s.modCache node (fun l => { l with
    blocks := (l.blocks.map kept).filter (fun b => !b.lines.isEmpty)
    sigrcv := l.sigrcv.filter (fun e => decide (s.datum ≤ e.1)) ++ [(s.datum + s.maxLease (s.tenantOf ptag), g)] })

/-! ## What an OHA does with what reaches it -/

/-- The data of a DMA read: whole block words that came with a lease are kept as copies; the host of the endpoint that PTAG names gets
the bytes that it asked for (R259, R277). -/
def State.hostRead (s : State) (node ptag : Nat) (r : ReadRep) : State :=
  let s1 := match r.sig with | some g => s.hostAcquire node ptag g | none => s
  let s2 := if r.expiry = 0 then s1
    else (wordsIn r.req.fa r.data).foldl (fun st w =>
      if (st.hostWord node ptag w.1).isSome then st
      else st.hostPut node ptag w.1 ⟨ixOf w.1, w.2, false, r.poison.contains (bwOf w.1), r.expiry, false⟩) s1
  s2.tellHost node ptag (r.req.va + if r.poison.isEmpty then 0 else poisonedRead) ((r.data.drop (r.req.va - r.req.fa)).take r.req.asked)

/-- What an OHA does with a packet that is no answer: a completion, or what a survey writes, reaches its host; a demand makes it
publish (R138). -/
def State.hostTake (s : State) (p : Packet) : State :=
  let h := p.hdr
  let src : PktSrc := ⟨h.snode, srcNo h.snode h.sstn h.ptag, h.onode, h.ostn, h.cls, h.seq, h.ptag, h.addr, h.fwd⟩
  let acked := s.send (.packetRouting (mkPacket { (backTo src h.dnode 0x0E) with sstn := h.dstn } (.ack src.snode src.sstn false)))
  match p.body with
  | .result r => { acked with hosts := { acked.hosts with endpoints := acked.hosts.endpoints.map (fun e =>
      if e.node = h.dnode ∧ e.ix = r.tid then { e with host := e.host ++ [(2 ^ 56, bytesOf 8 r.entry.toNat ++ bytesOf 8 r.value.toNat)] } else e) } }
  | .demand d => acked.hostPublish h.dnode d
  | .raw bs =>
    if h.typ = 0x02 then
      (acked.tellHost h.dnode h.ptag h.addr bs).send (.packetRouting (mkPacket { (backTo src h.dnode 0x03) with sstn := h.dstn } (.raw [])))
    else acked
  | _ => acked

end Sys2Proof.Machine
end

