-- ==== Sys2Proof/Machine/System.lean ====
section
/-! DEFINITION. System instructions (R105, R106, R108, R109), guard slots (R97, R98) and address queries that translate (R94). -/

namespace Sys2Proof.Machine

/-- R105. -/
def execNop (s : State) : Out := .next s.retire
/-- R106: precise, TPC the BRK. -/
def execBrk (code : Nat) (s : State) : Out := .next (s.trap causeBRK (w64 code))
/-- R106: precise, TADDR the code with bit 63 clear. -/
def execTrap (code : Nat) (s : State) : Out := .next (s.trap causeUSER (w64 (code % 2 ^ 63)))
/-- R106: KCALL counts as complete when the trap is taken: TPC is the instruction after it. -/
def execKcall (code : Nat) (s : State) : Out :=
  let t := s.retire
  .next (t.enterTrap t.hand.at_ causeUSER (w64 (2 ^ 63 + code)) t.cur.pc s.hand.words)

/-- R108: what TLBINV removes. -/
def tlbMatch (sel : Nat) (va ptag : Nat) (etag eva size : Nat) : Bool :=
  if sel = 0 then etag == ptag && decide (eva ≤ va ∧ va < eva + size)
  else if bitAt sel 1 then true
  else etag == bitsOf sel 31 16
/-- R108: the values of gC that TLBINV takes: 0, and every value with bit 0 or bit 1 set. -/
def tlbSelOk (sel : Nat) : Bool := sel == 0 || bitAt sel 0 || bitAt sel 1

/-- R108: translations leave the station's TLB, and a walk under way installs none of them. -/
def execTlbinv (b c : Nat) (s : State) : Out :=
  privilegedBy [b, c] (fun k => tlbSelOk (k.readG c).toNat) (fun s =>
    let sel := (s.cur.readG c).toNat
    let va := (s.cur.readG b).toNat
    if [b, c].any s.cur.owed then .next s
    else if !tlbSelOk sel then .next (s.trap causeILL (w64 s.baseAddr))
    else
      let n := s.hand.at_.stn
      let tag := s.ptagAt n
      let s1 := s.modStn n (fun t => { t with tlb := t.tlb.filter (fun e => !tlbMatch sel va tag e.ptag e.va e.size) })
      .next ({ s1 with net := s1.net.filter (fun m => match m with
        | .pageWalk stn etag eva => !(stn == n && tlbMatch sel va tag etag (eva / 2 ^ 30 * 2 ^ 30) (2 ^ 30))
        | _ => true) }).retire) s

/-- R240: the event that a kernel message's TYPE names; a reserved TYPE or bit makes it one without an operation. -/
def kmsgEvent (m : KMsg) : Msg :=
  let d := fun i => (m.dws.getD i 0).toNat
  let ok := bitsOf (d 0) 55 44 == 0 && bitsOf (d 0) 31 6 == 0
  let move := bitsOf (d 1) 47 44 == 0 && bitsOf (d 1) 31 16 == 0 && (m.dws.drop 2).all (fun w => w == 0)
  let config := bitsOf (d 6) 63 1 == 0
  match bitsOf (d 0) 63 56 with
  | 0 => if ok then .soft m else .kernelMessageReserved m
  | 1 => if ok then .preempt m else .kernelMessageReserved m
  | 2 => if ok then .resume m else .kernelMessageReserved m
  | 3 => if ok && move then .move m else .kernelMessageReserved m
  | 4 => if ok && config then .config m else .kernelMessageReserved m
  | _ => .kernelMessageReserved m

/-- A message for a kernel of this cube, or its packet; to a cube that no route reaches it is counted and lost (R109). -/
def State.sendKmsg (s : State) (cube : Nat) (m : KMsg) : State :=
  if cube = s.cube then s.send (kmsgEvent m)
  else if (Map.get [] s.router.routes cube).isEmpty then s.countError 10 1
  else s.export s.cube cube m.stn m.sstn 0x11 3 0 0 0 0 (.raw (dwBytes (m.dws.map (fun w => w.toNat)))) (kmsgEvent m)

/-- R109: the bits of gB that name a cube and a station; the others are zero. -/
def kmsgDestOk (t : Nat) : Bool := bitsOf t 63 44 == 0 && bitsOf t 31 6 == 0

/-- R109. -/
def execKmsg (b c : Nat) (s : State) : Out :=
  privilegedBy [b, c] (fun k => kmsgDestOk (k.readG b).toNat) (runSeq (do
    Exec.need [b, c]
    let k ← Exec.ctx
    let t := (k.readG b).toNat
    let a := (k.readG c).toNat
    if !kmsgDestOk t then Exec.ill
    Exec.check (a % 64 == 0) causeALIGN a
    let fa ← Exec.faOf .fa a .r
    let pl ← Exec.home .fa fa a
    let s ← get
    let l := s.hand.at_
    let bs ← Exec.got (readBytes (fun x => s.wordAtStn s.cur.flow.rbuf l.stn { pl with canon := pl.canon + x - fa } x) fa a 64)
    let cube := bitsOf t 43 32
    let counter := if cube ≠ s.cube then 2 else if bitsOf t 5 0 ≠ l.stn then 1 else 0
    let lost := decide (cube ≠ s.cube) && (Map.get [] s.router.routes cube).isEmpty
    Exec.modCtx (fun k => if lost then k else k.addCount counter true)
    modify (fun s => s.sendKmsg cube ⟨bitsOf t 5 0, (dwsOf 8 bs).map w64, s.cube, l.stn, .task l k.tid, counter⟩))) s

/-! ## Guard slots -/

/-- A GSET is numbered and its slot is pending (R97); it resolves when the value of its source is available. -/
def gset (j b : Nat) (zero : Bool) (s : State) : Out :=
  let r := s.freshId
  let l := s.hand.at_
  let s1 := r.2.modCtx l (fun c => c.setSlot j (.pending r.1))
  let c := s1.ctx l
  let note := fun (f : Flight) => if f.owes.contains (c.phys b) then
      { f with gsets := f.gsets ++ [(r.1, zero, match f.kind with | .load (.pair p) => c.phys b == p + 1 | _ => false)] } else f
  if c.owed b then .next (s1.modCtx l (fun c => { c with flow := { c.flow with flights := c.flow.flights.map note } })).retire
  else .next (s1.send (.guardSlotResolution l r.1 (if zero then c.readG b == 0 else c.readG b != 0))).retire

def execGset (j b : Nat) (s : State) : Out := gset j b false s
def execGsetz (j b : Nat) (s : State) : Out := gset j b true s

/-- R98: waits, stalled and unperformed, until the slot is resolved. -/
def execGwait (a j : Nat) (s : State) : Out :=
  match s.cur.slot j with
  | .pending _ => .next s
  | .yes => scalar [] (fun c => c.writeG a 1) s
  | .no => scalar [] (fun c => c.writeG a 0) s

/-! ## FADDR and HOMEOF (R94) -/

/-- The fabric address of [gB + c], translated as a load would, with no permission needed beyond a valid mapping. -/
def Exec.query (b : Nat) (x : XOp) : Exec (Nat × Nat) := do
  Exec.need (b :: xRegs x)
  let ea := ((← Exec.ctx).ea b x 1).toNat
  return (← Exec.faOf .va ea .any, ea)

/-- R94: the fabric address. A plat-interleaved address in no region traps PLAT; an address of a space that the cube reserves
is the result as it was translated, since FADDR asks for no home (log entry 101). -/
def execFaddr (a b : Nat) (x : XOp) (s : State) : Out :=
  runSeq (do
    let r ← Exec.query b x
    let s ← get
    Exec.check (bitAt r.1 55 || (platResolve s.tables r.1).isSome) causePLAT r.2
    Exec.setReg a (w64 r.1)) s

/-- R94: the home in the layout of HOMEOF's result. Without a home the trap is the one that an access to the address takes:
PLAT where the layout gives no vault, and PROT where no parcel holds the vault or the station (log entry 101). -/
def execHomeof (a b : Nat) (x : XOp) (s : State) : Out :=
  runSeq (do
    let r ← Exec.query b x
    let s ← get
    match s.place r.1 with
    | .ok pl => Exec.setReg a (w64 (s.tables.gen % 256 * 2 ^ 48 + pl.cube * 2 ^ 32 + pl.ptag * 2 ^ 16 + pl.stn))
    | .error c => Exec.trap c r.2) s

end Sys2Proof.Machine
end

