-- ==== Sys2Proof/Machine/Turns.lean ====
section
/-! DEFINITION. Who acts next (R7), the event that a message is, and the fetch of an instruction's words (R57 to R60). -/

namespace Sys2Proof.Machine

/-- The event that a message in flight is. -/
def msgInstr : Msg → Option Instr
  | .none => none
  | .csr _ _ => none
  | .guardSlotResolution _ _ _ => some .guardSlotResolution
  | .pushStallRelease _ _ => some .pushStallRelease
  | .laneGroupArbitration _ => some .laneGroupArbitration
  | .vectorQueueStallRelease _ _ => some .vectorQueueStallRelease
  | .selection _ => some .selection
  | .suspension _ => some .suspension
  | .budgetTrap _ => some .budgetTrap
  | .poisonReport _ _ => some .poisonReport
  | .pageWalk _ _ _ => some .pageWalk
  | .taskPacket _ _ => some .taskPacket
  | .spillRefill _ => some .spillRefill
  | .dataArrivalWithHandler _ _ => some .dataArrivalWithHandler
  | .readRequest _ => some .readRequest
  | .readReply _ => some .readReply
  | .write _ => some .write
  | .hostWrite _ _ => some .write
  | .writeAcknowledgement _ => some .writeAcknowledgement
  | .atomic _ => some .atomic
  | .atomicReply _ => some .atomicReply
  | .engineCommand _ => some .engineCommand
  | .resultOrStatus _ => some .resultOrStatus
  | .waitArm _ => some .waitArm
  | .wake _ => some .wake
  | .publicationDemand _ => some .publicationDemand
  | .publicationComplete _ _ => some .publicationComplete
  | .writeBack _ => some .writeBack
  | .moved _ _ _ _ _ _ => some .moved
  | .refused _ _ _ _ _ _ => some .refused
  | .endToEndAcknowledgement _ _ _ _ _ _ => some .endToEndAcknowledgement
  | .retryTimeout _ _ _ _ _ _ => some .retryTimeout
  | .destinationLost _ => some .destinationLost
  | .packetRouting _ => some .packetRouting
  | .flit _ _ => some .flit
  | .replayTimeout _ => some .replayTimeout
  | .trainingComplete _ _ _ => some .trainingComplete
  | .linkDown _ => some .linkDown
  | .linkAdaptation _ => some .linkAdaptation
  | .collectiveContribution _ _ => some .collectiveContribution
  | .slotTimerExpiry _ _ => some .slotTimerExpiry
  | .rememberedKeyExpiry _ _ => some .rememberedKeyExpiry
  | .collectiveResult _ => some .collectiveResult
  | .soft _ => some .soft
  | .kernelMessageReserved _ => some .kernelMessageReserved
  | .preempt _ => some .preempt
  | .preemptRaised _ => some .preemptRaised
  | .resume _ => some .resume
  | .move _ => some .move
  | .config _ => some .config
  | .recordMove _ _ => some .recordMove
  | .stealRound _ => some .stealRound
  | .stealRequest _ _ => some .stealRequest
  | .stealBackoffExpiry _ => some .stealBackoffExpiry
  | .loadBalancing _ => some .loadBalancing
  | .fullEmptyCancel _ => some .fullEmptyCancel
  | .feCancel _ => some .fullEmptyCancel
  | .heldWriteRelease _ => some .heldWriteRelease
  | .leaseExpiry _ _ => some .leaseExpiry
  | .sigrcvExpiry _ => some .sigrcvExpiry
  | .mmaCommand _ => some .mmaCommand
  | .mtravCommand _ => some .mtravCommand
  | .traverseTile _ => some .traverseTile
  | .latchTimeout _ => some .latchTimeout
  | .mzeroCommand _ => some .mzeroCommand
  | .mstCommand _ => some .mstCommand
  | .mldCommand _ => some .mldCommand
  | .mmasdCommand _ => some .mmasdCommand
  | .tileTaskRecord _ _ _ => some .tileTaskRecord
  | .tileTaskDispatch _ => some .tileTaskDispatch
  | .cpchainCommand _ => some .cpchainCommand
  | .transferRecordComplete _ _ => some .transferRecordComplete
  | .gatherSublist _ _ _ => some .gatherSublist
  | .bkrunCommand _ => some .bkrunCommand
  | .bankQuantumExpiry _ => some .bankQuantumExpiry
  | .clredCommand _ => some .clredCommand
  | .clmcastCommand _ => some .clmcastCommand
  | .tableWrite _ _ => some .tableWrite
  | .platGenerationInstall _ _ _ _ => some .platGenerationInstall
  | .stripeHandover _ _ => some .stripeHandover
  | .parcelMapWrite _ _ => some .parcelMapWrite
  | .resizeHandover _ => some .resizeHandover
  | .backgroundRebuild _ => some .backgroundRebuild
  | .guardUpdate _ _ _ _ => some .guardUpdate
  | .portEnable _ => some .portEnable
  | .pcapWrite _ => some .pcapWrite
  | .monitorControlWrite _ _ => some .monitorControlWrite
  | .errorCounterClear => some .errorCounterClear
  | .datumSet _ => some .datumSet
  | .hostDeadDeclaration _ => some .hostDeadDeclaration
  | .tenantReset _ _ => some .tenantReset
  | .survey _ _ _ => some .survey
  | .doorbell _ _ _ => some .doorbell
  | .dmaWindowAccess _ _ _ _ _ _ => some .dmaWindowAccess
  | .hold _ _ => some .hold
  | .heartbeatSend _ => some .heartbeatSend
  | .heartbeat _ => some .heartbeat
  | .hostTimeout _ => some .hostTimeout
  | .powerGood _ _ _ _ => some .powerGood
  | .routerImageVerify _ => some .routerImageVerify
  | .stationBoot _ _ => some .stationBoot
  | .thermalReading _ _ => some .thermalReading
  | .governorMeasurement _ => some .governorMeasurement
  | .refresh _ => some .refresh
  | .targetedRefresh _ _ _ => some .targetedRefresh
  | .patrolScrub _ _ => some .patrolScrub
  | .scrubStep _ _ => some .patrolScrub
  | .sramError _ _ _ => some .patrolScrub
  | .rowActivations _ _ _ _ => some .targetedRefresh
  | .datumExchange => some .datumSynchronisation
  | .datumSynchronisation _ => some .datumSynchronisation
  | .monitorSample _ => some .monitorSample
  | .stealRefusal _ => some .stealRefusal

/-! ## Fetching (R57 to R60) -/

/-- Fetches words from an address up to and including the first base word, at most `n`; the word being fetched is counted in the
instruction's words (R80). -/
def Exec.fetch : Nat → Nat → Exec (List Nat)
  | 0, _ => pure []
  | k + 1, pc => do
    modify (fun s => { s with hand := { s.hand with words := s.hand.words + 1 } })
    let w := natOf (← Exec.readNow .x pc 2)
    if isPrefix w then return w :: (← Exec.fetch k (nextPc pc 1)) else return [w]

/-- What a context's fetch gives: its instruction, with its words counted, or the state after a trap or stall. A fetch that traps has
issued nothing, so that nothing is charged (R20, R59). -/
def State.fetch (s : State) : Except State (Instr × State) :=
  let s0 := { s with hand := { s.hand with words := 0, msg := .none } }
  match Exec.fetch 5 s.cur.pc s0 with
  | .error (.trap c a) t => .error (t.enterTrap t.hand.at_ c a s.cur.pc t.hand.words)
  | .error .stall t => .error t
  | .ok ws t =>
    match decodeWords ws with
    | .ok i => .ok (i, t)
    | .error p => .error (t.trap causeILL (w64 (nextPc s.cur.pc p)))

/-! ## Who acts next -/

/-- A context that can act: busy and not waiting for an answer. -/
def Ctx.canAct (c : Ctx) : Bool := c.busy && (c.flow.waitOn.isNone || c.flow.susp.isSome)

/-- Whether a station's scheduler can select (R235, R243, R286). -/
def Station.canSelect (t : Station) : Bool :=
  decide (t.boot = .released) && !t.sched.preempted && !t.sched.resuming && t.sched.ready.any (fun r => r.heldFor.isNone)

/-- Everyone who could act now. -/
def State.candidates (s : State) : List Who :=
  (if s.net.isEmpty then [] else [Who.net 0]) ++ (if s.ext.isEmpty then [] else [Who.ext]) ++
  (s.stations.filter (fun e => !e.2.vec.queues.isEmpty || !e.2.vec.pipe.isEmpty)).map (fun e => Who.arbiter e.1) ++
  (s.ctxs.filter (fun e => e.2.canAct)).map (fun e => Who.ctx (locOf e.1)) ++
  s.stations.filterMap (fun e => if e.2.canSelect then (s.freeCtx e.1).map Who.select else none) ++
  (s.vaults.map (fun v => match v.2.running with
    | some r => ((List.range 128).filter (fun b => !(Map.get {} r.banks b).halted)).map (fun b => Who.bank v.1 b)
    | none => [])).flatten

/-- Who acts next where the environment does not say: what is due first, otherwise each in turn; where nobody can act,
the next timed event. -/
def State.defaultWho (s : State) : Who :=
  match s.timers with
  | (d, _) :: _ => if d ≤ s.datum then .timer else (s.candidates[s.counts.rr % s.candidates.length]?).getD .timer
  | [] => (s.candidates[s.counts.rr % s.candidates.length]?).getD .timer

/-- Takes the message at a place in the line, or the oldest of its channel. -/
def State.takeNet (s : State) (k : Nat) : Option (Msg × State) :=
  match s.net[k]? with
  | none => none
  | some m =>
    match msgChannel m with
    | none => some (m, { s with net := s.net.eraseIdx k })
    | some ch =>
      (s.net.find? (fun x => msgChannel x == some ch)).map (fun x =>
        (x, { s with net := s.net.eraseP (fun x => msgChannel x == some ch) }))

/-- The datum moves on to a later value. The counter has 64 bits (R7): as it passes 2⁶⁴, so do the times of the timers. -/
def State.advanceTo (s : State) (d : Nat) : State :=
  if d < 2 ^ 64 then { s with datum := d } else { s with datum := d % 2 ^ 64, timers := s.timers.map (fun e => (e.1 - 2 ^ 64, e.2)) }

/-- Takes the next timed message; the datum is at least its time. -/
def State.takeTimer (s : State) : Option (Msg × State) :=
  match s.timers with
  | [] => none
  | (d, m) :: ts => some (m, State.advanceTo { s with timers := ts } (max s.datum d))

/-- Whether the stations and contexts that a turn names exist (R9). -/
def locOk (l : Loc) : Bool := decide (l.stn < 64 ∧ l.core < 8 ∧ l.ctx < 4)
def whoOk : Who → Bool
  | .ctx l => locOk l
  | .select l => locOk l
  | .bank v b => decide (v < 64 ∧ b < 128)
  | .arbiter n => decide (n < 64)
  | _ => true

/-- What a user context does at an instruction boundary before it fetches (R248): the event, if any. -/
def State.boundary (s : State) (l : Loc) : Option Msg :=
  let c := s.ctx l
  let leave : Option Msg := if (s.stn l.stn).sched.preempted && c.task.isSome then some (.suspension l) else none
  if c.flow.susp.isSome then some (.suspension l)
  else if c.sup then none
  else if c.flow.waitOn.isSome && c.flow.waitOn != some 0 then leave   -- within an instruction
  else if c.flow.bpend then some (.budgetTrap l)
  else match c.flow.ppend with
  | some a => some (.poisonReport l a.toNat)
  | none => leave

/-- Whether a context takes its station's next kernel message now (R240, R248): context 0 of core 0 does where no
context is free and its asynchronous traps are enabled. -/
def State.takesKmsg (s : State) (l : Loc) : Option Nat :=
  if l.core = 0 ∧ l.ctx = 0 ∧ (!(s.ctx l).sup ∨ (s.ctx l).aie) ∧ (s.freeCtx l.stn).isNone then
    (s.stn l.stn).kernel.pending.head?
  else none

/-- Removes the oldest kernel message that waits to be raised. -/
def State.popKmsg (s : State) (n : Nat) : State :=
  s.modStn n (fun t => { t with kernel := { t.kernel with pending := t.kernel.pending.drop 1 } })

end Sys2Proof.Machine
end

