-- ==== Sys2Proof/Machine/Tasks.lean ====
section
/-! DEFINITION. Task control (R110 to R117, R249), the task inbox (R18, R25, R233), selection (R19, R235) and records that
move (R140). -/

namespace Sys2Proof.Machine

/-! ## Retiring -/

/-- Retires a task that holds or leaves a station: its updates are sent and its save area goes back (R22, R23, R237); none
where its counters' tables are not at hand. -/
def State.retireTask (s : State) (stn : Nat) (r : RecEntry) (status cause : Nat) : Option State :=
  (s.retire? stn r status cause).map (fun t => t.pushArea stn r.body.frame)
/-- Retires a task and goes on; where its counters' tables have to be read first, they are asked for and it is to be tried again. -/
def State.retireThen (s : State) (stn : Nat) (r : RecEntry) (status cause : Nat) (k : State → State) : Bool × State :=
  match s.retireTask stn r status cause with
  | some t => (true, k t)
  | none => (false, s.askRetire stn r)

/-! ## Loading a context (R158, R235) -/

/-- What a selected record's instruction still does: one that was woken completes (R158). -/
def Ctx.resumeWith (c : Ctx) (r : Resume) : Ctx :=
  match r with
  | .complete a v n => { (c.writeG a v) with pc := nextPc c.pc n, csr := { c.csr with resume := 0 } }
  | _ => c

/-- R235 items 3 and 4: what a context takes from the record it runs. -/
def Ctx.load (c : Ctx) (r : RecEntry) : Ctx :=
  { c with pc := r.body.pc, task := some { r with sig := none, resume := .again }
           csr := { c.csr with deadln := w64 r.body.deadline, latedrop := r.body.latedrop, budget := r.body.budget } }

/-! ## The task inbox (R25, R233) -/

/-- Lowers the sender's wait counter once a packet is accepted or refused (R111). -/
def State.senderDone (s : State) (src : Src) (counter : Nat) : State :=
  match src with
  | .task l tid => if (s.ctx l).tid = tid then s.modCtx l (fun c => c.addCount counter false) else s
  | .packet p => s.ackPkt p
  | _ => s

/-- The record of a task packet. -/
def TaskPkt.rec (p : TaskPkt) : Rec := recOfDws ((p.dws.drop 4).map (fun w => w.toNat))

/-- R25: whether a payload is well formed for a station. -/
def taskPktOk (p : TaskPkt) (ptag : Nat) : Bool :=
  let d := fun i => (p.dws.getD i 0).toNat
  let r := (p.dws.drop 4).map (fun w => w.toNat)
  let rc := recOfDws r
  bitsOf (d 0) 63 56 == 0 && bitsOf (d 1) 63 56 == 0 && bitsOf (d 2) 63 16 == 0 && d 3 == 0 && recReservedOk r &&
  rc.frame == 0 && !rc.arrived && !rc.pinlost && (rc.kind == 0 || rc.kind == 2) && bitsOf (d 2) 15 0 == ptag

/-- R18: whether a record is late and is not to run. -/
def State.lateDrop (s : State) (r : Rec) : Bool := r.latedrop && r.deadline != 0 && decide (r.deadline < s.datum)

/-- A record as it comes into being on this cube. -/
def State.newRecord (s : State) (stn : Nat) (body : Rec) (reply : Nat) (sig : Option Sig) : RecEntry × State :=
  let t := s.freshTid
  ({ body := body, tid := t.1, ptag := s.ptagAt stn, reply := reply, key := 0, arr := 0, slot := 0, sig := sig, heldFor := none
     resume := .again }, t.2)

/-- A packet that the inbox accepts: refused FAULT, retired LATE, or inserted; whether that could be done now. -/
def State.acceptPacket (s : State) (stn : Nat) (p : TaskPkt) : Bool × State :=
  let reply := bitsOf (p.dws.getD 1 0).toNat 55 0
  if !taskPktOk p (s.ptagAt stn) then (true, (s.refuseRecord stn reply).senderDone p.src p.counter)
  else
    let t := s.newRecord stn (TaskPkt.rec p) reply p.sig
    if s.lateDrop t.1.body then t.2.retireThen stn t.1 1 0 (fun u => u.senderDone p.src p.counter)
    else (true, (t.2.insertReady stn t.1).senderDone p.src p.counter)

/-- Accepts what waits in the inbox, as far as the store takes it. -/
def State.drainInbox (s : State) (stn : Nat) : Nat → State
  | 0 => s
  | k + 1 =>
    match (s.stn stn).sched.inbox with
    | [] => s
    | p :: _ =>
      if !s.canInsert stn then s
      else
        let x := s.acceptPacket stn p
        if x.1 then (x.2.modSched stn (fun c => { c with inbox := c.inbox.drop 1 })).drainInbox stn k
        else x.2.send (.spillRefill stn)

/-! ## Data arrivals with a handler (R29, R232) -/

/-- The record of a handler (R29). -/
def handlerRec (d : DataArr) : Rec :=
  { kind := 2, pin := true, pc := d.pc, budget := d.left, arg0 := w64 d.addr, arg1 := w64 d.data.length }

/-- Starts a handler: in an idle context, which takes a slot, or as a ready record. One that starts at once has the key of a record
that enters the ready store then, which a YIELD keeps (R19, R115; log entry 94). -/
def State.startHandler (s : State) (stn : Nat) (d : DataArr) : State :=
  let t := s.newRecord stn (handlerRec d) 0 d.sig
  match (if (s.stn stn).kernel.pending.isEmpty then s.freeCtx stn else none) with
  | none => t.2.insertReady stn t.1
  | some l =>
    let c := (s.stn stn).sched
    let slotted : Nat × State :=
      match freeSlot c.slots, lastRec c.ready with
      | some k, _ => (k, t.2)
      | none, some x => (x.slot, (t.2.dropRecord stn x).addSpill stn x)
      | none, none => (0, t.2)
    let r := { t.1 with slot := slotted.1, key := s.keyOf stn t.1.body }
    let s1 := slotted.2.modSched stn (fun c => { c with slots := c.slots.add slotted.1 })
    let s2 := (s1.putImage stn r).setCtx l ((startOf (s.ctx l).files.bank r.body).load r)
    match d.sig with | some g => s2.acquireSig stn g | none => s2

/-- Delivers an arrival: refused where it touches a window, otherwise written and its handler started. -/
def State.deliverData (s : State) (stn : Nat) (d : DataArr) : State :=
  let off := d.addr % 2 ^ 22
  if (s.stn stn).slice.windows.any (fun w => decide (off < w.stash + w.len ∧ w.stash < off + d.data.length)) then
    let s1 := s.countError 12 1
    match d.src with
    | .packet p => s1.nackPkt p false
    | _ => s1.senderDone d.src d.counter
  else match s.place d.addr with
  | .ok pl => (((s.performWrite pl d.addr d.data []).1).startHandler stn d).senderDone d.src d.counter
  | .error _ => s.senderDone d.src d.counter

/-! ## Accepting what waits (R27, R233, R243, R244) -/

/-- Redelivers spilled messages in their order of arrival, as far as the store takes them (R244). -/
def State.redeliver (s : State) (stn : Nat) : Nat → State
  | 0 => s
  | k + 1 =>
    let gone := fun (t : State) => t.modSched stn (fun c => { c with spilledMsgs := c.spilledMsgs.drop 1 })
    match (s.stn stn).sched.spilledMsgs with
    | [] => s
    | .taskPacket _ p :: _ =>
      if !s.canInsert stn then s
      else
        let x := s.acceptPacket stn p
        if x.1 then (gone x.2).redeliver stn k else x.2.send (.spillRefill stn)
    | .dataArrivalWithHandler _ d :: _ => if !s.canInsert stn then s else (gone (s.deliverData stn d)).redeliver stn k
    | _ :: _ => (gone s).redeliver stn k

/-- A station that is not pre-empted accepts what waits at it: its inbox, then what it spilled. -/
def State.takeIn (s : State) (stn : Nat) : State :=
  if (s.stn stn).sched.preempted then s
  else
    let t := s.drainInbox stn (s.stn stn).sched.inbox.length
    if (t.stn stn).sched.inbox.isEmpty then t.redeliver stn (t.stn stn).sched.spilledMsgs.length else t

/-- Whether a message that arrives now joins the spilled ones (R243, R244). -/
def Sched.spills (c : Sched) : Bool := c.preempted || c.resuming || !c.spilledMsgs.isEmpty
/-- A message joins the spilled ones, in order of arrival. The first of them, up to MSGQSZ bytes, lie in the message spill queue;
the others wait behind it under flow control (R243). -/
def State.spillMessage (s : State) (stn : Nat) (m : Msg) : State := s.modSched stn (fun c => { c with spilledMsgs := c.spilledMsgs ++ [m] })

/-- SPILL_REFILL (R234): up to 64 spilled records come back, earliest first; what waits at the station is then accepted. -/
def execSpillRefill (s : State) : Out :=
  match s.hand.msg with
  | .spillRefill stn => .next (if (s.stn stn).sched.preempted then s else (s.refill stn 64).takeIn stn)
  | _ => .next s

/-- Retires the task of a context and frees it; whether that could be done now. -/
def State.retireCtx (s : State) (l : Loc) (r : RecEntry) (status cause : Nat) : Bool × State :=
  s.retireThen l.stn r status cause (fun t => ((t.releaseSlot l.stn r.slot).freeContext l).takeIn l.stn)

/-- TASK_PACKET: the inbox holds 64 packets; while it is full, and while the store and the spill are, packets wait under flow control
(R25, R27). -/
def execTaskPacket (s : State) : Out :=
  match s.hand.msg with
  | .taskPacket stn p =>
    let c := (s.stn stn).sched
    if c.spills then .next (s.spillMessage stn s.hand.msg)
    else if 64 ≤ c.inbox.length then .next (s.requeue s.hand.msg)
    else .next ((s.modSched stn (fun c => { c with inbox := c.inbox ++ [p] })).takeIn stn)
  | _ => .next s

/-! ## Selection (R19, R235) -/

/-- The vector images that a save area's head names, read one after another. -/
def Exec.readVectors (rd : Nat → Nat → Exec (List Byte)) (frame : Nat) : List Nat → Exec (Map VReg)
  | [] => pure []
  | n :: ns => do
    let bs ← rd (frame + saveV n) 1024
    return Map.set 0 (← Exec.readVectors rd frame ns) n (BitVec.ofNat 8192 (natOf bs))

/-- Reads bytes of a save area at their home, on this cube or another. -/
def Exec.readSaved (fa n : Nat) : Exec (List Byte) := do
  let s ← get
  let buf := s.cur.flow.rbuf
  match s.place fa with
  | .error c => Exec.trap c fa
  | .ok pl =>
    Exec.got (readBytes (fun x => s.wordAtHome buf { pl with canon := pl.canon + x - fa } x) fa fa n)

/-- Takes a record out of a ready store for a context. -/
def State.takeReady (s : State) (stn : Nat) (r : RecEntry) : State :=
  (s.modSched stn (fun c => { c with ready := c.ready.filter (fun x => x.tid != r.tid) })).wantRefill stn

/-- A free context runs a record. -/
def Exec.runRecord (l : Loc) (r : RecEntry) : Exec Unit := do
  let s ← get
  let bank := (s.ctx l).files.bank
  if r.body.frame = 0 then
    set ((s.takeReady l.stn r).setCtx l ((startOf bank r.body).load r))
  else
    let head ← Exec.readSaved r.body.frame 2048
    if !saveReservedOk head then
      -- R236: retired FAULT with cause 0
      let x := s.retireThen l.stn r 3 0 (fun t => (t.takeReady l.stn r).releaseSlot l.stn r.slot)
      set x.2
      Exec.wait x.1
    else
      let d2 := natOf ((head.drop 16).take 8)
      let vs ← Exec.readVectors Exec.readSaved r.body.frame ((List.range 32).filter (fun n => bitAt d2 (32 + n)))
      let s ← get
      set ((s.takeReady l.stn r).setCtx l (((restoreFrom bank head (fun n => Map.get 0 vs n)).load r).resumeWith r.resume))
  -- the matching acquire of the record's insertion or move (R113, R140)
  match r.sig with
  | some g => modify (fun s => s.acquireSig l.stn g)
  | none => pure ()
  modify (fun s => s.takeIn l.stn)

/-- SELECTION: the lowest free context of a released station that is not pre-empted takes the smallest key; a record that is late
and discards late is retired instead. A save area that cannot be read retires its task POISON (log entry 16). A record waits while
its save area is still being written. -/
def execSelection (s : State) : Out :=
  match s.hand.msg with
  | .selection at_ =>
    let n := at_.stn
    let t := s.stn n
    match s.freeCtx n, firstRec (t.sched.ready.filter (fun r => r.heldFor.isNone)) with
    | some l, some r =>
      if !t.canSelect || !t.kernel.pending.isEmpty || (decide (r.body.frame ≠ 0) && s.storing (r.body.frame + 16)) then .next s
      else
        let gone := fun (u : State) => ((u.takeReady n r).releaseSlot n r.slot).takeIn n
        if s.lateDrop r.body then .next (s.retireThen n r 1 0 gone).2
        else
          match Exec.runRecord l r { s with hand := { s.hand with at_ := l } } with
          | .ok _ u => .next u
          | .error .stall u => .next u
          | .error (.trap _ _) u => .next (u.retireThen n r 4 0 gone).2
    | _, _ => .next s
  | _ => .next s

/-! ## SPAWN and FORK (R111, R112) -/

/-- What a release of everything earlier waits for (R111, R113). -/
def Exec.beforeChild : Exec Unit := Exec.beforeRelease .dom

/-- Puts a child into the task inbox of the parent's station; a full inbox stalls (R27, R111). -/
def Exec.localChild (reply : Nat) (r : Rec) : Exec Unit := do
  let s ← get
  let n := s.hand.at_.stn
  Exec.wait (decide ((s.stn n).sched.inbox.length < 64))
  let dws := [0, w64 reply, w64 (s.ptagAt n), 0] ++ (recDws r).map w64
  modify (fun s => s.send (.taskPacket n ⟨dws, .cube, 0, none, 0⟩))

/-- The address that a register holds, translated as a load would and with a home the task may reach; 0 stays 0. -/
def Exec.loadFa (va : Nat) : Exec (Option (Nat × Place)) := do
  if va = 0 then return none
  let fa ← Exec.faOf .va va .r
  let pl ← Exec.home .va fa va
  return some (fa, pl)

/-- SPAWN. An anchor that is homed at the parent's own station makes a child as an anchor of 0 does: it is counted in no wait counter,
and a full inbox stalls the parent (log entry 93). -/
def execSpawn (a b c : Nat) (s : State) : Out :=
  runSeq (do
    Exec.need [a, b, c]
    Exec.beforeChild
    Exec.afterAcquire
    let k ← Exec.ctx
    let va := (k.readG b).toNat
    Exec.check (va % 64 == 0) causeALIGN va
    let d := dwsOf 8 (← Exec.readOwn va 64)
    let anchor ← Exec.loadFa (k.readG a).toNat
    let reply ← Exec.loadFa (k.readG c).toNat
    let rfa := match reply with | some x => x.1 | none => 0
    let t := recOfDws d
    let s ← get
    let l := s.hand.at_
    if t.kind != 0 || !recReservedOk d then set (s.refuseRecord l.stn rfa)
    else
      let own := t.deadline != 0
      let child : Rec := { t with
        arrived := false, pinlost := false, frame := 0
        deadline := if own then t.deadline else k.csr.deadln.toNat
        latedrop := if own then t.latedrop else k.csr.latedrop
        wclass := if own then t.wclass else (k.task.map (fun r => r.body.wclass)).getD 0
        budget := if t.budget != 0 then t.budget else k.csr.budget }
      match anchor with
      | none => Exec.localChild rfa child
      | some (fa, pl) =>
        let dws := [w64 fa, w64 rfa, w64 pl.ptag, 0] ++ (recDws child).map w64
        let n := s.counterFor l.stn pl
        if n = 0 then
          Exec.wait (decide ((s.stn l.stn).sched.inbox.length < 64))
          set (s.send (.taskPacket l.stn ⟨dws, .cube, 0, none, 0⟩))
        else
          let p : TaskPkt := ⟨dws, .task l k.tid, n, none, 0⟩
          set ((s.modCtx l (fun c => c.addCount n true)).beginPublication ⟨s.cube, l.stn, 0, .task pl.cube pl.stn p⟩)) s

/-- FORK. -/
def execFork (a b : Nat) (off : Int) (s : State) : Out :=
  let c := s.cur
  if [a, b, b + 1].any c.owed then .next s
  else
    let target := relTarget c.pc off
    let x := c.readG b
    let y := c.readG (b + 1)
    if c.readG a = 0 then
      runSeq (do
        Exec.beforeChild
        Exec.localChild 0 { pc := target, arg0 := x, arg1 := y, joinctr := y.toNat, deadline := c.csr.deadln.toNat
                            latedrop := c.csr.latedrop, wclass := (c.task.map (fun r => r.body.wclass)).getD 0
                            budget := c.csr.budget }) s
    else
      scalarTo [] (fun c => ((c.writeG 1 x).writeG 2 y).writeG linkReg (w64 s.nextOf)) (fun _ => target) s

/-- JOIN (R114): an acquire at domain scope. -/
def execJoin (a b : Nat) (x : XOp) (s : State) : Out :=
  runSelf (do
    Exec.need (b :: xRegs x)
    let c ← Exec.ctx
    Exec.armWait .join .va (c.readG b).toNat (c.xval x) a 2 3) s

/-! ## YIELD, EXIT, PIN, UNPIN -/

/-- A context that entered supervisor mode without a task has none to dispose of (R249). -/
def Ctx.noTask (c : Ctx) : Bool := c.sup && c.task.isNone

/-- YIELD (R115, R249): the suspension follows. -/
def execYield (s : State) : Out :=
  if s.cur.noTask then .next (s.trap causeILL (w64 s.baseAddr))
  else .next (s.retire.modCur (fun c => { c with flow := { c.flow with susp := some .yield } }))

/-- EXIT (R116, R249). -/
def execExit (a : Nat) (s : State) : Out :=
  let c := s.cur
  let l := s.hand.at_
  if c.owed a then .next s
  else
    let v := c.readG a
    if c.noTask || (c.sup && decide (7 < v.toNat)) then .next (s.trap causeILL (w64 s.baseAddr))
    else match c.task with
    | none => .next s.retire
    | some r =>
      let ready := c.files.slots.all (fun x => match x with | .pending _ => false | _ => true) && !s.vecPending l &&
        c.flow.c1 == 0 && c.flow.c2 == 0 && !c.flow.flights.any Exec.isStoring
      let status := if c.sup then v.toNat else if v = 0 then 0 else 7
      if !ready then .next s
      else .next (s.retireCtx l r status (if c.sup then c.csr.tcause else 0)).2

/-- Changes PIN in the task's record (R117). -/
def setPin (on : Bool) (s : State) : Out :=
  scalar [] (fun c => { c with task := c.task.map (fun r => { r with body := { r.body with pin := on } }) }) s
def execPin (s : State) : Out := setPin true s
def execUnpin (s : State) : Out := setPin false s

/-! ## Records that move (R140) -/

/-- Where a record goes that has come to a station which is no longer its tenant's (R12): a station of its parcel, or else of its
tenant. -/
def State.tenantStn (s : State) (r : RecEntry) : Option Nat :=
  let ps := s.tables.parcels
  let own := ps.filter (fun p => p.ptag == r.ptag) ++ ps.filter (fun p => some p.tenant == s.tenantOf r.ptag)
  (own.flatMap (servedStns ps)).head?

/-- Whether a record that is held for a station is anywhere: in a store, or on its way (R244). -/
def State.anyHeldFor (s : State) (n : Nat) : Bool :=
  let mine := fun (d : Demand) => match d.pubFor with | .record _ _ r => r.heldFor == some n | _ => false
  s.records.any (fun e => e.2.heldFor == some n) || s.stations.any (fun e => e.2.slice.pubs.any (fun p => mine p.demand)) ||
  s.net.any (fun m => match m with
    | .recordMove _ r => r.heldFor == some n
    | .publicationComplete d _ => mine d
    | .publicationDemand d => mine d
    | _ => false)

/-- A resuming station goes on selecting and stealing once the records held for it are back (R244). -/
def State.resumed (s : State) (n : Nat) : State :=
  if (s.stn n).sched.resuming && !s.anyHeldFor n then
    (((s.modSched n (fun c => { c with resuming := false })).takeIn n).wantRefill n).seekWork n
  else s

/-- A thief's request is answered by the record that the steal handed over; its next round starts one neighbour later (R239). -/
def State.stealAnswered (s : State) (stn : Nat) (r : RecEntry) : State :=
  if r.granted then
    s.modStn stn (fun t => { t with steal := { t.steal with waiting := false, asked := 0, first := (t.steal.first + 1) % 4 } })
  else s

/-- A record enters the store of a station that it has reached; what it counted in C3 on another cube counts here. -/
def State.recordArrives (s : State) (stn : Nat) (r : RecEntry) : State :=
  let s1 := (s.setC3 r.tid (s.c3of r.tid + r.c3)).insertReady stn { r with ptag := s.ptagAt stn, c3 := 0 }
  { s1 with away := Map.set 0 s1.away r.tid 0 }

/-- RECORD_MOVE: a record arrives at another station's ready store, or comes back to the station that it was held for; one that is
held for a station which has resumed goes on to it. -/
def execRecordMove (s : State) : Out :=
  match s.hand.msg with
  | .recordMove stn r0 =>
    let r := { r0 with granted := false }
    let s := s.stealAnswered stn r0
    if s.tenantAt stn ≠ s.tenantOf r.ptag then
      .next (match s.tenantStn r with | some d => s.send (.recordMove d r) | none => s.requeue (.recordMove stn r))
    else if (s.stn stn).sched.preempted then .next (s.sendAway stn r)
    else if r.heldFor = some stn then
      (if !s.canInsert stn then .next (s.requeue (.recordMove stn r)) else .next ((s.recordArrives stn { r with heldFor := none }).resumed stn))
    else match r.heldFor with
    | some n =>
      if !(s.stn n).sched.preempted then .next (s.sendRecord stn s.cube n r)
      else if !s.canInsert stn then .next (s.requeue (.recordMove stn r))
      else .next (s.recordArrives stn r)
    | none => if !s.canInsert stn then .next (s.requeue (.recordMove stn r)) else .next (s.recordArrives stn r)
  | _ => .next s

/-- DATA_ARRIVAL_WITH_HANDLER. -/
def execDataArrivalWithHandler (s : State) : Out :=
  match s.hand.msg with
  | .dataArrivalWithHandler stn d =>
    let c := (s.stn stn).sched
    if c.spills then .next (s.spillMessage stn s.hand.msg)
    else if !s.canInsert stn then .next (s.requeue s.hand.msg)
    else .next (s.deliverData stn d)
  | _ => .next s

end Sys2Proof.Machine
end

