-- ==== Sys2Proof/Machine/Fabric.lean ====
section
/-! DEFINITION. End-to-end delivery (R259 to R265, R268): what a router drops, routes and delivers, duplicate filters, forwarding,
and what a source does with acknowledgements, refusals, retries and lost destinations. -/

namespace Sys2Proof.Machine

/-! ## What is dropped (R260, R299) -/

/-- The qualifiers of a packet carry no reserved bit or code. -/
def qualOk (typ qual : Nat) : Bool :=
  if typ = 0x00 ∨ typ = 0x02 then qual / 16 == 0 && qual % 4 != 3
  else if typ = 0x04 then qual / 16 == 0
  else qual == 0

/-- Whether `n` bytes lie in one region and touch at most 16 block words (R299). -/
def oneRegion (fa n : Nat) : Bool := decide (fa / 2048 = (fa + n - 1) / 2048 ∧ (fa % 16 + n + 15) / 16 ≤ 16)

/-- A payload carries no reserved bit or code and has its rule's length (R25, R26, R164, R232, R240, R299, R300). -/
def payloadOk (h : Hdr) (b : Body) : Bool :=
  let bs := bodyBytes b
  let d := dwsOf 3 bs
  let x := d.getD 0 0
  let sized := h.len == bs.length
  match b with
  | .raw _ =>
    sized &&
    (match h.typ with
     | 0x00 => bs.length == 8 && bitsOf x 63 11 == 0 && bitsOf x 10 9 != 3 && decide (1 ≤ bitsOf x 8 0 ∧ bitsOf x 8 0 ≤ 128) &&
         oneRegion h.addr (bitsOf x 8 0)
     | 0x01 =>
       let sig := if bitAt (d.getD 1 0) 0 then 64 else 0
       bitsOf (d.getD 1 0) 63 1 == 0 && decide (17 + sig ≤ bs.length ∧ bs.length ≤ 144 + sig)
     | 0x02 => decide (1 ≤ bs.length ∧ bs.length ≤ 256) && oneRegion h.addr bs.length
     | 0x03 => bs.isEmpty
     | 0x04 => bs.length == 24 && bitsOf x 63 6 == 0 && decide (bitsOf x 3 0 ≤ 12) &&
         (!bitAt x 4 || (bitsOf (d.getD 1 0) 63 32 == 0 && bitsOf (d.getD 2 0) 63 32 == 0))
     | 0x05 => bs.length == (if bitAt (d.getD 1 0) 5 then 80 else 16) && bitsOf (d.getD 1 0) 63 6 == 0
     | 0x06 => bs.length == 96
     | 0x07 => bs.length == 64
     | 0x08 => bs.length == 16
     | 0x0F => collPayloadOk false bs
     | 0x10 => collPayloadOk true bs
     | 0x11 => bs.length == 64
     | 0x13 => bs.length % 8 == 0 && decide (24 ≤ bs.length ∧ bs.length ≤ 256)
     | _ => true)
  | .signed _ _ _ _ =>
    sized && (if h.typ = 0x06 then bs.length == 96 else if h.typ = 0x07 then bs.length == 64
      else bs.length % 8 == 0 && decide (24 ≤ bs.length ∧ bs.length ≤ 256))
  | _ => sized

/-- R260: whether a receiving router keeps a packet. -/
def packetOk (p : Packet) : Bool :=
  p.hdr.ecrc == ecrcOf p.hdr p.body && decide (p.hdr.typ ≤ 0x13) && p.hdr.resv == 0 && qualOk p.hdr.typ p.hdr.qual &&
  payloadOk p.hdr p.body

/-! ## What a packet asks (R25, R26, R232, R240, R299) -/

/-- Where a packet came from. -/
def srcOf (h : Hdr) : PktSrc := ⟨h.snode, srcNo h.snode h.sstn h.ptag, h.onode, h.ostn, h.cls, h.seq, h.ptag, h.addr, h.fwd⟩

/-- The number of an answer's addressee at its node. -/
def addressee (h : Hdr) : Nat := srcNo h.dnode h.dstn h.ptag

/-- A signature behind `n` bytes of a payload. -/
def tailSig (n : Nat) (bs : List Byte) : Option Sig := if n + 64 ≤ bs.length then some (sigOfBytes (bs.drop n)) else none

/-- A read, write or atomic of R299. -/
def readOf (h : Hdr) (bs : List Byte) : ReadReq :=
  let x := natOf (bs.take 8)
  ⟨0, .packet (srcOf h), h.sstn, .answer, h.addr, h.addr, bitsOf x 8 0, h.qual % 4, h.qual / 4 % 4, bitsOf x 10 9, h.ptag, 0⟩
def writeOf (h : Hdr) (bs : List Byte) : WriteReq :=
  ⟨0, .packet (srcOf h), h.sstn, h.addr, h.addr, bs, pmaskWords h.addr h.pmask, h.qual % 4, h.qual / 4 % 4, 0, 0, 0, h.ptag⟩
def atomOf (h : Hdr) (bs : List Byte) : AtomReq :=
  let d := dwsOf 3 bs
  let x := d.getD 0 0
  ⟨0, .packet (srcOf h), h.sstn, h.addr, h.addr, bitsOf x 3 0, bitAt x 4, d.getD 1 0, d.getD 2 0, h.qual % 4, h.qual / 4 % 4,
    if bitAt x 5 then 1 else 0, 0, 0, 0, h.ptag⟩

/-- Who waits for a wake that arrives from another cube. -/
def State.wakeSrc (s : State) (w : WaitReg) : Src :=
  if w.tid ≠ 0 then .cube
  else match (stnLocs w.stn).find? (fun l => (s.ctx l).flow.waitOn.isSome && (s.ctx l).tid == 0) with
  | some l => .task l 0
  | none => .cube

/-- The event that a request packet is at its destination, and whether its performing acknowledges it later. -/
def State.eventOf (s : State) (p : Packet) (stn : Nat) : Option (Msg × Bool) :=
  let h := p.hdr
  let me : Src := .packet (srcOf h)
  match h.typ, p.body with
  | 0x00, .raw bs => some (.readRequest (readOf h bs), true)
  | 0x02, .raw bs => some (.write (writeOf h bs), true)
  | 0x02, .guard fa d x q => some (.guardUpdate fa d x q, false)
  | 0x04, .raw bs => some (.atomic (atomOf h bs), true)
  | 0x04, .fe a => some (.atomic { a with src := me }, true)
  | 0x04, .cancel a => some (.feCancel { a with src := me }, false)
  | 0x06, .raw bs => some (.taskPacket stn ⟨(dwsOf 12 bs).map w64, me, 0, none, 0⟩, true)
  | 0x06, .signed bs g _ _ => some (.taskPacket stn ⟨(dwsOf 12 bs).map w64, me, 0, g, 0⟩, true)
  | 0x06, .record r => some (.recordMove stn r, false)
  | 0x07, .signed bs g inbox tid => some (.engineCommand ⟨cmdOfDws (dwsOf 8 bs), inbox % 4, stn, s.cube, me, tid, g⟩, true)
  | 0x08, .result r => some (.resultOrStatus r, false)
  | 0x09, .wait w => some (.waitArm { w with src := me }, true)
  | 0x0A, .wake w => some (.wake { w with reg := { w.reg with src := s.wakeSrc w.reg } }, false)
  | 0x0B, .demand d => some (.publicationDemand d, false)
  | 0x0B, .published d g => some (.publicationComplete d g, false)
  | 0x0C, .writeBack w => some (.writeBack { w with src := me }, true)
  | 0x11, .raw bs => some (kmsgEvent ⟨stn, (dwsOf 8 bs).map w64, h.snode, h.sstn, me, 0⟩, true)
  | 0x12, .table t => some (.tableWrite (s.endpointOf h.snode h.ptag) t, false)
  | 0x12, .install gen regions cubes => some (.platGenerationInstall (s.endpointOf h.snode h.ptag) gen regions cubes, false)
  | 0x12, .parcelMap q => some (.parcelMapWrite (s.endpointOf h.snode h.ptag) q, false)
  | 0x12, .reset t => some (.tenantReset (s.endpointOf h.snode h.ptag) t, false)
  | 0x12, .survey dest => some (.survey (s.endpointOf h.snode h.ptag) 0 dest, false)
  | 0x12, .mgmt 4 a b => some (.hold a b, false)
  | 0x12, .mgmt 5 a _ => some (.heartbeat a, false)
  | 0x12, .mgmt 6 _ _ => some (.datumSynchronisation 0, false)
  | 0x13, .signed bs g _ _ =>
    let d := dwsOf 2 bs
    some (.dataArrivalWithHandler stn ⟨h.addr, h.ptag, d.getD 0 0, d.getD 1 0, bs.drop 16, g, me, 0⟩, true)
  | _, _ => none

/-! ## Handover of a stripe (R270) -/

/-- The new home takes a stripe's data, with its poison, and each chunk's LEASEMAX, witness and waiters; it serves the stripe
from now on. -/
def State.takeHandover (s : State) (fa len : Nat) (words : List (BlockWord × Bool)) (leases : Map Nat)
    (wits : List (Nat × Nat × Nat × Nat × Sig)) (waits : List WaitReg) : State :=
  let s0 := { s with tables := { s.tables with moved := (fa, len) :: s.tables.moved } }
  let s1 := words.zipIdx.foldl (fun st e =>
    let a := fa + 16 * e.2
    match st.place a with
    | .ok pl => if pl.cube = st.cube then st.putDram a pl.canon e.1.1 e.1.2 else st
    | .error _ => st) s0
  let home := fun (a : Nat) => match s1.place a with | .ok pl => pl.stn | .error _ => 0
  let s2 := leases.foldl (fun st e => st.modHome (home (e.1 * 64)) (fun h =>
    { h with leasemax := Map.set 0 h.leasemax e.1 (max e.2 (Map.get 0 h.leasemax e.1)) })) s1
  let s3 := wits.foldl (fun st e => st.record (home (e.1 * 8)) (e.1 * 8) 8 e.2.1 e.2.2.1 e.2.2.2.1 e.2.2.2.2) s2
  waits.foldl (fun st w => st.modHome (home w.fa) (fun h => { h with waiters := h.waiters ++ [w] })) s3

/-! ## Filters and delivery (R263, R268) -/

/-- The types whose ADDR names what they act on, and so decides who owns them. -/
def addrTyped (typ : Nat) : Bool := [0x00, 0x02, 0x04, 0x06, 0x09, 0x0C, 0x13].contains typ

/-- The filter of a packet's source, original destination and class; a new one accepts from number 1. -/
def State.filterOf (s : State) (h : Hdr) : Filter :=
  (s.e2e.filters.find? (fun x => decide (x.snode = h.snode ∧ x.sstn = srcNo h.snode h.sstn h.ptag ∧ x.onode = h.onode ∧ x.ostn = h.ostn ∧ x.cls = h.cls))).getD
    ⟨h.snode, srcNo h.snode h.sstn h.ptag, h.onode, h.ostn, h.cls, 0, [], 1, [], [], []⟩
def State.setFilter (s : State) (f : Filter) : State :=
  { s with e2e := { s.e2e with filters := f :: s.e2e.filters.filter (fun x =>
      !decide (x.snode = f.snode ∧ x.sstn = f.sstn ∧ x.onode = f.onode ∧ x.ostn = f.ostn ∧ x.cls = f.cls)) } }

/-- Whether a filter accepts a number, and how far it lies above H. -/
def Filter.ahead (f : Filter) (n : Nat) : Nat := (n + 2 ^ 24 - f.high) % 2 ^ 24
def Filter.accepts (f : Filter) (n : Nat) : Bool :=
  decide (1 ≤ f.ahead n ∧ f.ahead n < 2 ^ 23) || (decide ((f.high + 2 ^ 24 - n) % 2 ^ 24 ≤ 4095) && !f.bits.has n)
/-- A number is accepted: its bit is set, and bits beyond the 4,096 up to H are forgotten. -/
def Filter.take (f : Filter) (n : Nat) : Filter :=
  let high := if 1 ≤ f.ahead n ∧ f.ahead n < 2 ^ 23 then n else f.high
  let young := fun (x : Nat) => decide ((high + 2 ^ 24 - x) % 2 ^ 24 ≤ 4095)
  { f with high := high, bits := (f.bits.add n).filter (fun e => young e.1), performed := f.performed.filter (fun e => young e.1)
           replies := f.replies.filter (fun e => young e.1) }
/-- Whether a number that a filter does not accept lies below its window. -/
def Filter.below (f : Filter) (n : Nat) : Bool := decide (4095 < (f.high + 2 ^ 24 - n) % 2 ^ 24)
/-- Whether a number's turn in class O has come, or has passed without its packet having been performed. -/
def Filter.due (f : Filter) (n : Nat) : Bool := decide ((f.nextO + 2 ^ 24 - n) % 2 ^ 24 < 2 ^ 23)

/-- R268: a packet for an address that another node owns is forwarded, and kept until its copy is acknowledged. -/
def State.forward (s : State) (p : Packet) (cube stn : Nat) : State :=
  let h := p.hdr
  let q := mkPacket { h with dnode := cube, dstn := stn, fwd := true, hops := 0 } p.body
  (State.send { s with e2e := { s.e2e with forwarded := s.e2e.forwarded ++ [(p, q)] } } (.packetRouting q)).schedule
    (s.datum + s.router.retry) (.retryTimeout h.snode h.sstn h.cls h.onode h.ostn h.seq)

/-- Whether one plat generation lies before another. -/
def genBefore (a b : Nat) : Bool := decide (1 ≤ (b + 2 ^ 16 - a % 2 ^ 16) % 2 ^ 16 ∧ (b + 2 ^ 16 - a % 2 ^ 16) % 2 ^ 16 < 2 ^ 15)

/-- Performs a packet that this cube owns. A task packet whose tag does not match retires FAULT (R25). -/
def State.performHere (s : State) (p : Packet) (stn : Nat) : State :=
  let src := srcOf p.hdr
  match p.body with
  | .handover fa len ws ls wits waits => (s.takeHandover fa len ws ls wits waits).ackPkt src
  | _ => match s.eventOf p stn with
    | some (.taskPacket n q, _) =>
      if s.tenantOf p.hdr.ptag ≠ s.tenantAt n then (s.refuseRecord n (bitsOf (q.dws.getD 1 0).toNat 55 0)).ackPkt src
      else s.send (.taskPacket n q)
    | some (m, true) => s.send m
    | some (m, false) => (s.send m).ackPkt src
    | none => s.ackPkt src

/-- An accepted packet is performed, forwarded to its address's owner (R268), answered MOVED where it was sent under a layout that has
been retired (R269), or refused: no entry for the address is answered MOVED, no parcel, a host's access and a tag that is not the
home's REFUSED (R120, R254, R268, R297). -/
def State.performPkt (s : State) (p : Packet) : State :=
  let h := p.hdr
  let src := srcOf h
  if !addrTyped h.typ || h.addr == 0 || isGuard p.body then s.performHere p h.dstn
  else match s.place h.addr with
  | .error cause => s.nackPkt src (cause == causePLAT && decide (h.snode < 4096))
  | .ok pl =>
    if pl.cube ≠ s.cube then (if genBefore h.pgen s.tables.retired then s.nackPkt src true else s.forward p pl.cube pl.stn)
    else if h.typ != 0x06 && s.tenantOf h.ptag != s.tenantOf pl.ptag then s.nackPkt src false
    else s.performHere p pl.stn

/-- Class O packets of a pair are performed in number order. -/
def State.performQueued (s : State) (h : Hdr) : Nat → State
  | 0 => s
  | k + 1 =>
    let f := s.filterOf h
    match f.queue.find? (fun p => p.hdr.seq == f.nextO) with
    | none => s
    | some p =>
      ((s.setFilter { f with nextO := (f.nextO + 1) % 2 ^ 24, queue := f.queue.filter (fun q => q.hdr.seq != f.nextO) }).performPkt p).performQueued h k

/-- R263: a numbered packet at its destination meets the duplicate filter: a duplicate is acknowledged again, with its cached answer; an
accepted packet is performed, in class O at the original destination in its turn. -/
def State.acceptPkt (s : State) (p : Packet) : State :=
  let h := p.hdr
  let src := srcOf h
  let f := s.filterOf h
  if !f.accepts h.seq then
    let s1 := s.countError 7 1
    let s2 := if f.performed.has h.seq || f.below h.seq then s1.emit (ackHdr src s.cube) (.ack src.snode src.sstn false) else s1
    (match f.replies.find? (fun r => r.1 == h.seq) with
     | some r => s2.send (.packetRouting r.2)
     | none => s2)
  else
    let g := f.take h.seq
    if h.cls = 0 ∧ h.onode = s.cube ∧ !h.fwd ∧ (h.seq = f.nextO ∨ !f.due h.seq) then
      (s.setFilter { g with queue := g.queue ++ [p] }).performQueued h (g.queue.length + 1)
    else (s.setFilter g).performPkt p

/-! ## What comes back to a source (R262 to R265) -/

/-- Changes the packet of a pair with a number. -/
def State.modSent (s : State) (snode sstn cls dnode dstn seq : Nat) (f : Sent → Sent) : State :=
  { s with e2e := { s.e2e with pairs := s.e2e.pairs.map (fun p =>
      if p.isFor snode sstn dnode dstn cls then { p with unacked := p.unacked.map (fun u => if u.seq = seq then f u else u) } else p) } }
/-- The packet of a pair with a number. -/
def State.sent (s : State) (snode sstn cls dnode dstn seq : Nat) : Option Sent :=
  (s.e2e.pairs.find? (fun p => p.isFor snode sstn dnode dstn cls)).bind (fun p => p.unacked.find? (fun u => u.seq == seq))

/-- Whether a packet has an answer besides its acknowledgement. -/
def Sent.wants (u : Sent) : Bool :=
  match u.msg with
  | .readRequest _ => true
  | .write _ => true
  | .atomic _ => true
  | _ => false

/-- Sends a kept packet again; it is due again after the retry time. -/
def State.resendPkt (s : State) (snode sstn cls dnode dstn seq : Nat) (p : Packet) : State :=
  ((s.modSent snode sstn cls dnode dstn seq (fun u => { u with pkt := p })).send (.packetRouting p)).schedule
    (s.datum + s.router.retry) (.retryTimeout snode sstn cls dnode dstn seq)

/-- Forgets packets that are acknowledged and answered, and sends those that waited for the window (R262). -/
def State.slidePair (s : State) (snode sstn cls dnode dstn : Nat) : Nat → State
  | 0 => s
  | k + 1 =>
    match s.e2e.pairs.find? (fun p => p.isFor snode sstn dnode dstn cls) with
    | none => s
    | some p =>
      let p1 := { p with unacked := p.unacked.filter (fun u => !(u.acked && (u.answered || !u.wants))) }
      let set := fun (q : SendPair) => { s with e2e := { s.e2e with pairs := s.e2e.pairs.map (fun x => if x.isFor snode sstn dnode dstn cls then q else x) } }
      match p1.waiting with
      | w :: ws =>
        if windowOpen p1 w.seq && !p1.reported then
          ((State.send (set { p1 with unacked := p1.unacked ++ [w], waiting := ws }) (.packetRouting w.pkt)).schedule (s.datum + s.router.retry)
            (.retryTimeout snode sstn cls dnode dstn w.seq)).slidePair snode sstn cls dnode dstn k
        else set p1
      | [] => set p1

/-- Whether an answer has the length that its request gives it (R299). -/
def answerFits (bs : List Byte) : Msg → Bool
  | .readRequest r => bs.length == 16 + r.bytes + (if bitAt ((dwsOf 2 bs).getD 1 0) 0 then 64 else 0)
  | _ => true

/-- What an answer's payload brings the one who asked (R299); a full/empty request that was cancelled leaves its instruction
unperformed (R155). -/
def State.answerTo (s : State) (h : Hdr) (b : Body) (m : Msg) : State :=
  match b with
  | .raw bs =>
    let d := dwsOf 2 bs
    (match h.typ, m with
    | 0x01, .readRequest r =>
      let rep : ReadRep := ⟨r, d.getD 0 0, (bs.drop 16).take r.bytes, pmaskWords r.fa h.pmask,
        if bitAt (d.getD 1 0) 0 then tailSig (16 + r.bytes) bs else none⟩
      if 4096 ≤ h.dnode then s.hostRead h.dnode h.ptag rep else s.send (.readReply rep)
    | 0x03, .write w => if 4096 ≤ h.dnode then s else s.send (.writeAcknowledgement { w with poison := pmaskWords w.fa h.pmask })
    | 0x05, .atomic a => s.send (.atomicReply ⟨a, d.getD 0 0, bitsOf (d.getD 1 0) 4 0, h.pmask != 0,
        if bitAt (d.getD 1 0) 5 then tailSig 16 bs else none⟩)
    | _, _ => s)
  | .cancelled => (match m with
    | .atomic a => (match a.src with
      | .task l _ => s.modCtx l (fun c =>
          if c.flow.waitOn = some a.id then { c with flow := { c.flow with waitOn := none, waitWords := 0 } } else c)
      | _ => s)
    | _ => s)
  | _ => s

/-- An answer to a request (R299): delivered once, and acknowledged so that its cache entry goes; one of a length that its request
does not give it is dropped. -/
def State.takeAnswer (s : State) (p : Packet) : State :=
  let h := p.hdr
  let who := addressee h
  match s.sent h.dnode who h.cls h.onode h.ostn h.seq with
  | some u =>
    if !answerFits (bodyBytes p.body) u.msg then s.countError 6 1
    else
      let ack := (mkPacket { typ := 0x0E, cls := h.cls, dnode := h.snode, snode := h.dnode, dstn := h.sstn, sstn := h.dstn, len := 0, seq := h.seq
                             onode := h.onode, ostn := h.ostn, addr := h.addr, ptag := h.ptag } (.ack h.dnode who false))
      let s0 := s.send (.packetRouting ack)
      if u.answered then s0
      else
        let s1 := s0.modSent h.dnode who h.cls h.onode h.ostn h.seq (fun u => { u with answered := true })
        (s1.answerTo h p.body u.msg).slidePair h.dnode who h.cls h.onode h.ostn 4097
  | none => s

/-! ## The end of a handover (R270) -/

/-- What a home keeps that is leaving it: of the chunks that a test picks, of every station. -/
structure HomeState where
  leases : Map Nat
  witnesses : List Witness
  waiters : List WaitReg
  held : List Msg
deriving DecidableEq, Repr

/-- The home state of the chunks that a test picks, of every station. What waits for a publication goes on as that completes. -/
def State.homeState (s : State) (pick : Nat → Bool) : HomeState :=
  let hs := s.stations.map (fun e => e.2.home)
  { leases := (hs.map (fun h => h.leasemax.filter (fun e => pick e.1))).flatten
    witnesses := (hs.map (fun h => h.witnesses.filter (fun w => pick (w.word / 8)))).flatten
    waiters := (hs.map (fun h => h.waiters.filter (fun w => pick (chunkOf w.fa)))).flatten
    held := ((hs.map (fun h => (h.held.filter (fun e => pick e.1)).filterMap (fun e => match e.2 with
      | .publicationDemand _ => none
      | m => some m))).flatten).eraseDups }
/-- The home state of the chunks that a test picks leaves every station. -/
def State.dropHomeState (s : State) (pick : Nat → Bool) : State :=
  s.stnIxs.foldl (fun st n => st.modHome n (fun h => { h with
    leasemax := h.leasemax.filter (fun e => !pick e.1)
    witnesses := h.witnesses.filter (fun w => !pick (w.word / 8))
    waiters := h.waiters.filter (fun w => !pick (chunkOf w.fa))
    held := h.held.filter (fun e => !pick e.1)
    since := h.since.filter (fun e => !pick e.1) })) s

/-- The chunks of a stripe. -/
def inStripe (fa len : Nat) (c : Nat) : Bool := decide (chunkOf fa ≤ c ∧ c < chunkOf (fa + len - 1) + 1)
/-- The home blocks of a stripe's words give way, dirty words going to DRAM. -/
def State.evictStripe (s : State) (fa len : Nat) : State :=
  match s.place fa with
  | .ok old => s.evictHomes (fun bw => decide (old.canon / 16 ≤ bw ∧ bw < (old.canon + len) / 16)) true
  | .error _ => s

/-- A stripe's copy has been acknowledged: from now on its old home forwards every packet for it, and what was held for it is sent on
to the new one. -/
def State.endHandover (s : State) (fa len : Nat) : State :=
  let held := (s.homeState (inStripe fa len)).held
  let s1 := (s.evictStripe fa len).dropHomeState (inStripe fa len)
  { s1 with tables := { s1.tables with
      copying := s1.tables.copying.filter (fun m => m != (fa, len)), moved := (fa, len) :: s1.tables.moved } }.sendAll held
/-- A stripe's copy has reached no new home: the old one goes on serving it. -/
def State.abandonHandover (s : State) (fa len : Nat) : State :=
  let s1 := { s with tables := { s.tables with copying := s.tables.copying.filter (fun m => m != (fa, len)) } }
  s1.stnIxs.foldl (fun st n => st.releaseAll n) s1

/-- What the sender of a message does once it has been accepted. -/
def State.acceptedSent (s : State) (u : Sent) : State :=
  match u.msg with
  | .taskPacket _ p => s.senderDone p.src p.counter
  | .dataArrivalWithHandler _ d => s.senderDone d.src d.counter
  | .soft m => s.senderDone m.src m.counter
  | .kernelMessageReserved m => s.senderDone m.src m.counter
  | .preempt m => s.senderDone m.src m.counter
  | .resume m => s.senderDone m.src m.counter
  | .move m => s.senderDone m.src m.counter
  | .config m => s.senderDone m.src m.counter
  | .writeBack w => if u.pkt.hdr.snode = s.cube then s.wbDone w.stn w.pubId else s.hostWbDone u.pkt.hdr.snode w.pubId
  | .stripeHandover fa len => s.endHandover fa len
  | .waitArm w => match w.src with
    | .task l tid => if u.answered ∧ (s.ctx l).tid = tid ∧ (s.ctx l).flow.waitOn.isSome then s.parkWaiting l else s
    | _ => s
  | _ => s

/-- Whether a packet that this cube has forwarded is the one of a source, pair and number. -/
def isForwarded (snode sstn cls onode ostn seq : Nat) (e : Packet × Packet) : Bool :=
  let h := e.1.hdr
  decide (h.snode = snode ∧ srcNo h.snode h.sstn h.ptag = sstn ∧ h.cls = cls ∧ h.onode = onode ∧ h.ostn = ostn ∧ h.seq = seq)
/-- Ends the keeping of a forwarded copy. -/
def State.dropForwarded (s : State) (p : Packet × Packet → Bool) : State :=
  { s with e2e := { s.e2e with forwarded := s.e2e.forwarded.filter (fun x => !p x) } }

/-- END_TO_END_ACKNOWLEDGEMENT (R262, R263): a source's packet is released; a forwarded copy's lets the original be
acknowledged; a reply's ends its caching. -/
def execEndToEndAcknowledgement (s : State) : Out :=
  match s.hand.msg with
  | .endToEndAcknowledgement snode sstn cls dnode dstn seq =>
    match s.sent snode sstn cls dnode dstn seq with
    | some u =>
      if u.acked then .next s
      else .next (((s.modSent snode sstn cls dnode dstn seq (fun u => { u with acked := true })).acceptedSent u).slidePair snode sstn cls dnode dstn 4097)
    | none =>
      let isIt := isForwarded snode sstn cls dnode dstn seq
      match s.e2e.forwarded.find? isIt with
      | some e => .next ((s.dropForwarded isIt).ackPkt (srcOf e.1.hdr))
      | none => .next (s.modFilter ⟨snode, sstn, dnode, dstn, cls, seq, 0, 0, false⟩ (fun f => { f with replies := f.replies.filter (fun r => r.1 != seq) }))
  | _ => .next s

/-! ## Refusals, retries, lost destinations -/

/-- R297: a submission that reaches no station retires FAULT, cause 0, to its reply address; an endpoint's is the host's. -/
def State.refusePacket (s : State) (p : TaskPkt) : State :=
  let reply := bitsOf (p.dws.getD 1 0).toNat 55 0
  match p.src with
  | .task l _ => (s.refuseRecord l.stn reply).senderDone p.src p.counter
  | _ =>
    let ptag := (p.dws.getD 2 0).toNat % 65536
    match s.reachAs (s.tenantOf ptag) false false reply with
    | .ok pl => if reply % 8 = 0 ∧ reply ≠ 0 then
        (let m := s.storeMsg pl.stn reply ptag (bytesOf 8 (3 + s.datum % 2 ^ 48 * 2 ^ 16)); m.2.send m.1) else s
    | .error _ => s

/-- What becomes of an OHA's packet that no destination will perform (R265, R297): a refusal is counted; a read completes with Unsupported
Request, or with poisoned data where the node was lost; a write to a lost node leaves an error record; a submission retires FAULT. -/
def State.failHost (s : State) (u : Sent) (lost : Bool) : State :=
  let h := u.pkt.hdr
  let s1 := if lost then s else s.modTagged h.snode h.ptag (fun e => { e with refused := e.refused + 1 })
  match u.msg with
  | .taskPacket _ p => s.refusePacket p
  | .readRequest r =>
    if lost then s1.tellHost h.snode h.ptag (poisonedRead + r.va) (List.replicate r.asked 0) else s1.tellHost h.snode h.ptag (unsupported + r.va) []
  | .write w => if lost then s1.logError h.ptag 4 w.fa 1 else s1
  | .writeBack w => (if lost then s1.logError h.ptag 4 w.fa 1 else s1).hostWbDone h.snode w.pubId
  | _ => s

/-- A packet that no destination will perform completes (R265, R297): a read or an atomic with poisoned data, a write
discarded with an error record where its node was lost, a command or a task packet with FAULT; a record that was refused comes back to
its station. -/
def State.failSent (s : State) (u : Sent) (lost : Bool) : State :=
  let h := u.pkt.hdr
  let no := srcNo h.snode h.sstn h.ptag
  let s0 := (s.modSent h.snode no h.cls h.onode h.ostn h.seq (fun u => { u with acked := true, answered := true })).slidePair
    h.snode no h.cls h.onode h.ostn 4097
  let gone := fun (st : State) (m : KMsg) => (if lost then st.countError 10 1 else st).senderDone m.src m.counter
  if 4096 ≤ h.snode then s0.failHost u lost
  else match u.msg with
  | .readRequest r => s0.send (.readReply ⟨r, 0, List.replicate r.bytes 0,
      (List.range (r.bytes / 16 + 2)).map (fun k => bwOf r.fa + k), none⟩)
  | .atomic a => s0.send (.atomicReply ⟨a, 0, 0, true, none⟩)
  | .write w =>
    let n := bwOf (w.fa + w.data.length - 1) + 1 - bwOf w.fa
    (if lost then s0.logError (s.ptagAt w.stn) 4 w.fa n else s0).send (.writeAcknowledgement { w with poison := [] })
  | .writeBack w => ((if lost then s0.logError w.ptag 4 w.fa 1 else s0).wbDone w.stn w.pubId)
  | .engineCommand c =>
    let f := s0.freshWord
    let stn := match c.src with | .task l _ => l.stn | _ => c.stn
    f.2.finishCmd stn c [] 3 0 (if lost then f.1 else faultValue causePROT 0)
  | .taskPacket _ p => s0.refusePacket p
  | .recordMove n r =>
    if !lost then s0.recordArrives n r
    else
      let x := { s0 with away := Map.set 0 s0.away r.tid 0 }.retireThen n r 3 0 id
      if x.1 then x.2 else (s.askRetire n r).send (.destinationLost h.dnode)
  | .stripeHandover fa len => s0.abandonHandover fa len
  | .dataArrivalWithHandler _ d => s0.senderDone d.src d.counter
  | .soft m => gone s0 m
  | .kernelMessageReserved m => gone s0 m
  | .preempt m => gone s0 m
  | .resume m => gone s0 m
  | .move m => gone s0 m
  | .config m => gone s0 m
  | .waitArm w => s0.send (.wake ⟨w, 0, true, none⟩)
  | .publicationDemand d => s0.send (.publicationComplete d 0)
  | _ => s0

/-- R268: a packet whose address is resolved again goes to its owner. -/
def State.readdress (s : State) (u : Sent) : State :=
  let h := u.pkt.hdr
  let again := fun (cube stn : Nat) =>
    s.resendPkt h.snode (srcNo h.snode h.sstn h.ptag) h.cls h.onode h.ostn h.seq
      (mkPacket { h with dnode := cube, dstn := stn, pgen := s.tables.gen, retry := min 15 (h.retry + 1), hops := 0 } u.pkt.body)
  if !addrTyped h.typ || h.addr == 0 then again h.dnode h.dstn
  else match s.place h.addr with
  | .ok pl => again pl.cube pl.stn
  | .error _ => s.failSent u false

/-- The copy of a packet that this cube forwarded has been turned away: the source is told. -/
def State.nackForwarded (s : State) (snode sstn cls onode ostn seq : Nat) (moved : Bool) : State :=
  let isIt := isForwarded snode sstn cls onode ostn seq
  match s.e2e.forwarded.find? isIt with
  | some e => (s.dropForwarded isIt).nackPkt (srcOf e.1.hdr) moved
  | none => s

/-- MOVED (R268): the address is resolved again; in class O the pair's later packets are sent again too. -/
def execMoved (s : State) : Out :=
  match s.hand.msg with
  | .moved snode sstn cls dnode dstn seq =>
    match s.e2e.pairs.find? (fun p => p.isFor snode sstn dnode dstn cls) with
    | none => .next (s.nackForwarded snode sstn cls dnode dstn seq true)
    | some p =>
      let later := p.unacked.filter (fun u => !u.acked && (u.seq == seq ||
        (cls == 0 && decide (1 ≤ (u.seq + 2 ^ 24 - seq) % 2 ^ 24 ∧ (u.seq + 2 ^ 24 - seq) % 2 ^ 24 < 2 ^ 23))))
      if later.any (fun u => u.seq == seq) then .next (later.foldl (fun st u => st.readdress u) s) else .next s
  | _ => .next s

/-- REFUSED (R297). -/
def execRefused (s : State) : Out :=
  match s.hand.msg with
  | .refused snode sstn cls dnode dstn seq =>
    match s.sent snode sstn cls dnode dstn seq with
    | some u => .next (if u.acked then s else s.failSent u false)
    | none => .next (s.nackForwarded snode sstn cls dnode dstn seq false)
  | _ => .next s

/-- RETRY_TIMEOUT (R262, R265): an unacknowledged packet is sent again to where it went before; after 15 times its
destination is reported (report 2) and the pair's packets are held. -/
def execRetryTimeout (s : State) : Out :=
  match s.hand.msg with
  | .retryTimeout snode sstn cls dnode dstn seq =>
    match s.sent snode sstn cls dnode dstn seq with
    | some u =>
      let h := u.pkt.hdr
      let held := s.e2e.pairs.any (fun p => p.isFor snode sstn dnode dstn cls && p.reported)
      if u.acked ∨ held then .next s
      else if s.e2e.lost.has h.dnode then .next (s.failSent u true)
      else if h.retry < 15 then
        .next (s.resendPkt snode sstn cls dnode dstn seq (mkPacket { h with retry := h.retry + 1, hops := 0 } u.pkt.body))
      else
        let s1 := s.tellManager 2 h.dnode
        .next { s1 with e2e := { s1.e2e with pairs := s1.e2e.pairs.map (fun p =>
          if p.isFor snode sstn dnode dstn cls then { p with reported := true } else p) } }
    | none =>
      let isIt := isForwarded snode sstn cls dnode dstn seq
      match s.e2e.forwarded.find? isIt with
      | none => .next s
      | some e =>
        let q := mkPacket { e.2.hdr with retry := min 15 (e.2.hdr.retry + 1), hops := 0 } e.2.body
        .next ((State.send { s with e2e := { s.e2e with forwarded := s.e2e.forwarded.map (fun x => if isIt x then (x.1, q) else x) } }
          (.packetRouting q)).schedule (s.datum + s.router.retry) s.hand.msg)
  | _ => .next s

/-- DESTINATION_LOST (R265): what was sent to the node completes. -/
def execDestinationLost (s : State) : Out :=
  match s.hand.msg with
  | .destinationLost node =>
    let mine := fun (u : Sent) => u.pkt.hdr.dnode == node && !u.acked
    let us := (s.e2e.pairs.map (fun p => p.unacked.filter mine ++ p.waiting.filter mine)).flatten
    let s1 := { s with e2e := { s.e2e with
      lost := s.e2e.lost.add node
      forwarded := s.e2e.forwarded.filter (fun e => e.2.hdr.dnode != node)
      pairs := s.e2e.pairs.map (fun p => { p with waiting := p.waiting.filter (fun u => !mine u) }) } }
    .next (us.foldl (fun st u => st.failSent u true) s1)
  | _ => .next s

/-! ## Routing (R261, R286, R298) -/

/-- Whether an OHA is one whose endpoints this model holds. -/
def State.isHost (s : State) (node : Nat) : Bool := s.hosts.endpoints.any (fun e => e.node == node)

/-- A packet at an OHA: the first copy is taken, a later one acknowledged again (R263). -/
def State.hostAccept (s : State) (p : Packet) : State :=
  let h := p.hdr
  let f := s.filterOf h
  if f.accepts h.seq then (s.setFilter (f.take h.seq)).hostTake p
  else (s.countError 7 1).emit { (backTo (srcOf h) h.dnode 0x0E) with sstn := h.dstn } (.ack h.snode (srcOf h).sstn false)

/-- A packet at its destination node: an answer, an acknowledgement, a refusal, or a request. -/
def State.arrivePkt (s : State) (p : Packet) : State :=
  let h := p.hdr
  let newer := (h.pgen + 2 ^ 16 - s.tables.gen % 2 ^ 16) % 2 ^ 16
  if 1 ≤ newer ∧ newer < 2 ^ 15 ∧ h.dnode = s.cube then { s with e2e := { s.e2e with future := s.e2e.future ++ [p] } }
  else if h.typ = 0x01 ∨ h.typ = 0x03 ∨ h.typ = 0x05 then s.takeAnswer p
  else if h.typ = 0x0E then
    match p.body with
    | .ack sn ss armed =>
      (if armed then s.modSent sn ss h.cls h.onode h.ostn h.seq (fun u => { u with answered := true }) else s).send
        (.endToEndAcknowledgement sn ss h.cls h.onode h.ostn h.seq)
    | _ => s.send (.endToEndAcknowledgement h.dnode (addressee h) h.cls h.onode h.ostn h.seq)
  else if h.typ = 0x0D then
    match p.body with
    | .nack sn ss true => s.send (.moved sn ss h.cls h.onode h.ostn h.seq)
    | .nack sn ss false => s.send (.refused sn ss h.cls h.onode h.ostn h.seq)
    | .raw bs => s.send (if bs.take 1 = [0] then .moved h.dnode (addressee h) h.cls h.onode h.ostn h.seq
        else .refused h.dnode (addressee h) h.cls h.onode h.ostn h.seq)
    | _ => s
  else if h.dnode ≠ s.cube then s.hostAccept p
  else if h.typ = 0x0F ∨ h.typ = 0x10 then s
  else s.acceptPkt p

/-- Whether boot logic lets a packet pass: class S table traffic to this cube, and what the cube answers a host (R286). -/
def bootPasses (cube : Nat) (h : Hdr) : Bool :=
  (h.dnode == cube && h.cls == 3 && h.typ == 0x12) || (h.snode == cube && decide (4096 ≤ h.dnode)) ||
  (h.dnode == cube && decide (4096 ≤ h.snode) && (h.typ == 0x03 || h.typ == 0x0E))

/-- PACKET_ROUTING (R260, R261): a packet is dropped, delivered, or sent on through a port. -/
def execPacketRouting (s : State) : Out :=
  match s.hand.msg with
  | .packetRouting p =>
    let s := s.leaveBuffer p
    if !packetOk p then .next (s.countError 6 1)
    else if !s.router.live && !bootPasses s.cube p.hdr then .next s
    else if p.hdr.dnode = s.cube ∨ s.isHost p.hdr.dnode then .next (s.arrivePkt p)
    else
      let r := s.portFor p.hdr
      match r.1 with
      | some n => .next (r.2.egress n p)
      | none => .next r.2
  | _ => .next s

/-! ## Receiving flits (R256) -/

/-- The flits that a LACK has not passed. -/
def unpassed (lack : Nat) (fs : List (Flit × Nat)) : List (Flit × Nat) :=
  fs.filter (fun f => !decide (1 ≤ (lack + 4096 - f.1.lseq) % 4096 ∧ (lack + 4096 - f.1.lseq) % 4096 ≤ 1024))

/-- The packet of some flits. -/
def packetOf (fs : List Flit) : Packet :=
  match (fs.getLast?).bind (fun f => f.pkt) with
  | some p => p
  | none =>
    let bs := (fs.map (fun f => f.data)).flatten
    let h := hdrOfDws (dwsOf 4 bs)
    ⟨h, .raw ((bs.drop 32).take h.len)⟩

/-- FLIT: discarded, or passed on; a whole packet goes to the router, class C by its port (R274, R300). -/
def execFlit (s : State) : Out :=
  match s.hand.msg with
  | .flit n f =>
    let s := if f.fec then s.countError 4 1 else s
    let p := s.port n
    if !p.usable then .next s
    else if f.lcrc ≠ crc32 (flitBytes f) then .next ((s.countError 5 1).modPort n (fun p => { p with discard := true }))
    else if f.lseq ≠ p.expect then .next (if p.discard then s.countError 5 1 else s)
    else
      let kept := unpassed f.lack p.replay
      let got := (if f.sop then [] else Map.get [] p.rx f.cls) ++ [f]
      let s1 := s.modPort n (fun p => { p with
        expect := (p.expect + 1) % 4096, discard := false, stop := f.stop, replay := kept
        progress := if kept.length < p.replay.length then s.datum else p.progress
        rx := Map.set [] p.rx f.cls (if f.eop then [] else got)
        rxq := if f.eop ∧ f.cls ≠ 2 then p.rxq ++ [packetOf got] else p.rxq }.mark f.cls)
      let s2 := s1.pump n (s1.port n).out.length
      if !f.eop then .next s2
      else
        let q := packetOf got
        if q.hdr.cls = 2 then
          match q.body with
          | .raw bs =>
            if !packetOk q then .next (s2.countError 6 1)
            else if !s2.router.live then .next s2
            else if q.hdr.typ = 0x0F then .next (s2.send (.collectiveContribution (64 + n) (partialOf q.hdr.ptag bs)))
            else if q.hdr.typ = 0x10 then .next (s2.send (.collectiveResult (resultOf q.hdr.ptag bs)))
            else .next s2
          | _ => .next s2
        else .next (s2.send (.packetRouting q))
  | _ => .next s

end Sys2Proof.Machine
end

