-- ==== Sys2Proof/Machine/Sched.lean ====
section
/-! DEFINITION. Kernel messages (R240, R241), stealing (R239), balancing (R242), pre-emption (R243, R244) and the return
from a trap (R107). -/

namespace Sys2Proof.Machine

/-! ## The kernel message queue (R240, R288) -/

/-- The place of an entry of a station's kernel message queue. -/
def State.kmsgFa (s : State) (stn ix : Nat) : Nat := vaultFa s.cube (stn * 2 ^ 32 + 0xFFFFC000 + 64 * ix)

/-- A message's doublewords with the sender's cube and station written over. -/
def kmsgStored (m : KMsg) : List Word :=
  match m.dws with
  | d :: ds => w64 (bitsOf d.toNat 63 44 * 2 ^ 44 + m.scube * 2 ^ 32 + bitsOf d.toNat 31 6 * 64 + m.sstn) :: ds
  | [] => []

/-- Takes a kernel message: it is stored, `op` performs its operation and may change what is stored, KMSG is raised, and
the sender is told. While the queue is full the message waits. -/
def State.takeKmsg (s : State) (m : KMsg) (op : State → Nat → State) : State :=
  let k := (s.stn m.stn).kernel
  if 256 ≤ k.pending.length then s.requeue s.hand.msg
  else
    let fa := s.kmsgFa m.stn (k.next % 256)
    let s1 := s.ownWrite fa (dwBytes ((kmsgStored m).map (fun w => w.toNat)))
    let s2 := op s1 fa
    let s3 := s2.modStn m.stn (fun t =>
      { t with kernel := { t.kernel with pending := t.kernel.pending ++ [fa], next := (k.next + 1) % 256 } })
    (s3.deliverKmsgs m.stn 1).senderDone m.src m.counter

/-- Sends a kernel message of the cube's own making. -/
def State.kernelSend (s : State) (stn cube dst : Nat) (dws : List Nat) : State :=
  s.sendKmsg cube ⟨dst, (dws ++ List.replicate (8 - dws.length) 0).map w64, s.cube, stn, .cube, 0⟩

/-! ## Stealing (R239) -/

/-- STEAL_ROUND: the next neighbour of the round is asked; after all have refused, the thief waits 1,000 ticks. -/
def execStealRound (s : State) : Out :=
  match s.hand.msg with
  | .stealRound n =>
    let t := s.stn n
    if !s.idle n || t.steal.waiting || decide (s.datum < t.steal.until_) then .next s
    else match (s.neighbours n t.steal.first)[t.steal.asked]? with
    | some v =>
      .next ((s.modStn n (fun t => { t with steal := { t.steal with waiting := true, asked := t.steal.asked + 1 } })).send
        (.stealRequest v n))
    | none =>
      .next ((s.modStn n (fun t => { t with steal := { t.steal with asked := 0, first := (t.steal.first + 1) % 4
                                                                    until_ := s.datum + 1000 } })).schedule
        (s.datum + 1000) (.stealBackoffExpiry n))
  | _ => .next s

/-- The eligible record with the largest key, the latest arrival among equals (R238, R239). -/
def State.stealable (s : State) (n : Nat) : Option RecEntry :=
  let c := (s.stn n).sched
  lastRec ((c.ready ++ c.spilled).filter RecEntryMovable)

/-- Takes a record out of a station's store or spill; the room that it leaves is used. -/
def State.takeOut (s : State) (n : Nat) (r : RecEntry) : State := ((s.dropRecord n r).wantRefill n).takeIn n

/-- STEAL_REQUEST: granted or refused. -/
def execStealRequest (s : State) : Out :=
  match s.hand.msg with
  | .stealRequest v n =>
    let t := s.stn v
    let many := decide (2 ≤ t.sched.ready.length + t.sched.spilled.length) || (s.freeCtx v).isNone
    match (if t.sched.preempted || t.sched.resuming || !t.steal.on || !many || s.ptagAt v != s.ptagAt n then none else s.stealable v) with
    | some r => .next ((s.takeOut v r).sendRecord v s.cube n { r with granted := true })
    | none => .next (s.send (.stealRefusal n))
  | _ => .next s

/-- STEAL_REFUSAL: the round goes on. -/
def execStealRefusal (s : State) : Out :=
  match s.hand.msg with
  | .stealRefusal n =>
    .next ((s.modStn n (fun t => { t with steal := { t.steal with waiting := false } })).seekWork n)
  | _ => .next s

/-- STEAL_BACKOFF_EXPIRY. -/
def execStealBackoffExpiry (s : State) : Out :=
  match s.hand.msg with
  | .stealBackoffExpiry n =>
    .next ((s.modStn n (fun t => { t with steal := { t.steal with until_ := 0 } })).seekWork n)
  | _ => .next s

/-! ## Messages without an operation, CONFIG and MOVE -/

/-- The load figure that a balancing message carries is kept with its datum (R242; log entry 17). -/
def State.noteLoad (s : State) (m : KMsg) : State :=
  s.modStn m.stn (fun t => { t with steal := { t.steal with
    loads := Map.set (0, 0) t.steal.loads (m.scube * 64 + m.sstn) ((m.dws.getD 1 0).toNat, s.datum) } })

/-- SOFT. -/
def execSoft (s : State) : Out :=
  match s.hand.msg with
  | .soft m => .next (s.takeKmsg m (fun t _ => t.noteLoad m))
  | _ => .next s

/-- A message with a reserved TYPE or bit: stored and raised, without an operation. -/
def execKernelMessageReserved (s : State) : Out :=
  match s.hand.msg with
  | .kernelMessageReserved m => .next (s.takeKmsg m (fun t _ => t))
  | _ => .next s

/-- CONFIG. -/
def execConfig (s : State) : Out :=
  match s.hand.msg with
  | .config m =>
    let d := fun i => (m.dws.getD i 0).toNat
    .next (s.takeKmsg m (fun t _ =>
      ((t.modSched m.stn (fun c => { c with horizon := if d 1 = 0 then c.horizon else d 1, spill := d 2, spillSz := d 3
                                            msgq := d 4, msgqSz := d 5, savepool := d 7 })).modStn m.stn
        (fun x => { x with steal := { x.steal with on := bitAt (d 6) 0 } })).seekWork m.stn))
  | _ => .next s

/-- Moves up to `k` eligible records to a station, largest key first; how many. -/
def State.moveRecords (s : State) (n cube dst : Nat) : Nat → State × Nat
  | 0 => (s, 0)
  | k + 1 =>
    match s.stealable n with
    | none => (s, 0)
    | some r =>
      let x := ((s.takeOut n r).sendRecord n cube dst r).moveRecords n cube dst k
      (x.1, x.2 + 1)

/-- MOVE (R241): MOVED is written before KMSG is raised. -/
def execMove (s : State) : Out :=
  match s.hand.msg with
  | .move m =>
    let d := (m.dws.getD 1 0).toNat
    let cube := bitsOf d 43 32
    let dst := bitsOf d 5 0
    .next (s.takeKmsg m (fun t fa =>
      let x := if t.tenantAt m.stn ≠ none ∧ t.tenantHoldsStn (t.tenantAt m.stn) cube dst then
          t.moveRecords m.stn cube dst (bitsOf d 63 48) else (t, 0)
      x.1.ownWrite (fa + 8) (bytesOf 8 (bitsOf d 63 16 * 2 ^ 16 + min x.2 1023 * 64 + dst))))
  | _ => .next s

/-! ## Pre-emption -/

/-- A station is pre-empted: what its inbox holds joins the spilled messages, a stalled full/empty form is cancelled (R155), and one that stalls for room is left unperformed
(R27). `raise` is the kernel message that PREEMPT is raised for. -/
def State.preemptStn (s : State) (n : Nat) (raise : Option Nat) : State :=
  if (s.stn n).sched.preempted then s
  else
    let t1 := (s.modSched n (fun c => { c with
        preempted := true, resuming := false, moveTurn := 0, inbox := []
        spilledMsgs := c.inbox.map (fun p => .taskPacket n p) ++ c.spilledMsgs })).modStn n
      (fun x => { x with kernel := { x.kernel with raise := raise } })
    let t2 := (stnLocs n).foldl (fun u l =>
      match (u.ctx l).flow.waitOn with
      | none => u
      | some 0 => u.modCtx l (fun c => { c with flow := { c.flow with waitOn := none } })
      | some _ => u.send (.fullEmptyCancel l)) t1
    t2.preemptStep n

/-- PREEMPT (R243). -/
def execPreempt (s : State) : Out :=
  match s.hand.msg with
  | .preempt m => .next (s.takeKmsg m (fun t fa => t.preemptStn m.stn (some fa)))
  | _ => .next s

/-- PREEMPT_RAISED (R243 step 5): in context 0 of core 0, once no context holds a task and the store is empty. -/
def execPreemptRaised (s : State) : Out :=
  match s.hand.msg with
  | .preemptRaised n =>
    let t := s.stn n
    let l : Loc := ⟨n, 0, 0⟩
    match t.kernel.raise with
    | some a =>
      if !t.sched.preempted || s.anyTask n || !t.sched.ready.isEmpty || (s.ctx l).busy then .next s
      else .next ((s.modStn n (fun t => { t with kernel := { t.kernel with raise := none } })).enterTrap l causePREEMPT (w64 a) 0 0)
    | none => .next s
  | _ => .next s

/-- The records that other stations hold for a station, in their stores and spills, go back to it; one that is on its way is sent on as
it arrives. -/
def State.returnHeld (s : State) (n : Nat) : State :=
  s.stnIxs.foldl (fun st o =>
    (((st.stn o).sched.ready ++ (st.stn o).sched.spilled).filter (fun r => r.heldFor == some n)).foldl
      (fun u r => (u.takeOut o r).sendRecord o u.cube n r) st) s

/-- RESUME (R244): spilled messages are redelivered, held records come back, and the station then selects and steals again. -/
def execResume (s : State) : Out :=
  match s.hand.msg with
  | .resume m =>
    .next (s.takeKmsg m (fun t _ =>
      if !(t.stn m.stn).sched.preempted then t
      else
        let t1 := (t.modSched m.stn (fun c => { c with preempted := false, resuming := true })).modStn m.stn
          (fun x => { x with kernel := { x.kernel with raise := none } })
        ((((t1.takeIn m.stn).returnHeld m.stn).resumed m.stn).wakeHandles m.stn).wantRefill m.stn))
  | _ => .next s

/-! ## Balancing (R242) -/

/-- A station's load figure: the records in its ready store and spill. -/
def State.loadOf (s : State) (n : Nat) : Nat := (s.stn n).sched.ready.length + (s.stn n).sched.spilled.length

/-- One round of the balancing rule towards parties given by cube and station: the figure is sent to each, and, where a
young figure of each is at hand, records are moved towards those with fewer. -/
def State.balance (s : State) (n mine age : Nat) (ps : List (Nat × Nat)) : State :=
  let s1 := ps.foldl (fun st p => st.kernelSend n p.1 p.2 [0, mine]) s
  let figs := ps.map (fun p => (p, Map.get (0, 0) (s.stn n).steal.loads (p.1 * 64 + p.2)))
  if figs.all (fun f => decide (f.2.2 ≠ 0 ∧ s.datum - f.2.2 < age)) then
    figs.foldl (fun st f =>
      let cnt := (mine - f.2.1) / (ps.length + 1)
      if cnt = 0 then st
      else st.kernelSend n s.cube n [3 * 2 ^ 56, min cnt 4096 * 2 ^ 48 + f.1.1 * 2 ^ 32 + f.1.2]) s1
  else s1

/-- The lowest logical stations of the peer parcels that the fabric manager names for a parcel's tenant. -/
def State.peerHeads (s : State) (p : Parcel) : List (Nat × Nat) :=
  let tags := ((s.tables.parcelPeers.find? (fun e => e.1 == p.tenant)).map (fun e => e.2)).getD []
  s.tables.peers.filterMap (fun e =>
    if tags.contains e.2.ptag then ((servedStns (s.parcelsOf e.1) e.2).head?).map (fun n => (e.1, n)) else none)

/-- LOAD_BALANCING: every 10,000 ticks among mesh neighbours, every 100,000 ticks between cubes; a figure of 20,000 ticks or more is
too old for either. -/
def execLoadBalancing (s : State) : Out :=
  match s.hand.msg with
  | .loadBalancing n =>
    let s1 := s.balance n (s.loadOf n) 20000 ((s.neighbours n 0).map (fun m => (s.cube, m)))
    let s2 := match s.parcelAt n with
      | some p =>
        let ss := servedStns s.tables.parcels p
        if ss.head? = some n ∧ (s.stn n).sched.nextCubes ≤ s.datum then
          (s1.balance n (ss.foldl (fun a m => a + s.loadOf m) 0) 20000 (s.peerHeads p)).modSched n
            (fun c => { c with nextCubes := s.datum + 100000 })
        else s1
      | none => s1
    .next (s2.schedule (s.datum + 10000) (.loadBalancing n))
  | _ => .next s

/-! ## ERET -/

/-- ERET (R107, R248): a context that held no task becomes free, and a kernel message that waits may then be raised in
it. -/
def execEret (s : State) : Out :=
  privileged (fun s =>
    let l := s.hand.at_
    let t := s.modCur (fun c => c.eret)
    if (t.ctx l).busy then .next t
    else .next (((t.deliverKmsgs l.stn 256).preemptStep l.stn).seekWork l.stn)) s

end Sys2Proof.Machine
end

