-- ==== Sys2Proof/Machine/Tables.lean ====
section
/-! DEFINITION. What the fabric manager installs: table writes (R254), plat generations and the loss of a cube (R268 to
R272), the handover of a stripe (R270), parcel maps and resizes (R279 to R281). -/

namespace Sys2Proof.Machine

/-! ## Packets that were held for want of a destination -/

/-- R265, R268: the packets of pairs whose destination had been reported are sent again under the tables in force. -/
def State.resumeReported (s : State) : State :=
  let held := s.e2e.pairs.filter (fun p => p.reported)
  let s1 := { s with e2e := { s.e2e with pairs := s.e2e.pairs.map (fun p => { p with reported := false }) } }
  held.foldl (fun st p => (p.unacked.filter (fun u => !u.acked)).foldl (fun st u => st.readdress u) st) s1

/-! ## TABLE_WRITE (R254) -/

/-- A tree's slot timer: 50,000 ticks unless given, within its range (R275). -/
def treeOf (t : Tree) : Option Tree :=
  let t1 := if t.timer = 0 then { t with timer := 50000 } else t
  if 1000 ≤ t1.timer ∧ t1.timer ≤ 10000000 then some t1 else none

/-- The place of an image in a vault's kernel area (log entry 34). -/
def State.imageFa (s : State) (vault which : Nat) : Nat :=
  vaultFa s.cube (vault * 2 ^ 32 + 0xFFF00000 + Config.imageBase which % 2 ^ 20)

/-- Numbering and filters begin anew for the stations of a parcel that is created (R262, R263): of what the stations send where they are
this cube's, and of what is sent to them. Pairs with packets still kept, and class S, go on. -/
def State.renumber (s : State) (cube : Nat) (mask : Nat) : State :=
  let idle := fun (p : SendPair) => p.unacked.isEmpty && p.waiting.isEmpty && p.cls != 3
  let src := fun (node no : Nat) => node == cube && decide (no < 64) && bitAt mask no
  let busy := fun (f : Filter) => !f.queue.isEmpty || f.cls == 3
  { s with e2e := { s.e2e with
      pairs := s.e2e.pairs.filter (fun p => !(idle p && (src p.snode p.sstn || src p.dnode p.dstn)))
      filters := s.e2e.filters.filter (fun f => busy f || !(src f.snode f.sstn || src f.onode f.ostn)) } }

/-- Generations up to the one in force have been retired (R269): their old layouts are answered MOVED, and migration filters close. -/
def State.retireOld (s : State) : State :=
  State.tellManager { s with
    tables := { s.tables with retired := s.tables.gen }
    e2e := { s.e2e with filters := s.e2e.filters.filter (fun f => f.onode == s.cube || decide (4096 ≤ f.onode)) } } 4 s.tables.gen

/-- What a table write of an endpoint installs. A value outside its range is not installed. -/
def State.install (s : State) (e : Nat) (t : TableCmd) : State :=
  match t with
  | .route node ports => State.resumeReported { s with router := { s.router with routes := Map.set [] s.router.routes node (ports.take 4) } }
  | .tree t =>
    (match treeOf t with
     | some x => { s with router := { s.router with trees := x :: s.router.trees.filter (fun y => y.group != x.group) } }
     | none => s)
  | .bankWeight v p w => s.modVault v (fun q => { q with weights := Map.set 1 q.weights p (max w 1) })
  | .retryTime n => if 1000 ≤ n ∧ n ≤ 1000000 then { s with router := { s.router with retry := n } } else s
  | .routerImage bs => State.setBytes { s with router := { s.router with imageBy := some e } } (s.imageFa 0 0) bs
  | .kernelImage bs => s.setBytes (s.imageFa 0 1) bs
  | .endpoint node ix tenant ptag =>
    if 256 ≤ ix then s
    else { s with hosts := { s.hosts with endpoints :=
        ⟨node, ix, tenant, ptag, [], [], 0, 0, []⟩ :: s.hosts.endpoints.filter (fun e => e.node != node || e.ix != ix) } }
  | .window node ix slot hb size fa r w =>
    if 16 ≤ slot then s
    else s.modEndpoint node ix (fun e => { e with windows := (slot, hb, size, fa, r, w) :: e.windows.filter (fun x => x.1 != slot) })
  | .latency c r => { s with tables := { s.tables with copyLease := c % 2 ^ 20, repLease := r % 2 ^ 20 } }
  | .retired => s.retireOld
  | .peers tenant ps =>
    { s with tables := { s.tables with parcelPeers := (tenant, ps) :: s.tables.parcelPeers.filter (fun e => e.1 != tenant) } }
  | .peerParcel cube p =>
    let s1 := if s.tables.peers.any (fun e => e.1 == cube && e.2.ptag == p.ptag) then s else s.renumber cube p.smask
    { s1 with tables := { s1.tables with peers := (cube, p) :: s1.tables.peers.filter (fun e => e.1 != cube || e.2.ptag != p.ptag) } }

/-- Whether an endpoint may write the tables: the manager's; before one is marked, boot logic takes any (R254, R286). -/
def State.managerOk (s : State) (endpoint : Nat) : Bool := s.router.manager.isNone || s.router.manager == some endpoint

/-- TABLE_WRITE. -/
def execTableWrite (s : State) : Out :=
  match s.hand.msg with
  | .tableWrite e t => .next (if s.managerOk e then s.install e t else s)
  | _ => .next s

/-! ## Plat generations (R268 to R272) -/

/-- Poisons the block words of a stripe that this cube has taken over without a guard, and logs them, at most 65,535 to a record
(R272, R292). -/
def State.poisonStripe (s : State) (fa len : Nat) : State :=
  match s.place fa with
  | .error _ => s
  | .ok pl =>
    let n := len / 16
    let s1 := { s with poison := (List.range n).foldl (fun m k => NSet.add m (pl.canon / 16 + k)) s.poison }
    (List.range ((n + 65534) / 65535)).foldl (fun st k =>
      st.logError pl.ptag 5 (fa + 16 * 65535 * k) (min 65535 (n - 65535 * k))) s1

/-- The positions of an entry's cube list that this cube takes over: another cube held them under the entry before it. -/
def takenOver (cube : Nat) (old new : Tables) (before after : List Word) : List (Nat × Nat) :=
  let o := layoutOf before
  let l := layoutOf after
  if !o.valid ∨ !l.valid then []
  else (List.range (min o.ccount l.ccount)).filterMap (fun i =>
    let was := Map.get 0 old.cubes (o.cstart + i) % 4096
    if Map.get 0 new.cubes (l.cstart + i) % 4096 = cube ∧ was ≠ cube then some (i, was) else none)

/-- What the loss of a cube brings this cube under a changed entry (R272). -/
def State.standIn (s : State) (old : Tables) (ix : Nat) : State :=
  let e := regionEntry s.tables ix
  let l := layoutOf e
  let got := takenOver s.cube old s.tables (regionEntry old ix) e
  if l.state = 2 ∧ l.guard ≠ 0 then
    let mine := got.filter (fun x => x.2 == l.lost)
    if mine.isEmpty then s
    else State.send { s with tables := { s.tables with taken := mine.foldl (fun m x => NSet.add m (l.cstart + x.1)) s.tables.taken } }
      (.backgroundRebuild l.base)
  else if l.guard = 0 then
    let mine := got.filter (fun x => s.e2e.lost.has x.2)
    if mine.isEmpty then s
    else (List.range (l.size / 2 ^ l.gran)).foldl (fun st t =>
      if mine.any (fun x => x.1 == (posOf l t).1) then st.poisonStripe (l.base + t * 2 ^ l.gran) (2 ^ l.gran) else st) s
  else s

/-- Whether a region in a state stands in the table. -/
def anyState (t : Tables) (p : Nat → Bool) : Bool := t.regions.any (fun e => (layoutOf e.2).valid && p (layoutOf e.2).state)

/-- Whether an entry, with the cube set entries that come with it, names a vault of this cube that has failed: no region may (R286, log
entry 98). -/
def State.namesFailed (s : State) (cubes : Map Nat) (e : List Word) : Bool :=
  let l := layoutOf e
  l.valid && (List.range l.ccount).any (fun i => Map.get 0 cubes (l.cstart + i) % 4096 == s.cube) &&
    s.vaults.any (fun v => v.2.failed && bitAt l.vmask v.1)

/-- PLAT_GENERATION_INSTALL: up to 256 entries and 4,096 cube set entries are installed as one generation; stripes handed over and
reconstruction end with the states that they belong to; packets held for the generation, and for a destination, go on; the manager
hears that the step has been taken (R266, R269). -/
def execPlatGenerationInstall (s : State) : Out :=
  match s.hand.msg with
  | .platGenerationInstall e gen regions cubes =>
    if !s.managerOk e then .next s
    else
      let old := s.tables
      let cs := (cubes.filter (fun (e : Nat × Nat) => decide (e.1 < 4096))).foldl (fun (m : Map Nat) (e : Nat × Nat) => Map.set 0 m e.1 e.2) old.cubes
      let rs := regions.filter (fun (e : Nat × List Word) => decide (e.1 < 256) && !s.namesFailed cs e.2)
      let t1 := { old with
        gen := gen
        regions := rs.foldl (fun (m : Map (List Word)) (e : Nat × List Word) => Map.set regionReset m e.1 e.2) old.regions
        cubes := cs }
      let t2 := { t1 with moved := t1.moved.filter (fun m => match regionFor t1 m.1 with | some e => (layoutOf e).state == 1 | none => false) }
      let t3 := if anyState t2 (fun x => x == 2) then t2 else { t2 with taken := [], rebuilt := [], buf := [], bufAsked := [] }
      let s2 := { s with tables := t3 }
      let s3 := rs.foldl (fun st e => st.standIn old e.1) s2
      let due := fun (p : Packet) => let n := (p.hdr.pgen + 2 ^ 16 - gen % 2 ^ 16) % 2 ^ 16; !decide (1 ≤ n ∧ n < 2 ^ 15)
      let ready := s3.e2e.future.filter due
      let s4 := { s3 with e2e := { s3.e2e with future := s3.e2e.future.filter (fun p => !due p) } }
      .next (((s4.sendAll (ready.map (fun p => .packetRouting p))).resumeReported).tellManager 5 gen)
  | _ => .next s

/-- The guard of a data block word where this cube has taken over the guard's position and not yet rebuilt it (R272): its address here and
the members that it is rebuilt from, the data word of a mirror or, for the first of a group, the data words of a parity. -/
def State.guardToBuild (s : State) (fa : Nat) : Option (Nat × List (Nat × Nat × Nat)) :=
  match regionFor s.tables fa with
  | none => none
  | some e =>
    let l := layoutOf e
    let t := (fa - l.base) / 2 ^ l.gran
    let within := (fa - l.base) % 2 ^ l.gran / 16 * 16
    let p := posOf l t
    let k := guardK l.guard
    let at_ := if l.guard = 3 then ((p.1 + 1) % l.ccount, p.2 + 1) else (p.1 / (k + 1) * (k + 1) + p.2 % (k + 1), p.2)
    let r := rowAt s.tables l at_.1 at_.2 within
    let g := vaultFa s.cube (r.2.1 * 2 ^ 32 + r.2.2)
    if l.state != 2 || l.guard == 0 || (l.guard != 3 && t % k != 0) || !s.tables.taken.has (l.cstart + at_.1) || s.tables.rebuilt.has (g / 16) then none
    else if l.guard = 3 then some (g, [rowAt s.tables l p.1 p.2 within])
    else some (g, ((List.range (k + 1)).filter (fun j => p.1 / (k + 1) * (k + 1) + j != at_.1)).map
      (fun j => rowAt s.tables l (p.1 / (k + 1) * (k + 1) + j) p.2 within))
/-- The words of other cubes that the reconstruction of a guard needs. -/
def State.guardNeeds (s : State) (fa : Nat) : List Nat :=
  match s.guardToBuild fa with
  | some g => g.2.filterMap (fun m => if (s.memberWord m).isNone then some (vaultFa m.1 (m.2.1 * 2 ^ 32 + m.2.2)) else none)
  | none => []
/-- Rebuilds a guard; a poisoned member poisons it (R272). -/
def State.buildGuard (s : State) (fa : Nat) : State :=
  match s.guardToBuild fa with
  | some g =>
    let ms := g.2.map (fun m => (s.memberWord m).getD (0, true))
    let bad := ms.any (fun m => m.2)
    let s1 := s.setRaw g.1 (if bad then 0 else ms.foldl (fun a m => a ^^^ m.1) 0) bad
    { s1 with tables := { s1.tables with rebuilt := s1.tables.rebuilt.add (g.1 / 16) } }
  | none => s

/-- BACKGROUND_REBUILD (R272): the remaining block words of a region, and the guards that the lost cube held, in ascending order, one at
a time. -/
def execBackgroundRebuild (s : State) : Out :=
  match s.hand.msg with
  | .backgroundRebuild fa =>
    match regionFor s.tables fa with
    | none => .next s
    | some e =>
      let l := layoutOf e
      let on := fun (st : State) => if fa + 16 < l.base + l.size then st.send (.backgroundRebuild (fa + 16)) else st
      if l.state ≠ 2 then .next s
      else if s.guardNeeds fa ≠ [] then .next (s.askMembers (s.guardNeeds fa) s.hand.msg)
      else match s.place fa with
      | .error _ => .next (on (s.buildGuard fa))
      | .ok pl =>
        if pl.cube ≠ s.cube ∨ !s.unbuilt fa pl.canon then .next (on (s.buildGuard fa))
        else if s.rebuildNeeds fa pl.canon ≠ [] then .next (s.askMembers (s.rebuildNeeds fa pl.canon) s.hand.msg)
        else .next (on ((s.buildGuard fa).rebuild fa pl.canon))
  | _ => .next s

/-! ## STRIPE_HANDOVER (R270) -/

/-- The block words of a range as they stand in DRAM. -/
def State.stripeWords (s : State) (fa len : Nat) : List (BlockWord × Bool) :=
  (List.range (len / 16)).map (fun k =>
    match s.place (fa + 16 * k) with | .ok pl => s.rawWord pl.canon | .error _ => (0, true))

/-- A waiter of this cube as another cube registers it. -/
def State.waiterAbroad (s : State) (cube : Nat) (w : WaitReg) : WaitReg :=
  match w.src with
  | .task _ _ => { w with src := .packet ⟨s.cube, w.stn, cube, 0, 0, 0, w.ptag, w.fa, false⟩ }
  | .cube => { w with src := .packet ⟨s.cube, w.stn, cube, 0, 0, 0, w.ptag, w.fa, false⟩ }
  | _ => w

/-- STRIPE_HANDOVER: the old home writes its words back, holds every write to the stripe from now on and grants no lease, and what it
keeps of the stripe's chunks goes with the data and its poison to the new home; that ends as the copy is acknowledged (log entry 96).
Within the cube it is done at once. -/
def execStripeHandover (s : State) : Out :=
  match s.hand.msg with
  | .stripeHandover fa len =>
    match s.place fa with
    | .error _ => .next s
    | .ok old =>
      if old.cube ≠ s.cube ∨ len = 0 ∨ s.copyingAt fa then .next s
      else
        let s1 := s.evictStripe fa len
        if s1.guardsOut then .next (s1.send s.hand.msg)
        else
          let words := s1.stripeWords fa len
          let x := s1.homeState (inStripe fa len)
          let wits := x.witnesses.map (fun w => (w.word, w.cube, w.stn, w.seq, w.sig))
          let s2 := { s1 with tables := { s1.tables with moved := (fa, len) :: s1.tables.moved } }
          match s2.place fa with
          | .error _ => .next s
          | .ok new =>
            if new.cube = s.cube then
              .next (((s1.dropHomeState (inStripe fa len)).takeHandover fa len words x.leases wits x.waiters).sendAll x.held)
            else
              let b : Body := .handover fa len words x.leases wits (x.waiters.map (s.waiterAbroad new.cube))
              .next ({ s1 with tables := { s1.tables with copying := (fa, len) :: s1.tables.copying } }.export s.cube new.cube new.stn
                old.stn 0x12 3 0 0 0 0 b s.hand.msg)
  | _ => .next s

/-! ## Parcel maps and resizes (R279 to R281) -/

/-- The maps to come that take effect together: a parcel's, and its parent's where it lends or takes back stations or vaults (R280). -/
def State.mapsOf (s : State) (ptag : Nat) : List Parcel :=
  match s.tables.newMaps.find? (fun q => q.ptag == ptag) with
  | none => []
  | some p =>
    let lends := match s.parcelOf ptag with | some q => decide (p.smask ≠ q.smask ∨ p.vmask ≠ q.vmask) | none => true
    p :: (if lends && p.parent != 0 then s.tables.newMaps.filter (fun q => q.ptag == p.parent) else [])
/-- The parcel of every station as it will be once the new map of one parcel is in force. -/
def State.resizedOf (s : State) (ptag : Nat) : State :=
  { s with tables := { s.tables with parcels := s.tables.parcels.map (fun p =>
      ((s.mapsOf ptag).find? (fun q => q.ptag == p.ptag)).getD p) } }
/-- Puts the parcels of a change into a resize state. -/
def State.setResize (s : State) (ptag : Nat) (r : Resize) : State :=
  let tags := ptag :: (s.mapsOf ptag).map (fun q => q.ptag)
  { s with tables := { s.tables with parcels := s.tables.parcels.map (fun p => if tags.contains p.ptag then { p with resize := r } else p) } }

/-- The stations that a new map moves from one parcel, or none, to another. -/
def State.changedStns (s : State) (ptag : Nat) : List Nat :=
  let t := s.resizedOf ptag
  (List.range 64).filter (fun n => s.ptagAt n != t.ptagAt n)

/-- Whether an address's home moves. -/
def movesHome (s t : State) (fa : Nat) : Bool :=
  match s.place fa, t.place fa with
  | .ok p, .ok q => p.stn != q.stn
  | .ok _, .error _ => true
  | .error _, _ => false

/-- Whether a record is on its way to a station of this cube. -/
def State.comingTo (s : State) (n : Nat) : Bool :=
  let dem := fun (d : Demand) => match d.pubFor with | .record c m _ => c == s.cube && m == n | _ => false
  s.net.any (fun m => match m with | .recordMove k _ => k == n | .publicationComplete d _ => dem d | _ => false) ||
  s.stations.any (fun e => e.2.slice.pubs.any (fun p => dem p.demand))

/-- Whether a station that leaves its parcel has drained: no task, record or command is left or on its way to it, and what it had
modified is performed. -/
def State.drained (s : State) (n : Nat) : Bool :=
  let t := s.stn n
  t.sched.preempted && !s.anyTask n && t.sched.ready.isEmpty && t.sched.inbox.isEmpty && !s.comingTo n && t.eng.matrix.inbox.isEmpty &&
  t.eng.copy.inbox.isEmpty && t.eng.coll.inbox.isEmpty && t.eng.coll.waits.isEmpty && t.slice.wbOut.isEmpty && (s.dirtyWords n).isEmpty

/-- Whether no region in force lies in a vault of this cube that a new map takes away: the parcel's regions have been replatted (R281). -/
def State.replatted (s : State) (ptag : Nat) : Bool :=
  let t := s.resizedOf ptag
  let lost := (List.range 64).filter (fun v =>
    (holderOfVault s.tables.parcels v).map (fun p => p.ptag) == some ptag && (holderOfVault t.tables.parcels v).map (fun p => p.ptag) != some ptag)
  !s.tables.regions.any (fun e =>
    let l := layoutOf e.2
    l.valid && (List.range l.ccount).any (fun i => Map.get 0 s.tables.cubes (l.cstart + i) % 4096 == s.cube) && lost.any (fun v => bitAt l.vmask v))

/-- R281: every leaving station has drained, each lies free or in a parcel that the map may take it from, the leases of every home that
moves have passed, guards are up to date, and a change of vaults has been replatted. -/
def State.resizeReady (s : State) (ptag : Nat) : Bool :=
  let t := s.resizedOf ptag
  let parent := match t.parcelOf ptag with | some p => p.parent | none => 0
  (s.changedStns ptag).all (fun n => match s.parcelAt n with
    | none => true
    | some q => (q.ptag == ptag || q.parent == ptag || q.ptag == parent) && s.drained n) &&
  s.stations.all (fun e => e.2.home.leasemax.all (fun c => decide (c.2 < s.datum) || !movesHome s t (c.1 * 64))) &&
  !s.guardsOut && s.replatted ptag

/-- Changes every record of this cube, wherever it is held or on its way. -/
def State.mapRecords (s : State) (f : RecEntry → RecEntry) : State :=
  let dem := fun (d : Demand) => match d.pubFor with | .record c m r => { d with pubFor := .record c m (f r) } | _ => d
  let msg := fun (m : Msg) => match m with
    | .recordMove n r => .recordMove n (f r)
    | .publicationComplete d g => .publicationComplete (dem d) g
    | m => m
  let s1 := { s with net := s.net.map msg }
  s1.stnIxs.foldl (fun st n =>
    let t := (st.modSched n (fun c => { c with ready := c.ready.map f, spilled := c.spilled.map f, parked := c.parked.map f })).modSlice n
      (fun l => { l with pubs := l.pubs.map (fun p => { p with demand := dem p.demand }) })
    (t.stn n).sched.ready.foldl (fun u r => u.putImage n r) t) s1

/-- A record that was held for a station which its parcel has lost runs anywhere in the parcel; a pinned one has PINLOST set and stays
unpinned from then on (R21). -/
def RecEntry.lose (n : Nat) (r : RecEntry) : RecEntry :=
  if r.heldFor = some n then
    { r with heldFor := none, body := if r.body.pin then { r.body with pin := false, pinlost := true } else r.body }
  else r

/-- What a leaving station still holds goes to the parcel's others: spilled records and those that wait on its handles as any record
of a pre-empted station; records parked at a home with its signature, since all that it had modified is performed (R140); spilled
messages. Records held for it no longer are. -/
def State.moveOut (s : State) (n : Nat) : State :=
  let s := s.mapRecords (RecEntry.lose n)
  match s.otherStns n with
  | [] => s
  | d :: _ =>
    let c := (s.stn n).sched
    let g := (s.stn n).slice.sig
    let waits := (s.stn n).hwaiters.map (fun w => w.tid)
    let s1 := (s.modSched n (fun c => { c with spilled := [], parked := [], spilledMsgs := [] })).modStn n (fun t => { t with hwaiters := [] })
    let unpin := fun (r : RecEntry) => RecEntry.lose n (if r.body.pin then { r with heldFor := some n } else r)
    let s2 := ((c.spilled ++ c.parked.filter (fun r => waits.contains r.tid)).map unpin).foldl (fun st r => st.sendAway n r) s1
    let s3 := s2.modSched d (fun k => { k with parked := k.parked ++
      ((c.parked.filter (fun r => !waits.contains r.tid)).map unpin).map (fun r => { r with sig := sigBoth r.sig (some g) }) })
    s3.sendAll (c.spilledMsgs.map (fun m => match m with
      | .taskPacket _ p => .taskPacket d { p with sig := sigBoth p.sig (some g) }
      | m => m))

/-- R281: a station as it joins a parcel: its slice is empty after write-back, its stash zero and empty, its accumulators and
latches clear. -/
def State.cleanStn (s : State) (n : Nat) : State :=
  let s1 := (s.dirtyWords n).foldl (fun st w => st.writeBack n (regionOf w.1) w.2.1 { w.2.2 with ix := ixOf w.1 }) s
  let s2 := s1.modSlice n (fun l => { l with blocks := [], windows := [], fills := [], bad := [] })
  let lo := stashFa s.cube n 0
  let out := fun (a unit : Nat) => decide (a * unit < lo ∨ lo + 2 ^ 22 ≤ a * unit)
  let s3 := { s2 with
    mem := s2.mem.filter (fun e => out e.1 1)
    poison := s2.poison.filter (fun e => out e.1 16)
    full := s2.full.filter (fun e => out e.1 8) }
  ((s3.clearMatrix n).modSched n (fun c => { c with preempted := false, resuming := false })).modStn n (fun t => { t with handles := [] })

/-- The home state of some chunks goes to the homes that the tables now name (R270, R281); what was held there is tried again. -/
def State.takeHomes (s : State) (x : HomeState) : State :=
  let home := fun (fa : Nat) => match s.place fa with | .ok pl => pl.stn | .error _ => 0
  let s1 := x.leases.foldl (fun st e => st.modHome (home (e.1 * 64)) (fun h =>
    { h with leasemax := Map.set 0 h.leasemax e.1 (max e.2 (Map.get 0 h.leasemax e.1)) })) s
  let s2 := x.witnesses.foldl (fun st w => st.record (home (w.word * 8)) (w.word * 8) 8 w.cube w.stn w.seq w.sig) s1
  let s3 := x.waiters.foldl (fun st w => st.modHome (home w.fa) (fun h => { h with waiters := h.waiters ++ [w] })) s2
  s3.sendAll x.held
/-- The home blocks of the regions that a test picks give way, dirty words going to DRAM. -/
def State.emptyRegions (s : State) (pick : Nat → Bool) : State :=
  s.stnIxs.foldl (fun st n =>
    ((st.stn n).slice.blocks.foldl (fun st b => if b.home && pick b.region then
      b.lines.foldl (fun st w => if w.dirty then st.homeToDram n b.region b.ptag w else st) st else st) st).modSlice n
        (fun l => { l with blocks := l.blocks.filter (fun b => !(b.home && pick b.region)) })) s

/-- Changes the tables: the homes that this moves write back and hand over what they keep. -/
def State.changeHomes (s : State) (f : State → State) : State :=
  let t := f s
  let pick := fun (c : Nat) => movesHome s t (c * 64)
  let s1 := s.emptyRegions (fun region => (List.range 32).any (fun k => pick (region * 32 + k)))
  (f (s1.dropHomeState pick)).takeHomes (s1.homeState pick)

/-- The new maps are in force: homes that they change write back and hand over, and each station that changes its parcel is moved out and
cleaned. -/
def State.rehome (s : State) (ptag : Nat) : State :=
  let changed := s.changedStns ptag
  let maps := s.mapsOf ptag
  let s1 := changed.foldl (fun st n => if (s.parcelAt n).isSome then st.moveOut n else st) s
  let s2 := s1.changeHomes (fun t => { t with tables := { t.tables with
    parcels := t.tables.parcels.map (fun p => ((maps.find? (fun q => q.ptag == p.ptag)).map (fun q => { q with resize := .rehomed })).getD p)
    newMaps := t.tables.newMaps.filter (fun q => !maps.any (fun m => m.ptag == q.ptag)) } })
  changed.foldl (fun st n => st.cleanStn n) s2

/-- Whether the stations that a map names have been released and belong to a parcel at all (R288). -/
def State.stnsReleased (s : State) (mask : Nat) : Bool :=
  (List.range 64).all (fun n => !bitAt mask n || (s.stn n).boot == .released)

/-- PARCEL_MAP_WRITE: the next map of a parcel, or a new parcel's first, announces a resize, of its parent too where stations or vaults
are lent or come back. A map of another generation, or one while a change is in progress, is not taken. -/
def execParcelMapWrite (s : State) : Out :=
  match s.hand.msg with
  | .parcelMapWrite e p =>
    let ps := s.tables.parcels
    let old := s.parcelOf p.ptag
    let nextOk := match old with
      | some q => q.resize == .steady && decide (p.bgen = (q.bgen + 1) % 2 ^ 16)
      | none => decide (ps.length < 64)
    let lends := p.parent != 0 && (match old with | some q => decide (p.smask ≠ q.smask ∨ p.vmask ≠ q.vmask) | none => true)
    let parent := if lends then s.parcelOf p.parent else none
    if !s.managerOk e || !nextOk || !s.stnsReleased p.smask || (parent.map (fun q => q.resize != .steady)).getD false then .next s
    else
      let mine := match old with
        | some _ => ps
        | none => ps ++ [{ p with smask := 0, vmask := 0, lmap := [] }]
      let maps := { p with resize := .rehomed } :: (match parent with
        | some q => [{ q with bgen := (q.bgen + 1) % 2 ^ 16, resize := .rehomed }]
        | none => [])
      let s1 := if old.isNone then s.renumber s.cube p.smask else s
      .next (({ s1 with tables := { s1.tables with parcels := mine, newMaps := s1.tables.newMaps ++ maps } }.setResize p.ptag .announced).send
        (.resizeHandover p.ptag))
  | _ => .next s

/-- A resize begins to drain: leaving stations are pre-empted, and their slices hand their homes over and forward what still reaches them
(R281). -/
def State.beginDrain (s : State) (ptag : Nat) : State :=
  let changed := (s.changedStns ptag).filter (fun n => (s.parcelAt n).isSome)
  changed.foldl (fun st n => st.preemptStn n none) (s.changeHomes (fun t => t.setResize ptag .draining))
/-- What a leaving station has modified goes back once its tasks have left it. -/
def State.drainStep (s : State) (ptag : Nat) : State :=
  (s.changedStns ptag).foldl (fun st n => if (st.parcelAt n).isSome && !st.anyTask n then st.flushWords n false (fun _ => true) else st) s

/-- RESIZE_HANDOVER: the parcel's stations acknowledge the new map, and it drains; once what leaves has drained and leases have passed,
homes change; the parcel is then REHOMED, and STEADY at the next such step, of which the manager hears. Until then the handover is tried
again. -/
def execResizeHandover (s : State) : Out :=
  match s.hand.msg with
  | .resizeHandover ptag =>
    match s.parcelOf ptag with
    | none => .next s
    | some p =>
      match p.resize with
      | .steady => .next s
      | .announced => .next (((s.beginDrain ptag).tellManager 6 ptag).send s.hand.msg)
      | .rehomed => .next (State.tellManager { s with tables := { s.tables with parcels := s.tables.parcels.map (fun x =>
          if (x.ptag = ptag ∨ x.ptag = p.parent) ∧ x.resize = .rehomed then { x with resize := .steady } else x) } } 7 ptag)
      | .draining =>
        if s.resizeReady ptag then .next ((s.rehome ptag).send s.hand.msg)
        else .next ((s.drainStep ptag).schedule (s.datum + 1000) s.hand.msg)
  | _ => .next s

end Sys2Proof.Machine
end

