-- ==== Sys2Proof/Machine/Hosts.lean ====
section
/-! DEFINITION. The host adapter towards this cube (R277, R278): submissions, DMA windows, the host table, heartbeats and dead
hosts. -/

namespace Sys2Proof.Machine

/-! ## DOORBELL (R277) -/

/-- The cubes at which an OHA may hold entries: this one, where it does, and those of the words that it has modified. -/
def State.heldCubes (s : State) (node : Nat) : List Nat :=
  ((if s.hosts.table.any (fun e => e.1 == node) then [s.cube] else []) ++
    (s.hostCache node).dirtyWords.filterMap (fun w => match s.place w.1 with | .ok pl => some pl.cube | .error _ => none)).eraseDups

/-- A submission that the OHA accepts leaves whole as one class O packet, once what the OHA had modified has gone back, and carries its
signature (R140); one whose anchor has no home retires FAULT (R297). -/
def State.submit (s : State) (e : Endpoint) (dws : List Word) : State :=
  let p : TaskPkt := ⟨dws, .cube, 0, none, 0⟩
  match s.hostReach e (dws.getD 0 0).toNat with
  | some pl => s.hostPublish e.node ⟨e.node, 0, 0, .task pl.cube pl.stn p⟩
  | none => s.refusePacket p

/-- DOORBELL: the host has written submissions into the ring; the OHA reads them, and so accepts them. -/
def execDoorbell (s : State) : Out :=
  match s.hand.msg with
  | .doorbell node ix subs =>
    match s.endpoint node ix with
    | none => .next s
    | some e =>
      if !subs.isEmpty then
        .next ((s.modEndpoint node ix (fun e => { e with ring := e.ring ++ subs })).send (.doorbell node ix []))
      else .next (e.ring.foldl (fun st d => st.submit e d) (s.modEndpoint node ix (fun e => { e with ring := [] })))
  | _ => .next s

/-! ## DMA_WINDOW_ACCESS (R277) -/

/-- An OHA's first write into a chunk: a HOLD goes to the chunk's home, and heartbeats begin (R278). -/
def State.sendHold (s : State) (node ptag fa : Nat) : State :=
  match s.place fa with
  | .error _ => s
  | .ok pl =>
    let s1 := if s.timers.any (fun t => t.2 == .heartbeatSend node) then s else s.schedule (s.datum + 10000000) (.heartbeatSend node)
    s1.export node pl.cube pl.stn 0 0x12 3 0 0 0 ptag (.mgmt 4 node (chunkOf fa)) (.hold node (chunkOf fa))

/-- One block word or less that a host writes: a whole block word into the cache, its chunk's first announced by a HOLD; less than
that as a release at its home, behind what the OHA had modified of the word (log entry 97). -/
def State.hostStore (s : State) (e : Endpoint) (fa : Nat) (bs : List Byte) : State :=
  if bs.length < 16 then
    let s1 := s.hostDrop e.node e.ptag fa
    match s1.place fa with
    | .ok pl =>
      let w : WriteReq := ⟨0, .cube, 0, fa, fa, bs, [], 2, 3, 0, s1.hostSig e.node, 0, e.ptag⟩
      s1.export e.node pl.cube pl.stn 0 0x02 0 (qualOf true 2 3) fa 0 e.ptag (.raw bs) (.write w)
    | .error _ => s1
  else
    let first := !(s.hostCache e.node).dirtyWords.any (fun w => chunkOf w.1 == chunkOf fa)
    let s1 := (s.hostPut e.node e.ptag fa ⟨ixOf fa, BitVec.ofNat 128 (natOf bs), true, false, 0, false⟩).modCache e.node (fun l =>
      { l with sigacc := l.sigacc ||| sigOf (chunkOf fa) })
    if first then s1.sendHold e.node e.ptag fa else s1

/-- One block word or less that a host reads: from the cache where it holds the word; a whole block word is read at its home as a leased
copy; less than that as an acquire (log entry 97). -/
def State.hostLoadWord (s : State) (e : Endpoint) (fa n : Nat) : State :=
  match s.hostWord e.node e.ptag fa, s.place fa with
  | some w, _ => s.tellHost e.node e.ptag (fa + if w.poison then poisonedRead else 0) (((bytesOf 16 w.data.toNat).drop (fa % 16)).take n)
  | none, .ok pl =>
    let whole := decide (n = 16)
    let r : ReadReq := ⟨0, .cube, 0, .answer, fa, fa, n, if whole then 0 else 2, if whole then 0 else 3, if whole then 1 else 0, e.ptag, n⟩
    s.export e.node pl.cube pl.stn 0 0x00 (memClass r.order) (qualOf (r.order == 2) r.order r.scope) fa 0 e.ptag (.raw (readReqBytes r)) (.readRequest r)
  | none, .error _ => s

/-- A refused access is counted; a refused read completes with Unsupported Request (R297). -/
def State.refuseHost (s : State) (e : Endpoint) (fa : Nat) (isWrite : Bool) : State :=
  let s1 := s.modEndpoint e.node e.ix (fun e => { e with refused := e.refused + 1 })
  if isWrite then s1 else s1.modEndpoint e.node e.ix (fun e => { e with host := e.host ++ [(unsupported + fa, [])] })

/-- DMA_WINDOW_ACCESS: an access outside its window, without its permission or out of its tag's reach is refused. -/
def execDmaWindowAccess (s : State) : Out :=
  match s.hand.msg with
  | .dmaWindowAccess node ix slot off isWrite data =>
    match s.endpoint node ix with
    | none => .next s
    | some e =>
      match e.windows.find? (fun w => w.1 == slot) with
      | none => .next (s.refuseHost e off isWrite)
      | some (_, _, size, base, r, w) =>
        let fa := base + off
        let bad := decide (size < off + data.length) || (isWrite && !w) || (!isWrite && !r) || (piecesOf fa data).any (fun p => (s.hostReach e p.1).isNone)
        if bad then .next (s.refuseHost e fa isWrite)
        else .next ((piecesOf fa data).foldl (fun st p => if isWrite then st.hostStore e p.1 p.2 else st.hostLoadWord e p.1 p.2.length) s)
  | _ => .next s

/-! ## The host table and heartbeats (R278) -/

/-- 100,000,000 ticks without a heartbeat, 10,000,000 between heartbeats. -/
def hostLimit : Nat := 100000000
def beatEvery : Nat := 10000000

/-- HOLD: an entry for the OHA and the chunk at its home; an OHA's first starts the watch for its heartbeats. -/
def execHold (s : State) : Out :=
  match s.hand.msg with
  | .hold node chunk =>
    match s.place (chunk * 64) with
    | .error _ => .next s
    | .ok pl =>
      if pl.cube ≠ s.cube then .next s
      else
        let first := !s.hosts.table.any (fun e => e.1 == node)
        let old := s.hosts.table.filter (fun e => e.1 != node || e.2.1 != chunk)
        let s1 := { s with hosts := { s.hosts with table := old ++ [(node, chunk, 0)] } }
        .next (if !first then s1
          else { s1 with hosts := { s1.hosts with beats := Map.set 0 s1.hosts.beats node s.datum } }.schedule (s.datum + hostLimit) (.hostTimeout node))
  | _ => .next s

/-- HEARTBEAT_SEND: in class S, to each cube at which the OHA holds an entry. -/
def execHeartbeatSend (s : State) : Out :=
  match s.hand.msg with
  | .heartbeatSend node =>
    let cubes := s.heldCubes node
    if cubes.isEmpty then .next s
    else .next ((cubes.foldl (fun st c => st.export node c 0 0 0x12 3 0 0 0 0 (.mgmt 5 node 0) .none) s).schedule
      (s.datum + beatEvery) s.hand.msg)
  | _ => .next s

/-- HEARTBEAT. -/
def execHeartbeat (s : State) : Out :=
  match s.hand.msg with
  | .heartbeat node =>
    .next (State.schedule { s with hosts := { s.hosts with beats := Map.set 0 s.hosts.beats node s.datum } } (s.datum + hostLimit) (.hostTimeout node))
  | _ => .next s

/-- A chunk that a dead host may have modified: its block words are poisoned, which is logged, and its waiters see it. -/
def State.loseChunk (s : State) (chunk : Nat) : State :=
  match s.place (chunk * 64) with
  | .error _ => s
  | .ok pl =>
    let s1 := (List.range 4).foldl (fun st k => st.poisonHome { pl with canon := pl.canon + 16 * k } (chunk * 64 + 16 * k)) s
    (s1.wakeWaiters s pl (chunk * 64) 64 false).logError pl.ptag 3 (chunk * 64) 4

/-- A host is dead: every chunk of its entries is lost, and the entries are cleared; later write-backs from it are discarded. -/
def State.hostDead (s : State) (node : Nat) : State :=
  let mine := s.hosts.table.filter (fun e => e.1 == node)
  mine.foldl (fun st e => st.loseChunk e.2.1)
    { s with hosts := { s.hosts with
        table := s.hosts.table.filter (fun e => e.1 != node), beats := Map.set 0 s.hosts.beats node 0, dead := s.hosts.dead.add node } }

/-- HOST_DEAD_DECLARATION: the fabric manager says so. -/
def execHostDeadDeclaration (s : State) : Out :=
  match s.hand.msg with
  | .hostDeadDeclaration node => .next (s.hostDead node)
  | _ => .next s

/-- HOST_TIMEOUT: no heartbeat for 100,000,000 ticks. -/
def execHostTimeout (s : State) : Out :=
  match s.hand.msg with
  | .hostTimeout node => if Map.get 0 s.hosts.beats node + hostLimit ≤ s.datum then .next (s.hostDead node) else .next s
  | _ => .next s

end Sys2Proof.Machine
end

