-- ==== Sys2Proof/Machine/Memory.lean ====
section
/-! DEFINITION. Scalar loads and stores (R153) and the full/empty forms (R154). -/

namespace Sys2Proof.Machine

/-! ## Loads -/

/-- The bytes of a block word that a part takes. -/
def partOf (w : BlockWord) (fa len : Nat) : List Byte := ((bytesOf 16 w.toNat).drop (fa % 16)).take len

/-- A word found at hand by a load: a local one is filled into the slice, a present one becomes the most recently used. -/
def Exec.foundWord (h : Hint) (pl : Place) (fa : Nat) : Exec Unit := do
  let s ← get
  let l := s.hand.at_
  if s.isLocal l.stn pl && !pl.stash && h != .nt &&
      (s.windowLine l.stn fa).isNone && ((s.stn l.stn).slice.find pl.ptag (regionOf fa) (ixOf fa)).isNone then
    set ((s.rebuild fa pl.canon).fillHome pl (regionOf fa) (ixOf fa) (ixOf fa) (h == .span))
  else if !pl.stash then
    set (s.useStn l.stn fa)

/-- Asks for the whole block word that an access touches, for its instruction's buffer, unless it has been asked for. -/
def Exec.askWord (h : Hint) (p : Exec.Part) : Exec Unit := do
  let s ← get
  let l := s.hand.at_
  let c := s.cur
  if !c.flow.asked.contains (bwOf p.fa) then
    let r := s.freshId
    set ((r.2.modCtx l (fun c => { c with flow := { c.flow with asked := bwOf p.fa :: c.flow.asked } })).askFill r.1
      (.task l c.tid) l.stn (.buffer l.stn) p.pl (p.fa / 16 * 16) (p.ea - p.fa % 16) 16 h)

/-- One block word's share of a weak load: taken at hand, or asked for. A share that others follow is waited for, so that they are
performed in ascending order (R130). -/
def Exec.loadPart (h : Hint) (dest : Dest) (last : Bool) (p : Exec.Part) : Exec Piece := do
  let s ← get
  let l := s.hand.at_
  match s.cur.flow.rbuf.find? (fun e => e.1 == bwOf p.fa) with
  | some e => return ⟨0, p.fa, p.ea, p.len, partOf e.2.1 p.fa p.len, e.2.2⟩
  | none =>
  match s.look l.stn p.pl p.fa with
  | .stall => Exec.stall
  | .have_ w bad =>
    Exec.foundWord h p.pl p.fa
    return ⟨0, p.fa, p.ea, p.len, partOf w p.fa p.len, bad⟩
  | .fetch =>
    if last then
      let r := s.freshId
      set (r.2.askFill r.1 (.task l s.cur.tid) l.stn dest p.pl p.fa p.ea p.len h)
      return ⟨r.1, p.fa, p.ea, p.len, [], false⟩
    else
      Exec.askWord h p
      Exec.stall

/-- A load of `n` bytes to registers: `regs` are the destinations, `dest` how the bytes go to them. -/
def load (o : LdOps) (n scale : Nat) (dest : Ctx → Dest) (regs : List Nat) (s : State) : Out :=
  runSeq (do
    Exec.need (o.b :: xRegs o.c)
    Exec.winPriv o.q.win
    Exec.waitWC o.q.wc
    Exec.afterAcquire
    let c ← Exec.ctx
    let ea := (c.ea o.b o.c scale).toNat
    let strong := decide (o.q.order ≠ .plain)
    let ps ← Exec.access o.q.win .r strong ea n
    Exec.afterSame (ps.map (fun p => bwOf p.fa))
    Exec.afterLocal ps
    let owes := (regs.filter (fun r => r != 0)).map c.phys
    if strong then
      let acq := Order.isAcq o.q.order
      match ps with
      | p :: _ =>
        Exec.cleanChunk p.fa
        let s ← get
        let l := s.hand.at_
        let r := s.freshId
        set (r.2.send (.readRequest ⟨r.1, .task l c.tid, l.stn, dest c, p.fa, p.ea, n, if acq then 2 else 1,
          if acq then scopeNum o.q.scope else 0, 0, p.pl.ptag, s.datum⟩))
        Exec.launch ⟨.load (dest c), [⟨r.1, p.fa, p.ea, n, [], false⟩], true, acq, owes, [], s.datum⟩
      | [] => pure ()
    else
      let mut pieces : List Piece := []
      for p in ps do
        pieces := pieces ++ [← Exec.loadPart o.q.hint (dest c) (p.ea + p.len == ea + n) p]
      Exec.launch ⟨.load (dest c), pieces, false, false, owes, [], (← get).datum⟩) s

/-- A load to one register. -/
def loadReg (o : LdOps) (n : Nat) (sg : Bool) (s : State) : Out :=
  load o n n (fun c => .reg (c.phys o.a) n sg) [o.a] s

def execLdN8 (o : LdOps) (s : State) : Out := loadReg o 1 false s
def execLdN16 (o : LdOps) (s : State) : Out := loadReg o 2 false s
def execLdN32 (o : LdOps) (s : State) : Out := loadReg o 4 false s
def execLd (o : LdOps) (s : State) : Out := loadReg o 8 false s
def execLdI8 (o : LdOps) (s : State) : Out := loadReg o 1 true s
def execLdI16 (o : LdOps) (s : State) : Out := loadReg o 2 true s
def execLdI32 (o : LdOps) (s : State) : Out := loadReg o 4 true s
/-- R153: g0 as the first register of a pair discards its half. -/
def execLdp (o : LdOps) (s : State) : Out := load o 16 16 (fun c => .pair (c.phys o.a)) [o.a, o.a + 1] s

/-! ## Stores -/

/-- A store on its way to its home: the request, and the access in flight. -/
def Exec.storeReq (p : Exec.Part) (bs : List Byte) (order scope relseq : Nat) : Exec (WriteReq × Flight) := do
  let s ← get
  let l := s.hand.at_
  let k := s.counterFor l.stn p.pl
  let r := s.freshId
  set r.2
  return (⟨r.1, .task l s.cur.tid, l.stn, p.fa, p.ea, bs, [], order, scope, k, (s.stn l.stn).slice.sig, relseq, p.pl.ptag⟩,
    ⟨.store k, [⟨r.1, p.fa, p.ea, p.len, [], false⟩], decide (order ≠ 0), false, [], [], s.datum⟩)

/-- Sends stores to their homes, each after the one before has been performed (R130). A remote one is posted (R123); with `wait`, the
instruction of a local one completes when the last is performed (R135, R152). -/
def Exec.sendStores (wait : Bool) (ws : List (WriteReq × Flight)) : Exec Unit := do
  let s ← get
  let l := s.hand.at_
  let s1 := s.sendSeq (ws.map (fun w => .write { w.1 with counter := if wait then 0 else w.1.counter }))
  match (if wait then ws.getLast? else none) with
  | some w => set (s1.modCtx l (fun c => { c with flow := { c.flow with waitOn := some w.1.id, waitWords := s.hand.words } }))
  | none => set (ws.foldl (fun st w => st.modCtx l (fun c =>
      let c1 := c.addCount w.1.counter true
      { c1 with flow := { c1.flow with flights := c1.flow.flights ++ [w.2] } })) s1)

/-- Asks for the word that a store will change part of, and waits for it; answers that it came without a lease. -/
def Exec.fetchForStore (p : Exec.Part) (h : Hint) : Exec Bool := do
  if (← Exec.ctx).flow.rbuf.any (fun e => e.1 == bwOf p.fa) then return true
  Exec.askWord h p
  Exec.stall

/-- Where one block word's share of a weak store goes: its home at hand, allocating there or not (R128), a copy, a posted store; or
nowhere, for poison that is reported precisely or later. -/
inductive StoreTo where
  | home
  | dram
  | copy (old : BlockWord)
  | post
  | poisonHere
  | poisonLater
deriving DecidableEq, Repr

/-- Chooses where a part goes, fetching what it needs; nothing is stored yet. Behind a part that is sent, the others are sent too
(R130). -/
def Exec.storeWhere (h : Hint) (sent : Bool) (p : Exec.Part) : Exec StoreTo := do
  let s ← get
  let l := s.hand.at_
  let sl := (s.stn l.stn).slice
  if sl.wbOut.any (fun e => e.2 == bwOf p.fa) then Exec.stall
  let inWin := !p.pl.stash && (s.windowLine l.stn p.fa).isSome
  if s.isLocal l.stn p.pl && !inWin then
    if !(s.rebuildNeeds p.fa p.pl.canon).isEmpty then return .post
    let t := s.rebuild p.fa p.pl.canon
    set t
    if (t.homeWord p.pl p.fa).2 && p.len != 16 then return .poisonHere
    if sent || s.blockedAt l.stn p.fa p.len then return .post
    return if h == .nt && !p.pl.stash && (sl.find p.pl.ptag (regionOf p.fa) (ixOf p.fa)).isNone then .dram else .home
  else if sent || p.pl.stash || h == .nt || s.leaseFor p.pl p.fa h == 0 then
    -- words already present are kept coherent: a dirty one is written back first, a clean one dropped
    Exec.cleanChunk p.fa
    return .post
  else
    let s1 := if inWin then s else s.dropReplicas l.stn p.fa
    set s1
    let sl := (s1.stn l.stn).slice
    let line := if inWin then (s1.windowLine l.stn p.fa).join else (sl.find p.pl.ptag (regionOf p.fa) (ixOf p.fa)).map (fun e => e.2)
    match line with
    | some w =>
      if w.fresh s1.datum then
        if w.poison && p.len != 16 then return .poisonLater
        return .copy w.data
      else if p.len == 16 then return .copy 0
      else if ← Exec.fetchForStore p h then return .post else return .copy w.data
    | none =>
      if p.len == 16 then return .copy 0
      else if ← Exec.fetchForStore p h then return .post else return .copy 0

/-- Performs one part where it goes; a part that is sent gives its request. -/
def Exec.storePart (p : Exec.Part) (dst : StoreTo) (bs : List Byte) : Exec (Option (WriteReq × Flight)) := do
  let s ← get
  let l := s.hand.at_
  match dst with
  | .home => set (s.performWrite p.pl p.fa bs []).1; return none
  | .dram => set (s.dramWrite p.pl p.fa bs).1; return none
  | .copy old => set (s.putCopy l.stn p.pl p.fa old bs); return none
  | .post => return some (← Exec.storeReq p bs 0 0 0)
  | .poisonHere => return none
  | .poisonLater => Exec.modCtx (fun c => c.poisoned p.ea); return none

/-- A store of the bytes that `data` gives. One that has to wait at a home of its own station stalls until it is performed, and traps
POISON precisely (R123, R135, R152). -/
def store (o : LdOps) (n : Nat) (srcs : List Nat) (data : Ctx → List Byte) (s : State) : Out :=
  runSelf (do
    Exec.need (srcs ++ o.b :: xRegs o.c)
    Exec.winPriv o.q.win
    Exec.waitWC o.q.wc
    Exec.afterAcquire
    let c ← Exec.ctx
    let ea := (c.ea o.b o.c n).toNat
    let bs := data c
    let strong := decide (o.q.order ≠ .plain)
    let ps ← Exec.access o.q.win .w strong ea n
    Exec.afterSame (ps.map (fun p => bwOf p.fa))
    Exec.afterLocal ps
    let own := ps.any (fun p => s.isLocal s.hand.at_.stn p.pl)
    if strong then
      let rel := Order.isRel o.q.order
      Exec.afterStrong
      if rel then Exec.beforeRelease o.q.scope
      match ps with
      | p :: _ =>
        Exec.cleanChunk p.fa
        let s ← get
        let q := s.nextRel s.hand.at_.stn
        if rel && scopeWide (scopeNum o.q.scope) then set q.2
        let w ← Exec.storeReq p bs (if rel then 2 else 1) (if rel then scopeNum o.q.scope else 0) q.1
        Exec.sendStores own [w]
        if !own then modify State.retire
      | [] => modify State.retire
    else
      let mut tos : List (Exec.Part × StoreTo) := []
      for p in ps do
        let t ← Exec.storeWhere o.q.hint (tos.any (fun e => e.2 == .post)) p
        Exec.check (t != .poisonHere) causePOISON p.ea
        tos := tos ++ [(p, t)]
      let mut ws : List (WriteReq × Flight) := []
      for e in tos do
        ws := ws ++ (← Exec.storePart e.1 e.2 ((bs.drop (e.1.ea - ea)).take e.1.len)).toList
      Exec.sendStores own ws
      if !own || ws.isEmpty then modify State.retire) s

/-- A store of the low bytes of gA. -/
def storeReg (o : LdOps) (n : Nat) (s : State) : Out := store o n [o.a] (fun c => bytesOf n (c.readG o.a).toNat) s

def execStN8 (o : LdOps) (s : State) : Out := storeReg o 1 s
def execStN16 (o : LdOps) (s : State) : Out := storeReg o 2 s
def execStN32 (o : LdOps) (s : State) : Out := storeReg o 4 s
def execSt (o : LdOps) (s : State) : Out := storeReg o 8 s
def execStp (o : LdOps) (s : State) : Out :=
  store o 16 [o.a, o.a + 1] (fun c => bytesOf 8 (c.readG o.a).toNat ++ bytesOf 8 (c.readG (o.a + 1)).toNat) s

/-! ## Full/empty forms (R154) -/

/-- A full/empty form: its request goes to the stash's station, and the context stalls until it is answered. -/
def fullEmpty (o : LdOps) (op : Nat) (srcs : List Nat) (dest : Nat) (s : State) : Out :=
  runSelf (do
    Exec.need (srcs ++ o.b :: xRegs o.c)
    Exec.winPriv o.q.win
    Exec.waitWC o.q.wc
    Exec.afterAcquire
    let c ← Exec.ctx
    let ea := (c.ea o.b o.c 8).toNat
    let ps ← Exec.access o.q.win .rw true ea 8
    match ps with
    | p :: _ =>
      Exec.check p.pl.stash causePROT ea
      Exec.afterSame [bwOf p.fa]
      Exec.afterLocal ps
      Exec.afterStrong
      let acq := Order.isAcq o.q.order
      let rel := Order.isRel o.q.order
      if rel then Exec.beforeRelease o.q.scope
      let s ← get
      let l := s.hand.at_
      let r := s.freshId
      let q := r.2.nextRel l.stn
      let a : AtomReq := ⟨r.1, .task l c.tid, l.stn, p.fa, ea, op, false, (c.readG o.a).toNat, 0,
        if acq then 1 else if rel then 2 else 0, if acq || rel then scopeNum o.q.scope else 0, dest, 0,
        (s.stn l.stn).slice.sig, q.1, p.pl.ptag⟩
      set ((q.2.send (.atomic a)).modCtx l (fun c =>
        { c with flow := { c.flow with waitOn := some r.1, waitWords := s.hand.words } }))
    | [] => pure ()) s

def execLdw (o : LdOps) (s : State) : Out := fullEmpty o 16 [] o.a s
def execLdwe (o : LdOps) (s : State) : Out := fullEmpty o 17 [] o.a s
def execStw (o : LdOps) (s : State) : Out := fullEmpty o 18 [o.a] 0 s
def execStf (o : LdOps) (s : State) : Out := fullEmpty o 19 [o.a] 0 s
def execFeclr (o : LdOps) (s : State) : Out := fullEmpty o 20 [] 0 s

end Sys2Proof.Machine
end

