-- ==== Sys2Proof/Machine/Scalar.lean ====
section
/-! DEFINITION. Integer instructions (R90 to R93) and address arithmetic that makes no access (R94). -/

namespace Sys2Proof.Machine

/-- A two-source integer operation: gA = f(gB, c). -/
def alu (o : AluOps) (f : Word → Word → Word) (s : State) : Out :=
  scalar (o.b :: xRegs o.c) (fun c => c.writeG o.a (f (c.readG o.b) (c.xval o.c))) s
/-- A one-source integer operation: gA = f(gB). -/
def alu1 (o : Alu1Ops) (f : Word → Word) (s : State) : Out :=
  scalar [o.b] (fun c => c.writeG o.a (f (c.readG o.b))) s
/-- An immediate operation: gA = f(gA, imm) (R91). -/
def aluImm (o : ImmOps) (f : Word → Word → Word) (s : State) : Out :=
  scalar [o.a] (fun c => c.writeG o.a (f (c.readG o.a) (wInt o.imm))) s

/-- R90: shifts by the whole 64-bit count. -/
def shl (a b : Word) : Word := if 64 ≤ b.toNat then 0 else a <<< b.toNat
def shrL (a b : Word) : Word := if 64 ≤ b.toNat then 0 else a >>> b.toNat
def shrA (a b : Word) : Word := a.sshiftRight (min b.toNat 64)

/-- R39: division truncates towards zero; the two corners are defined. -/
def divQ (uns : Bool) (a b : Word) : Word :=
  if b = 0 then BitVec.allOnes 64 else wInt ((valOf uns a).tdiv (valOf uns b))
def divR (uns : Bool) (a b : Word) : Word :=
  if b = 0 then a else wInt ((valOf uns a).tmod (valOf uns b))

/-- Zero bits from the top, from the bottom, and one bits (R90). -/
def countLead (a : Word) : Nat := if a = 0 then 64 else 63 - Nat.log2 a.toNat
def countTrail (a : Word) : Nat := if a = 0 then 64 else Nat.log2 (a &&& (-a)).toNat
def countOnes (a : Word) : Nat := (List.range 64).foldl (fun n i => if a.getLsbD i then n + 1 else n) 0

/-- The low `n` bits, sign- or zero-extended. -/
def extend (uns : Bool) (n : Nat) (a : Word) : Word :=
  if uns then w64 (a.toNat % 2 ^ n) else wInt (signed n (a.toNat % 2 ^ n))

def execAdd (o : AluOps) (s : State) : Out := alu o (fun a b => satWord o.uns o.sat (valOf o.uns a + valOf o.uns b)) s
def execSub (o : AluOps) (s : State) : Out := alu o (fun a b => satWord o.uns o.sat (valOf o.uns a - valOf o.uns b)) s
def execAnd (o : AluOps) (s : State) : Out := alu o (fun a b => a &&& b) s
def execOr (o : AluOps) (s : State) : Out := alu o (fun a b => a ||| b) s
def execXor (o : AluOps) (s : State) : Out := alu o (fun a b => a ^^^ b) s
def execSll (o : AluOps) (s : State) : Out := alu o shl s
def execSrl (o : AluOps) (s : State) : Out := alu o shrL s
def execSra (o : AluOps) (s : State) : Out := alu o shrA s
def execMul (o : AluOps) (s : State) : Out := alu o (fun a b => satWord o.uns o.sat (valOf o.uns a * valOf o.uns b)) s
/-- R90: bits [127:64] of the exact product. -/
def execMulh (o : AluOps) (s : State) : Out := alu o (fun a b => wInt ((valOf o.uns a * valOf o.uns b) / 2 ^ 64)) s
def execDiv (o : AluOps) (s : State) : Out := alu o (divQ o.uns) s
def execRem (o : AluOps) (s : State) : Out := alu o (divR o.uns) s
def execMin (o : AluOps) (s : State) : Out := alu o (fun a b => if valOf o.uns b < valOf o.uns a then b else a) s
def execMax (o : AluOps) (s : State) : Out := alu o (fun a b => if valOf o.uns a < valOf o.uns b then b else a) s
def execClz (o : Alu1Ops) (s : State) : Out := alu1 o (fun a => w64 (countLead a)) s
def execCtz (o : Alu1Ops) (s : State) : Out := alu1 o (fun a => w64 (countTrail a)) s
def execPopc (o : Alu1Ops) (s : State) : Out := alu1 o (fun a => w64 (countOnes a)) s
def execExt (bits : Nat) (o : Alu1Ops) (s : State) : Out := alu1 o (extend o.uns bits) s

def execAddi (o : ImmOps) (s : State) : Out := aluImm o (fun a b => satWord false o.sat (valOf false a + valOf false b)) s
def execAndi (o : ImmOps) (s : State) : Out := aluImm o (fun a b => a &&& b) s
def execOri (o : ImmOps) (s : State) : Out := aluImm o (fun a b => a ||| b) s
def execXori (o : ImmOps) (s : State) : Out := aluImm o (fun a b => a ^^^ b) s
def execSlli (o : ImmOps) (s : State) : Out := aluImm o shl s
def execSrli (o : ImmOps) (s : State) : Out := aluImm o shrL s
def execSrai (o : ImmOps) (s : State) : Out := aluImm o shrA s
def execMuli (o : ImmOps) (s : State) : Out := aluImm o (fun a b => satWord false o.sat (valOf false a * valOf false b)) s

/-- R92. -/
def execMovi (a : Nat) (imm : Int) (s : State) : Out := scalar [] (fun c => c.writeG a (wInt imm)) s
/-- R92: the immediate goes to bits [63:44]. -/
def execMovh (a : Nat) (imm : Int) (s : State) : Out :=
  scalar [a] (fun c => c.writeG a (w64 ((c.readG a).toNat % 2 ^ 44 + (imm % 2 ^ 20).toNat * 2 ^ 44))) s

/-- A compare: gA = 1 where the test holds, else 0 (R93). -/
def compare3 (a b : Nat) (x : XOp) (f : Word → Word → Bool) (s : State) : Out :=
  scalar (b :: xRegs x) (fun c => c.writeG a (if f (c.readG b) (c.xval x) then 1 else 0)) s

def execSeq (a b : Nat) (x : XOp) (s : State) : Out := compare3 a b x (fun p q => p == q) s
def execSne (a b : Nat) (x : XOp) (s : State) : Out := compare3 a b x (fun p q => p != q) s
def execSltI (a b : Nat) (x : XOp) (s : State) : Out := compare3 a b x (fun p q => decide (p.toInt < q.toInt)) s
def execSltN (a b : Nat) (x : XOp) (s : State) : Out := compare3 a b x (fun p q => decide (p.toNat < q.toNat)) s
def execSleI (a b : Nat) (x : XOp) (s : State) : Out := compare3 a b x (fun p q => decide (p.toInt ≤ q.toInt)) s
def execSleN (a b : Nat) (x : XOp) (s : State) : Out := compare3 a b x (fun p q => decide (p.toNat ≤ q.toNat)) s
/-- R93: SEL reads gA as its condition before it writes it. -/
def execSel (a b : Nat) (x : XOp) (s : State) : Out :=
  scalar (a :: b :: xRegs x) (fun c => c.writeG a (if c.readG a ≠ 0 then c.readG b else c.xval x)) s

/-- R94: an index register of LEA is unscaled. -/
def execLea (a b : Nat) (x : XOp) (s : State) : Out := scalar (b :: xRegs x) (fun c => c.writeG a (c.ea b x 1)) s
/-- R94. -/
def execAdpc (a : Nat) (off : Int) (s : State) : Out := scalar [] (fun c => c.writeG a (wInt ((c.pc : Int) + 2 * off))) s

end Sys2Proof.Machine
end

