-- ==== Sys2Proof/Machine/Tenant.lean ====
section
/-! DEFINITION. TENANT_RESET (R282). -/

namespace Sys2Proof.Machine

/-- Whether a parcel tag is a tenant's. -/
def State.isTenant (s : State) (t ptag : Nat) : Bool := s.tenantOf ptag == some t

/-- A context of a reset tenant's station: a task in user mode is stopped and its context freed; a kernel that runs in it goes on
without a task. -/
def Ctx.stopped (c : Ctx) : Ctx :=
  if c.task.isNone then c else if c.sup then { c with task := none, flow := { c.flow with susp := none, bpend := false, ppend := none } } else c.freed

/-- The tasks and records of a station, by number. -/
def State.tidsAt (s : State) (n : Nat) : List Nat :=
  (stnLocs n).filterMap (fun l => (s.ctx l).task.map (fun r => r.tid)) ++
  ((s.stn n).sched.ready ++ (s.stn n).sched.spilled ++ (s.stn n).sched.parked).map (fun r => r.tid)

/-- Whether a publication lets a record, command, task packet or arrival leave its station. -/
def lettingGo (p : PubFor) : Bool :=
  match p with
  | .record _ _ _ => true
  | .command _ => true
  | .task _ _ _ => true
  | .data _ _ _ => true
  | _ => false

/-- A station of the tenant: its tasks are stopped, its records, inbox, messages and queued commands are freed; a matrix command
under way ends by itself. -/
def State.resetStn (s : State) (n : Nat) : State :=
  let s1 := { s with c3 := (s.tidsAt n).foldl (fun m t => Map.set 0 m t 0) s.c3 }
  let s2 := (stnLocs n).foldl (fun st l => st.modCtx l Ctx.stopped) s1
  s2.modStn n (fun t =>
    { t with
      sched := { t.sched with inbox := [], ready := [], spilled := [], parked := [], slots := [], spilledMsgs := [] }
      slice := { t.slice with pubs := t.slice.pubs.filter (fun p => !lettingGo p.demand.pubFor) }
      hwaiters := []
      vec := { t.vec with queues := [], pipe := [] }
      eng := { t.eng with
        matrix := { t.eng.matrix with inbox := if t.eng.matrix.started then t.eng.matrix.inbox.take 1 else [] }
        copy := {}
        coll := {}
        heldCmds := [] } })

/-- A vault's sequencer forgets the tenant's queues and commands. -/
def State.resetVault (s : State) (t v : Nat) : State :=
  let q := s.vault v
  let mine := s.isTenant t
  let s1 := s.modVault v (fun q => { q with
    queues := q.queues.filter (fun e => !mine e.1)
    runs := q.runs.filter (fun e => !mine e.1)
    serving := q.serving.filter (fun p => !mine p) })
  if q.serving.any mine then s1.send (.bkrunCommand v) else s1

/-- A submission that was accepted before the reset is delivered, and freed unrun. -/
def State.spend (s : State) (t : Nat) (p : Packet) : Packet :=
  if p.hdr.typ = 0x06 && s.isTenant t p.hdr.ptag then mkPacket { p.hdr with typ := 0x12, addr := 0 } (.raw []) else p

/-- Whether a message in flight carries a task, a record, a command or a wake of the tenant. -/
def State.ofTenant (s : State) (t : Nat) (m : Msg) : Bool :=
  let at_ := fun (n : Nat) => s.tenantAt n == some t
  match m with
  | .taskPacket n _ => at_ n
  | .recordMove n _ => at_ n
  | .dataArrivalWithHandler n _ => at_ n
  | .engineCommand c => c.cube == s.cube && s.isTenant t c.cmd.ptag
  | .tileTaskRecord p _ _ => s.isTenant t p
  | .waitArm w => s.isTenant t w.ptag
  | .atomic a => decide (16 ≤ a.op ∧ a.op ≤ 20) && (match a.src with | .task _ _ => s.isTenant t a.ptag | _ => false)
  | .wake w => s.isTenant t w.reg.ptag
  | .publicationComplete d _ => (match d.pubFor with
    | .record _ _ r => s.isTenant t r.ptag
    | .command c => s.isTenant t c.cmd.ptag
    | .task _ _ p => s.isTenant t ((p.dws.getD 2 0).toNat % 65536)
    | .data _ _ a => s.isTenant t a.ptag
    | _ => false)
  | _ => false

/-- What a reset owes the sender of a message that it frees. -/
def State.freed (s : State) (m : Msg) : State :=
  match m with
  | .taskPacket _ p => s.senderDone p.src p.counter
  | .dataArrivalWithHandler _ d => s.senderDone d.src d.counter
  | .engineCommand c => (match c.src with | .packet p => s.ackPkt p | _ => s)
  | _ => s

/-- Whether a publication lets a submission of the tenant leave an OHA; it is freed with it. -/
def State.submits (s : State) (t : Nat) (p : Pub) : Bool :=
  match p.demand.pubFor with | .task _ _ k => s.isTenant t ((k.dws.getD 2 0).toNat % 65536) | _ => false

/-- What of a reset tenant other units hold: messages in flight, tables, partials, packets on their way and submissions. -/
def State.sweep (s : State) (t : Nat) : State :=
  let mine := s.isTenant t
  let pkt := s.spend t
  let sent := fun (u : Sent) => { u with pkt := pkt u.pkt }
  let msg := fun (m : Msg) => match m with | .packetRouting p => .packetRouting (pkt p) | m => m
  { s with
    net := (s.net.filter (fun m => !s.ofTenant t m)).map msg
    tables := { s.tables with
      tensors := s.tables.tensors.filter (fun e => !mine (e.1 / 1024))
      tiles := s.tables.tiles.filter (fun x => !mine x.ptag) }
    router := { s.router with
      slots := s.router.slots.map (fun x => { x with parts := x.parts.filter (fun e => !mine e.2.ptag) })
      waiting := s.router.waiting.filter (fun e => !mine e.2.ptag)
      frags := s.router.frags.filter (fun e => !mine e.2.ptag)
      ports := s.router.ports.map (fun e => (e.1, { e.2 with rxq := e.2.rxq.map pkt })) }
    e2e := { s.e2e with
      pairs := s.e2e.pairs.map (fun p => { p with unacked := p.unacked.map sent, waiting := p.waiting.map sent })
      filters := s.e2e.filters.map (fun f => { f with queue := f.queue.map pkt })
      future := s.e2e.future.map pkt }
    hosts := { s.hosts with
      caches := s.hosts.caches.map (fun e => (e.1, { e.2 with pubs := e.2.pubs.filter (fun p => !s.submits t p) }))
      endpoints := s.hosts.endpoints.map (fun e =>
        if e.tenant = t then { e with ring := [], discarded := e.discarded + e.ring.length } else e) } }

/-- TENANT_RESET, from the fabric manager. Nothing retires, and memory stays as it is. A slot of other tenants' contributions completes
at its timer. The manager hears when it is done. -/
def execTenantReset (s : State) : Out :=
  match s.hand.msg with
  | .tenantReset e t =>
    if !s.managerOk e then .next s
    else
      let mine := s.isTenant t
      let gone := s.net.filter (s.ofTenant t)
      let ns := (List.range 64).filter (fun n => s.tenantAt n == some t)
      let s0 := ns.foldl (fun st n => (stnLocs n).foldl (fun u l =>
        match (u.ctx l).flow.waitOn with | some id => u.cancelAway id (.fullEmptyCancel l) | none => u) st) s
      let s1 := ns.foldl (fun st n => st.resetStn n) s0
      let s2 := (s1.vaults.map (fun e => e.1)).foldl (fun st v => st.resetVault t v) s1
      let s3 := s2.stnIxs.foldl (fun st n => st.modHome n (fun h => { h with
        waiters := h.waiters.filter (fun w => !mine w.ptag)
        feHeld := h.feHeld.filter (fun e => match e.2 with | .atomic a => !mine a.ptag | _ => true) })) s2
      .next ((gone.foldl (fun st m => st.freed m) (s3.sweep t)).tellManager 8 t)
  | _ => .next s

end Sys2Proof.Machine
end

