-- ==== Sys2Proof/Machine/Tiles.lean ====
section
/-! DEFINITION. Tile tasks: TTASK and the dispatcher (R218, R219). -/

namespace Sys2Proof.Machine

/-- R218: the fields of a record that R219 refuses whatever the tensors are. -/
def tileFieldsOk (d : List Nat) : Bool :=
  let w := fun i => d.getD i 0
  bitsOf (w 0) 63 56 == 1 && decide (bitsOf (w 0) 55 52 ≤ 1) && bitsOf (w 0) 47 0 == 0 &&
  bitsOf (w 1) 63 42 == 0 && bitsOf (w 1) 31 26 == 0 && bitsOf (w 1) 15 10 == 0 && bitsOf (w 3) 63 48 == 0 &&
  bitsOf (w 4) 63 56 == 0 && !bitAt (w 5) 63 && bitsOf (w 6) 63 56 == 0

/-- R210, R213: whether its tensors are a combination that the engine implements. -/
def State.tileTensorsOk (s : State) (ptag : Nat) (d : List Nat) : Bool :=
  let ids := d.getD 1 0
  let seg := bitsOf (d.getD 0 0) 55 52 == 1
  let a := bitsOf ids 9 0
  let b := bitsOf ids 25 16
  (match comboCheck seg a b (s.tensor ptag a) (s.tensor ptag b) with | .ok _ => true | .error _ => false) &&
  (match s.tensor ptag (bitsOf ids 41 32) with | some t => decide (t.fmt ≤ 2) | none => false)

/-- The station of a parcel's dispatcher: its lowest logical station. -/
def State.dispatcher (s : State) (ptag : Nat) : Option Nat :=
  match s.parcelOf ptag with
  | some p => (servedStns s.tables.parcels p).head?
  | none => none

/-- The records that a dispatcher holds, those on their way to it among them. -/
def State.tileCount (s : State) (ptag : Nat) : Nat :=
  (s.tables.tiles.filter (fun t => t.ptag == ptag)).length +
  (s.net.filter (fun m => match m with | .tileTaskRecord p _ _ => p == ptag | _ => false)).length

/-- TTASK. -/
def execTtask (o : EngOps) (s : State) : Out :=
  runSeq (Exec.underGuard o.guard o.wc [o.b] (do
    Exec.afterAcquire
    let c ← Exec.ctx
    let b := (c.readG o.b).toNat
    Exec.check (b % 64 == 0) causeALIGN b
    let d := dwsOf 8 (← Exec.readIn .va b 64)
    let s ← get
    let l := s.hand.at_
    let ptag := s.ptagAt l.stn
    Exec.check (tileFieldsOk d && s.tileTensorsOk ptag d) causeFMT b
    Exec.wait (decide (s.tileCount ptag < 1024))
    set ((s.modCtx l (fun c => c.addCount 1 true)).send (.tileTaskRecord ptag (d.map w64) (.task l c.tid))))) s

/-- A doubleword of a tile task. -/
def TileTask.dw (t : TileTask) (i : Nat) : Nat := (t.dws.getD i 0).toNat

/-- Asks for a dispatch unless one is already due. -/
def State.wantDispatch (s : State) (ptag : Nat) : State :=
  if s.net.contains (.tileTaskDispatch ptag) then s else s.send (.tileTaskDispatch ptag)

/-- TILE_TASK_RECORD: the dispatcher accepts a record and registers its dependence. A dependence counter that cannot be
waited on counts as broken (log entry 21). -/
def execTileTaskRecord (s : State) : Out :=
  match s.hand.msg with
  | .tileTaskRecord ptag dws src =>
    match s.dispatcher ptag with
    | none => .next (s.senderDone src 1)
    | some stn =>
      if 1024 ≤ (s.tables.tiles.filter (fun t => t.ptag == ptag)).length then .next (s.requeue s.hand.msg)
      else
        let n := s.tables.tileCount + 1
        let dw := fun i => (dws.getD i 0).toNat
        let fa := bitsOf (dw 4) 55 0
        let key := if dw 7 ≠ 0 then dw 7 else s.datum + (s.stn stn).sched.horizon
        let usable := fa % 8 == 0 && (match s.reach ⟨stn, false, false⟩ fa with | .ok _ => true | .error _ => false)
        let t : TileTask := ⟨n, ptag, dws, src, key, fa == 0 || !usable, fa != 0 && !usable⟩
        let s1 := State.senderDone { s with tables := { s.tables with tiles := s.tables.tiles ++ [t], tileCount := n } } src 1
        .next (if fa ≠ 0 ∧ usable then
            s1.send (.waitArm ⟨.tile, fa, fa, w64 (dw 5 % 2 ^ 63), .cube, n, stn, 0, 0, 2, 3, ptag⟩)
          else s1.wantDispatch ptag)
  | _ => .next s

/-- A tile task leaves its dispatcher. -/
def State.dropTile (s : State) (t : TileTask) : State :=
  { s with tables := { s.tables with tiles := s.tables.tiles.filter (fun x => x.num != t.num) } }

/-- DONECTR receives its update (R209, R219). -/
def State.tileDone (s : State) (stn : Nat) (t : TileTask) (broken : Bool) : State :=
  let fa := bitsOf (t.dw 6) 55 0
  if fa = 0 then s
  else
    let ok := fa % 8 == 0 && (match s.reach ⟨stn, false, false⟩ fa with | .ok _ => true | .error _ => false)
    let r := s.counterStep stn t.ptag fa (if ok then some fa else none) broken
    r.2.sendSeq r.1

/-- Whether a ready task is retired LATE. -/
def State.tileLate (s : State) (t : TileTask) : Bool := bitAt (t.dw 0) 48 && t.dw 7 != 0 && decide (t.dw 7 < s.datum)

/-- The tile task that is dispatched first: by key, then arrival. -/
def firstTile : List TileTask → Option TileTask
  | [] => none
  | t :: ts => match firstTile ts with
    | some x => some (if x.key < t.key ∨ (x.key = t.key ∧ x.num < t.num) then x else t)
    | none => some t

/-- The stations of a parcel that lend an accumulator and have room. -/
def State.tileStations (s : State) (ptag acc : Nat) : List Nat :=
  (List.range 64).filter (fun n => s.ptagAt n == ptag && bitAt (s.matrix n).dmask acc && s.inboxRoom n 0 ptag)

/-- The home station of A's first tile, if it is on this cube. -/
def State.tileHome (s : State) (stn : Nat) (t : TileTask) : Got (Option Nat) :=
  match s.tensor t.ptag (bitsOf (t.dw 1) 9 0) with
  | none => .ok none
  | some a =>
    match s.engPlace ⟨stn, 4, t.ptag⟩ a.lin (a.elemAddr (a.linear [t.dw 3 % 2 ^ 32, t.dw 2 % 2 ^ 32])) .r with
    | .ok p => .ok (if p.1.cube = s.cube then some p.1.stn else none)
    | .bad _ _ => .ok none
    | .need l => .need l
    | .hold => .hold

/-- TILE_TASK_DISPATCH: ready tasks that are broken or late retire; the first of the others goes to a station. -/
def execTileTaskDispatch (s : State) : Out :=
  match s.hand.msg with
  | .tileTaskDispatch ptag =>
    match s.dispatcher ptag with
    | none => .next s
    | some stn =>
      let ready := s.tables.tiles.filter (fun t => t.ptag == ptag && t.ready)
      let gone := ready.filter (fun t => t.broken || s.tileLate t)
      let s1 := gone.foldl (fun st t => (st.tileDone stn t t.broken).dropTile t) s
      match firstTile (ready.filter (fun t => !gone.contains t)) with
      | none => .next s1
      | some t =>
        let ss := s1.tileStations ptag (bitsOf (t.dw 0) 51 50)
        if ss.isEmpty then .next (s1.wantDispatch ptag)
        else
          .next (s1.engineGot ⟨stn, 4, ptag⟩ (.tileTaskDispatch ptag) (s1.tileHome stn t) (fun h =>
            let n := match h with | some x => if ss.contains x then x else ss.headD 0 | none => ss.headD 0
            let k : Cmd := ⟨2, false, ptag, tileOpcode, (List.range 5).map (fun i => t.dws.getD i 0), w64 (bitsOf (t.dw 6) 55 0), 0⟩
            (((s1.engDone stn 4).dropTile t).dispatchCmd stn ⟨k, 0, n, s.cube, .cube, 0, none⟩).wantDispatch ptag) (fun _ _ => s1))
  | _ => .next s

end Sys2Proof.Machine
end

