-- ==== Sys2Proof/Machine/Sha256.lean ====
section
/-! DEFINITION. SHA-256 (FIPS 180-4), which R287 applies to keys and images. -/

namespace Sys2Proof.Machine

/-- The greatest `x` below `2 ^ n` over `acc` whose power `k` does not pass `v`, one bit at a time from the top. -/
def rootBits (k v : Nat) : Nat → Nat → Nat
  | 0, acc => acc
  | n + 1, acc => rootBits k v n (if (acc + 2 ^ n) ^ k ≤ v then acc + 2 ^ n else acc)

/-- Bits 1 to 32 behind the point of the root of degree `k` of `p`. -/
def rootFraction (k p : Nat) : Nat := rootBits k (p * 2 ^ (32 * k)) 37 0 % 2 ^ 32

/-- The primes below 312, of which there are 64. -/
def primes64 : List Nat :=
  (List.range 312).filter (fun n => decide (2 ≤ n) && (List.range 18).all (fun d => decide (d < 2 ∨ n ≤ d) || n % d != 0))

/-- The constant of each round: the cube root of its prime. -/
def shaK : List Nat := primes64.map (rootFraction 3)

/-- The working variables at the start: the square roots of the first eight primes. -/
def shaH0 : List Nat := (primes64.take 8).map (rootFraction 2)

/-- A 32-bit word turned right. -/
def rotr32 (x n : Nat) : Nat := x / 2 ^ n + x % 2 ^ n * 2 ^ (32 - n)
def xor3 (a b c : Nat) : Nat := Nat.xor (Nat.xor a b) c

/-- The message with its padding: a one bit, zeros, and its length in bits, to a multiple of 64 bytes. -/
def shaPad (bs : List Byte) : List Byte :=
  bs ++ [0x80] ++ List.replicate ((119 - bs.length % 64) % 64) 0 ++ (bytesOf 8 (8 * bs.length)).reverse

/-- The next word of a schedule, of its last 16, latest first. -/
def shaNext (w : List Nat) : Nat :=
  let a := w.getD 14 0
  let b := w.getD 1 0
  (xor3 (rotr32 a 7) (rotr32 a 18) (a / 2 ^ 3) + xor3 (rotr32 b 17) (rotr32 b 19) (b / 2 ^ 10) + w.getD 15 0 + w.getD 6 0) % 2 ^ 32

/-- One round: working variables, the schedule's last 16 words (latest first), the round's word and constant. -/
def shaRound (v : List Nat) (k w : Nat) : List Nat :=
  match v with
  | [a, b, c, d, e, f, g, h] =>
    let t1 := h + xor3 (rotr32 e 6) (rotr32 e 11) (rotr32 e 25) + Nat.xor (Nat.land e f) (Nat.land (2 ^ 32 - 1 - e) g) + k + w
    let t2 := xor3 (rotr32 a 2) (rotr32 a 13) (rotr32 a 22) + xor3 (Nat.land a b) (Nat.land a c) (Nat.land b c)
    [(t1 + t2) % 2 ^ 32, a, b, c, (d + t1) % 2 ^ 32, e, f, g]
  | _ => v

/-- The rounds that remain: their constants, the words of the block not used yet, and the words used, latest first. -/
def shaRounds : List Nat → List Nat → List Nat → List Nat → List Nat
  | [], _, _, v => v
  | k :: ks, w :: ws, used, v => shaRounds ks ws ((w :: used).take 16) (shaRound v k w)
  | k :: ks, [], used, v => let w := shaNext used; shaRounds ks [] ((w :: used).take 16) (shaRound v k w)

/-- A number of bytes, most significant first. -/
def natBE (bs : List Byte) : Nat := natOf bs.reverse

/-- Takes in whole blocks. -/
def shaBlocks : Nat → List Byte → List Nat → List Nat
  | 0, _, h => h
  | n + 1, bs, h =>
    let ws := (List.range 16).map (fun i => natBE ((bs.drop (4 * i)).take 4))
    shaBlocks n (bs.drop 64) ((h.zip (shaRounds shaK ws [] h)).map (fun e => (e.1 + e.2) % 2 ^ 32))

/-- The digest of a message: 32 bytes. -/
def sha256 (bs : List Byte) : List Byte :=
  let m := shaPad bs
  ((shaBlocks (m.length / 64) m shaH0).map (fun w => (bytesOf 4 w).reverse)).flatten

end Sys2Proof.Machine
end

