-- ==== Sys2Proof/Machine/Upkeep.lean ====
section
/-! DEFINITION. Power and temperature (R283 to R285), start-up (R286 to R288), background work (R289, R290), error counters
(R291), monitors (R293, R294) and SURVEY (R295, R296). -/

namespace Sys2Proof.Machine

def State.modPlat (s : State) (f : Platform → Platform) : State := { s with plat := f s.plat }

/-! ## Manager's writes -/

/-- PCAP_WRITE: 600 W to 1,800 W (R285). -/
def execPcapWrite (s : State) : Out :=
  match s.hand.msg with
  | .pcapWrite w => .next (if 600 ≤ w ∧ w ≤ 1800 then s.modPlat (fun p => { p with pcap := w, budget := w }) else s)
  | _ => .next s

/-- The bits of a monitor's control word that can be written: EN, SRC, UNIT. -/
def monitorBits : Word := 0x80FF00FF00000000

/-- MONITOR_CONTROL_WRITE: writing the control word clears the monitor (R293). -/
def execMonitorControlWrite (s : State) : Out :=
  match s.hand.msg with
  | .monitorControlWrite ix v =>
    .next (if ix < 64 then s.modPlat (fun p => { p with monitors := Map.set {} p.monitors ix { control := v &&& monitorBits } }) else s)
  | _ => .next s

/-- ERROR_COUNTER_CLEAR (R291). -/
def execErrorCounterClear (s : State) : Out :=
  match s.hand.msg with
  | .errorCounterClear => .next (s.modPlat (fun p => { p with errors := [] }))
  | _ => .next s

/-! ## Monitors (R294) -/

/-- The level that a source shows for a unit: task inbox depth, vector queue occupancy, flits in a port's class buffers,
temperature. -/
def State.level (s : State) (src unit : Nat) : Option Nat :=
  match src with
  | 2 => some (s.stn unit).sched.inbox.length
  | 3 => some ((s.stn unit).vec.queues.foldl (fun n q => n + q.2.length) 0)
  | 4 => some ((List.range 4).foldl (fun n c => n + (s.port unit).buffered c) 0)
  | 6 => some (Map.get 0 s.plat.temps unit)
  | _ => none

/-- MONITOR_SAMPLE: a running monitor of a level takes a sample. -/
def execMonitorSample (s : State) : Out :=
  match s.hand.msg with
  | .monitorSample ix =>
    let m := Map.get ({} : Monitor) s.plat.monitors ix
    match s.level (monSrc m.control) (monUnit m.control) with
    | some x => .next (s.modPlat (fun p => { p with monitors := Map.set {} p.monitors ix (m.sample x) }))
    | none => .next s
  | _ => .next s

/-! ## Temperature and power (R283 to R285) -/

/-- A temperature in units of 0.125 °C. -/
def degrees (n : Nat) : Nat := 8 * n

/-- The hotter of a vault's two sensors; sensors 2 v and 2 v + 1 are vault v's (log entry 36). -/
def Platform.vaultHeat (p : Platform) (v : Nat) : Nat := max (Map.get 0 p.temps (2 * v)) (Map.get 0 p.temps (2 * v + 1))
/-- The hottest DRAM sensor. -/
def Platform.heat (p : Platform) : Nat := (List.range 64).foldl (fun m v => max m (p.vaultHeat v)) 0

/-- THERMAL_READING: a vault above 85 °C refreshes at double rate until it is below 83 °C; at 100 °C everything that issues runs
at one cycle in four, which is reported (report 3), until every DRAM sensor is below 95 °C. -/
def execThermalReading (s : State) : Out :=
  match s.hand.msg with
  | .thermalReading n x =>
    if 160 ≤ n then .next s
    else
      let s1 := s.modPlat (fun p => { p with temps := Map.set 0 p.temps n x })
      if 128 ≤ n then .next s1
      else
        let h := s1.plat.vaultHeat (n / 2)
        let s2 := s1.modVault (n / 2) (fun v =>
          { v with hot := if degrees 85 < h then true else if h < degrees 83 then false else v.hot })
        if degrees 100 ≤ s2.plat.heat then
          .next (if s2.plat.throttled then s2 else (s2.modPlat (fun p => { p with throttled := true })).tellManager 3 n)
        else if s2.plat.heat < degrees 95 then .next (s2.modPlat (fun p => { p with throttled := false }))
        else .next s2
  | _ => .next s

/-- R285: what is withheld to save some watts: matrix steps first, then lane groups, bank engines, scalar issue. What each kind can
give is not the spec's (log entry 37); the sum is what is needed. -/
def withholdFrom (n : Nat) : Nat → Nat → Map Nat
  | 0, _ => []
  | 1, w => if w = 0 then [] else [(3, w)]
  | k + 2, w =>
    let x := min w ((Config.freeWord (n + k)).toNat % 2048)
    Map.set 0 (withholdFrom n (k + 1) (w - x)) (2 - k) x

/-- GOVERNOR_MEASUREMENT: every 100 µs; ten make the 1 ms window. What the window's projection exceeds the budget by is withheld. At
a window's end the mean is kept, and the budget falls by 50 W while a DRAM sensor is at 95 °C or above (R284). -/
def execGovernorMeasurement (s : State) : Out :=
  match s.hand.msg with
  | .governorMeasurement w =>
    let p := s.plat
    let xs := p.samples ++ [w]
    let total := xs.foldl (fun a x => a + x) 0
    let projected := (total + w * (10 - xs.length) + 9) / 10
    let s1 := { s with counts := { s.counts with free := s.counts.free + 3 } }
    let held := withholdFrom s.counts.free 4 (projected - p.budget)
    if xs.length < 10 then .next (s1.modPlat (fun p => { p with samples := xs, withheld := held }))
    else .next (s1.modPlat (fun p => { p with
      samples := [], withheld := held, mean := total / 10
      budget := if degrees 95 ≤ p.heat then p.budget - 50 else p.pcap }))
  | _ => .next s

/-! ## Start-up (R286 to R288) -/

/-- The refresh period of a vault in ticks (R289). -/
def refreshEvery (hot : Bool) : Nat := if hot then 16000000 else 32000000

/-- The ticks between two scrub reads of a vault: 2²⁸ block words in 24 h (R289). -/
def scrubEvery : Nat := 321000
/-- The ticks between two exchanges of the datum with the neighbouring cubes (R289). -/
def exchangeEvery : Nat := 1000000

/-- POWER_GOOD: steps 1 to 3: everything is at reset, what has failed is noted, DRAM is zero, ports train, and refresh and scrub
begin. -/
def execPowerGood (s : State) : Out :=
  match s.hand.msg with
  | .powerGood stns vaults arrays routerFailed =>
    let s1 : State := { State.reset with cube := s.cube, datum := s.datum, ext := s.ext, turns := s.turns, hand := s.hand, counts := s.counts }
    let s2 := stns.foldl (fun st n => st.modStn n (fun t => { t with boot := .failed })) s1
    let s3 := vaults.foldl (fun st v => st.modVault v (fun q => { q with failed := true })) s2
    let s4 := (List.range 8).foldl (fun st n => st.modPort n (fun p => { p with st := .train })) s3
    let s5 := (List.range 64).foldl (fun st v => if (st.vault v).failed then st else (st.schedule (s.datum + refreshEvery false) (.refresh v)).schedule (s.datum + scrubEvery) (.scrubStep v 0)) s4
    .next (s5.modPlat (fun p => { p with phase := 3, failedArrays := arrays, routerFailed := routerFailed }))
  | _ => .next s

/-- DATUM_SET: once, at start-up, before any station is released (R286 step 4); it is never stepped later (R290). -/
def execDatumSet (s : State) : Out :=
  match s.hand.msg with
  | .datumSet v =>
    .next (if s.plat.phase = 3 then State.modPlat { s with datum := v % 2 ^ 64 } (fun p => { p with phase := 4 }) else s)
  | _ => .next s

/-- The bytes of an image: the keys, the version, the signatures, the body (R287; their order is log entry 34). -/
def imageBytes (i : Image) : List Byte := i.edKey ++ i.mlKey ++ bytesOf 2 i.version ++ i.edSig ++ i.mlSig ++ i.body

/-- R287: a sequencer accepts an image. -/
def imageOk (i : Image) : Bool :=
  sha256 i.edKey == Config.fusedDigests.1 && sha256 i.mlKey == Config.fusedDigests.2 && decide (Config.fusedVersion ≤ i.version) &&
  Config.ed25519Verifies (sha256 i.body) i.edKey i.edSig && Config.mldsa65Verifies (sha256 i.body) i.mlKey i.mlSig

/-- Whether a kernel area holds an image. -/
def State.holdsImage (s : State) (vault which : Nat) (i : Image) : Bool :=
  s.bytes (s.imageFa vault which) (imageBytes i).length == imageBytes i

/-- ROUTER_IMAGE_VERIFY: the image that was written into vault 0's kernel area, if it is accepted, starts the router and marks the endpoint
that wrote it as the manager's. -/
def execRouterImageVerify (s : State) : Out :=
  match s.hand.msg with
  | .routerImageVerify img =>
    if s.plat.phase < 4 ∨ s.router.live ∨ s.plat.routerFailed ∨ !s.holdsImage 0 0 img ∨ !imageOk img then .next s
    else .next ((State.modPlat { s with router := { s.router with live := true, manager := s.router.imageBy } }
      (fun p => { p with phase := 5, routerImage := sha256 (imageBytes img) })).schedule (s.datum + exchangeEvery) .datumExchange)
  | _ => .next s

/-- R288: a station as it is released: at reset, its stash zero and empty, context 0 of core 0 at the entry in supervisor mode with
asynchronous traps disabled. -/
def State.release (s : State) (n : Nat) (img : Image) : State :=
  let s1 := (s.cleanStn n).setStn n { boot := .released, kernel := { tvec := img.entry } }
  let s2 := (stnLocs n).foldl (fun st l => st.setCtx l {}) s1
  (s2.setCtx ⟨n, 0, 0⟩ { busy := true, sup := true, pc := img.entry }).schedule (s.datum + 10000) (.loadBalancing n)

/-- STATION_BOOT: the kernel image is copied from vault 0's kernel area into the station's own vault's and verified there; the station is
released, or LOCKED. -/
def execStationBoot (s : State) : Out :=
  match s.hand.msg with
  | .stationBoot n img =>
    if s.plat.phase < 4 ∨ (s.stn n).boot ≠ .off then .next s
    else
      let s1 := s.setBytes (s.imageFa n 1) (s.bytes (s.imageFa 0 1) (imageBytes img).length)
      if !s1.holdsImage n 1 img ∨ !imageOk img then .next (s1.modStn n (fun t => { t with boot := .locked }))
      else .next ((s1.modPlat (fun p => { p with kernelTable := img.table, kernelImage := sha256 (imageBytes img) })).release n img)
  | _ => .next s

/-! ## Background work (R289, R290) -/

/-- The number of a row among all of the cube's. -/
def rowNo (vault bank row : Nat) : Nat := (vault * 128 + bank) * 2 ^ 32 + row

/-- REFRESH: every row of a vault; activations are counted anew, and the next pass follows at the vault's rate. -/
def execRefresh (s : State) : Out :=
  match s.hand.msg with
  | .refresh v =>
    .next ((s.modPlat (fun p => { p with
      refreshes := Map.set 0 p.refreshes v (Map.get 0 p.refreshes v + 1)
      activations := p.activations.filter (fun e => e.1 / (128 * 2 ^ 32) != v) })).schedule
      (s.datum + refreshEvery (s.vault v).hot) (.refresh v))
  | _ => .next s

/-- Both neighbours of a row are refreshed. -/
def State.refreshRow (s : State) (v b row : Nat) : State :=
  let bump := fun (m : Map Nat) (r : Nat) => Map.set 0 m (rowNo v b r) (Map.get 0 m (rowNo v b r) + 1)
  s.modPlat (fun p => { p with rowRefreshes := bump (if row = 0 then p.rowRefreshes else bump p.rowRefreshes (row - 1)) (row + 1) })

/-- TARGETED_REFRESH: of a row's neighbours, as its activations within one refresh period reach 4,096. -/
def execTargetedRefresh (s : State) : Out :=
  match s.hand.msg with
  | .targetedRefresh v b row => .next (s.refreshRow v b row)
  | .rowActivations v b row n =>
    let k := Map.get 0 s.plat.activations (rowNo v b row) + n
    let s1 := s.modPlat (fun p => { p with activations := Map.set 0 p.activations (rowNo v b row) (k % 4096) })
    .next (if 4096 ≤ k then s1.refreshRow v b row else s1)
  | _ => .next s

/-- Whether a home block of this cube holds a DRAM word, under whatever address. -/
def State.inHomeBlock (s : State) (canon : Nat) : Bool :=
  s.stations.any (fun e => e.2.slice.blocks.any (fun b => b.home && b.lines.any (fun w =>
    match s.place (wordFa b.region w.ix) with | .ok p => decide (p.canon / 16 = canon / 16) | .error _ => false)))

/-- What a scrub read finds of the word at an address: the word as its home has it (R122), so that one which a home block holds is
good; otherwise DRAM's is good (0), is corrected (1), or is uncorrectable (2) and is poisoned and logged. Corrected data is what the word
holds. -/
def State.scrub (s : State) (fa verdict : Nat) : State :=
  match s.place fa with
  | .error _ => s
  | .ok pl =>
    if pl.cube ≠ s.cube ∨ pl.stash = true ∨ s.inHomeBlock pl.canon = true then s
    else if verdict = 1 then s.countError 0 1
    else if verdict = 2 then
      let at_ : Place := { pl with canon := pl.canon / 16 * 16 }
      let s1 := State.countError { s with poison := s.poison.add (pl.canon / 16) } 1 1
      (s1.wakeWaiters s at_ (fa / 16 * 16) 16 false).logError pl.ptag 1 (fa / 16 * 16) 1
    else s

/-- A word of a station's SRAM is found bad (R132, R291, log entry 52): one that is corrected is counted; an uncorrectable one is poisoned
where it is dirty, which its write-back logs and counts, or where it is the stash's own, and given up where it is a clean copy. -/
def State.sramBad (s : State) (stn fa : Nat) (corrected : Bool) : State :=
  let taint := fun (t : State) => t.modSlice stn (fun l => { l with bad := l.bad.add (bwOf fa) })
  let is := fun (b : Block) (w : Line) => b.region == regionOf fa && w.ix == ixOf fa
  if corrected then s.countError 2 1
  else if isStashFa fa then
    State.countError { s with poison := s.poison.add (fa / 16) } 3 1
  else match s.windowLine stn fa, (s.stn stn).slice.windowOf (chunkOf fa) with
  | some (some w), some (win, _) =>
    if w.dirty then taint (s.putWin stn win { w with poison := true })
    else s.modSlice stn (fun l => { l with windows := l.windows.map (fun v =>
      if v.va = win.va then { v with lines := v.lines.filter (fun x => x.ix != w.ix) } else v) })
  | _, _ =>
    if (s.stn stn).slice.blocks.any (fun b => b.lines.any (fun w => is b w && w.dirty)) then
      taint (s.modSlice stn (fun l => l.modLine (regionOf fa) (ixOf fa) (fun w => { w with poison := w.poison || w.dirty })))
    else s.trimSlice stn is

/-- PATROL_SCRUB: a scrub read of one word, or the next of a vault's pass, which takes 24 h and begins again at its end (R289, R290); and
what SRAM finds of itself. -/
def execPatrolScrub (s : State) : Out :=
  match s.hand.msg with
  | .patrolScrub fa verdict => .next (s.scrub fa verdict)
  | .scrubStep v n =>
    let s1 := s.scrub (vaultFa s.cube (v * 2 ^ 32 + 16 * n)) (Config.scrubFinds s.plat.scrubs)
    .next ((s1.modPlat (fun p => { p with scrubs := p.scrubs + 1 })).schedule (s.datum + scrubEvery) (.scrubStep v ((n + 1) % 2 ^ 28)))
  | .sramError stn fa corrected => .next (s.sramBad stn fa corrected)
  | _ => .next s

/-- The datum's rate is corrected by at most 100 parts per million; it is never stepped. -/
def State.setRate (s : State) (ppm : Int) : State :=
  s.modPlat (fun p => { p with rate := if ppm < -100 then -100 else if 100 < ppm then 100 else ppm })

/-- DATUM_SYNCHRONISATION: every 1 ms the datum is sent in class S to the neighbouring cubes; what comes from them corrects the rate. -/
def execDatumSynchronisation (s : State) : Out :=
  match s.hand.msg with
  | .datumSynchronisation ppm => .next (s.setRate ppm)
  | .datumExchange =>
    let far := ((List.range 8).filterMap (fun n => if (s.port n).usable ∧ (s.port n).far < 4096 then some (s.port n).far else none)).eraseDups
    .next ((far.foldl (fun st c => st.export s.cube c 0 0 0x12 3 0 0 0 0 (.mgmt 6 s.datum 0) .none) s).schedule
      (s.datum + exchangeEvery) .datumExchange)
  | _ => .next s

/-! ## SURVEY (R295, R296) -/

/-- Bytes cut or filled with zeros to a section's size. -/
def sized (n : Nat) (bs : List Byte) : List Byte := bs.take n ++ List.replicate (n - bs.length) 0

/-- A station's byte. -/
def State.stnByte (s : State) (n : Nat) : Nat :=
  let t := s.stn n
  match t.boot with
  | .failed => 0
  | .off => 1
  | .locked => 2
  | .released => if s.leaving n then 5 else if t.sched.preempted then 4 else if (s.parcelAt n).isNone then 6 else 3

/-- The bin that holds a percentile of a monitor's samples. -/
def Monitor.percentile (m : Monitor) (pct : Nat) : Nat :=
  let upTo := fun (b : Nat) => (List.range (b + 1)).foldl (fun a i => a + Map.get 0 m.bins i) 0
  ((List.range 32).find? (fun b => decide (m.total * pct ≤ 100 * upTo b))).getD 31

/-- A resize state's number. -/
def resizeNo : Resize → Nat
  | .steady => 0
  | .announced => 1
  | .draining => 2
  | .rehomed => 3
/-- A port state's number. -/
def portNo : PortSt → Nat
  | .down => 0
  | .train => 1
  | .up => 2
  | .half => 3

/-- A section whose layout the spec does not give (log entry 35). -/
def section_ (n size : Nat) (vals : List Nat) : List Byte := sized size (Config.surveyBytes n vals)

/-- The summary's 4,096 bytes, for the manager or for a tenant. -/
def State.summary (s : State) (all : Bool) (tenant : Nat) : List Byte :=
  let mine := fun (ptag : Nat) => all || s.tenantOf ptag == some tenant
  let parcels := (s.tables.parcels.filter (fun p => all || p.tenant == tenant)).take 64
  let slots := s.router.slots.filter (fun x => all || mine x.ptag)
  let stn := fun (n : Nat) => if all || s.tenantAt n == some tenant then s.stnByte n else 0
  sized 8 ("JM1-256L".toList.map (fun c => BitVec.ofNat 8 c.toNat)) ++
  section_ 0 56 [Config.serial, Config.revisions.1, Config.revisions.2, s.cube, Config.fusedVersion] ++
  sized 64 (sized 32 s.plat.routerImage ++ sized 32 s.plat.kernelImage) ++
  section_ 1 64 (List.replicate 10 s.datum ++ [s.tables.gen, s.plat.pcap, s.plat.mean]) ++
  (List.range 64).map (fun n => BitVec.ofNat 8 (stn n)) ++
  sized 1536 ((parcels.map (fun p => section_ 2 24 [p.ptag, p.tenant, p.parent, p.bgen, resizeNo p.resize, p.smask, p.vmask])).flatten) ++
  section_ 3 256 (slots.length :: ((slots.take 31).map (fun x => [x.group, x.seq] ++ x.parts.map (fun e => e.1))).flatten) ++
  ((List.range 32).map (fun i => bytesOf 4 (if all then Map.get 0 s.plat.errors i else 0))).flatten ++
  sized 64 (((List.range 8).map (fun n => section_ 4 8 [portNo (s.port n).st, (s.port n).lanes, Config.fecMargin (s.counts.free + n)])).flatten) ++
  ((List.range 160).map (fun i => bytesOf 2 (Map.get 0 s.plat.temps i))).flatten ++
  ((List.range 64).map (fun i =>
    let m := Map.get ({} : Monitor) s.plat.monitors i
    section_ 5 24 [m.control.toNat, m.min, m.max, m.total, m.percentile 50, m.percentile 99])).flatten

/-- One of the 16 writes of a summary: to its address's home, or, where no home of the endpoint's tenant has it, as in boot logic, to the
endpoint's node, which gives it to its host (log entry 99). -/
def State.surveyWrite (s : State) (node ptag tenant fa : Nat) (bs : List Byte) : Msg × State :=
  let i := s.freshId
  let w : WriteReq := ⟨i.1, .cube, 0, fa, fa, bs, [], 1, 0, 0, 0, 0, ptag⟩
  (match s.reachAs (some tenant) false false fa with | .ok _ => .write w | .error _ => .hostWrite node w, i.2)

/-- SURVEY: the summary goes to an aligned destination as 16 writes, and a completion follows to the endpoint. -/
def execSurvey (s : State) : Out :=
  match s.hand.msg with
  | .survey no tenant dest =>
    let node := no / 256
    let ix := no % 256
    let all := s.router.manager == some no
    let t := match s.endpoint node ix with | some e => e.tenant | none => tenant
    let ptag := match s.endpoint node ix with | some e => e.ptag | none => 0
    if s.plat.phase < 3 ∨ dest % 4096 ≠ 0 then .next s
    else
      let bs := s.summary all t
      let s1 := { s with counts := { s.counts with free := s.counts.free + 8 } }
      let r := (List.range 16).foldl (fun (r : List Msg × State) k =>
        let m := r.2.surveyWrite node ptag t (dest + 256 * k) ((bs.drop (256 * k)).take 256)
        (r.1 ++ [m.1], m.2)) ([], s1)
      .next (r.2.sendSeq (r.1 ++ [.resultOrStatus ⟨(node + 1) * 2 ^ 56 + ix, 0, w64 dest, false, false, false⟩]))
  | _ => .next s

end Sys2Proof.Machine
end

