-- ==== Sys2Proof/Machine/VecMem.lean ====
section
/-! DEFINITION. Vector loads, stores, gathers and scatters (R166 to R170): the elements formed at issue, and what the
memory pipeline does with an entry that has reached the head of its queue. -/

namespace Sys2Proof.Machine

/-! ## Issue -/

/-- Runs steps, answering their trap's cause, or none where they stall. -/
def Exec.attempt {α : Type} (m : Exec α) : Exec (Except (Option Nat) α) := fun s =>
  match m s with
  | .ok a t => .ok (.ok a) t
  | .error (.trap c _) t => .ok (.error (some c)) t
  | .error .stall t => .ok (.error none) t

/-- Forms elements, each in a number of parts, in ascending order up to the first that fails its checks: what was formed (position,
fabric address, address), and the cause and element that failed. -/
def Exec.formElems (parts : Nat) (ea : Nat → Nat → Nat) (check : Nat → Exec Nat) :
    List Nat → Exec (List (Nat × Nat × Nat) × Option (Nat × Nat))
  | [] => pure ([], none)
  | p :: ps => do
    match ← Exec.attempt ((List.range parts).mapM (fun j => do return (p * parts + j, ← check (ea p j), ea p j))) with
    | .ok xs =>
      let r ← Exec.formElems parts ea check ps
      return (xs ++ r.1, r.2)
    | .error (some cause) => return ([], some (cause, p))
    | .error none => Exec.stall

/-- The checks of R149 on one element: its fabric address. -/
def Exec.elemFa (win : Win) (need : Need) (bytes : Nat) (ea : Nat) : Exec Nat := do
  Exec.check (ea % bytes == 0) causeALIGN ea
  let fa ← Exec.faOf win ea need
  let _ ← Exec.home win fa ea
  return fa

/-- Issue of a vector memory instruction of `w`-bit elements, each made as a number of parts: `ea` gives the address of an element's
part, `check` checks one. The elements below one that fails are performed, and it traps precisely (R170). It enters its queue
whatever FTRAPEN holds: VSCADD's flags come with its acknowledgements (R169), after it has left the core (log entry 43). -/
def issueMem (i : Instr) (q : VMQ) (w parts : Nat) (srcs : List Nat) (indexed : Bool) (ea : State → Nat → Nat → Nat)
    (check : Nat → Exec Nat) (s : State) : Out :=
  runSeq (do
    Exec.need srcs
    Exec.waitWC q.wc
    Exec.afterAcquire
    if q.pred != 0 || indexed then Exec.drained
    let s ← get
    let c := s.cur
    let b := bindOf c q.guard
    if b = .decided false then pure ()
    else
      let start := if c.sup then 0 else c.csr.resume
      let ns := (List.range (8192 / w)).filter (fun n => decide (start ≤ n) && elOn q.pred q.inv c c.csr.vl w n)
      let r ← Exec.formElems parts (ea s) check ns
      let c ← Exec.ctx
      Exec.wait (!r.1.any (fun x => c.flow.flights.any (fun f => f.touches (bwOf x.2.1))))
      let t ← get
      let k := t.freshId
      set k.2
      let e : VEntry := ⟨i, s.hand.at_, c.tid, c.pc, c.csr.vl, 0, b, r.1, start * parts, 8192 / w * parts, parts != 1, [], [], k.1, s.datum⟩
      match r.2 with
      | none => Exec.enqueue e
      | some (cause, p) =>
        -- whether it executes is settled before it traps
        Exec.wait (bindRuns b).isSome
        if decide (start < p) then Exec.enqueue { e with last := p * parts }
        Exec.modCtx (fun c => { c with csr := { c.csr with resume := p } })
        Exec.trap cause (p * 2 ^ 48 + (ea s p 0) % 2 ^ 48)) s

/-- The address of element n of a contiguous access (R167). -/
def eaLin (o : VMOps) (s : State) (n : Nat) : Nat :=
  (s.cur.ea o.b o.c 1024 + w64 (n * wBits o.w / 8)).toNat
/-- The address of element n of a strided access (R167). -/
def eaStride (o : VMROps) (s : State) (n : Nat) : Nat := (s.cur.readG o.b + w64 n * s.cur.readG o.c).toNat
/-- The address of element n of a gather or scatter (R169). -/
def eaIndex (o : VMROps) (s : State) (n : Nat) : Nat :=
  let w := wBits o.w
  (s.cur.readG o.b + wInt (signed w ((s.cur.readV o.c).toNat / 2 ^ (w * n) % 2 ^ w))).toNat

/-- The offset of a handle-relative operand: an immediate in bytes, or a register scaled by 1,024 (R168). -/
def handleOff (o : VMOps) (s : State) : Int :=
  match o.c with | .reg r => (s.cur.readG r).toInt * 1024 | .imm v => v
/-- The byte of the executing station's stash that byte j of element n of a handle-relative access is at (R168). -/
def eaHandle (o : VMOps) (consumer : Bool) (s : State) (n j : Nat) : Nat :=
  let h := Map.get {} s.here.handles o.b
  let rb := h.nslot * h.slotsz
  let head := (if consumer then h.cix else h.pix) * h.slotsz
  stashFa s.cube s.hand.at_.stn (h.base + (((head : Int) + handleOff o s + (n * wBits o.w / 8 + j : Nat)) % (rb : Int)).toNat)

/-- Issue of a handle-relative access: a handle that is not valid traps HANDLE. R168 asks for no alignment: under an offset that is
no multiple of the element's size each element is made byte by byte, and one that passes the end of the ring goes on at BASE (log
entry 86). -/
def issueHandle (i : Instr) (o : VMOps) (consumer : Bool) (s : State) : Out :=
  let c := s.cur
  let b := bindOf c o.q.guard
  if (xRegs o.c).any c.owed then .next s
  else if !(Map.get {} s.here.handles o.b).valid then
    match bindRuns b with
    | none => .next s
    | some false => .next s.retire
    | some true => .next (s.trap causeHANDLE (w64 o.b))
  else
    issueMem i o.q (wBits o.w) (if handleOff o s % (wBits o.w / 8 : Nat) = 0 then 1 else wBits o.w / 8) (xRegs o.c) false
        (eaHandle o consumer) (fun ea => do
      let _ ← Exec.home .va ea ea
      return ea) s

def execVld (o : VMOps) (s : State) : Out :=
  issueMem (.vld o) o.q (wBits o.w) 1 (o.b :: xRegs o.c) false (fun s n _ => eaLin o s n) (Exec.elemFa o.q.win .r (wBits o.w / 8)) s
def execVst (o : VMOps) (s : State) : Out :=
  issueMem (.vst o) o.q (wBits o.w) 1 (o.b :: xRegs o.c) false (fun s n _ => eaLin o s n) (Exec.elemFa o.q.win .w (wBits o.w / 8)) s
def execVlds (o : VMROps) (s : State) : Out :=
  issueMem (.vlds o) o.q (wBits o.w) 1 [o.b, o.c] false (fun s n _ => eaStride o s n) (Exec.elemFa o.q.win .r (wBits o.w / 8)) s
def execVsts (o : VMROps) (s : State) : Out :=
  issueMem (.vsts o) o.q (wBits o.w) 1 [o.b, o.c] false (fun s n _ => eaStride o s n) (Exec.elemFa o.q.win .w (wBits o.w / 8)) s
def execVldConsumer (o : VMOps) (s : State) : Out := issueHandle (.vldConsumer o) o true s
def execVldProducer (o : VMOps) (s : State) : Out := issueHandle (.vldProducer o) o false s
def execVstConsumer (o : VMOps) (s : State) : Out := issueHandle (.vstConsumer o) o true s
def execVstProducer (o : VMOps) (s : State) : Out := issueHandle (.vstProducer o) o false s
def execVgth (o : VMROps) (s : State) : Out :=
  issueMem (.vgth o) o.q (wBits o.w) 1 [o.b] true (fun s n _ => eaIndex o s n) (Exec.elemFa o.q.win .r (wBits o.w / 8)) s
def execVsct (o : VMROps) (s : State) : Out :=
  issueMem (.vsct o) o.q (wBits o.w) 1 [o.b] true (fun s n _ => eaIndex o s n) (Exec.elemFa o.q.win .w (wBits o.w / 8)) s
def execVscadd (o : VMROps) (s : State) : Out :=
  issueMem (.vscadd o) o.q 32 1 [o.b] true (fun s n _ => eaIndex o s n) (Exec.elemFa o.q.win .rw 4) s

/-! ## The memory pipeline -/

/-- What an entry is to memory: element width, the vector register, ZERO, the hint. -/
inductive MemKind where
  | load (w a : Nat) (zero : Bool) (h : Hint)
  | store (w a : Nat) (h : Hint)
  | add (a : Nat)
deriving DecidableEq, Repr

/-- The memory instructions among the vector ones. -/
def memKind : Instr → Option MemKind
  | .vld o => some (.load (wBits o.w) o.a o.q.zero o.q.hint)
  | .vlds o => some (.load (wBits o.w) o.a o.q.zero o.q.hint)
  | .vldConsumer o => some (.load (wBits o.w) o.a o.q.zero o.q.hint)
  | .vldProducer o => some (.load (wBits o.w) o.a o.q.zero o.q.hint)
  | .vgth o => some (.load (wBits o.w) o.a o.q.zero o.q.hint)
  | .vst o => some (.store (wBits o.w) o.a o.q.hint)
  | .vsts o => some (.store (wBits o.w) o.a o.q.hint)
  | .vstConsumer o => some (.store (wBits o.w) o.a o.q.hint)
  | .vstProducer o => some (.store (wBits o.w) o.a o.q.hint)
  | .vsct o => some (.store (wBits o.w) o.a o.q.hint)
  | .vscadd o => some (.add o.a)
  | _ => none

/-- The first of each run of equal numbers, and no number twice. -/
def distinct (xs : List Nat) : List Nat := xs.foldl (fun ys x => if ys.contains x then ys else ys ++ [x]) []

/-- Looks for a block word of an entry; none where it is not at hand yet. -/
def Exec.vecWord (h : Hint) (fa ea : Nat) : Exec (Option (BlockWord × Bool)) := do
  let s ← get
  let l := s.hand.at_
  let c := s.cur
  if c.flow.flights.any (fun f => f.touches (bwOf fa)) then return none
  match s.place fa with
  | .error _ => return none
  | .ok pl =>
    match s.look l.stn pl fa with
    | .stall => return none
    | .have_ w bad =>
      Exec.foundWord h pl fa
      return some (w, bad)
    | .fetch =>
      match c.flow.rbuf.find? (fun x => x.1 == bwOf fa) with
      | some x => return some x.2
      | none =>
        if !c.flow.asked.contains (bwOf fa) then
          let r := s.freshId
          set ((r.2.modCtx l (fun c => { c with flow := { c.flow with asked := bwOf fa :: c.flow.asked } })).askFill r.1
            (.task l c.tid) l.stn (.buffer l.stn) pl (fa / 16 * 16) (ea - fa % 16) 16 h)
        return none

/-- Looks for block words, all of them; the ones at hand, by number. -/
def Exec.vecWords (h : Hint) : List (Nat × Nat × Nat) → Exec (List (Nat × BlockWord × Bool))
  | [] => pure []
  | x :: xs => do
    let w ← Exec.vecWord h x.2.1 x.2.2
    let r ← Exec.vecWords h xs
    return match w with | some v => (bwOf x.2.1, v) :: r | none => r

/-- Merges loaded elements into old ones: position and old value, then position and new value, both ascending. -/
def mergeElems (zero : Bool) (first last : Nat) : List (Nat × Nat) → List (Nat × Nat) → List Nat
  | [], _ => []
  | (old, n) :: os, [] => (if zero && decide (first ≤ n ∧ n < last) then 0 else old) :: mergeElems zero first last os []
  | (old, n) :: os, (p, v) :: vs =>
    if n = p then v :: mergeElems zero first last os vs
    else (if zero && decide (first ≤ n ∧ n < last) then 0 else old) :: mergeElems zero first last os ((p, v) :: vs)

/-- The smallest of some numbers. -/
def leastOf : List Nat → Option Nat
  | [] => none
  | x :: xs => match leastOf xs with | none => some x | some y => some (min x y)

/-- A load whose words are all at hand takes effect; lanes that met poison are undefined (R2, R152). -/
def Exec.vecLoadDone (w a : Nat) (zero : Bool) (e : VEntry) (ws : List (Nat × BlockWord × Bool)) : Exec Unit := do
  let s ← get
  let c := s.cur
  let find := fun (fa : Nat) => (ws.find? (fun x => x.1 == bwOf fa)).map (fun x => x.2)
  let vals := e.elems.map (fun x => (x.1, match find x.2.1 with | some v => natOf (partOf v.1 x.2.1 (w / 8)) | none => 0))
  let bad := e.elems.filter (fun x => match find x.2.1 with | some v => v.2 | none => false)
  let lanes := distinct ((bad.map (fun x => [x.1 * w / 32, (x.1 * w + w - 1) / 32])).flatten)
  let v := ofElems w (mergeElems zero e.first e.last (elemsOf w (c.readV a)).zipIdx vals)
  let v' := lanes.foldl (fun x i => ofElems 32 ((elemsOf 32 x).set i (Config.freeLane (s.counts.free + i)).toNat)) v
  let s1 := if lanes.isEmpty then s else { s with counts := { s.counts with free := s.counts.free + 256 } }
  set (s1.modCur (fun c =>
    let c1 := c.writeV a v'
    match leastOf (bad.map (fun x => x.2.2)) with | some x => c1.poisoned x | none => c1))

/-- The bytes that elements give a block word: by offset, the last writer's. -/
def coverOf (w : Nat) (xs : List (Nat × Nat × Nat)) (val : Nat → Nat) : List (Option Byte) :=
  xs.foldl (fun bs x => (bytesOf (w / 8) (val x.1)).zipIdx.foldl (fun bs b => bs.set (x.2.1 % 16 + b.2) (some b.1)) bs)
    (List.replicate 16 none)

/-- Performs one store of an entry, or posts it: whether it was. Poison that it meets is kept until the entry's other elements have
been performed (R152). -/
def Exec.vecPut (num : Nat) (h : Hint) (fa ea : Nat) (bs : List Byte) : Exec Bool := do
  let s ← get
  if s.cur.flow.flights.any (fun f => f.touches (bwOf fa)) then return false
  match s.place fa with
  | .error _ => return false
  | .ok pl =>
    let p : Exec.Part := ⟨fa, ea, bs.length, pl⟩
    let bad : Exec Unit := Exec.modCtx (fun c => c.modPosted num (fun v => { v with bad := lower ea v.bad }))
    match ← Exec.attempt (Exec.storeWhere h false p) with
    | .error _ => return false
    | .ok .poisonHere => bad
    | .ok .poisonLater => bad
    | .ok dst =>
      match ← Exec.storePart p dst bs with
      | some w =>
        Exec.sendStores false [w]
        Exec.modCtx (fun c => c.modPosted num (fun v => { v with ids := w.1.id :: v.ids }))
      | none => pure ()
    return true

/-- Performs an entry's stores to one block word in ascending order, as one where they cover it (log entry 19); what is
left. -/
def Exec.vecPutAll (num : Nat) (h : Hint) (w : Nat) (val : Nat → Nat) : List (Nat × Nat × Nat) → Exec (List (Nat × Nat × Nat))
  | [] => pure []
  | x :: xs => do
    if ← Exec.vecPut num h x.2.1 x.2.2 (bytesOf (w / 8) (val x.1)) then Exec.vecPutAll num h w val xs else return x :: xs

/-- Performs an entry's stores, block word by block word; what is left. -/
def Exec.vecStore (num : Nat) (h : Hint) (w : Nat) (val : Nat → Nat) (elems : List (Nat × Nat × Nat)) :
    List Nat → Exec (List (Nat × Nat × Nat))
  | [] => pure []
  | b :: bs => do
    let mine := elems.filter (fun x => bwOf x.2.1 == b)
    let cov := coverOf w mine val
    let left ← (if cov.all (fun x => x.isSome) then do
        let ea := (leastOf (mine.map (fun x => x.2.2))).getD 0
        let ok ← Exec.vecPut num h (b * 16) ea (cov.map (fun x => x.getD 0))
        return if ok then [] else mine
      else Exec.vecPutAll num h w val mine)
    return left ++ (← Exec.vecStore num h w val elems bs)

/-- VSCADD: sends the next element's AFADD to its home once the one before has been performed (R145, R169). -/
def Exec.vecAdd (num : Nat) (val : Nat → Nat) (elems : List (Nat × Nat × Nat)) : Exec (List (Nat × Nat × Nat)) := do
  match elems with
  | [] => return []
  | x :: xs =>
    let s ← get
    let c := s.cur
    let l := s.hand.at_
    if c.flow.flights.any (fun f => f.strongStore || f.touches (bwOf x.2.1)) then return elems
    match s.place x.2.1 with
    | .error _ => return elems
    | .ok pl =>
      match ← Exec.attempt (Exec.cleanChunk x.2.1) with
      | .error _ => return elems
      | .ok _ =>
        let s ← get
        let r := s.freshId
        let k := s.counterFor l.stn pl
        let a : AtomReq := ⟨r.1, .task l c.tid, l.stn, x.2.1, x.2.2, 11, true, val x.1, 0, 0, 0, 0, k, (s.stn l.stn).slice.sig, 0, pl.ptag⟩
        set ((r.2.send (.atomic a)).modCtx l (fun c => (c.addCount k true).modPosted num (fun v => { v with ids := r.1 :: v.ids })))
        Exec.launch ⟨.atomic none k, [⟨r.1, x.2.1, x.2.2, 8, [], false⟩], true, false, [], [], s.datum⟩
        return xs

/-- One turn of the memory pipeline on an entry: the elements that are left. -/
def Exec.vecMemTurn (k : MemKind) (e : VEntry) : Exec (Option (List (Nat × Nat × Nat))) := do
  match k with
  | .load w a zero h =>
    let w := if e.bytewise then 8 else w
    let bws := distinct (e.elems.map (fun x => bwOf x.2.1))
    let firsts := bws.filterMap (fun b => e.elems.find? (fun x => bwOf x.2.1 == b))
    let ws ← Exec.vecWords h firsts
    if ws.length < bws.length then return some e.elems
    Exec.vecLoadDone w a zero e ws
    modify (fun s => s.sampleLoad s.hand.at_.stn false e.since)
    return none
  | .store w a h =>
    let w := if e.bytewise then 8 else w
    let xs := elemsOf w ((← Exec.ctx).readV a)
    let left ← Exec.vecStore e.num h w (fun n => xs.getD n 0) e.elems (distinct (e.elems.map (fun x => bwOf x.2.1)))
    return if left.isEmpty then none else some left
  | .add a =>
    let xs := elemsOf 32 ((← Exec.ctx).readV a)
    let left ← Exec.vecAdd e.num (fun n => xs.getD n 0) e.elems
    return if left.isEmpty then none else some left

/-- Runs the pipeline on an entry with the block words read for it: the entry with what is left of it, or none when it
is complete, and the state after. -/
def State.vecMem (s : State) (k : MemKind) (e : VEntry) : Option VEntry × State :=
  let old := (s.ctx e.at_).flow
  let s0 := { (s.modCtx e.at_ (fun c => { c with flow := { c.flow with rbuf := e.buf, asked := e.asked } })) with
    hand := { s.hand with at_ := e.at_ } }
  let back := fun (t : State) => t.modCtx e.at_ (fun c => { c with flow := { c.flow with rbuf := old.rbuf, asked := old.asked } })
  match Exec.vecMemTurn k e s0 with
  | .ok none t => (none, back t)
  | .ok (some left) t => (some { e with elems := left, buf := (t.ctx e.at_).flow.rbuf, asked := (t.ctx e.at_).flow.asked }, back t)
  | .error _ t => (some { e with buf := (t.ctx e.at_).flow.rbuf, asked := (t.ctx e.at_).flow.asked }, back t)

/-! ## The heads of the queues and the arbiter (R180, R183, R184) -/

/-- Takes the head of a queue off; a queue that was full releases the contexts that stall on it. -/
def State.dropHead (s : State) (stn core : Nat) : State :=
  let q := Map.get [] (s.stn stn).vec.queues core
  let s1 := s.modVec stn (fun v => { v with queues := Map.set [] v.queues core (q.drop 1) })
  if 16 ≤ q.length then s1.send (.vectorQueueStallRelease stn core) else s1

/-- The lane groups and cycles of an instruction (R183). -/
def laneCost (i : Instr) (vl : Nat) : Nat × Nat :=
  let l := (vl + 63) / 64
  match i with
  | .vinsr _ => (1, 1)
  | .vq8E4m3 _ => (4, 2)
  | .vq8E5m2 _ => (4, 2)
  | .vq4 _ => (4, 2)
  | .vdq4 _ => (4, 2)
  | .vrsum _ => (4, 2)
  | .vrmax _ => (4, 2)
  | .vrmin _ => (4, 2)
  | .vrmaxn _ => (4, 2)
  | .vrminn _ => (4, 2)
  | .vramax _ => (4, 2)
  | .vriand _ => (4, 2)
  | .vrior _ => (4, 2)
  | .vrixor _ => (4, 2)
  | .vscan _ => (4, 2)
  | .vperm _ => (4, 2)
  | .vcompr _ => (4, 2)
  | .vexpnd _ => (4, 2)
  | .vrotl _ => (4, 1)
  | .vbcast _ => (4, 1)
  | .vdiv _ => (l, 8)
  | .vsqrt _ => (l, 8)
  | .vexp2 _ => (l, 4)
  | .vlog2 _ => (l, 4)
  | .vrcp _ => (l, 4)
  | .vrsqrt _ => (l, 4)
  | .vsin _ => (l, 4)
  | .vcos _ => (l, 4)
  | .vtanh _ => (l, 4)
  | .vsigm _ => (l, 4)
  | .verf _ => (l, 4)
  | .vexp _ => (l, 4)
  | _ => (l, 1)

/-- Whether a context waits for an entry to leave its queue (R51). -/
def State.waitsFor (s : State) (e : VEntry) : Bool := (s.ctx e.at_).flow.waitOn == some e.num

/-- An arithmetic entry takes effect. Where its context waits for it, the instruction completes, or traps FPE precisely with no effect
(R50, R51). -/
def State.vecEffect (s : State) (e : VEntry) : State :=
  let r := vecRun e.i e (s.ctx e.at_)
  if s.waitsFor e then
    match lowFlag (s.ctx e.at_).csr.ftrapen r.2 with
    | some p =>
      (s.modCtx e.at_ (fun c => { c with flow := { c.flow with waitOn := none, waitWords := 0 } })).trapOf e.at_ causeFPE
        (w64 (256 * p + orFlags r.2)) (s.ctx e.at_).flow.waitWords
    | none => (s.modCtx e.at_ (fun _ => Ctx.takeEffect r)).completeWaiting e.at_ 0 0 none
  else s.modCtx e.at_ (fun _ => Ctx.takeEffect r)
/-- An entry whose guard slot resolves false has no effect; an instruction that waits for it completes. -/
def State.vecDiscard (s : State) (e : VEntry) : State :=
  if s.waitsFor e then s.completeWaiting e.at_ 0 0 none else s

/-- The vector registers that an instruction names. -/
def vecNames : Instr → List Nat
  | .vadd o => [o.a, o.b, o.c] | .vsub o => [o.a, o.b, o.c] | .vmul o => [o.a, o.b, o.c] | .vdiv o => [o.a, o.b, o.c]
  | .vsqrt o => [o.a, o.b, o.c] | .vmin o => [o.a, o.b, o.c] | .vmax o => [o.a, o.b, o.c] | .vminn o => [o.a, o.b, o.c]
  | .vmaxn o => [o.a, o.b, o.c] | .vneg o => [o.a, o.b, o.c] | .vabs o => [o.a, o.b, o.c] | .vsgn o => [o.a, o.b, o.c]
  | .vfma o => [o.a, o.b, o.c] | .vfms o => [o.a, o.b, o.c] | .vfnma o => [o.a, o.b, o.c] | .vfnms o => [o.a, o.b, o.c]
  | .viadd o => [o.a, o.b, o.c] | .visub o => [o.a, o.b, o.c] | .vimul o => [o.a, o.b, o.c] | .vimulh o => [o.a, o.b, o.c]
  | .vimin o => [o.a, o.b, o.c] | .vimax o => [o.a, o.b, o.c] | .viabs o => [o.a, o.b, o.c] | .vand o => [o.a, o.b, o.c]
  | .vor o => [o.a, o.b, o.c] | .vxor o => [o.a, o.b, o.c] | .vandn o => [o.a, o.b, o.c] | .vsll o => [o.a, o.b, o.c]
  | .vsrl o => [o.a, o.b, o.c] | .vsra o => [o.a, o.b, o.c] | .vfeq o => [o.b, o.c] | .vfne o => [o.b, o.c]
  | .vflt o => [o.b, o.c] | .vfle o => [o.b, o.c] | .vfun o => [o.b, o.c] | .vieq o => [o.b, o.c] | .vine o => [o.b, o.c]
  | .vilt o => [o.b, o.c] | .vile o => [o.b, o.c] | .vsel o => [o.a, o.b, o.c] | .vcvt o => [o.a, o.b]
  | .vq8E4m3 o => [o.a, o.b] | .vq8E5m2 o => [o.a, o.b] | .vq4 o => [o.a, o.b] | .vdq4 o => [o.a, o.b]
  | .vrsum o => [o.a, o.b] | .vrmax o => [o.a, o.b] | .vrmin o => [o.a, o.b] | .vrmaxn o => [o.a, o.b] | .vrminn o => [o.a, o.b]
  | .vramax o => [o.a, o.b] | .vriand o => [o.a, o.b] | .vrior o => [o.a, o.b] | .vrixor o => [o.a, o.b] | .vscan o => [o.a, o.b]
  | .vperm o => [o.a, o.b, o.c] | .vrotl o => [o.a, o.b] | .vbcast o => [o.a, o.b] | .vcompr o => [o.a, o.b]
  | .vexpnd o => [o.a, o.b] | .vinsr o => [o.a] | .vexp2 o => [o.a, o.b, o.c] | .vlog2 o => [o.a, o.b, o.c]
  | .vrcp o => [o.a, o.b, o.c] | .vrsqrt o => [o.a, o.b, o.c] | .vsin o => [o.a, o.b, o.c] | .vcos o => [o.a, o.b, o.c]
  | .vtanh o => [o.a, o.b, o.c] | .vsigm o => [o.a, o.b, o.c] | .verf o => [o.a, o.b, o.c] | .vexp o => [o.a, o.b, o.c]
  | .vld o => [o.a] | .vlds o => [o.a] | .vldConsumer o => [o.a] | .vldProducer o => [o.a] | .vgth o => [o.a, o.c]
  | .vst o => [o.a] | .vsts o => [o.a] | .vstConsumer o => [o.a] | .vstProducer o => [o.a] | .vsct o => [o.a, o.c]
  | .vscadd o => [o.a, o.c]
  | _ => []

/-- The register that a memory instruction loads or stores. -/
def MemKind.data : MemKind → Nat
  | .load _ a _ _ => a
  | .store _ a _ => a
  | .add a => a

/-- Whether the memory pipeline still holds an earlier instruction of a head's task whose register the head names: it waits, since a
task's instructions take effect in queue order with respect to its registers (R180). -/
def State.behindMem (s : State) (e : VEntry) : Bool :=
  (s.stn e.at_.stn).vec.pipe.any (fun x => x.at_ == e.at_ && (match memKind x.i with | some m => (vecNames e.i).contains m.data | none => false))

/-- What passes without lane groups: heads that are discarded, memory heads, which go to the memory pipeline, and heads that need no
group. -/
def State.passHeads (s : State) (stn core : Nat) : Nat → State
  | 0 => s
  | k + 1 =>
    match (Map.get [] (s.stn stn).vec.queues core).head? with
    | none => s
    | some e =>
      match bindRuns e.bind with
      | none => s
      | some false => ((s.vecDiscard e).dropHead stn core).passHeads stn core k
      | some true =>
        if s.behindMem e then s
        else if (memKind e.i).isSome then
          ((s.modVec stn (fun v => { v with pipe := v.pipe ++ [e] })).dropHead stn core).passHeads stn core k
        else if (laneCost e.i e.vl).1 = 0 then ((s.vecEffect e).dropHead stn core).passHeads stn core k else s

/-- Whether an earlier entry of the same task in the pipeline still has to touch a block word of an entry (R166). -/
def blockedIn (pipe : List VEntry) (e : VEntry) : Bool :=
  (pipe.takeWhile (fun x => x.num != e.num)).any (fun x => x.at_ == e.at_ &&
    x.elems.any (fun a => e.elems.any (fun b => bwOf a.2.1 == bwOf b.2.1)))

/-- A turn of the memory pipeline on each of its entries, oldest first. -/
def State.runPipe (s : State) (stn : Nat) : State :=
  (s.stn stn).vec.pipe.foldl (fun st e0 =>
    match (st.stn stn).vec.pipe.find? (fun x => x.num == e0.num) with
    | none => st
    | some e =>
      match memKind e.i with
      | none => st
      | some m =>
        if blockedIn (st.stn stn).vec.pipe e then st
        else match st.vecMem m e with
        | (some e', t) => t.modVec stn (fun v => { v with pipe := v.pipe.map (fun x => if x.num = e.num then e' else x) })
        | (none, t) => (t.modVec stn (fun v => { v with pipe := v.pipe.filter (fun x => x.num != e.num) })).modCtx e.at_
            (fun c => c.postedOver e.num)) s

/-- The head of a queue that is ready for lane groups. -/
def State.readyHead (s : State) (stn core : Nat) : Option VEntry :=
  match (Map.get [] (s.stn stn).vec.queues core).head? with
  | some e => if bindRuns e.bind = some true ∧ memKind e.i = none ∧ s.behindMem e = false then some e else none
  | none => none

/-- R184: the weight of a core. -/
def State.vecWeight (s : State) (stn core : Nat) : Nat :=
  let cls := (List.range 4).foldl (fun m k => max m (((s.ctx ⟨stn, core, k⟩).task.map (fun r => r.body.wclass)).getD 0)) 0
  if cls = 0 then bitsOf (s.stn stn).vec.vweight.toNat (8 * core + 7) (8 * core) else cls

/-- One pass over the cores in order: the state, the free groups, the cores done, whether one was starved. -/
def State.bindPass (s : State) (stn free : Nat) (done : List Nat) (starved : Bool) : List Nat → State × Nat × List Nat × Bool
  | [] => (s, free, done, starved)
  | c :: cs =>
    match (if done.contains c then none else s.readyHead stn c) with
    | none => s.bindPass stn free done starved cs
    | some e =>
      let g := laneCost e.i e.vl
      let d := Map.get 0 (s.stn stn).vec.deficit c
      if d < g.1 * g.2 then s.bindPass stn free done true cs
      else if free < g.1 then (s, free, done, starved)
      else
        let s1 := (s.vecEffect e).modVec stn (fun v =>
          { v with binds := v.binds ++ [⟨g.1, g.2⟩], deficit := Map.set 0 v.deficit c (d - g.1 * g.2) })
        (s1.dropHead stn c).bindPass stn (free - g.1) (done ++ [c]) starved cs

/-- The top-up of the deficits of the cores whose heads are ready. -/
def State.topUp (s : State) (stn : Nat) : State :=
  (List.range 8).foldl (fun st c =>
    match st.readyHead stn c with
    | none => st
    | some _ =>
      let w := st.vecWeight stn c
      st.modVec stn (fun v => { v with deficit := Map.set 0 v.deficit c (min (Map.get 0 v.deficit c + 64 * w) (128 * w)) })) s

/-- LANE_GROUP_ARBITRATION: one station cycle. -/
def State.arbitrate (s : State) (stn : Nat) : State :=
  -- bindings that have ended let go of their groups; the memory pipeline and discards come first
  let s0 := s.modVec stn (fun v =>
    { v with binds := (v.binds.map (fun b => { b with left := b.left - 1 })).filter (fun b => b.left != 0) })
  let s1 := ((List.range 8).foldl (fun st c => st.passHeads stn c 16) s0).runPipe stn
  let s2 := s1.modVec stn (fun v =>
    { v with deficit := v.deficit.filter (fun e => !(Map.get [] v.queues e.1).isEmpty) })
  let v := (s2.stn stn).vec
  let free := 16 - v.binds.foldl (fun n b => n + b.groups) 0
  let order := (List.range 8).map (fun i => (v.ptr + i) % 8)
  let p1 := s2.bindPass stn free [] false order
  let p := if p1.2.2.2 && p1.2.1 != 0 then
      (let p2 := (p1.1.topUp stn).bindPass stn p1.2.1 p1.2.2.1 false order
       if p2.2.2.2 && p2.2.1 != 0 then p2.1.topUp stn else p2.1)
    else p1.1
  p.modVec stn (fun v => { v with ptr := (v.ptr + 1) % 8 })

def execLaneGroupArbitration (s : State) : Out :=
  match s.hand.msg with
  | .laneGroupArbitration stn =>
    let t := s.arbitrate stn
    .next { t with hand := s.hand }
  | _ => .next s

end Sys2Proof.Machine
end

