-- ==== Sys2Proof/Machine/Dispatch.lean ====
section
/-! DEFINITION. What each instruction and event does: one arm per row of the opcode table. -/

namespace Sys2Proof.Machine

/-- The meaning of an instruction of the acting context, or of the event in hand. -/
def exec (i : Instr) (s : State) : Host.Outcome State Fault Refusal :=
  match i with
  | .brk code => Sys2Proof.Machine.execBrk code s
  | .trap code => Sys2Proof.Machine.execTrap code s
  | .kcall code => Sys2Proof.Machine.execKcall code s
  | .tlbinv b c => Sys2Proof.Machine.execTlbinv b c s
  | .kmsg b c => Sys2Proof.Machine.execKmsg b c s
  | .add o => Sys2Proof.Machine.execAdd o s
  | .sub o => Sys2Proof.Machine.execSub o s
  | .and o => Sys2Proof.Machine.execAnd o s
  | .or o => Sys2Proof.Machine.execOr o s
  | .xor o => Sys2Proof.Machine.execXor o s
  | .sll o => Sys2Proof.Machine.execSll o s
  | .srl o => Sys2Proof.Machine.execSrl o s
  | .sra o => Sys2Proof.Machine.execSra o s
  | .mul o => Sys2Proof.Machine.execMul o s
  | .mulh o => Sys2Proof.Machine.execMulh o s
  | .div o => Sys2Proof.Machine.execDiv o s
  | .rem o => Sys2Proof.Machine.execRem o s
  | .min o => Sys2Proof.Machine.execMin o s
  | .max o => Sys2Proof.Machine.execMax o s
  | .clz o => Sys2Proof.Machine.execClz o s
  | .ctz o => Sys2Proof.Machine.execCtz o s
  | .popc o => Sys2Proof.Machine.execPopc o s
  | .ext bits o => Sys2Proof.Machine.execExt bits o s
  | .addi o => Sys2Proof.Machine.execAddi o s
  | .andi o => Sys2Proof.Machine.execAndi o s
  | .ori o => Sys2Proof.Machine.execOri o s
  | .xori o => Sys2Proof.Machine.execXori o s
  | .slli o => Sys2Proof.Machine.execSlli o s
  | .srli o => Sys2Proof.Machine.execSrli o s
  | .srai o => Sys2Proof.Machine.execSrai o s
  | .muli o => Sys2Proof.Machine.execMuli o s
  | .movi a imm => Sys2Proof.Machine.execMovi a imm s
  | .movh a imm => Sys2Proof.Machine.execMovh a imm s
  | .beq o => Sys2Proof.Machine.execBeq o s
  | .bne o => Sys2Proof.Machine.execBne o s
  | .blt o => Sys2Proof.Machine.execBlt o s
  | .bge o => Sys2Proof.Machine.execBge o s
  | .bltN64 o => Sys2Proof.Machine.execBltN64 o s
  | .bgeN64 o => Sys2Proof.Machine.execBgeN64 o s
  | .jmp off => Sys2Proof.Machine.execJmp off s
  | .call off => Sys2Proof.Machine.execCall off s
  | .jr a => Sys2Proof.Machine.execJr a s
  | .callr a => Sys2Proof.Machine.execCallr a s
  | .ldN8 o => Sys2Proof.Machine.execLdN8 o s
  | .ldN16 o => Sys2Proof.Machine.execLdN16 o s
  | .ldN32 o => Sys2Proof.Machine.execLdN32 o s
  | .ld o => Sys2Proof.Machine.execLd o s
  | .ldI8 o => Sys2Proof.Machine.execLdI8 o s
  | .ldI16 o => Sys2Proof.Machine.execLdI16 o s
  | .ldI32 o => Sys2Proof.Machine.execLdI32 o s
  | .ldp o => Sys2Proof.Machine.execLdp o s
  | .ldw o => Sys2Proof.Machine.execLdw o s
  | .ldwe o => Sys2Proof.Machine.execLdwe o s
  | .stN8 o => Sys2Proof.Machine.execStN8 o s
  | .stN16 o => Sys2Proof.Machine.execStN16 o s
  | .stN32 o => Sys2Proof.Machine.execStN32 o s
  | .st o => Sys2Proof.Machine.execSt o s
  | .stp o => Sys2Proof.Machine.execStp o s
  | .stw o => Sys2Proof.Machine.execStw o s
  | .stf o => Sys2Proof.Machine.execStf o s
  | .feclr o => Sys2Proof.Machine.execFeclr o s
  | .aadd o => Sys2Proof.Machine.execAadd o s
  | .aand o => Sys2Proof.Machine.execAand o s
  | .aor o => Sys2Proof.Machine.execAor o s
  | .axor o => Sys2Proof.Machine.execAxor o s
  | .aminI o => Sys2Proof.Machine.execAminI o s
  | .aminN o => Sys2Proof.Machine.execAminN o s
  | .amaxI o => Sys2Proof.Machine.execAmaxI o s
  | .amaxN o => Sys2Proof.Machine.execAmaxN o s
  | .aswap o => Sys2Proof.Machine.execAswap o s
  | .acas o => Sys2Proof.Machine.execAcas o s
  | .aaddt o => Sys2Proof.Machine.execAaddt o s
  | .afaddF32 o => Sys2Proof.Machine.execAfaddF32 o s
  | .afmaxnF32 o => Sys2Proof.Machine.execAfmaxnF32 o s
  | .waitEq o => Sys2Proof.Machine.execWaitEq o s
  | .waitNe o => Sys2Proof.Machine.execWaitNe o s
  | .waitGe o => Sys2Proof.Machine.execWaitGe o s
  | .waitLt o => Sys2Proof.Machine.execWaitLt o s
  | .flushr o => Sys2Proof.Machine.execFlushr o s
  | .invr o => Sys2Proof.Machine.execInvr o s
  | .smap a b c wc => Sys2Proof.Machine.execSmap a b c wc s
  | .sunmap b wc => Sys2Proof.Machine.execSunmap b wc s
  | .cwait mask wc => Sys2Proof.Machine.execCwait mask wc s
  | .spawn a b c => Sys2Proof.Machine.execSpawn a b c s
  | .fork a b off => Sys2Proof.Machine.execFork a b off s
  | .join a b c => Sys2Proof.Machine.execJoin a b c s
  | .exit a => Sys2Proof.Machine.execExit a s
  | .fadd o => Sys2Proof.Machine.execFadd o s
  | .fsub o => Sys2Proof.Machine.execFsub o s
  | .fmul o => Sys2Proof.Machine.execFmul o s
  | .fdiv o => Sys2Proof.Machine.execFdiv o s
  | .fsqrt o => Sys2Proof.Machine.execFsqrt o s
  | .fmin o => Sys2Proof.Machine.execFmin o s
  | .fmax o => Sys2Proof.Machine.execFmax o s
  | .fminn o => Sys2Proof.Machine.execFminn o s
  | .fmaxn o => Sys2Proof.Machine.execFmaxn o s
  | .fma o => Sys2Proof.Machine.execFma o s
  | .fneg o => Sys2Proof.Machine.execFneg o s
  | .fabs o => Sys2Proof.Machine.execFabs o s
  | .fsgn o => Sys2Proof.Machine.execFsgn o s
  | .fcvt o => Sys2Proof.Machine.execFcvt o s
  | .csrr num a => Sys2Proof.Machine.execCsrr num a s
  | .csrw num a => Sys2Proof.Machine.execCsrw num a s
  | .csrs num a => Sys2Proof.Machine.execCsrs num a s
  | .csrc num a => Sys2Proof.Machine.execCsrc num a s
  | .seq a b c => Sys2Proof.Machine.execSeq a b c s
  | .sne a b c => Sys2Proof.Machine.execSne a b c s
  | .sltI a b c => Sys2Proof.Machine.execSltI a b c s
  | .sltN a b c => Sys2Proof.Machine.execSltN a b c s
  | .sleI a b c => Sys2Proof.Machine.execSleI a b c s
  | .sleN a b c => Sys2Proof.Machine.execSleN a b c s
  | .sel a b c => Sys2Proof.Machine.execSel a b c s
  | .gset j b => Sys2Proof.Machine.execGset j b s
  | .gsetz j b => Sys2Proof.Machine.execGsetz j b s
  | .gwait a j => Sys2Proof.Machine.execGwait a j s
  | .feq o => Sys2Proof.Machine.execFeq o s
  | .flt o => Sys2Proof.Machine.execFlt o s
  | .fle o => Sys2Proof.Machine.execFle o s
  | .fun_ o => Sys2Proof.Machine.execFun_ o s
  | .lea a b c => Sys2Proof.Machine.execLea a b c s
  | .adpc a off => Sys2Proof.Machine.execAdpc a off s
  | .faddr a b c => Sys2Proof.Machine.execFaddr a b c s
  | .homeof a b c => Sys2Proof.Machine.execHomeof a b c s
  | .push a b wc g => Sys2Proof.Machine.execPush a b wc g s
  | .pop a wc => Sys2Proof.Machine.execPop a wc s
  | .trypop a wc => Sys2Proof.Machine.execTrypop a wc s
  | .rfcnt a wc => Sys2Proof.Machine.execRfcnt a wc s
  | .vadd o => Sys2Proof.Machine.execVadd o s
  | .vsub o => Sys2Proof.Machine.execVsub o s
  | .vmul o => Sys2Proof.Machine.execVmul o s
  | .vdiv o => Sys2Proof.Machine.execVdiv o s
  | .vsqrt o => Sys2Proof.Machine.execVsqrt o s
  | .vmin o => Sys2Proof.Machine.execVmin o s
  | .vmax o => Sys2Proof.Machine.execVmax o s
  | .vminn o => Sys2Proof.Machine.execVminn o s
  | .vmaxn o => Sys2Proof.Machine.execVmaxn o s
  | .vneg o => Sys2Proof.Machine.execVneg o s
  | .vabs o => Sys2Proof.Machine.execVabs o s
  | .vsgn o => Sys2Proof.Machine.execVsgn o s
  | .vfma o => Sys2Proof.Machine.execVfma o s
  | .vfms o => Sys2Proof.Machine.execVfms o s
  | .vfnma o => Sys2Proof.Machine.execVfnma o s
  | .vfnms o => Sys2Proof.Machine.execVfnms o s
  | .viadd o => Sys2Proof.Machine.execViadd o s
  | .visub o => Sys2Proof.Machine.execVisub o s
  | .vimul o => Sys2Proof.Machine.execVimul o s
  | .vimulh o => Sys2Proof.Machine.execVimulh o s
  | .vimin o => Sys2Proof.Machine.execVimin o s
  | .vimax o => Sys2Proof.Machine.execVimax o s
  | .viabs o => Sys2Proof.Machine.execViabs o s
  | .vand o => Sys2Proof.Machine.execVand o s
  | .vor o => Sys2Proof.Machine.execVor o s
  | .vxor o => Sys2Proof.Machine.execVxor o s
  | .vandn o => Sys2Proof.Machine.execVandn o s
  | .vsll o => Sys2Proof.Machine.execVsll o s
  | .vsrl o => Sys2Proof.Machine.execVsrl o s
  | .vsra o => Sys2Proof.Machine.execVsra o s
  | .vfeq o => Sys2Proof.Machine.execVfeq o s
  | .vfne o => Sys2Proof.Machine.execVfne o s
  | .vflt o => Sys2Proof.Machine.execVflt o s
  | .vfle o => Sys2Proof.Machine.execVfle o s
  | .vfun o => Sys2Proof.Machine.execVfun o s
  | .vieq o => Sys2Proof.Machine.execVieq o s
  | .vine o => Sys2Proof.Machine.execVine o s
  | .vilt o => Sys2Proof.Machine.execVilt o s
  | .vile o => Sys2Proof.Machine.execVile o s
  | .kand o => Sys2Proof.Machine.execKand o s
  | .kor o => Sys2Proof.Machine.execKor o s
  | .kxor o => Sys2Proof.Machine.execKxor o s
  | .kandn o => Sys2Proof.Machine.execKandn o s
  | .knot o => Sys2Proof.Machine.execKnot o s
  | .kpopc o => Sys2Proof.Machine.execKpopc o s
  | .kfirst o => Sys2Proof.Machine.execKfirst o s
  | .vsel o => Sys2Proof.Machine.execVsel o s
  | .vcvt o => Sys2Proof.Machine.execVcvt o s
  | .vq8E4m3 o => Sys2Proof.Machine.execVq8E4m3 o s
  | .vq8E5m2 o => Sys2Proof.Machine.execVq8E5m2 o s
  | .vq4 o => Sys2Proof.Machine.execVq4 o s
  | .vdq4 o => Sys2Proof.Machine.execVdq4 o s
  | .vrsum o => Sys2Proof.Machine.execVrsum o s
  | .vrmax o => Sys2Proof.Machine.execVrmax o s
  | .vrmin o => Sys2Proof.Machine.execVrmin o s
  | .vrmaxn o => Sys2Proof.Machine.execVrmaxn o s
  | .vrminn o => Sys2Proof.Machine.execVrminn o s
  | .vramax o => Sys2Proof.Machine.execVramax o s
  | .vriand o => Sys2Proof.Machine.execVriand o s
  | .vrior o => Sys2Proof.Machine.execVrior o s
  | .vrixor o => Sys2Proof.Machine.execVrixor o s
  | .vscan o => Sys2Proof.Machine.execVscan o s
  | .vperm o => Sys2Proof.Machine.execVperm o s
  | .vrotl o => Sys2Proof.Machine.execVrotl o s
  | .vcompr o => Sys2Proof.Machine.execVcompr o s
  | .vexpnd o => Sys2Proof.Machine.execVexpnd o s
  | .vextr o => Sys2Proof.Machine.execVextr o s
  | .vinsr o => Sys2Proof.Machine.execVinsr o s
  | .vbcast o => Sys2Proof.Machine.execVbcast o s
  | .vld o => Sys2Proof.Machine.execVld o s
  | .vlds o => Sys2Proof.Machine.execVlds o s
  | .vldConsumer o => Sys2Proof.Machine.execVldConsumer o s
  | .vldProducer o => Sys2Proof.Machine.execVldProducer o s
  | .vst o => Sys2Proof.Machine.execVst o s
  | .vsts o => Sys2Proof.Machine.execVsts o s
  | .vstConsumer o => Sys2Proof.Machine.execVstConsumer o s
  | .vstProducer o => Sys2Proof.Machine.execVstProducer o s
  | .vgth o => Sys2Proof.Machine.execVgth o s
  | .vsct o => Sys2Proof.Machine.execVsct o s
  | .vscadd o => Sys2Proof.Machine.execVscadd o s
  | .hwaitf o => Sys2Proof.Machine.execHwaitf o s
  | .hwaite o => Sys2Proof.Machine.execHwaite o s
  | .hadvp o => Sys2Proof.Machine.execHadvp o s
  | .hadvc o => Sys2Proof.Machine.execHadvc o s
  | .hset h b wc g => Sys2Proof.Machine.execHset h b wc g s
  | .hget a h c wc => Sys2Proof.Machine.execHget a h c wc s
  | .mma o => Sys2Proof.Machine.execMma o s
  | .mtrav o => Sys2Proof.Machine.execMtrav o s
  | .mzero o => Sys2Proof.Machine.execMzero o s
  | .mst o => Sys2Proof.Machine.execMst o s
  | .mld o => Sys2Proof.Machine.execMld o s
  | .tdef o => Sys2Proof.Machine.execTdef o s
  | .tshp o => Sys2Proof.Machine.execTshp o s
  | .ttask o => Sys2Proof.Machine.execTtask o s
  | .mmasd o => Sys2Proof.Machine.execMmasd o s
  | .trvcfg o => Sys2Proof.Machine.execTrvcfg o s
  | .cpchain o => Sys2Proof.Machine.execCpchain o s
  | .cpwait o => Sys2Proof.Machine.execCpwait o s
  | .bkrun o => Sys2Proof.Machine.execBkrun o s
  | .clred o => Sys2Proof.Machine.execClred o s
  | .clmcast o => Sys2Proof.Machine.execClmcast o s
  | .sendh o => Sys2Proof.Machine.execSendh o s
  | .vexp2 o => Sys2Proof.Machine.execVexp2 o s
  | .vlog2 o => Sys2Proof.Machine.execVlog2 o s
  | .vrcp o => Sys2Proof.Machine.execVrcp o s
  | .vrsqrt o => Sys2Proof.Machine.execVrsqrt o s
  | .vsin o => Sys2Proof.Machine.execVsin o s
  | .vcos o => Sys2Proof.Machine.execVcos o s
  | .vtanh o => Sys2Proof.Machine.execVtanh o s
  | .vsigm o => Sys2Proof.Machine.execVsigm o s
  | .verf o => Sys2Proof.Machine.execVerf o s
  | .vexp o => Sys2Proof.Machine.execVexp o s
  | .nop => Sys2Proof.Machine.execNop s
  | .eret => Sys2Proof.Machine.execEret s
  | .ret => Sys2Proof.Machine.execRet s
  | .fence => Sys2Proof.Machine.execFence s
  | .fenceAlias => Sys2Proof.Machine.execFenceAlias s
  | .yield => Sys2Proof.Machine.execYield s
  | .pin => Sys2Proof.Machine.execPin s
  | .unpin => Sys2Proof.Machine.execUnpin s
  | .vl => Sys2Proof.Machine.execVl s
  | .budget => Sys2Proof.Machine.execBudget s
  | .deadln => Sys2Proof.Machine.execDeadln s
  | .tflags => Sys2Proof.Machine.execTflags s
  | .vweight => Sys2Proof.Machine.execVweight s
  | .fflags => Sys2Proof.Machine.execFflags s
  | .ftrapen => Sys2Proof.Machine.execFtrapen s
  | .rndseed => Sys2Proof.Machine.execRndseed s
  | .tpc => Sys2Proof.Machine.execTpc s
  | .rbfetch => Sys2Proof.Machine.execRbfetch s
  | .ivload => Sys2Proof.Machine.execIvload s
  | .mac => Sys2Proof.Machine.execMac s
  | .iadd => Sys2Proof.Machine.execIadd s
  | .ishr => Sys2Proof.Machine.execIshr s
  | .loop => Sys2Proof.Machine.execLoop s
  | .jump => Sys2Proof.Machine.execJump s
  | .out => Sys2Proof.Machine.execOut s
  | .idxfetch => Sys2Proof.Machine.execIdxfetch s
  | .rowget => Sys2Proof.Machine.execRowget s
  | .halt => Sys2Proof.Machine.execHalt s
  | .bankAccWrite => Sys2Proof.Machine.execBankAccWrite s
  | .bankPortWrite => Sys2Proof.Machine.execBankPortWrite s
  | .guardSlotResolution => Sys2Proof.Machine.execGuardSlotResolution s
  | .pushStallRelease => Sys2Proof.Machine.execPushStallRelease s
  | .laneGroupArbitration => Sys2Proof.Machine.execLaneGroupArbitration s
  | .vectorQueueStallRelease => Sys2Proof.Machine.execVectorQueueStallRelease s
  | .selection => Sys2Proof.Machine.execSelection s
  | .suspension => Sys2Proof.Machine.execSuspension s
  | .budgetTrap => Sys2Proof.Machine.execBudgetTrap s
  | .poisonReport => Sys2Proof.Machine.execPoisonReport s
  | .pageWalk => Sys2Proof.Machine.execPageWalk s
  | .taskPacket => Sys2Proof.Machine.execTaskPacket s
  | .spillRefill => Sys2Proof.Machine.execSpillRefill s
  | .dataArrivalWithHandler => Sys2Proof.Machine.execDataArrivalWithHandler s
  | .readRequest => Sys2Proof.Machine.execReadRequest s
  | .readReply => Sys2Proof.Machine.execReadReply s
  | .write => Sys2Proof.Machine.execWrite s
  | .writeAcknowledgement => Sys2Proof.Machine.execWriteAcknowledgement s
  | .atomic => Sys2Proof.Machine.execAtomic s
  | .atomicReply => Sys2Proof.Machine.execAtomicReply s
  | .engineCommand => Sys2Proof.Machine.execEngineCommand s
  | .resultOrStatus => Sys2Proof.Machine.execResultOrStatus s
  | .waitArm => Sys2Proof.Machine.execWaitArm s
  | .wake => Sys2Proof.Machine.execWake s
  | .publicationDemand => Sys2Proof.Machine.execPublicationDemand s
  | .publicationComplete => Sys2Proof.Machine.execPublicationComplete s
  | .writeBack => Sys2Proof.Machine.execWriteBack s
  | .moved => Sys2Proof.Machine.execMoved s
  | .refused => Sys2Proof.Machine.execRefused s
  | .endToEndAcknowledgement => Sys2Proof.Machine.execEndToEndAcknowledgement s
  | .retryTimeout => Sys2Proof.Machine.execRetryTimeout s
  | .destinationLost => Sys2Proof.Machine.execDestinationLost s
  | .packetRouting => Sys2Proof.Machine.execPacketRouting s
  | .flit => Sys2Proof.Machine.execFlit s
  | .replayTimeout => Sys2Proof.Machine.execReplayTimeout s
  | .trainingComplete => Sys2Proof.Machine.execTrainingComplete s
  | .linkDown => Sys2Proof.Machine.execLinkDown s
  | .linkAdaptation => Sys2Proof.Machine.execLinkAdaptation s
  | .collectiveContribution => Sys2Proof.Machine.execCollectiveContribution s
  | .slotTimerExpiry => Sys2Proof.Machine.execSlotTimerExpiry s
  | .rememberedKeyExpiry => Sys2Proof.Machine.execRememberedKeyExpiry s
  | .collectiveResult => Sys2Proof.Machine.execCollectiveResult s
  | .soft => Sys2Proof.Machine.execSoft s
  | .kernelMessageReserved => Sys2Proof.Machine.execKernelMessageReserved s
  | .preempt => Sys2Proof.Machine.execPreempt s
  | .preemptRaised => Sys2Proof.Machine.execPreemptRaised s
  | .resume => Sys2Proof.Machine.execResume s
  | .move => Sys2Proof.Machine.execMove s
  | .config => Sys2Proof.Machine.execConfig s
  | .recordMove => Sys2Proof.Machine.execRecordMove s
  | .stealRound => Sys2Proof.Machine.execStealRound s
  | .stealRequest => Sys2Proof.Machine.execStealRequest s
  | .stealBackoffExpiry => Sys2Proof.Machine.execStealBackoffExpiry s
  | .loadBalancing => Sys2Proof.Machine.execLoadBalancing s
  | .fullEmptyCancel => Sys2Proof.Machine.execFullEmptyCancel s
  | .heldWriteRelease => Sys2Proof.Machine.execHeldWriteRelease s
  | .leaseExpiry => Sys2Proof.Machine.execLeaseExpiry s
  | .sigrcvExpiry => Sys2Proof.Machine.execSigrcvExpiry s
  | .mmaCommand => Sys2Proof.Machine.execMmaCommand s
  | .mtravCommand => Sys2Proof.Machine.execMtravCommand s
  | .traverseTile => Sys2Proof.Machine.execTraverseTile s
  | .latchTimeout => Sys2Proof.Machine.execLatchTimeout s
  | .mzeroCommand => Sys2Proof.Machine.execMzeroCommand s
  | .mstCommand => Sys2Proof.Machine.execMstCommand s
  | .mldCommand => Sys2Proof.Machine.execMldCommand s
  | .mmasdCommand => Sys2Proof.Machine.execMmasdCommand s
  | .tileTaskRecord => Sys2Proof.Machine.execTileTaskRecord s
  | .tileTaskDispatch => Sys2Proof.Machine.execTileTaskDispatch s
  | .cpchainCommand => Sys2Proof.Machine.execCpchainCommand s
  | .transferRecordComplete => Sys2Proof.Machine.execTransferRecordComplete s
  | .gatherSublist => Sys2Proof.Machine.execGatherSublist s
  | .bkrunCommand => Sys2Proof.Machine.execBkrunCommand s
  | .bankQuantumExpiry => Sys2Proof.Machine.execBankQuantumExpiry s
  | .clredCommand => Sys2Proof.Machine.execClredCommand s
  | .clmcastCommand => Sys2Proof.Machine.execClmcastCommand s
  | .tableWrite => Sys2Proof.Machine.execTableWrite s
  | .platGenerationInstall => Sys2Proof.Machine.execPlatGenerationInstall s
  | .stripeHandover => Sys2Proof.Machine.execStripeHandover s
  | .parcelMapWrite => Sys2Proof.Machine.execParcelMapWrite s
  | .resizeHandover => Sys2Proof.Machine.execResizeHandover s
  | .backgroundRebuild => Sys2Proof.Machine.execBackgroundRebuild s
  | .guardUpdate => Sys2Proof.Machine.execGuardUpdate s
  | .portEnable => Sys2Proof.Machine.execPortEnable s
  | .pcapWrite => Sys2Proof.Machine.execPcapWrite s
  | .monitorControlWrite => Sys2Proof.Machine.execMonitorControlWrite s
  | .errorCounterClear => Sys2Proof.Machine.execErrorCounterClear s
  | .datumSet => Sys2Proof.Machine.execDatumSet s
  | .hostDeadDeclaration => Sys2Proof.Machine.execHostDeadDeclaration s
  | .tenantReset => Sys2Proof.Machine.execTenantReset s
  | .survey => Sys2Proof.Machine.execSurvey s
  | .doorbell => Sys2Proof.Machine.execDoorbell s
  | .dmaWindowAccess => Sys2Proof.Machine.execDmaWindowAccess s
  | .hold => Sys2Proof.Machine.execHold s
  | .heartbeatSend => Sys2Proof.Machine.execHeartbeatSend s
  | .heartbeat => Sys2Proof.Machine.execHeartbeat s
  | .hostTimeout => Sys2Proof.Machine.execHostTimeout s
  | .powerGood => Sys2Proof.Machine.execPowerGood s
  | .routerImageVerify => Sys2Proof.Machine.execRouterImageVerify s
  | .stationBoot => Sys2Proof.Machine.execStationBoot s
  | .thermalReading => Sys2Proof.Machine.execThermalReading s
  | .governorMeasurement => Sys2Proof.Machine.execGovernorMeasurement s
  | .refresh => Sys2Proof.Machine.execRefresh s
  | .targetedRefresh => Sys2Proof.Machine.execTargetedRefresh s
  | .patrolScrub => Sys2Proof.Machine.execPatrolScrub s
  | .datumSynchronisation => Sys2Proof.Machine.execDatumSynchronisation s
  | .monitorSample => Sys2Proof.Machine.execMonitorSample s
  | .stealRefusal => Sys2Proof.Machine.execStealRefusal s

end Sys2Proof.Machine
end

