-- ==== Sys2Proof/Machine/Step.lean ====
section
/-! DEFINITION. One step of the machine: a turn is chosen, the datum moves on, and one instruction, bank move or event
is executed whole. -/

namespace Sys2Proof.Machine

/-- Executes the event that a message is. -/
def runMsg (m : Msg) (s : State) : Host.Outcome State Fault Refusal :=
  match msgInstr m with
  | none => .next s
  | some i => exec i { s with hand := { s.hand with msg := m } }

/-- A message taken from somewhere, if there is one. -/
def runTaken (r : Option (Msg × State)) (s : State) : Host.Outcome State Fault Refusal :=
  match r with
  | none => .next s
  | some (m, t) => runMsg m t

/-- The turn of a context: what is pending at its boundary (R248), or its next instruction. -/
def ctxTurn (l : Loc) (s : State) : Host.Outcome State Fault Refusal :=
  let s := { s with hand := { s.hand with at_ := l } }
  if !(s.ctx l).busy then .next s
  else match s.boundary l with
  | some m => runMsg m s
  | none =>
    if (s.ctx l).flow.waitOn.isSome then .next s
    else match s.takesKmsg l with
    | some a => .next ((s.popKmsg l.stn).enterTrap l causeKMSG (w64 a) s.cur.pc 0)
    | none =>
      match s.fetch with
      | .error t => .next t
      | .ok (i, t) => exec i t

/-- The turn of a bank engine: the move at its program counter. -/
def bankTurn (v b : Nat) (s : State) : Host.Outcome State Fault Refusal :=
  match bankWord s v b with
  | none => .next s
  | some w => exec (decodeMove w) { s with hand := { s.hand with vault := v, bank := b, move := w } }

/-- A turn. -/
def takeTurn (w : Who) (s : State) : Host.Outcome State Fault Refusal :=
  if !whoOk w then .fault .noSuchUnit
  else match w with
  | .ctx l => ctxTurn l s
  | .select l => runMsg (.selection l) { s with hand := { s.hand with at_ := l } }
  | .net k => runTaken (s.takeNet k) s
  | .timer => runTaken s.takeTimer s
  | .ext => match s.ext with
    | [] => .next s
    | m :: ms => runMsg m { s with ext := ms }
  | .bank v b => bankTurn v b s
  | .arbiter n => runMsg (.laneGroupArbitration n) s

/-- The state as a step begins: steps are counted, and the datum has moved on by what the environment says, or by a free
number of ticks (R7). -/
def State.tick (s : State) (ticks : Nat) : State :=
  State.advanceTo { s with counts := { s.counts with steps := s.counts.steps + 1 } } (s.datum + ticks)

/-- One step. -/
def step (s : State) : Host.Outcome State Fault Refusal :=
  match s.turns with
  | t :: ts => takeTurn t.who { s.tick t.ticks with turns := ts }
  | [] =>
    let s1 := s.tick (Config.elapsed s.counts.steps)
    takeTurn s1.defaultWho { s1 with counts := { s1.counts with rr := s1.counts.rr + 1 } }

/-- `s` with an instruction where `step` fetches its next one (log entry 13). -/
def State.withFetchWord (s : State) (nbits w : Nat) : State :=
  if nbits = 32 then
    s.placeMove w
  else
    let l : Loc := ⟨0, 0, 0⟩
    let fa := vaultFa s.cube 0xFFF00000
    let s1 := (s.installTlb 0 kernelTag 0 ⟨fa, 65536, true, true, true⟩).setBytes fa (bytesOf 10 w)
    let s2 := (s1.modStn 0 (fun t => { t with boot := .released })).setCtx l { busy := true, sup := true }
    { s2 with turns := [⟨.ctx l, 0⟩] }

end Sys2Proof.Machine
end

