-- ==== Sys2Proof/Safety.lean ====
section
/-! DEFINITION. What claims are stated in: a run that never stops, the words for what an instruction does to its context, and
the invariants of a state. -/

namespace Sys2Proof.Machine

/-! ## Runs -/

/-- A run of `n` steps that meets no fault and no refusal, and where it ends. -/
def RunsTo : Nat → State → State → Prop
  | 0, s, t => s = t
  | n + 1, s, t => ∃ u, step s = .next u ∧ RunsTo n u t

/-- A run is safe for `n` steps: it meets no fault and no refusal. -/
def SafeFor (n : Nat) (s : State) : Prop := ∃ t, RunsTo n s t

/-- Every turn that the environment has chosen names a unit that the cube has (R9): the one ground on which a step stops. -/
def State.turnsOk (s : State) : Bool := s.turns.all (fun t => whoOk t.who)

/-! ## What an instruction does to its context -/

/-- No source register of an instruction awaits a result (R88). -/
def State.ready (s : State) (rs : List Nat) : Prop := ∀ r ∈ rs, s.cur.owed r = false

/-- The acting context's instruction puts `v` in register `r` and completes; the next one follows. -/
def State.writes (s : State) (r : Nat) (v : Word) : State := s.modCur (fun c => (c.writeG r v).retire s.hand.words)

/-- The acting context's instruction completes and control goes to `pc`; nothing else changes. -/
def State.goesTo (s : State) (pc : Nat) : State := s.modCur (fun c => c.finishAt s.hand.words pc)

/-- The acting context's control registers, changed. -/
def State.modCsrs (s : State) (f : Csrs → Csrs) : State := s.modCur (fun c => { c with csr := f c.csr })

/-- R90: an exact result clamped to the unsigned range, to the signed range. -/
def clampU (x : Int) : Word := if x < 0 then 0 else if 2 ^ 64 ≤ x then BitVec.allOnes 64 else BitVec.ofInt 64 x
def clampS (x : Int) : Word :=
  if x < -(2 ^ 63) then BitVec.intMin 64 else if 2 ^ 63 ≤ x then BitVec.intMax 64 else BitVec.ofInt 64 x

/-- A scalar floating operation's result and flags meet FTRAPEN (R50): a trap FPE with the flags in TADDR, or the result in a
register and the flags in FFLAGS; `.rs` leaves RNDSEED advanced (R42). -/
def State.floatResult (s : State) (rm : Rm) (r : Nat) (x : Nat × Nat) : Out :=
  if x.2 &&& s.cur.csr.ftrapen ≠ 0 then .next (s.trap causeFPE (BitVec.ofNat 64 x.2))
  else .next (s.modCur (fun c =>
    let d := c.writeG r (BitVec.ofNat 64 x.1)
    Ctx.retire { d with csr := { d.csr with fflags := c.csr.fflags ||| x.2
                                            rndseed := if rm = .rs then rsAdvance c.csr.rndseed else c.csr.rndseed } } s.hand.words))

/-- Storage is the same, byte by byte, with its poison and full bits. -/
def SameStorage (s t : State) : Prop :=
  (∀ a, t.byte a = s.byte a) ∧ t.poison = s.poison ∧ t.full = s.full

/-- Every context but one is the same. -/
def SameContextsBut (l : Loc) (s t : State) : Prop := ∀ m, locIx m ≠ locIx l → t.ctx m = s.ctx m

/-- Of the whole state only the acting context changes; it becomes `c`. -/
def OnlyCur (s t : State) (c : Ctx) : Prop :=
  t.cur = c ∧ SameContextsBut s.hand.at_ s t ∧ t = { s with ctxs := t.ctxs }

/-- Every context is the same. -/
def SameContexts (s t : State) : Prop := ∀ m, t.ctx m = s.ctx m

/-! ## Addresses -/

/-- The tag that the acting context's virtual addresses translate under (R246). -/
def State.curTag (s : State) : Nat := if s.cur.sup then kernelTag else s.ptagAt s.hand.at_.stn

/-- An 8-byte entry of a translation table, as its home holds it. -/
def State.tableEntry (s : State) (buf : ReadBuf) (a e : Nat) : Prop :=
  ∃ pl w, s.place a = .ok pl ∧ s.wordAtHome buf pl a = .ok (w, false) ∧ e = w.toNat / 2 ^ (8 * (a % 16)) % 2 ^ 64

/-! ## Accesses -/

/-- What an access finds met before it forms its address: its registers are at hand, the window is open to the mode, the wait
counter that it names is zero, and no acquire of the task is in flight. -/
def State.mayAccess (s : State) (srcs : List Nat) (win : Win) (wc : Nat) : Prop :=
  s.ready srcs ∧ (win = .fa → s.cur.sup = true) ∧ s.waitCount s.hand.at_ wc = 0 ∧
    s.cur.flow.flights.any (fun f => f.acquire) = false

/-- No earlier access of the task touches the block word of an address. -/
def State.untouched (s : State) (fa : Nat) : Prop :=
  s.cur.flow.flights.any (fun f => f.touches (bwOf fa)) = false ∧ s.vecTouches s.hand.at_ (bwOf fa) = false

/-- R123, R144: an access may be performed now: no earlier access of the task touches its block word, and, where its home is the
station's own, none to a home of that station is in flight. -/
def State.inTurn (s : State) (p : Exec.Part) : Prop :=
  s.untouched p.fa ∧ (s.isLocal s.hand.at_.stn p.pl = true → ∀ f ∈ s.cur.flow.flights, ∀ q ∈ f.pieces, q.id ≠ 0 →
    ∀ pl, s.place q.fa = .ok pl → s.isLocal s.hand.at_.stn pl = false)

/-- A station holds no dirty word of an address's chunk, none is on its way back to its home, and the words that it holds beside
the chunk's keep a tag without it (R131). -/
def State.cleanFor (s : State) (stn fa : Nat) : Prop :=
  s.ownDirty stn (chunkOf fa) = false ∧ (s.stn stn).slice.wbOut.any (fun e => e.2 / 4 == chunkOf fa) = false ∧
    ((s.stn stn).slice.trim (fun b w => !b.home && !w.dirty && chunkOf (wordFa b.region w.ix) == chunkOf fa)).2 = []
/-- The same of the acting context's station. -/
def State.cleanAt (s : State) (fa : Nat) : Prop := s.cleanFor s.hand.at_.stn fa

/-- The station holds no replica of an address's chunk (R133). -/
def State.noReplica (s : State) (fa : Nat) : Prop :=
  s.here.slice.trim (fun b w => b.region == regionOf fa && !b.home && w.replica && decide (w.ix / 4 = ixOf fa / 4)) = (s.here.slice, [])

/-- No home block of this cube holds the DRAM block word of a place (R141). -/
def State.noHomeBlock (s : State) (pl : Place) : Prop :=
  ∀ n ∈ s.stnIxs, ∀ b ∈ (s.stn n).slice.blocks, b.home = true → ∀ w ∈ b.lines, ∀ q, s.place (wordFa b.region w.ix) = .ok q →
    q.canon / 16 ≠ pl.canon / 16

/-- Everything earlier of the task has been performed. -/
def State.allPerformed (s : State) : Prop :=
  s.vecPending s.hand.at_ = false ∧ s.cur.flow.flights = [] ∧ s.cur.flow.c1 = 0 ∧ s.cur.flow.c2 = 0

/-- `n` bytes at a home are whole: no word of them still has to be rebuilt (R272). -/
def State.built (s : State) (pl : Place) (fa n : Nat) : Prop :=
  ∀ k, k < (fa % 16 + n + 15) / 16 → s.unbuilt (fa / 16 * 16 + 16 * k) (pl.canon / 16 * 16 + 16 * k) = false

/-- The unit that holds the home of an address on this cube: its place. -/
def State.homedAt (s : State) (fa : Nat) (pl : Place) : Prop := s.place fa = .ok pl ∧ pl.cube = s.cube

/-- Who asks, where the acting context makes an access through a window. -/
def State.asker (s : State) (win : Win) : Asker := ⟨s.hand.at_.stn, s.cur.sup, s.cur.sup && decide (win ≠ .lin)⟩

/-- The pieces of a range of a window's space (R148, R160): the pages that have a valid mapping, or the vaults and stashes entered, each
with its address in the window, its fabric address and its length. -/
def State.rangesAre (s : State) (win : Win) (start len : Nat) (rs : List (Nat × Nat × Nat)) : Prop :=
  match win with
  | .va => s.rangeMap s.cur.flow.rbuf s.hand.at_.stn s.curTag (len / 65536 + 2) start len = .ok rs
  | .lin => rs = (cutUnits (2 ^ 32) 65 start len).map (fun e => (e.1, vaultFa s.cube e.1, e.2))
  | .fa =>
    let unit := if isStashFa start then 2 ^ 22 else 2 ^ 32
    rs = (cutUnits unit (len / unit + 2) start len).map (fun e => (e.1, e.1, e.2))

/-- The acting context's station holds a word in a block, of a home or a copy. -/
def State.holdsWord (s : State) (b : Block) (w : Line) : Prop := b ∈ s.here.slice.blocks ∧ w ∈ b.lines

/-- The acting context's station holds a word in a stash window. -/
def State.holdsWindow (s : State) (v : Window) (x : WLine) : Prop := v ∈ s.here.slice.windows ∧ x ∈ v.lines

/-! ## Vectors -/

/-- Element `n` of `w` bits of a vector register (R36). -/
def Ctx.elem (c : Ctx) (w r n : Nat) : Nat := (c.readV r).toNat / 2 ^ (w * n) % 2 ^ w

/-- R176: element `n` of `w` bits is active: all of it lies below VL, and the predicate selects the lane in which it begins. -/
abbrev Active (q : VQ) (w vl : Nat) (c : Ctx) (n : Nat) : Prop :=
  (n * w + w - 1) / 32 < vl ∧ (c.readK q.pred).getLsbD (n * w / 32) ≠ q.inv

/-- The draw of an element position under a rounding mode (R42). -/
def drawOf (rm : Rm) (c : Ctx) (n : Nat) : Nat := if rm = .rs then rsDraw (rsAdvance c.csr.rndseed).toNat n else 0

/-- What a vector instruction leaves alone: every register but one vector register, the PC, the flags as they were before its own;
RNDSEED advances once under `.rs`. -/
def VectorFrame (rm : Rm) (a : Nat) (c : Ctx) (r : VRes) : Prop :=
  (∀ m, m ≠ a → r.1.readV m = c.readV m) ∧ r.1.files.g = c.files.g ∧ r.1.files.k = c.files.k ∧ r.1.files.bank = c.files.bank ∧
  r.1.pc = c.pc ∧ r.1.flow = c.flow ∧ r.1.csr.fflags = c.csr.fflags ∧ r.1.csr.vl = c.csr.vl ∧
  r.1.csr.rndseed = (if rm = .rs then rsAdvance c.csr.rndseed else c.csr.rndseed)

/-- A vector register is written element by element: an active element `n` takes the value of `f n` and raises its flags; another is
zero under ZERO, or stays, and raises none (R176, R179). -/
def ElementWise (q : VQ) (w a vl : Nat) (c : Ctx) (r : VRes) (f : Nat → Nat × Nat) : Prop :=
  (∀ n, n < 8192 / w →
    (Active q w vl c n → r.1.elem w a n = (f n).1 % 2 ^ w ∧ ∀ fl, (n, fl) ∈ r.2 ↔ fl = (f n).2 ∧ fl ≠ 0) ∧
    (¬ Active q w vl c n → r.1.elem w a n = (if q.zero then 0 else c.elem w a n) ∧ ∀ fl, (n, fl) ∉ r.2)) ∧
  VectorFrame q.rm a c r

/-- A predicate register other than k0 is written lane by lane: an active lane takes `f`, another is zero under ZERO, or stays;
all else stays (R190, R191). -/
def LaneWise (q : VQ) (a vl : Nat) (c : Ctx) (r : Ctx) (f : Nat → Bool) : Prop :=
  (a = 0 → r = c) ∧
  (a ≠ 0 → (∀ i, i < 256 →
      (Active q 32 vl c i → (r.readK a).getLsbD i = f i) ∧
      (¬ Active q 32 vl c i → (r.readK a).getLsbD i = (!q.zero && (c.readK a).getLsbD i))) ∧
    (∀ m, m ≠ a → r.readK m = c.readK m) ∧ r.files.v = c.files.v ∧ r.files.g = c.files.g ∧ r.pc = c.pc ∧ r.csr = c.csr ∧ r.flow = c.flow)

/-- Two values of a reduction combined: an absent one passes the other, two absent ones give none (R53). -/
def bothOf (op : Nat → Nat → Nat) : Option Nat → Option Nat → Option Nat
  | some a, some b => some (op a b)
  | some a, none => some a
  | none, b => b

/-- R53: value `j` of level `k` of the pairwise tree over the element positions. -/
def pairTree (op : Nat → Nat → Nat) (x : Nat → Option Nat) : Nat → Nat → Option Nat
  | 0, j => x j
  | k + 1, j => bothOf op (pairTree op x k (2 * j)) (pairTree op x k (2 * j + 1))

/-- R197: the running combination of the first `n` element positions. -/
def scanRun (op : Nat → Nat → Nat) (x : Nat → Option Nat) : Nat → Option Nat
  | 0 => none
  | n + 1 => bothOf op (scanRun op x n) (x n)

/-- The queue of vector instructions of a core (R180). -/
def State.queueOf (s : State) (l : Loc) : List VEntry := Map.get [] (s.stn l.stn).vec.queues l.core

/-! ## Commands -/

/-- R28, R141, R151: what an instruction that issues a command waits for is met: its registers, its wait counter, and the earlier
accesses of its task. -/
def State.mayIssue (s : State) (srcs : List Nat) (wc : Nat) : Prop :=
  s.ready srcs ∧ s.waitCount s.hand.at_ wc = 0 ∧ s.allPerformed

/-- The command that the acting context's instruction issues to an inbox. -/
def State.cmdOf (s : State) (cube stn inbox : Nat) (k : Cmd) : CmdMsg := ⟨k, inbox, stn, cube, .task s.hand.at_ s.cur.tid, s.cur.tid, none⟩

/-- R163: a command of the acting context follows its own earlier ones to the inbox, held back or waiting for a publication; an inbox
of its own station has room. -/
def State.wayFree (s : State) (cube stn inbox : Nat) (k : Cmd) : Prop :=
  (∀ h ∈ s.here.eng.heldCmds, sameWay h.msg (s.cmdOf cube stn inbox k) = false) ∧
    s.wayBusy s.hand.at_.stn (s.cmdOf cube stn inbox k) = false ∧
    (cube = s.cube → stn = s.hand.at_.stn → s.inboxRoom stn inbox k.ptag = true)

/-- R28, R163, R207: a command has been issued: its instruction completed, C3 and, where it is counted, FIFOPEND rose by one, and the
command is on its way, to another station after a publication. -/
def State.issued (s t : State) (cube stn inbox : Nat) (k : Cmd) : Prop :=
  let l := s.hand.at_
  let tid := s.cur.tid
  let m := s.cmdOf cube stn inbox k
  let d : Demand := ⟨s.cube, l.stn, 0, .command m⟩
  t.c3of tid = s.c3of tid + 1 ∧ t.cur.flow.fifopend = s.cur.flow.fifopend + (if countedCmd k then 1 else 0) ∧
  t.cur.files = s.cur.files ∧ t.cur.pc = s.nextOf ∧ SameContextsBut l s t ∧ SameStorage s t ∧
  (cube = s.cube → stn = l.stn → t.net = s.net ++ [.engineCommand m]) ∧
  ((cube ≠ s.cube ∨ stn ≠ l.stn) →
    ((∃ g, Msg.publicationComplete d g ∈ t.net) ∨ ∃ p ∈ t.here.slice.pubs, p.demand = d) ∧
    (s.dirtyWords l.stn = [] → s.here.slice.pubs = [] → s.here.slice.wbOut = [] →
      t.net = s.net ++ [.publicationComplete d s.here.slice.sig]))

/-- An instruction issues a command where the way is free; the command is held back where the guard slot is still undecided, and behind
one that is held (R68, R163). -/
def State.issues (s : State) (o : Out) (g : Option Guard) (cube stn inbox : Nat) (k : Cmd) : Prop :=
  let l := s.hand.at_
  let c := s.cur
  (bindRuns (bindOf c g) = some true → s.wayFree cube stn inbox k → ∃ t, o = .next t ∧ s.issued t cube stn inbox k) ∧
  (bindOf c g ≠ .decided false → (bindRuns (bindOf c g) = none ∨ ∃ h ∈ s.here.eng.heldCmds, sameWay h.msg (s.cmdOf cube stn inbox k) = true) →
    ∃ t h, o = .next t ∧ t.here.eng.heldCmds = s.here.eng.heldCmds ++ [h] ∧
    h.msg = s.cmdOf cube stn inbox k ∧ h.bind = bindOf c g ∧ t.c3of c.tid = s.c3of c.tid + 1 ∧
    t.cur.flow.fifopend = s.cur.flow.fifopend + (if countedCmd k then 1 else 0) ∧ t.net = s.net ∧ t.cur.files = c.files ∧ t.cur.pc = s.nextOf ∧ SameContextsBut l s t ∧ SameStorage s t)

/-- The operands of a command. -/
def opndOf (ops : List Nat) : List Word := ops.map (BitVec.ofNat 64)

/-! ## Invariants -/

/-- The canonical forms that every step keeps: memory lists addresses strictly rising and no byte that is zero; the sets of
poisoned block words and of full stash words are in the same form. -/
def State.canonical (s : State) : Prop :=
  Memory.wf s.mem = true ∧ Map.wf false s.poison = true ∧ Map.wf false s.full = true

end Sys2Proof.Machine
end

