-- ==== Sys2Proof/Certificates/Slice0/Obligations.lean ====
section
/-! DEFINITION. What is claimed of the machine. Each statement's docstring names the rules of the spec that it formalises. -/

open Sys2Proof Sys2Proof.Machine

/-! ## Scalar instructions -/

/-- R90, R39, R88: the two-source integer operations. -/
def Obligations.IntegerResults : Prop :=
  ∀ (o : AluOps) (s : State), s.ready (o.b :: xRegs o.c) →
    let a := s.cur.readG o.b
    let b := s.cur.xval o.c
    exec (.add o) s = .next (s.writes o.a
      (if o.sat then (if o.uns then clampU (a.toNat + b.toNat : Nat) else clampS (a.toInt + b.toInt)) else a + b)) ∧
    exec (.sub o) s = .next (s.writes o.a
      (if o.sat then (if o.uns then clampU ((a.toNat : Int) - b.toNat) else clampS (a.toInt - b.toInt)) else a - b)) ∧
    exec (.mul o) s = .next (s.writes o.a
      (if o.sat then (if o.uns then clampU (a.toNat * b.toNat : Nat) else clampS (a.toInt * b.toInt)) else a * b)) ∧
    exec (.mulh o) s = .next (s.writes o.a
      (if o.uns then (a.setWidth 128 * b.setWidth 128).extractLsb' 64 64
       else (a.signExtend 128 * b.signExtend 128).extractLsb' 64 64)) ∧
    exec (.and o) s = .next (s.writes o.a (a &&& b)) ∧
    exec (.or o) s = .next (s.writes o.a (a ||| b)) ∧
    exec (.xor o) s = .next (s.writes o.a (a ^^^ b)) ∧
    exec (.sll o) s = .next (s.writes o.a (a <<< b.toNat)) ∧
    exec (.srl o) s = .next (s.writes o.a (a >>> b.toNat)) ∧
    exec (.sra o) s = .next (s.writes o.a (a.sshiftRight b.toNat)) ∧
    exec (.min o) s = .next (s.writes o.a (if (if o.uns then b.ult a else b.slt a) then b else a)) ∧
    exec (.max o) s = .next (s.writes o.a (if (if o.uns then a.ult b else a.slt b) then b else a))

/-- R39: integer division and remainder, with their corners. -/
def Obligations.Division : Prop :=
  ∀ (o : AluOps) (s : State), s.ready (o.b :: xRegs o.c) →
    let a := s.cur.readG o.b
    let b := s.cur.xval o.c
    exec (.div o) s = .next (s.writes o.a
      (if b = 0 then BitVec.allOnes 64 else if o.uns then a / b else a.sdiv b)) ∧
    exec (.rem o) s = .next (s.writes o.a (if b = 0 then a else if o.uns then a % b else a.srem b)) ∧
    -- the remainder is the dividend minus the product of quotient and divisor
    (∀ q r : Word, exec (.div o) s = .next (s.writes o.a q) → exec (.rem o) s = .next (s.writes o.a r) →
      o.a ≠ 0 → b ≠ 0 → r = a - q * b)

/-- R90: counts of bits and extensions. R91, R92: immediates and constants. R93, R94: compares, the select, and address arithmetic. -/
def Obligations.BitsComparesSelects : Prop :=
  (∀ (o : Alu1Ops) (s : State), s.ready [o.b] →
    let a := s.cur.readG o.b
    (∀ n, n ≤ 64 → (∀ i, i < n → a.getLsbD (63 - i) = false) → (n < 64 → a.getLsbD (63 - n) = true) →
      exec (.clz o) s = .next (s.writes o.a (BitVec.ofNat 64 n))) ∧
    (∀ n, n ≤ 64 → (∀ i, i < n → a.getLsbD i = false) → (n < 64 → a.getLsbD n = true) →
      exec (.ctz o) s = .next (s.writes o.a (BitVec.ofNat 64 n))) ∧
    exec (.popc o) s = .next (s.writes o.a (BitVec.ofNat 64 ((List.range 64).countP (fun i => a.getLsbD i)))) ∧
    (∀ n, n = 8 ∨ n = 16 ∨ n = 32 →
      exec (.ext n o) s = .next (s.writes o.a
        (if o.uns then (a.setWidth n).setWidth 64 else (a.setWidth n).signExtend 64)))) ∧
  (∀ (o : ImmOps) (s : State),
    let a := s.cur.readG o.a
    let v := BitVec.ofInt 64 o.imm
    (s.ready [o.a] →
      exec (.addi o) s = .next (s.writes o.a (if o.sat then clampS (a.toInt + v.toInt) else a + v)) ∧
      exec (.muli o) s = .next (s.writes o.a (if o.sat then clampS (a.toInt * v.toInt) else a * v)) ∧
      exec (.andi o) s = .next (s.writes o.a (a &&& v)) ∧
      exec (.ori o) s = .next (s.writes o.a (a ||| v)) ∧
      exec (.xori o) s = .next (s.writes o.a (a ^^^ v)) ∧
      (0 ≤ o.imm → o.imm ≤ 63 →
        exec (.slli o) s = .next (s.writes o.a (a <<< o.imm.toNat)) ∧
        exec (.srli o) s = .next (s.writes o.a (a >>> o.imm.toNat)) ∧
        exec (.srai o) s = .next (s.writes o.a (a.sshiftRight o.imm.toNat))) ∧
      (0 ≤ o.imm → o.imm < 2 ^ 20 →
        exec (.movh o.a o.imm) s = .next (s.writes o.a (BitVec.ofInt 20 o.imm ++ a.setWidth 44)))) ∧
    exec (.movi o.a o.imm) s = .next (s.writes o.a v)) ∧
  (∀ (a b : Nat) (x : XOp) (s : State),
    let p := s.cur.readG b
    let q := s.cur.xval x
    let bit := fun (c : Bool) => (if c then 1 else 0 : Word)
    (s.ready (b :: xRegs x) →
      exec (.seq a b x) s = .next (s.writes a (bit (p == q))) ∧
      exec (.sne a b x) s = .next (s.writes a (bit (!(p == q)))) ∧
      exec (.sltI a b x) s = .next (s.writes a (bit (p.slt q))) ∧
      exec (.sltN a b x) s = .next (s.writes a (bit (p.ult q))) ∧
      exec (.sleI a b x) s = .next (s.writes a (bit (p.sle q))) ∧
      exec (.sleN a b x) s = .next (s.writes a (bit (p.ule q))) ∧
      exec (.lea a b x) s = .next (s.writes a (p + q))) ∧
    (s.ready (a :: b :: xRegs x) →
      exec (.sel a b x) s = .next (s.writes a (if s.cur.readG a = 0 then q else p))) ∧
    (∀ off : Int, exec (.adpc a off) s = .next (s.writes a (BitVec.ofNat 64 s.cur.pc + BitVec.ofInt 64 (2 * off)))))

/-- R89, R76, R20: what an instruction does that puts a value in a scalar register and nothing else, in every form: the frame of
every instruction above. The register reads as the value unless it is g0; every other register, the vector and predicate registers,
guard slots, control registers but BUDGET and the resume position, other contexts and storage keep what they held; control goes to
the next word. R20, R246: what completing an instruction of `n` words does to BUDGET and to the pending BUDGET trap. -/
def Obligations.RegisterWritesAndBudget : Prop :=
  (∀ (s : State) (r : Nat) (v : Word), r < 64 →
    let c := s.cur
    let t := s.writes r v
    let d := t.cur
    d.readG r = (if r = 0 then 0 else v) ∧
    (∀ q, q < 64 → q ≠ r → d.readG q = c.readG q) ∧
    (∀ q, d.readV q = c.readV q) ∧ (∀ q, d.readK q = c.readK q) ∧ (∀ j, d.slot j = c.slot j) ∧
    d.pc = (c.pc + 2 * s.hand.words) % 2 ^ 48 ∧
    (∃ n, d.csr = { c.csr with budget := n, resume := if c.sup then c.csr.resume else 0 }) ∧
    d.sup = c.sup ∧ d.aie = c.aie ∧ d.task = c.task ∧ d.busy = c.busy ∧
    d.flow.c1 = c.flow.c1 ∧ d.flow.c2 = c.flow.c2 ∧ d.flow.fifo = c.flow.fifo ∧ d.flow.ppend = c.flow.ppend ∧
    SameContextsBut s.hand.at_ s t ∧ SameStorage s t ∧
    t = { s with ctxs := t.ctxs }) ∧
  (∀ (c : Ctx) (n pc : Nat),
    let d := c.finishAt n pc
    d.pc = pc ∧
    (c.sup = true ∨ c.csr.budget = 0 → d.csr.budget = c.csr.budget ∧ d.flow.bpend = c.flow.bpend) ∧
    (c.sup = false → n < c.csr.budget → d.csr.budget = c.csr.budget - n ∧ d.flow.bpend = c.flow.bpend) ∧
    (c.sup = false → 0 < c.csr.budget → c.csr.budget ≤ n → d.csr.budget = 0 ∧ d.flow.bpend = true))

/-- R95, R96: branches to a relative target, and what CALL leaves in g63. R96: jumps to a register target, with their checks in
order. -/
def Obligations.Jumps : Prop :=
  (∀ (o : BrOps) (s : State),
    let p := s.cur.readG o.a
    let q := s.cur.readG o.b
    let there := ((s.cur.pc : Int) + 2 * o.off) % 2 ^ 48
    let next := (s.cur.pc + 2 * s.hand.words) % 2 ^ 48
    let goes := fun (c : Bool) => Host.Outcome.next (φ := Fault) (ρ := Refusal) (s.goesTo (if c then there.toNat else next))
    (s.ready [o.a, o.b] →
      exec (.beq o) s = goes (p == q) ∧ exec (.bne o) s = goes (!(p == q)) ∧
      exec (.blt o) s = goes (p.slt q) ∧ exec (.bge o) s = goes (!p.slt q) ∧
      exec (.bltN64 o) s = goes (p.ult q) ∧ exec (.bgeN64 o) s = goes (!p.ult q)) ∧
    exec (.jmp o.off) s = .next (s.goesTo there.toNat) ∧
    exec (.call o.off) s =
      .next (s.modCur (fun c => (c.writeG 63 (BitVec.ofNat 64 next)).finishAt s.hand.words there.toNat))) ∧
  (∀ (a : Nat) (s : State), s.ready [a] → s.ready [63] →
    let next := BitVec.ofNat 64 ((s.cur.pc + 2 * s.hand.words) % 2 ^ 48)
    let bad := fun (t : Word) => if 2 ^ 48 ≤ t.toNat then some causePROT else if t.getLsbD 0 then some causeALIGN else none
    let jump := fun (t : Word) (f : Ctx → Ctx) => match bad t with
      | some c => Host.Outcome.next (φ := Fault) (ρ := Refusal) (s.trap c t)
      | none => .next (s.modCur (fun c => (f c).finishAt s.hand.words t.toNat))
    exec (.jr a) s = jump (s.cur.readG a) (fun c => c) ∧
    exec (.callr a) s = jump (s.cur.readG a) (fun c => c.writeG 63 next) ∧
    exec .ret s = jump (s.cur.readG 63) (fun c => c))

/-! ## Scalar floating point -/

/-- R99, R100, R37, R50, R42: the arithmetic operations. The exact result is rounded once under RM; the flags that it raises meet
FTRAPEN and either trap FPE, with no effect, or are ORed into FFLAGS while the result, its high bits clear, is written. `.rs`
draws from the advanced RNDSEED, which it leaves behind. -/
def Obligations.FloatArithmetic : Prop :=
  ∀ (o : FOps) (s : State), s.ready [o.a, o.b, o.c] → (o.rm = .rs → s.vecPending s.hand.at_ = false) →
    let f := fmtOf o.fmt
    let x := fun (r : Nat) => decodeF f ((s.cur.readG r).toNat % 2 ^ f.width)
    let draw := if o.rm = .rs then rsDraw (rsAdvance s.cur.csr.rndseed).toNat 0 else 0
    let gives := fun (i : Instr) (e : Exact × Nat) => exec i s = s.floatResult o.rm o.a (finishF f o.rm draw e)
    gives (.fadd o) (addFV o.rm (x o.b) (x o.c)) ∧
    gives (.fsub o) (addFV o.rm (x o.b) (x o.c).neg) ∧
    gives (.fmul o) ((mulFV (x o.b) (x o.c)).1.exact, (mulFV (x o.b) (x o.c)).2) ∧
    gives (.fdiv o) (divFV (x o.b) (x o.c)) ∧
    gives (.fma o) (fmaFV o.rm (x o.b) (x o.c) (x o.a)) ∧
    gives (.fsqrt ⟨o.fmt, o.rm, o.a, o.b⟩) (sqrtFV (x o.b))

/-- R46, R99: minimum and maximum, in both kinds: a NaN operand gives the canonical NaN, or, where a number is preferred, the other
operand; otherwise the result is the operand that orders below or above, −0 below +0; a signalling NaN raises invalid. R44, R99:
negation, absolute value and sign copy act on bits and raise no flag, a signalling NaN included. R102: the compares write 1 or 0; a
NaN operand makes FEQ, FLT and FLE false and FUN true, and raises invalid: any NaN for FLT and FLE, a signalling one for the others.
R40: a finite value that the format holds is its own rounding, in every mode and for every draw, and raises no flag. R40: rounding
to nearest lands on the grid within half a step of the exact value: with `t` = floor(x / 2^q) and `h` = floor(x / 2^(q−1)) of a
magnitude x that is no multiple of 2^q, the multiple chosen is t + 1 exactly where x lies above the midpoint, or at it with t odd. -/
def Obligations.FloatComparesSignsRounding : Prop :=
  (∀ (o : FOps) (s : State), s.ready [o.b, o.c] →
    let f := fmtOf o.fmt
    let b := (s.cur.readG o.b).toNat % 2 ^ f.width
    let c := (s.cur.readG o.c).toNat % 2 ^ f.width
    let x := decodeF f b
    let y := decodeF f c
    let fl := if x = .nan true ∨ y = .nan true then flNV else 0
    let less := fun (p q : FV) => cmpFV p q < 0 ∨ (cmpFV p q = 0 ∧ p.isNeg = true ∧ q.isNeg = false)
    let gives := fun (i : Instr) (v : Nat) => exec i s = s.floatResult .ne o.a (v, fl)
    (x.isNan = true ∨ y.isNan = true →
      gives (.fmin o) f.nanCode ∧ gives (.fmax o) f.nanCode ∧
      (let v := if x.isNan = true ∧ y.isNan = true then f.nanCode else if x.isNan = true then c else b
       gives (.fminn o) v ∧ gives (.fmaxn o) v)) ∧
    (x.isNan = false → y.isNan = false →
      (less x y → gives (.fmin o) b ∧ gives (.fminn o) b ∧ gives (.fmax o) c ∧ gives (.fmaxn o) c) ∧
      (less y x → gives (.fmin o) c ∧ gives (.fminn o) c ∧ gives (.fmax o) b ∧ gives (.fmaxn o) b))) ∧
  (∀ (o : FOps) (s : State), s.ready [o.b, o.c] →
    let w := (fmtOf o.fmt).width
    let b := (s.cur.readG o.b).toNat % 2 ^ w
    let c := (s.cur.readG o.c).toNat % 2 ^ w
    let sign := fun (v : Nat) => v / 2 ^ (w - 1)
    let mag := b % 2 ^ (w - 1)
    exec (.fneg ⟨o.fmt, o.rm, o.a, o.b⟩) s = s.floatResult .ne o.a ((1 - sign b) * 2 ^ (w - 1) + mag, 0) ∧
    exec (.fabs ⟨o.fmt, o.rm, o.a, o.b⟩) s = s.floatResult .ne o.a (mag, 0) ∧
    exec (.fsgn o) s = s.floatResult .ne o.a (sign c * 2 ^ (w - 1) + mag, 0)) ∧
  (∀ (o : FOps) (s : State), s.ready [o.b, o.c] →
    let f := fmtOf o.fmt
    let x := decodeF f ((s.cur.readG o.b).toNat % 2 ^ f.width)
    let y := decodeF f ((s.cur.readG o.c).toNat % 2 ^ f.width)
    let gives := fun (i : Instr) (v : Bool) (fl : Nat) => exec i s = s.floatResult .ne o.a (if v then 1 else 0, fl)
    let quiet := if x = .nan true ∨ y = .nan true then flNV else 0
    (x.isNan = true ∨ y.isNan = true →
      gives (.feq o) false quiet ∧ gives (.flt o) false flNV ∧ gives (.fle o) false flNV ∧ gives (.fun_ o) true quiet) ∧
    (x.isNan = false → y.isNan = false →
      gives (.feq o) (cmpFV x y = 0) 0 ∧ gives (.flt o) (cmpFV x y < 0) 0 ∧ gives (.fle o) (cmpFV x y ≤ 0) 0 ∧
      gives (.fun_ o) false 0)) ∧
  (∀ (f : Fmt) (rm : Rm) (sat : Bool) (draw code : Nat) (neg : Bool) (m : Nat) (e : Int),
    code < 2 ^ f.width → decodeF f code = .fin neg m e →
    deliver f rm sat draw (decodeF f code).exact = (code, 0)) ∧
  (∀ (neg : Bool) (draw n d : Nat) (e q : Int), 0 < d →
    let x := Mag.rat n d e
    let r := roundAt .ne neg draw x q
    -- twice the exact value in steps of 2^q, as a fraction n' / d'
    let n' := n * 2 ^ (e - q + 1).toNat
    let d' := d * 2 ^ (q - e - 1).toNat
    (2 * r.1 * d' ≤ n' + d' ∧ n' ≤ 2 * r.1 * d' + d') ∧
    (2 * r.1 * d' = n' + d' ∨ n' = 2 * r.1 * d' + d' → r.1 % 2 = 0) ∧
    (r.2.1 = true ↔ 2 * r.1 * d' = n'))

/-- R101, R47, R48: conversions, by the kinds of their two types. -/
def Obligations.Conversions : Prop :=
  ∀ (o : FcvtOps) (s : State), s.ready [o.b] → (o.rm = .rs → s.vecPending s.hand.at_ = false) →
    let draw := if o.rm = .rs then rsDraw (rsAdvance s.cur.csr.rndseed).toNat 0 else 0
    let src := fun (w : Nat) => (s.cur.readG o.b).toNat % 2 ^ w
    let gives := fun (v : Word) (fl : Nat) => exec (.fcvt o) s = s.floatResult o.rm o.a (v.toNat, fl)
    (∀ fd fs, cKind o.d = .fp fd → cKind o.s = .fp fs →
      let x := decodeF fs (src fs.width)
      let r := deliver fd o.rm o.sat draw x.exact
      gives (BitVec.ofNat 64 r.1) (r.2 ||| if x = .nan true then flNV else 0)) ∧
    (∀ fd w sg, cKind o.d = .fp fd → cKind o.s = .int w sg →
      let v : Int := if sg then (BitVec.ofNat w (src w)).toInt else src w
      let r := deliver fd o.rm false draw (if v = 0 then .zero false else .val (decide (v < 0)) (.rat v.natAbs 1 0))
      gives (BitVec.ofNat 64 r.1) r.2) ∧
    (∀ w sg fs, cKind o.d = .int w sg → cKind o.s = .fp fs →
      let r := cvtFI w sg fs o.rm draw (src fs.width)
      gives (if sg then (BitVec.ofInt w r.1).signExtend 64 else (BitVec.ofInt w r.1).setWidth 64) r.2)

/-! ## Control registers and system instructions -/

/-- R79, R80, R103, R104: what a read of each control register gives. BUDGET reads as LEFT before the instruction's own cycles are
charged. R80, R103, R104, R8: what CSRW, CSRS and CSRC store: the source, the OR, the AND with the complement, under each field's
access code; read-only registers ignore it. R80: a weight of VWEIGHT written 0 stores 1, every other weight as written. R103, R80:
the rows that stand for one control register's step: an access of CSRW, CSRS or CSRC in hand stores the new value, one of CSRR
changes nothing; FFLAGS, FTRAPEN and RNDSEED act once earlier vector instructions have completed, VWEIGHT and TPC in supervisor
mode. -/
def Obligations.CsrAccesses : Prop :=
  (∀ (num a : Nat) (s : State),
    let c := s.cur
    let l := s.hand.at_
    let reads := fun (v : Word) => exec (.csrr num a) s = .next (s.retire.modCur (fun c => c.writeG a v))
    let b := fun (x : Bool) => if x then 1 else 0
    (num < 3 → s.vecPending l = false →
      reads (if num = 0 then BitVec.ofNat 64 c.csr.fflags else if num = 1 then BitVec.ofNat 64 c.csr.ftrapen else c.csr.rndseed)) ∧
    (num = 3 → reads (BitVec.ofNat 64 c.csr.vl)) ∧ (num = 4 → reads (BitVec.ofNat 64 s.datum)) ∧
    (num = 5 → reads (BitVec.ofNat 64 l.stn)) ∧ (num = 6 → reads (BitVec.ofNat 64 l.core)) ∧
    (num = 7 → reads (BitVec.ofNat 64 l.ctx)) ∧
    (num = 8 → ∀ r, c.task = some r →
      reads (BitVec.ofNat 64 (2 ^ 55 + s.cube * 2 ^ 43 + 2 ^ 40 + l.stn * 2 ^ 22 + (0x3C0000 + 64 * r.slot)))) ∧
    (num = 9 → reads c.csr.deadln) ∧ (num = 10 → reads (BitVec.ofNat 64 c.csr.budget)) ∧
    (num = 11 → ∀ p, s.parcelAt l.stn = some p →
      reads (BitVec.ofNat 64 (s.cube * 2 ^ 32 + p.ptag * 2 ^ 16 + logicalOf s.tables.parcels p l.stn))) ∧
    (num = 12 → reads (if c.csr.latedrop then 1 else 0)) ∧
    (c.sup = true →
      (num = 0x40 → reads (BitVec.ofNat 64 s.here.kernel.tvec)) ∧ (num = 0x41 → reads (BitVec.ofNat 64 c.csr.tcause)) ∧
      (num = 0x42 → reads c.csr.taddr) ∧ (num = 0x43 → reads (BitVec.ofNat 64 c.csr.tpc)) ∧
      (num = 0x44 → reads (BitVec.ofNat 64 (c.csr.iwords * 256 + 2 * b c.csr.taie + b c.csr.pmode))) ∧
      (num = 0x45 → reads s.here.vec.vweight))) ∧
  (∀ (num a : Nat) (s : State), csrAssigned num = true → (0x40 ≤ num → s.cur.sup = true) →
    (num < 3 → s.vecPending s.hand.at_ = false) → s.ready [a] →
    let v := s.cur.readG a
    let old := s.readCsr s.hand.at_ num
    let t := s.retire
    let stores := fun (w : Word) =>
      match num with
      | 0x000 => t.modCsrs (fun k => { k with fflags := w.toNat % 32 })
      | 0x001 => t.modCsrs (fun k => { k with ftrapen := w.toNat % 32 })
      | 0x002 => t.modCsrs (fun k => { k with rndseed := w })
      | 0x003 => t.modCsrs (fun k => { k with vl := min w.toNat 256 })
      | 0x009 => t.modCsrs (fun k => { k with deadln := w })
      | 0x00A => t.modCur (fun k => { k with csr := { k.csr with budget :=
          if k.sup then w.toNat % 2 ^ 32
          else if k.csr.budget = 0 then (if k.flow.bpend then 0 else w.toNat % 2 ^ 32)
          else if w.toNat % 2 ^ 32 = 0 then k.csr.budget else min (w.toNat % 2 ^ 32) k.csr.budget } })
      | 0x00C => t.modCsrs (fun k => { k with latedrop := w.getLsbD 0 })
      | 0x040 => t.modStn s.hand.at_.stn (fun x => { x with kernel := { x.kernel with tvec := w.toNat % 2 ^ 48 / 2 * 2 } })
      | 0x041 => t.modCsrs (fun k => { k with tcause := w.toNat % 256 })
      | 0x042 => t.modCsrs (fun k => { k with taddr := w })
      | 0x043 => t.modCsrs (fun k => { k with tpc := w.toNat % 2 ^ 48 / 2 * 2, resume := 0 })
      | 0x044 => t.modCsrs (fun k => { k with iwords := w.toNat / 256 % 16, taie := w.getLsbD 1, pmode := w.getLsbD 0 })
      | 0x045 => t.modVec s.hand.at_.stn (fun x => { x with vweight := fixWeights w })
      | _ => t
    exec (.csrw num a) s = .next (stores v) ∧
    exec (.csrs num a) s = .next (stores (old ||| v)) ∧
    exec (.csrc num a) s = .next (stores (old &&& ~~~v))) ∧
  (∀ (w : Word) (i : Nat), i < 8 →
    (fixWeights w).extractLsb' (8 * i) 8 = if w.extractLsb' (8 * i) 8 = 0 then 1 else w.extractLsb' (8 * i) 8) ∧
  (∀ (op : CsrOp) (v : Word) (s : State), s.hand.msg = .csr op v →
    let at_ := s.hand.at_
    let stores := fun (num : Nat) => Host.Outcome.next (φ := Fault) (ρ := Refusal) (match op with
      | .read => s
      | .write => s.writeCsr at_ num v
      | .setBits => s.writeCsr at_ num (s.readCsr at_ num ||| v)
      | .clearBits => s.writeCsr at_ num (s.readCsr at_ num &&& ~~~v))
    exec .vl s = stores 0x003 ∧ exec .budget s = stores 0x00A ∧ exec .deadln s = stores 0x009 ∧ exec .tflags s = stores 0x00C ∧
    (s.vecPending at_ = false → exec .fflags s = stores 0 ∧ exec .ftrapen s = stores 1 ∧ exec .rndseed s = stores 2) ∧
    (s.cur.sup = true → exec .vweight s = stores 0x45 ∧ exec .tpc s = stores 0x43))

/-- R71, R70, R79, R107, R108, R109, R215, R246: what user mode may not do traps PRIV with TADDR 0 and has no other effect: ERET,
TLBINV, KMSG, TRVCFG, every access of a control register from 0x040 on, the steps of VWEIGHT and TPC. What is illegal traps ILL
first: a control register that does not exist, and an operand value that the description of TLBINV, KMSG or TRVCFG gives to ILL. -/
def Obligations.PrivilegeTraps : Prop :=
  ∀ (a b num : Nat) (o : EngOps) (s : State), s.cur.sup = false →
    let priv := Host.Outcome.next (φ := Fault) (ρ := Refusal) (s.trap causePRIV 0)
    let ill := Host.Outcome.next (φ := Fault) (ρ := Refusal) (s.trap causeILL (BitVec.ofNat 64 (s.cur.pc + 2 * (s.hand.words - 1))))
    exec .eret s = priv ∧ exec .vweight s = priv ∧ exec .tpc s = priv ∧
    (s.ready [a, b] →
      let sel := s.cur.readG b
      let dest := s.cur.readG a
      exec (.tlbinv a b) s = (if sel = 0 ∨ sel.getLsbD 0 = true ∨ sel.getLsbD 1 = true then priv else ill) ∧
      exec (.kmsg a b) s = (if dest &&& 0xFFFFF000FFFFFFC0 = 0 then priv else ill)) ∧
    (s.ready [o.b, o.c] →
      exec (.trvcfg o) s = (if s.cur.readG o.b &&& 0x4FF0FFFFFFFFFFC0 = 0 then priv else ill)) ∧
    (csrAssigned num = true → 0x40 ≤ num →
      exec (.csrr num a) s = priv ∧ exec (.csrw num a) s = priv ∧ exec (.csrs num a) s = priv ∧ exec (.csrc num a) s = priv) ∧
    (csrAssigned num = false →
      exec (.csrr num a) s = ill ∧ exec (.csrw num a) s = ill ∧ exec (.csrs num a) s = ill ∧ exec (.csrc num a) s = ill)

/-- R245: the entry of a trap: TCAUSE, TADDR, TPC and TSTAT record it, the context enters supervisor mode with asynchronous traps
disabled, g1 to g15 name the kernel bank, and control goes to 2 × TVEC.ENTRY; g16 to g63 and all else of the task stays. -/
def Obligations.TrapEntry : Prop :=
  ∀ (l : Loc) (cause : Nat) (addr : Word) (tpc iwords : Nat) (s : State),
    let c := s.ctx l
    let t := s.enterTrap l cause addr tpc iwords
    let d := t.ctx l
    d.csr.tcause = cause ∧ d.csr.taddr = addr ∧ d.csr.tpc = tpc ∧ d.csr.iwords = iwords ∧
    d.csr.pmode = c.sup ∧ d.csr.taie = (if c.sup then c.aie else true) ∧
    d.sup = true ∧ d.aie = false ∧ d.pc = (s.stn l.stn).kernel.tvec ∧
    (∀ r, 1 ≤ r → r ≤ 15 → d.readG r = Map.get 0 c.files.bank r) ∧
    (∀ r, 16 ≤ r → d.readG r = c.readG r) ∧
    d.files = c.files ∧ d.task = c.task ∧ d.csr.fflags = c.csr.fflags ∧ d.csr.budget = c.csr.budget ∧
    SameContextsBut l s t ∧ SameStorage s t ∧ t = { s with ctxs := t.ctxs }

/-- R106, R20: BRK, TRAP and KCALL. The first two report their own first word, KCALL, which is complete, the next instruction; all
three are charged their issue cycles. R245, R107: a trap taken from user mode and the return from it give the task back its PC, its
mode and every register. -/
def Obligations.TrapInstructions : Prop :=
  (∀ (code : Nat) (s : State), code < 2 ^ 63 →
    let charged := s.modCur (fun c => c.charge s.hand.words)
    exec (.brk code) s = .next (charged.enterTrap s.hand.at_ 0x0A (BitVec.ofNat 64 code) s.cur.pc s.hand.words) ∧
    exec (.trap code) s = .next (charged.enterTrap s.hand.at_ 0x0D (BitVec.ofNat 64 code) s.cur.pc s.hand.words) ∧
    exec (.kcall code) s = .next (s.retire.enterTrap s.hand.at_ 0x0D (BitVec.ofNat 64 (2 ^ 63 + code))
      ((s.cur.pc + 2 * s.hand.words) % 2 ^ 48) s.hand.words)) ∧
  (∀ (cause : Nat) (addr : Word) (s : State), s.cur.sup = false → s.cur.task.isSome = true →
    let t := s.trap cause addr
    ∃ u, exec .eret t = .next u ∧ u.cur.pc = s.cur.pc ∧ u.cur.sup = false ∧ u.cur.aie = true ∧ u.cur.files = s.cur.files ∧
      u.cur.task = s.cur.task ∧ (∀ r, u.cur.readG r = s.cur.readG r) ∧ SameStorage s u)

/-- R107: the return from a trap: PC is TPC, the mode TSTAT.PMODE, asynchronous traps TSTAT.AIE; in user mode it traps PRIV.
R248: in a context that held no task it returns the context to the free state. -/
def Obligations.TrapReturn : Prop :=
  ∀ (s : State),
    (s.cur.sup = false → exec .eret s = .next (s.trap causePRIV 0)) ∧
    (s.cur.sup = true → s.cur.busy = true → (s.cur.csr.pmode = true ∨ s.cur.task.isSome = true) →
      exec .eret s = .next (s.modCur (fun c => { c with pc := c.csr.tpc, sup := c.csr.pmode, aie := c.csr.taie }))) ∧
    (s.cur.sup = true → s.cur.csr.pmode = false → s.cur.task = none → s.here.kernel.pending = [] → s.here.sched.preempted = false →
      ∃ t, exec .eret s = .next t ∧ t.cur.busy = false ∧ t.cur.sup = false ∧ t.cur.files = s.cur.files ∧
        SameContextsBut s.hand.at_ s t ∧ SameStorage s t)

/-! ## Guard slots -/

/-- R97, R98, R77: GSET and GSETZ make a slot pending under a number of their own; its resolution, at once where the source is at
hand, otherwise when the access that owes it completes, carries whether the value is not zero, or is zero; it gives the slot its
value unless a later GSET has taken the slot over. GWAIT stalls until then and writes 1 or 0. -/
def Obligations.GuardSlots : Prop :=
  (∀ (j b : Nat) (zero : Bool) (s : State), j < s.cur.files.slots.length →
    let i : Instr := if zero then .gsetz j b else .gset j b
    ∃ t, exec i s = .next t ∧ t.cur.slot j = .pending s.counts.id ∧ t.counts.id = s.counts.id + 1 ∧
      (∀ k, k ≠ j → t.cur.slot k = s.cur.slot k) ∧ (∀ r, t.cur.readG r = s.cur.readG r) ∧ SameStorage s t ∧
      SameContextsBut s.hand.at_ s t ∧ t.cur.pc = s.nextOf ∧
      (s.cur.owed b = false →
        t.net = s.net ++ [.guardSlotResolution s.hand.at_ s.counts.id (decide (s.cur.readG b = 0) == zero)]) ∧
      (s.cur.owed b = true → t.net = s.net ∧
        ∀ f ∈ t.cur.flow.flights, f.owes.contains (s.cur.phys b) = true → ∃ half, (s.counts.id, zero, half) ∈ f.gsets)) ∧
  (∀ (l : Loc) (gid : Nat) (v : Bool) (s : State), s.hand.msg = .guardSlotResolution l gid v →
    ∃ t, exec .guardSlotResolution s = .next t ∧
      (∀ j, (t.ctx l).slot j = if (s.ctx l).slot j = .pending gid then (if v then .yes else .no) else (s.ctx l).slot j) ∧
      (∀ m j, locIx m ≠ locIx l → (t.ctx m).slot j = (s.ctx m).slot j) ∧
      (∀ m r, (t.ctx m).readG r = (s.ctx m).readG r)) ∧
  (∀ (a j : Nat) (s : State),
    (∀ g, s.cur.slot j = .pending g → exec (.gwait a j) s = .next s) ∧
    (s.cur.slot j = .yes → exec (.gwait a j) s = .next (s.writes a 1)) ∧
    (s.cur.slot j = .no → exec (.gwait a j) s = .next (s.writes a 0)))

/-! ## Addresses -/

/-- R94: FADDR gives the fabric address that a load would form, HOMEOF its home as generation, cube, parcel tag and station; neither
makes an access. An address that no valid mapping covers traps as the load would. An address that no entry of the TLB covers is
walked for first, and its translation follows. R250 to R253, R149: how a virtual address is translated: by an entry of the TLB,
otherwise by a walk of at most three levels, whose leaf gives the page and its permissions; an address from 2^48 on and an access
that the leaf does not permit trap PROT, an entry that is not valid or malformed PAGE. A walk that ends well installs its
translation. R108: TLBINV removes from its station's TLB the translations that gC selects: with 0 those of a page under the own tag,
with bit 1 all, with bit 0 alone of the two all of a tag; another value of gC traps ILL. -/
def Obligations.AddressesAndTranslation : Prop :=
  (∀ (a b : Nat) (x : XOp) (s : State), s.ready (b :: xRegs x) →
    let ea := (s.cur.ea b x 1).toNat
    let found := s.translate s.cur.flow.rbuf s.hand.at_.stn s.curTag ea .any
    let gives := fun (i : Instr) (v : Nat) =>
      ∃ t, exec i s = .next t ∧ OnlyCur s t ((s.cur.writeG a (BitVec.ofNat 64 v)).retire s.hand.words)
    let givesLater := fun (i : Instr) (v : Nat) =>
      ∃ t, exec i s = .next t ∧ t.cur = (s.cur.writeG a (BitVec.ofNat 64 v)).retire s.hand.words ∧
        SameContextsBut s.hand.at_ s t ∧ SameStorage s t ∧ (∀ m ∈ t.net, m ∈ s.net ∨ m = .pageWalk s.hand.at_.stn s.curTag ea)
    let home := fun (pl : Place) => s.tables.gen % 256 * 2 ^ 48 + pl.cube * 2 ^ 32 + pl.ptag * 2 ^ 16 + pl.stn
    let traps := fun (i : Instr) (c d : Nat) => exec i s = .next (s.trap c (BitVec.ofNat 64 d))
    (∀ fa, found = .ok (fa, false) →
      (bitAt fa 55 = true ∨ (platResolve s.tables fa).isSome = true → gives (.faddr a b x) fa) ∧
      (bitAt fa 55 = false → platResolve s.tables fa = none → traps (.faddr a b x) causePLAT ea) ∧
      (∀ pl, s.place fa = .ok pl → gives (.homeof a b x) (home pl)) ∧
      (∀ c, s.place fa = .error c → traps (.homeof a b x) c ea)) ∧
    (∀ fa, found = .ok (fa, true) →
      (bitAt fa 55 = true ∨ (platResolve s.tables fa).isSome = true → givesLater (.faddr a b x) fa) ∧
      (∀ pl, s.place fa = .ok pl → givesLater (.homeof a b x) (home pl))) ∧
    (∀ c d, found = .bad c d → traps (.faddr a b x) c d ∧ traps (.homeof a b x) c d)) ∧
  ((∀ (buf : ReadBuf) (stn tag va : Nat) (need : Need) (s : State),
    (2 ^ 48 ≤ va → s.translate buf stn tag va need = .bad causePROT va) ∧
    (va < 2 ^ 48 →
      (∀ e, (s.stn stn).tlb.find? (Tlb.hit tag va) = some e →
        s.translate buf stn tag va need =
          if (⟨e.fa, e.size, e.r, e.w, e.x⟩ : Leaf).allows need then .ok (e.fa + va % e.size, false) else .bad causePROT va) ∧
      ((s.stn stn).tlb.find? (Tlb.hit tag va) = none →
        (∀ l, s.walk buf stn tag va = .ok l →
          s.translate buf stn tag va need = if l.allows need then .ok (l.fa + va % l.size, true) else .bad causePROT va) ∧
        (∀ c d, s.walk buf stn tag va = .bad c d → s.translate buf stn tag va need = .bad c d)))) ∧
  (∀ (buf : ReadBuf) (stn tag va base e1 e2 e3 : Nat) (s : State), s.level1 stn tag = some base →
    let next := fun (e : Nat) => bitsOf e 55 8 * 256
    let table := fun (e level : Nat) => bitAt e 0 = true ∧ pteMalformed e level = false ∧ bitAt e 1 = false
    let ends := fun (e level size : Nat) =>
      ((bitAt e 0 = false ∨ pteMalformed e level = true) → s.walk buf stn tag va = .bad causePAGE va) ∧
      (bitAt e 0 = true → pteMalformed e level = false → bitAt e 1 = true →
        s.walk buf stn tag va = .ok ⟨next e, size, bitAt e 2, bitAt e 3, bitAt e 4⟩)
    s.tableEntry buf (base + 8 * bitsOf va 47 30) e1 →
      ends e1 1 (2 ^ 30) ∧
      (table e1 1 → s.tableEntry buf (next e1 + 8 * bitsOf va 29 21) e2 →
        ends e2 2 (2 ^ 21) ∧
        (table e2 2 → s.tableEntry buf (next e2 + 8 * bitsOf va 20 16) e3 → ends e3 3 (2 ^ 16)))) ∧
  (∀ (stn tag va : Nat) (l : Leaf) (s : State), s.hand.msg = .pageWalk stn tag va → s.walk [] stn tag va = .ok l → va < 2 ^ 48 →
    ∃ t, exec .pageWalk s = .next t ∧ t.translate [] stn tag va .any = .ok (l.fa + va % l.size, false) ∧
      SameContexts s t ∧ SameStorage s t ∧ (∀ n, n ≠ stn → t.stn n = s.stn n) ∧ t.net = s.net)) ∧
  (∀ (b c : Nat) (s : State), s.cur.sup = true → s.ready [b, c] →
    let sel := (s.cur.readG c).toNat
    let va := (s.cur.readG b).toNat
    let n := s.hand.at_.stn
    let gone := fun (e : Tlb) =>
      if sel = 0 then e.ptag = s.ptagAt n ∧ e.va ≤ va ∧ va < e.va + e.size
      else if sel / 2 % 2 = 1 then True else e.ptag = sel / 2 ^ 16 % 2 ^ 16
    let legal := sel = 0 ∨ sel % 2 = 1 ∨ sel / 2 % 2 = 1
    (legal → ∃ t, exec (.tlbinv b c) s = .next t ∧ (∀ e, e ∈ (t.stn n).tlb ↔ e ∈ (s.stn n).tlb ∧ ¬ gone e) ∧
      t.cur = s.cur.retire s.hand.words ∧ SameContextsBut s.hand.at_ s t ∧ SameStorage s t ∧ (∀ m, m ≠ n → t.stn m = s.stn m)) ∧
    (¬ legal → exec (.tlbinv b c) s = .next (s.trap causeILL (BitVec.ofNat 64 s.baseAddr))))

/-- R94, R105, R108, R109, R131, R134, R136, R142, R159 to R162, R20, R152, R238 to R243, R248, R252, R273: where the ordering instructions,
the address queries, the range and window instructions, TLBINV and KMSG complete, and where the events of kernel messages, of traps
that arrive, of stealing and of timed coherence do: under the conditions named, which are on the state and the operands alone, each
gives the next state of its own effect. -/
def Obligations.SystemCompletions : Prop :=
  -- NOP, FENCE, CWAIT, FENCE.ALIAS
  (∀ (mask wc d : Nat) (s : State), let l := s.hand.at_
    exec .nop s = .next s.retire ∧
    (s.vecPending l = false → s.cur.flow.flights = [] → s.cur.flow.c1 = 0 → s.cur.flow.c2 = 0 → exec .fence s = .next s.retire) ∧
    (mask ≤ 7 → s.waitCount l wc = 0 → s.cur.flow.c1 = 0 → s.cur.flow.c2 = 0 → s.c3of s.cur.tid = 0 →
      exec (.cwait mask wc) s = .next s.retire) ∧
    (s.cur.flow.fence = some d → 0 < d → d ≤ s.datum → s.cur.flow.fenceOn = [] → s.guardsOut = false →
      ∃ t, exec .fenceAlias s = .next t ∧ t.cur.pc = s.nextOf ∧ t.cur.flow.fence = none ∧ t.cur.files = s.cur.files)) ∧
  -- FADDR and HOMEOF of an address that the TLB maps
  (∀ (a b : Nat) (x : XOp) (e : Tlb) (s : State), s.ready (b :: xRegs x) →
    let ea := (s.cur.ea b x 1).toNat
    let fa := e.fa + ea % e.size
    ea < 2 ^ 48 → s.here.tlb.find? (Tlb.hit s.curTag ea) = some e →
    (bitAt fa 55 = true ∨ (platResolve s.tables fa).isSome = true →
      ∃ t, exec (.faddr a b x) s = .next t ∧ t.cur = (s.cur.writeG a (BitVec.ofNat 64 fa)).retire s.hand.words) ∧
    (∀ pl, s.place fa = .ok pl → ∃ t, exec (.homeof a b x) s = .next t ∧
      t.cur = (s.cur.writeG a (BitVec.ofNat 64
        (s.tables.gen % 256 * 2 ^ 48 + pl.cube * 2 ^ 32 + pl.ptag * 2 ^ 16 + pl.stn))).retire s.hand.words)) ∧
  -- TLBINV of everything; the walk that installs a translation
  (∀ (b c : Nat) (s : State), s.cur.sup = true → s.ready [b, c] → s.cur.readG c = 2 →
    ∃ t, exec (.tlbinv b c) s = .next t ∧ t.here.tlb = [] ∧ t.cur = s.cur.retire s.hand.words ∧ SameStorage s t) ∧
  (∀ (stn tag va : Nat) (l : Leaf) (s : State), s.hand.msg = .pageWalk stn tag va → va < 2 ^ 48 → s.walk [] stn tag va = .ok l →
    ∃ t, exec .pageWalk s = .next t ∧ ((t.stn stn).tlb.find? (Tlb.hit tag va)).isSome = true) ∧
  -- FLUSHR and INVR of a range of which the station holds nothing; SMAP and SUNMAP
  (∀ (o : RangeOps) (rs : List (Nat × Nat × Nat)) (s : State), s.ready (o.b :: xRegs o.c) → o.win ≠ .fa → s.waitCount s.hand.at_ o.wc = 0 →
    let start := (s.cur.readG o.b).toNat
    let len := (s.cur.xval o.c).toNat
    start + len ≤ 2 ^ 38 → s.rangesAre o.win start len rs → (∀ r ∈ rs, ∃ pl, s.reach (s.asker o.win) r.2.1 = .ok pl) →
    s.cur.flow.flights.any (fun f => f.acquire) = false →
    s.here.slice.blocks = [] → s.here.slice.windows = [] → s.here.slice.wbOut = [] →
    ∃ t u, exec (.flushr o) s = .next t ∧ t.cur = s.cur.retire s.hand.words ∧ SameStorage s t ∧
      exec (.invr o) s = .next u ∧ u.cur = s.cur.retire s.hand.words ∧ SameStorage s u) ∧
  (∀ (a b c wc : Nat) (rs : List (Nat × Nat × Nat)) (s : State), s.ready [a, b, c] → s.waitCount s.hand.at_ wc = 0 →
    let st := (s.cur.readG a).toNat
    let va := (s.cur.readG b).toNat
    let len := (s.cur.readG c).toNat
    st % 64 = 0 → va % 64 = 0 → len % 64 = 0 → len ≠ 0 → st + len ≤ readyStore → va + len ≤ 2 ^ 48 → s.here.slice.windows = [] →
    s.rangeMap s.cur.flow.rbuf s.hand.at_.stn s.curTag (len / 65536 + 2) va len = .ok rs →
    ∃ t w, exec (.smap a b c wc) s = .next t ∧ t.cur = s.cur.retire s.hand.words ∧ t.here.slice.windows = [w] ∧
      w.va = va ∧ w.len = len ∧ w.stash = st) ∧
  (∀ (b wc : Nat) (w : Window) (s : State), s.ready [b] → s.waitCount s.hand.at_ wc = 0 → s.here.slice.windows = [w] →
    w.va = (s.cur.readG b).toNat → (∀ x ∈ w.lines, x.dirty = false) → s.here.slice.blocks = [] → s.here.slice.wbOut = [] →
    ∃ t, exec (.sunmap b wc) s = .next t ∧ t.cur = s.cur.retire s.hand.words ∧ t.here.slice.windows = [] ∧ SameStorage s t) ∧
  -- KMSG to a station of the cube, and the six messages where they arrive
  (∀ (b c : Nat) (pl : Place) (bs : List Byte) (s : State), s.cur.sup = true → s.ready [b, c] →
    let t := (s.cur.readG b).toNat
    let a := (s.cur.readG c).toNat
    let l := s.hand.at_
    bitsOf t 63 44 = 0 → bitsOf t 31 6 = 0 → bitsOf t 43 32 = s.cube → a % 64 = 0 → a < 2 ^ 56 → s.reach ⟨l.stn, true, true⟩ a = .ok pl →
    readBytes (fun x => s.wordAtStn s.cur.flow.rbuf l.stn { pl with canon := pl.canon + x - a } x) a a 64 = .ok bs →
    ∃ u m, exec (.kmsg b c) s = .next u ∧ u.net = s.net ++ [kmsgEvent m] ∧ m.stn = bitsOf t 5 0 ∧ m.sstn = l.stn ∧
      m.dws = (dwsOf 8 bs).map (BitVec.ofNat 64) ∧ u.cur.pc = s.nextOf) ∧
  (∀ (m : KMsg) (s : State), (s.stn m.stn).kernel.pending.length < 256 → m.src = .cube →
    let k := (s.stn m.stn).kernel
    let dw := fun i => (m.dws.getD i 0).toNat
    let taken := fun (i : Instr) (op : State → Prop) => ∃ t, exec i s = .next t ∧ op t ∧ (t.stn m.stn).kernel.next = (k.next + 1) % 256
    (s.hand.msg = .soft m → taken .soft (fun t => (t.stn m.stn).sched = (s.stn m.stn).sched)) ∧
    (s.hand.msg = .kernelMessageReserved m → taken .kernelMessageReserved (fun t => (t.stn m.stn).sched = (s.stn m.stn).sched)) ∧
    (s.hand.msg = .preempt m → taken .preempt (fun t => (t.stn m.stn).sched.preempted = true)) ∧
    (s.hand.msg = .resume m → taken .resume (fun t => (t.stn m.stn).sched.preempted = false)) ∧
    (s.hand.msg = .config m → taken .config (fun t => (t.stn m.stn).sched.spill = dw 2 ∧ (t.stn m.stn).sched.savepool = dw 7)) ∧
    (∀ r, s.hand.msg = .move m → bitsOf (dw 1) 63 48 = 1 → s.tenantAt m.stn ≠ none →
      s.tenantHoldsStn (s.tenantAt m.stn) (bitsOf (dw 1) 43 32) (bitsOf (dw 1) 5 0) = true → s.stealable m.stn = some r →
      s.dirtyWords m.stn = [] → (s.stn m.stn).slice.pubs = [] → (s.stn m.stn).slice.wbOut = [] → (s.stn m.stn).sched.spilled = [] →
      (s.stn m.stn).sched.inbox = [] → (s.stn m.stn).sched.spilledMsgs = [] →
      taken .move (fun t => (∀ x ∈ (t.stn m.stn).sched.ready, x.tid ≠ r.tid) ∧
        .publicationComplete ⟨s.cube, m.stn, 0, .record (bitsOf (dw 1) 43 32) (bitsOf (dw 1) 5 0) r⟩ (s.stn m.stn).slice.sig ∈ t.net))) ∧
  -- traps that arrive
  (∀ (l : Loc) (a : Word) (m : Nat) (s : State),
    let c := s.ctx l
    let trapped := fun (i : Instr) (l : Loc) (cause : Nat) => ∃ t, exec i s = .next t ∧ (t.ctx l).csr.tcause = cause ∧ (t.ctx l).sup = true ∧
      (t.ctx l).pc = (s.stn l.stn).kernel.tvec
    (s.hand.msg = .budgetTrap l → c.sup = false → c.flow.bpend = true → trapped .budgetTrap l causeBUDGET) ∧
    (s.hand.msg = .poisonReport l a.toNat → c.sup = false → c.flow.ppend = some a → trapped .poisonReport l causePOISON) ∧
    (s.hand.msg = .preemptRaised l.stn → (s.stn l.stn).kernel.raise = some m → (s.stn l.stn).sched.preempted = true →
      s.anyTask l.stn = false → (s.stn l.stn).sched.ready = [] → (s.ctx ⟨l.stn, 0, 0⟩).busy = false →
      trapped .preemptRaised ⟨l.stn, 0, 0⟩ causePREEMPT)) ∧
  -- stealing and balancing
  (∀ (n v : Nat) (r : RecEntry) (s : State), let t := s.stn n
    (s.hand.msg = .stealRound n → s.idle n = true → t.steal.waiting = false → t.steal.until_ ≤ s.datum →
      (s.neighbours n t.steal.first)[t.steal.asked]? = some v →
      ∃ u, exec .stealRound s = .next u ∧ u.net = s.net ++ [.stealRequest v n] ∧ (u.stn n).steal.waiting = true) ∧
    (s.hand.msg = .stealRequest n v → t.sched.preempted = false → t.sched.resuming = false → t.steal.on = true →
      (2 ≤ t.sched.ready.length + t.sched.spilled.length ∨ s.freeCtx n = none) → s.ptagAt n = s.ptagAt v → s.stealable n = some r →
      s.dirtyWords n = [] → t.slice.pubs = [] → t.slice.wbOut = [] → t.sched.spilled = [] → t.sched.inbox = [] → t.sched.spilledMsgs = [] →
      ∃ u, exec .stealRequest s = .next u ∧
        u.net = s.net ++ [.publicationComplete ⟨s.cube, n, 0, .record s.cube v { r with granted := true }⟩ t.slice.sig]) ∧
    (s.hand.msg = .stealRefusal n → ∃ u, exec .stealRefusal s = .next u ∧ (u.stn n).steal.waiting = false) ∧
    (s.hand.msg = .stealBackoffExpiry n → ∃ u, exec .stealBackoffExpiry s = .next u ∧ (u.stn n).steal.until_ = 0) ∧
    (s.hand.msg = .loadBalancing n → ∃ u, exec .loadBalancing s = .next u ∧ (s.datum + 10000, .loadBalancing n) ∈ u.timers)) ∧
  -- timed coherence
  (∀ (chunk : Nat) (pl q : Place) (w : WriteReq) (since : Nat) (s : State), s.hand.msg = .heldWriteRelease chunk → s.homedAt (chunk * 64) pl →
    (s.stn pl.stn).home.held = [(chunk, .write w)] → (s.stn pl.stn).home.since = [(chunk, since)] →
    chunksIn w.fa w.data.length = [chunk] → s.copyingAt (chunk * 64) = false → s.leased pl.stn (chunk * 64) = false → s.homedAt w.fa q →
    q.stn = pl.stn → q.stash = true → w.counter ≤ 2 → w.order ≠ 2 → w.poison = [] → 1 ≤ w.data.length → w.fa % 16 + w.data.length ≤ 16 →
    (s.homeWord q w.fa).2 = false →
    ∃ t, exec .heldWriteRelease s = .next t ∧ (t.stn pl.stn).home.held = [] ∧
      ∀ b, t.byte b = if q.canon ≤ b ∧ b < q.canon + w.data.length then w.data.getD (b - q.canon) 0 else s.byte b) ∧
  (∀ (stn chunk : Nat) (s : State), (s.hand.msg = .leaseExpiry stn chunk → ∃ t, exec .leaseExpiry s = .next t ∧
      ∀ b ∈ (t.stn stn).slice.blocks, b.home = false → b.region = chunk / 32 → ∀ w ∈ b.lines, w.dirty = false → w.ix / 4 = chunk % 32 →
        s.datum ≤ w.expiry) ∧
    (s.hand.msg = .sigrcvExpiry stn → ∃ t, exec .sigrcvExpiry s = .next t ∧
      ∀ e, e ∈ (t.stn stn).slice.sigrcv ↔ e ∈ (s.stn stn).slice.sigrcv ∧ s.datum ≤ e.1)) ∧
  (∀ (fa : Nat) (d : BlockWord) (poison : Bool) (s : State), s.hand.msg = .guardUpdate fa d false poison → bitsOf fa 54 43 = s.cube →
    ∃ t, exec .guardUpdate s = .next t ∧ t.rawWord fa = (d, poison))

/-! ## Ordering instructions -/

/-- R105, R146, R159, R162: NOP has no effect. FENCE and CWAIT wait, unperformed, and then complete without another effect: FENCE
until no access is in flight, no vector instruction pends and the wait counters C1 and C2 are zero, CWAIT until the counters of its
mask are. R142: FENCE.ALIAS first waits as FENCE does and sends the station's dirty words home; then it waits for the station's
stores, upon which every home of this cube has written its blocks to DRAM and holds none, and every other cube of the tenant has
been asked for the same; it completes once they have answered, the leases that stood have passed and the guards are up to date. -/
def Obligations.FencesAndWaits : Prop :=
  (∀ (mask wc : Nat) (s : State),
    let l := s.hand.at_
    let quiet := s.vecPending l = false ∧ s.cur.flow.flights = [] ∧ s.cur.flow.c1 = 0 ∧ s.cur.flow.c2 = 0
    let met := (bitAt mask 0 = true → s.cur.flow.c1 = 0) ∧ (bitAt mask 1 = true → s.cur.flow.c2 = 0) ∧
      (bitAt mask 2 = true → s.c3of s.cur.tid = 0)
    exec .nop s = .next s.retire ∧
    (quiet → exec .fence s = .next s.retire) ∧ (¬ quiet → exec .fence s = .next s) ∧
    (7 < mask → exec (.cwait mask wc) s = .next (s.trap causeILL (BitVec.ofNat 64 s.baseAddr))) ∧
    (mask ≤ 7 → s.waitCount l wc = 0 → (met → exec (.cwait mask wc) s = .next s.retire) ∧ (¬ met → exec (.cwait mask wc) s = .next s)) ∧
    (mask ≤ 7 → s.waitCount l wc ≠ 0 → exec (.cwait mask wc) s = .next s)) ∧
  (∀ (s : State),
    let l := s.hand.at_
    let f := s.cur.flow.fence
    let same := fun (t : State) => (∀ r, t.cur.readG r = s.cur.readG r) ∧ SameContextsBut l s t
    (f = none → s.vecPending l = false → s.cur.flow.flights = [] → s.cur.flow.c1 = 0 → s.cur.flow.c2 = 0 →
      ∃ t, exec .fenceAlias s = .next t ∧ same t ∧ SameStorage s t ∧ t.cur.pc = s.cur.pc ∧ t.cur.flow.fence = some 0 ∧
        (∀ b w, t.holdsWord b w → b.home = false → w.dirty = false) ∧ (∀ v x, t.holdsWindow v x → x.dirty = false) ∧
        (∀ i ∈ t.cur.flow.fenceOn, i ∈ t.storesOut l.stn)) ∧
    (f = some 0 → (∃ i ∈ s.cur.flow.fenceOn, i ∈ s.storesOut l.stn) → exec .fenceAlias s = .next s) ∧
    (f = some 0 → (∀ i ∈ s.cur.flow.fenceOn, i ∉ s.storesOut l.stn) →
      ∃ t, exec .fenceAlias s = .next t ∧ same t ∧ t.cur.pc = s.cur.pc ∧
        (∃ d, t.cur.flow.fence = some d ∧ s.lastLease < d) ∧
        (∀ n, ∀ b ∈ (t.stn n).slice.blocks, b.home = false) ∧
        t.cur.flow.fenceOn.length = (s.domainCubes l.stn).length ∧
        (∀ c ∈ s.domainCubes l.stn, ∃ i ∈ t.cur.flow.fenceOn,
          Msg.publicationDemand ⟨c, 0, i, .emptyHomes s.cube l.stn i⟩ ∈ t.net)) ∧
    (∀ d, 0 < d → f = some d →
      (d ≤ s.datum → s.cur.flow.fenceOn = [] → s.guardsOut = false →
        ∃ t, exec .fenceAlias s = .next t ∧ same t ∧ SameStorage s t ∧ t.cur.pc = s.nextOf ∧ t.cur.flow.fence = none) ∧
      (s.datum < d ∨ s.cur.flow.fenceOn ≠ [] ∨ s.guardsOut = true → exec .fenceAlias s = .next s)))

/-- R131, R133, R160, R67: FLUSHR and INVR. A length of zero completes at once; a range that leaves the space, or enters what the
task may not reach, traps PROT, the FA window in user mode PRIV. Over a range in any window, the dirty copies and window words are
first sent home and waited for. Then the operation completes: home words that were dirty stand in DRAM; FLUSHR leaves every word
clean and drops replicas alone, INVR drops every word of the range, and neither touches a word outside it. R125, R161: SMAP makes a
window over a stash range, which the station then keeps: the slice's copies of its chunks move into the window, their data into the
stash. SUNMAP sends the window's dirty words home, and removes it once they have arrived. -/
def Obligations.RangesAndWindows : Prop :=
  (∀ (o : RangeOps) (drop : Bool) (s : State), s.ready (o.b :: xRegs o.c) →
    let i : Instr := if drop then .invr o else .flushr o
    let n := s.hand.at_.stn
    let start := (s.cur.readG o.b).toNat
    let len := (s.cur.xval o.c).toNat
    let limit := match o.win with | .va => 2 ^ 48 | .lin => 2 ^ 38 | .fa => 2 ^ 56
    let may := fun (fa : Nat) => s.reach (s.asker o.win) fa
    (o.win = .fa → s.cur.sup = false → exec i s = .next (s.trap causePRIV 0)) ∧
    ((o.win = .fa → s.cur.sup = true) → s.waitCount s.hand.at_ o.wc = 0 →
      (len = 0 → exec i s = .next s.retire) ∧
      (len ≠ 0 → limit < start + len → exec i s = .next (s.trap causePROT (BitVec.ofNat 64 (max start limit)))) ∧
      (∀ cause d, len ≠ 0 → start + len ≤ limit → o.win = .va →
        s.rangeMap s.cur.flow.rbuf n s.curTag (len / 65536 + 2) start len = .bad cause d →
        exec i s = .next (s.trap cause (BitVec.ofNat 64 d))) ∧
      (∀ rs, len ≠ 0 → start + len ≤ limit → s.rangesAre o.win start len rs →
        (∀ pre r post c, rs = pre ++ r :: post → (∀ q ∈ pre, ∃ pl, may q.2.1 = .ok pl) → may r.2.1 = .error c →
          exec i s = .next (s.trap c (BitVec.ofNat 64 r.1))) ∧
        ((∀ r ∈ rs, ∃ pl, may r.2.1 = .ok pl) → s.cur.flow.flights.any (fun f => f.acquire) = false →
          let hit := fun (fa : Nat) => inRanges (rs.map (fun r => r.2)) fa
          let copies := ∃ b w, s.holdsWord b w ∧ b.home = false ∧ w.dirty = true ∧ hit (wordFa b.region w.ix) = true
          let wins := ∃ v x, s.holdsWindow v x ∧ x.dirty = true ∧ hit (v.faOf x.ix) = true
          (copies ∨ wins →
            ∃ t, exec i s = .next t ∧ t.cur = s.cur ∧ SameContexts s t ∧
              (∀ b w, s.holdsWord b w → b.home = false → w.dirty = true → hit (wordFa b.region w.ix) = true →
                ∃ id, Msg.writeBack ⟨wordFa b.region w.ix, w.data, w.poison, n, id, b.ptag, .cube⟩ ∈ t.net ∧
                  (id, bwOf (wordFa b.region w.ix)) ∈ t.here.slice.wbOut) ∧
              (∀ v x, s.holdsWindow v x → x.dirty = true → hit (v.faOf x.ix) = true →
                ∃ m, Msg.writeBack m ∈ t.net ∧ m.fa = v.faOf x.ix ∧ m.ptag = v.ptag ∧
                  ((∀ b w, s.holdsWord b w → b.home = true → w.dirty = false) →
                    (m.data, m.poison) = s.rawWord (s.winCanon n v x.ix))) ∧
              (∀ b w, t.holdsWord b w → hit (wordFa b.region w.ix) = true → w.dirty = false) ∧
              (∀ v x, t.holdsWindow v x → hit (v.faOf x.ix) = true → x.dirty = false)) ∧
          (¬ copies → ¬ wins → (∀ e ∈ s.here.slice.wbOut, hit (e.2 * 16) = false) →
            ∃ t, exec i s = .next t ∧ t.cur = s.cur.retire s.hand.words ∧ SameContextsBut s.hand.at_ s t ∧
              ((∀ b w, s.holdsWord b w → b.home = true → w.dirty = false) → SameStorage s t) ∧
              (∀ b w pl, s.holdsWord b w → b.home = true → w.dirty = true → hit (wordFa b.region w.ix) = true →
                s.place (wordFa b.region w.ix) = .ok pl → guardPlace s.tables (wordFa b.region w.ix) = none →
                (∀ c y, s.holdsWord c y → c.home = true → y.dirty = true → c = b ∧ y = w) →
                t.rawWord pl.canon = (w.data, w.poison) ∧ ∀ a, a / 16 ≠ pl.canon / 16 → t.byte a = s.byte a) ∧
              (∀ b w, t.holdsWord b w → hit (wordFa b.region w.ix) = false →
                ∃ c, s.holdsWord c w ∧ c.home = b.home ∧ c.region = b.region ∧ c.ptag = b.ptag) ∧
              (drop = true → (∀ b w, t.holdsWord b w → hit (wordFa b.region w.ix) = false) ∧
                (∀ v x, t.holdsWindow v x → hit (v.faOf x.ix) = false)) ∧
              (drop = false →
                (∀ b w, t.holdsWord b w → hit (wordFa b.region w.ix) = true → w.dirty = false ∧ (b.home = false → w.replica = false)) ∧
                (∀ v x, s.holdsWindow v x → ∃ u, t.holdsWindow u { x with dirty := x.dirty && !hit (v.faOf x.ix) } ∧ u.va = v.va) ∧
                ((∀ b ∈ s.here.slice.blocks, (runsOf b.lines).length ≤ 1) →
                  (∀ b w, s.holdsWord b w → b.home = false → hit (wordFa b.region w.ix) = true → w.replica = false) →
                  ∀ b w, s.holdsWord b w → ∃ c, c.home = b.home ∧ c.region = b.region ∧ c.ptag = b.ptag ∧
                    t.holdsWord c { w with dirty := w.dirty && !hit (wordFa b.region w.ix) }))))))) ∧
  (∀ (a b c wc : Nat) (s : State), s.ready [a, b, c] → s.waitCount s.hand.at_ wc = 0 →
    let n := s.hand.at_.stn
    let st := (s.cur.readG a).toNat
    let va := (s.cur.readG b).toNat
    let len := (s.cur.readG c).toNat
    let ws := s.here.slice.windows
    let fits := st + len ≤ readyStore ∧ ws.length < 32 ∧ va + len ≤ 2 ^ 48 ∧
      ∀ w ∈ ws, overlap st len w.stash w.len = false ∧ overlap va len w.va w.len = false
    let homesClean := ∀ x y, s.holdsWord x y → x.home = true → y.dirty = false
    (st % 64 ≠ 0 → exec (.smap a b c wc) s = .next (s.trap causeALIGN (BitVec.ofNat 64 st))) ∧
    (st % 64 = 0 → va % 64 ≠ 0 → exec (.smap a b c wc) s = .next (s.trap causeALIGN (BitVec.ofNat 64 va))) ∧
    (st % 64 = 0 → va % 64 = 0 → (len % 64 ≠ 0 ∨ len = 0) → exec (.smap a b c wc) s = .next (s.trap causeALIGN (BitVec.ofNat 64 len))) ∧
    (st % 64 = 0 → va % 64 = 0 → len % 64 = 0 → len ≠ 0 →
      (¬ fits → exec (.smap a b c wc) s = .next (s.trap causePROT (BitVec.ofNat 64 va))) ∧
      (fits → ∀ rs, s.rangeMap s.cur.flow.rbuf n s.curTag (len / 65536 + 2) va len = .ok rs →
        ∃ t w, exec (.smap a b c wc) s = .next t ∧ t.cur = s.cur.retire s.hand.words ∧ SameContextsBut s.hand.at_ s t ∧
          t.here.slice.windows.length = ws.length + 1 ∧ t.here.slice.windows.getLast? = some w ∧
          w.va = va ∧ w.len = len ∧ w.stash = st ∧ w.ptag = s.ptagAt n ∧
          (∀ v ∈ ws, ∃ u ∈ t.here.slice.windows, u.va = v.va ∧ u.len = v.len ∧ u.stash = v.stash ∧ u.fas = v.fas) ∧
          -- no copy of its chunks stays in the slice
          (∀ x y, t.holdsWord x y → x.home = false → ∀ k, (k, chunkOf (wordFa x.region y.ix)) ∉ w.fas) ∧
          (homesClean →
            (∀ d, (d < stashFa s.cube n st ∨ stashFa s.cube n (st + len) ≤ d) → t.byte d = s.byte d) ∧
            ((∀ x y, s.holdsWord x y → x.home = false → ∀ k, (k, chunkOf (wordFa x.region y.ix)) ∉ w.fas) → SameStorage s t)))) ∧
    (∀ w, ws.find? (fun x => x.va == va) = some w →
      let mine := fun (fa : Nat) => ∃ k, (k, chunkOf fa) ∈ w.fas
      let dirty := (∃ v x, s.holdsWindow v x ∧ x.dirty = true ∧ mine (v.faOf x.ix)) ∨
        (∃ x y, s.holdsWord x y ∧ x.home = false ∧ y.dirty = true ∧ mine (wordFa x.region y.ix))
      (dirty → ∃ t, exec (.sunmap b wc) s = .next t ∧ t.cur = s.cur ∧ SameContexts s t ∧ SameStorage s t ∧
        (∀ v x, s.holdsWindow v x → x.dirty = true → mine (v.faOf x.ix) →
          ∃ m, Msg.writeBack m ∈ t.net ∧ m.fa = v.faOf x.ix ∧ m.ptag = v.ptag ∧ (m.data, m.poison) = s.rawWord (s.winCanon n v x.ix))) ∧
      (¬ dirty → (∀ e ∈ s.here.slice.wbOut, ¬ mine (e.2 * 16)) →
        ∃ t, exec (.sunmap b wc) s = .next t ∧ t.cur = s.cur.retire s.hand.words ∧ SameContextsBut s.hand.at_ s t ∧ SameStorage s t ∧
          (∀ x, x ∈ t.here.slice.windows ↔ x ∈ ws ∧ x.va ≠ va) ∧ t.here.slice.blocks = s.here.slice.blocks)) ∧
    (ws.find? (fun x => x.va == va) = none → exec (.sunmap b wc) s = .next s.retire))

/-! ## Scalar memory -/

/-- R123, R125, R127, R134, R153: a weak load within a block word that the station has at hand, or has fetched for the instruction,
writes the addressed bytes, zero or sign extended, least significant byte first, to its register or pair, and completes; storage and
messages change only where a home block is filled. R71, R120, R149, R150, R153 to R157: what every scalar access checks first: the
FA window belongs to supervisor mode (PRIV, TADDR 0), and a strong access, an atomic, a full/empty form and a wait are naturally
aligned (ALIGN, TADDR the address). -/
def Obligations.LoadsAndAccessChecks : Prop :=
  (∀ (o : LdOps) (p : Exec.Part) (w : BlockWord) (s : State), o.q.order = .plain → s.mayAccess (o.b :: xRegs o.c) o.q.win o.q.wc →
    s.inTurn p → p.fa % 16 = p.ea % 16 →
    let fetched := s.cur.flow.rbuf.find? (fun e => e.1 == bwOf p.fa)
    fetched = some (bwOf p.fa, w, false) ∨ (fetched = none ∧ s.look s.hand.at_.stn p.pl p.fa = .have_ w false) →
    let at_ := fun (n : Nat) => Exec.access o.q.win .r false (s.cur.ea o.b o.c n).toNat n s = .ok [p] s
    let bytes := fun (k n : Nat) => natOf (((bytesOf 16 w.toNat).drop (p.fa % 16 + k)).take n)
    let kept := fetched.isSome = true ∨ p.pl.stash = true ∨ o.q.hint = .nt ∨ s.isLocal s.hand.at_.stn p.pl = false ∨
      (s.windowLine s.hand.at_.stn p.fa).isSome = true ∨ (s.here.slice.find p.pl.ptag (regionOf p.fa) (ixOf p.fa)).isSome = true
    let gives := fun (i : Instr) (c : Ctx) =>
      ∃ t, exec i s = .next t ∧ t.cur = c.retire s.hand.words ∧ SameContextsBut s.hand.at_ s t ∧ (kept → t.net = s.net ∧ SameStorage s t)
    let unsigned := fun (i : Instr) (n : Nat) => at_ n → gives i (s.cur.writeG o.a (BitVec.ofNat 64 (bytes 0 n)))
    let signed_ := fun (i : Instr) (n : Nat) => at_ n → gives i (s.cur.writeG o.a ((BitVec.ofNat (8 * n) (bytes 0 n)).signExtend 64))
    unsigned (.ldN8 o) 1 ∧ unsigned (.ldN16 o) 2 ∧ unsigned (.ldN32 o) 4 ∧ unsigned (.ld o) 8 ∧
    signed_ (.ldI8 o) 1 ∧ signed_ (.ldI16 o) 2 ∧ signed_ (.ldI32 o) 4 ∧
    (o.a % 2 = 0 → at_ 16 →
      gives (.ldp o) ((s.cur.writeG o.a (BitVec.ofNat 64 (bytes 0 8))).writeG (o.a + 1) (BitVec.ofNat 64 (bytes 8 8))))) ∧
  (∀ (o : LdOps) (x : AtomOps) (w : WaitOps) (s : State),
    let loads : List (Instr × Nat) := [(.ldN8 o, 1), (.ldN16 o, 2), (.ldN32 o, 4), (.ld o, 8), (.ldI8 o, 1), (.ldI16 o, 2), (.ldI32 o, 4),
      (.ldp o, 16), (.stN8 o, 1), (.stN16 o, 2), (.stN32 o, 4), (.st o, 8), (.stp o, 16)]
    let locks : List Instr := [.ldw o, .ldwe o, .stw o, .stf o, .feclr o]
    let atoms : List Instr := [.aadd x, .aand x, .aor x, .axor x, .aminI x, .aminN x, .amaxI x, .amaxN x, .aswap x, .acas x, .aaddt x,
      .afaddF32 x, .afmaxnF32 x]
    let waits : List Instr := [.waitEq w, .waitNe w, .waitGe w, .waitLt w]
    let misaligned := fun (i : Instr) (ea : Word) (n : Nat) =>
      ea.toNat % n ≠ 0 → exec i s = .next (s.trap causeALIGN ea)
    let priv := fun (i : Instr) => exec i s = .next (s.trap causePRIV 0)
    let regs := o.a :: (o.a + 1) :: o.b :: xRegs o.c
    let xregs := [x.a, x.b, x.c, x.c + 1]
    (s.ready regs → o.q.win = .fa → s.cur.sup = false → (∀ e ∈ loads, priv e.1) ∧ ∀ i ∈ locks, priv i) ∧
    (s.ready xregs → x.q.win = .fa → s.cur.sup = false → ∀ i ∈ atoms, priv i) ∧
    (s.ready [w.b, w.c] → w.q.win = .fa → s.cur.sup = false → ∀ i ∈ waits, priv i) ∧
    (s.mayAccess regs o.q.win o.q.wc →
      (o.q.order ≠ .plain → ∀ e ∈ loads, misaligned e.1 (s.cur.ea o.b o.c e.2) e.2) ∧
      ∀ i ∈ locks, misaligned i (s.cur.ea o.b o.c 8) 8) ∧
    (s.mayAccess xregs x.q.win x.q.wc → ∀ i ∈ atoms, misaligned i (s.cur.readG x.b) (if x.w32 then 4 else 8)) ∧
    (s.mayAccess [w.b, w.c] w.q.win w.q.wc → ∀ i ∈ waits, misaligned i (s.cur.readG w.b) 8))

/-- R88, R123, R127, R145, R150, R299: a load whose bytes are not at hand, and every strong one, asks their home by a read request that
covers them and completes: its register is owed until the reply, which writes it. -/
def Obligations.LoadsInFlight : Prop :=
  (∀ (o : LdOps) (p : Exec.Part) (s : State), s.mayAccess (o.b :: xRegs o.c) o.q.win o.q.wc → s.inTurn p →
    p.fa % 16 = p.ea % 16 → s.counts.id ≠ 0 → (∀ e ∈ s.cur.flow.rbuf, e.1 ≠ bwOf p.fa) →
    let l := s.hand.at_
    let strong := decide (o.q.order ≠ .plain)
    let asks := fun (i : Instr) (n : Nat) =>
      Exec.access o.q.win .r strong (s.cur.ea o.b o.c n).toNat n s = .ok [p] s →
      (strong = false → s.look l.stn p.pl p.fa = .fetch) → (strong = true → s.cleanAt p.fa) →
      ∃ t f r, exec i s = .next t ∧ f ∈ t.cur.flow.flights ∧ f.pieces = [⟨s.counts.id, p.fa, p.ea, n, [], false⟩] ∧
        f.strong = strong ∧ f.acquire = (strong && Order.isAcq o.q.order) ∧ (o.a ≠ 0 → t.cur.owed o.a = true) ∧
        .readRequest r ∈ t.net ∧ r.id = s.counts.id ∧ r.src = .task l s.cur.tid ∧ r.stn = l.stn ∧
        r.fa ≤ p.fa ∧ p.fa + n ≤ r.fa + r.bytes ∧
        r.order = (if Order.isAcq o.q.order then 2 else if strong then 1 else 0) ∧
        t.cur.files = s.cur.files ∧ t.cur.pc = s.nextOf ∧ SameStorage s t ∧ SameContextsBut l s t
    asks (.ldN8 o) 1 ∧ asks (.ldN16 o) 2 ∧ asks (.ldN32 o) 4 ∧ asks (.ld o) 8 ∧ asks (.ldI8 o) 1 ∧ asks (.ldI16 o) 2 ∧
    asks (.ldI32 o) 4 ∧ asks (.ldp o) 16) ∧
  (∀ (l : Loc) (tid k m : Nat) (sg : Bool) (r : ReadRep) (f : Flight) (p : Piece) (s : State),
    s.hand.msg = .readReply r → r.req.src = .task l tid → (s.ctx l).tid = tid → r.req.dest = .reg k m sg →
    (s.ctx l).flow.flights.find? (fun g => g.pieces.any (fun q => q.id == r.req.id)) = some f →
    f.pieces = [p] → p.id = r.req.id → f.kind = .load (.reg k m sg) → f.owes = [k] → k ≠ 0 →
    let bs := (r.data.drop (p.fa - r.req.fa)).take p.len
    let v : Word := if sg then BitVec.ofInt 64 (BitVec.ofNat (8 * bs.length) (natOf bs)).toInt else BitVec.ofNat 64 (natOf bs)
    (r.poison.contains (bwOf p.fa) = false →
      ∃ t, exec .readReply s = .next t ∧ (t.ctx l).files = ((s.ctx l).writePhys k v).files ∧
        (t.ctx l).flow.flights = (s.ctx l).flow.flights.filter (fun g => !g.pieces.any (fun q => q.id == r.req.id)) ∧
        (t.ctx l).pc = (s.ctx l).pc ∧ (t.ctx l).flow.ppend = (s.ctx l).flow.ppend ∧ SameContextsBut l s t) ∧
    (r.poison.contains (bwOf p.fa) = true → (s.ctx l).flow.ppend = none →
      ∃ t u, exec .readReply s = .next t ∧ (t.ctx l).files = ((s.ctx l).writePhys k u).files ∧
        (t.ctx l).flow.ppend = some (BitVec.ofNat 64 p.va)))

/-- R128, R135, R144, R152, R153: a weak store to the home of its own station is performed there at once: the block word holds its
bytes in their place and its other bytes unchanged, is no longer poisoned, and nothing else of a stash changes; `.nt`, where no home
block holds the word, allocates nothing. A poisoned block word that it does not cover traps POISON, unperformed; behind a held
operation or a lease the instruction sends its write and stalls until it is performed. -/
def Obligations.StoresAtHome : Prop :=
  ∀ (o : LdOps) (p : Exec.Part) (s : State), o.q.order = .plain → s.mayAccess (o.a :: (o.a + 1) :: o.b :: xRegs o.c) o.q.win o.q.wc →
    s.inTurn p → p.fa % 16 = p.ea % 16 → s.isLocal s.hand.at_.stn p.pl = true →
    (p.pl.stash = true ∨ s.windowLine s.hand.at_.stn p.fa = none) →
    s.here.slice.wbOut.any (fun e => e.2 == bwOf p.fa) = false → s.unbuilt p.fa p.pl.canon = false →
    (∀ x, s.here.slice.find p.pl.ptag (regionOf p.fa) (ixOf p.fa) ≠ some (false, x)) →
    let a := (s.cur.readG o.a).toNat
    let old := s.homeWord p.pl p.fa
    let l := s.hand.at_
    let direct := p.pl.stash = false ∧ o.q.hint = .nt ∧ s.here.slice.find p.pl.ptag (regionOf p.fa) (ixOf p.fa) = none
    let stores := fun (i : Instr) (n : Nat) (bs : List Byte) =>
      Exec.access o.q.win .w false (s.cur.ea o.b o.c n).toNat n s = .ok [p] s →
      (old.2 = true → n < 16 → exec i s = .next (s.trap causePOISON (BitVec.ofNat 64 p.ea))) ∧
      (old.2 = false ∨ n = 16 → s.blockedAt l.stn p.fa n = false → ¬ direct →
        ∃ t, exec i s = .next t ∧ t.homeWord p.pl p.fa = (mergeWord old.1 (p.fa % 16) bs, false) ∧
          t.cur = s.cur.retire s.hand.words ∧ SameContextsBut l s t ∧ t.full = s.full ∧
          (p.pl.stash = true → ∀ b, t.byte b =
            if p.pl.canon ≤ b ∧ b < p.pl.canon + n then bs.getD (b - p.pl.canon) 0 else s.byte b)) ∧
      (old.2 = false ∨ n = 16 → s.blockedAt l.stn p.fa n = false → direct → s.noHomeBlock p.pl → guardPlace s.tables p.fa = none →
        p.pl.canon % 16 = p.fa % 16 →
        ∃ t, exec i s = .next t ∧ t.homeWord p.pl p.fa = (mergeWord old.1 (p.fa % 16) bs, false) ∧
          (∀ m, (t.stn m).slice = (s.stn m).slice) ∧ t.cur = s.cur.retire s.hand.words ∧ SameContextsBut l s t ∧ t.full = s.full ∧
          ∀ b, t.byte b = if p.pl.canon ≤ b ∧ b < p.pl.canon + n then bs.getD (b - p.pl.canon) 0 else s.byte b) ∧
      (old.2 = false ∨ n = 16 → s.blockedAt l.stn p.fa n = true →
        ∃ t w, exec i s = .next t ∧ t.net = s.net ++ [.write w] ∧ w.fa = p.fa ∧ w.va = p.ea ∧ w.data = bs ∧ w.order = 0 ∧
          w.src = .task l s.cur.tid ∧ w.counter = 0 ∧ t.cur.flow.waitOn = some w.id ∧ t.cur.flow.waitWords = s.hand.words ∧
          t.cur.pc = s.cur.pc ∧ t.cur.files = s.cur.files ∧ SameContextsBut l s t ∧ SameStorage s t)
    stores (.stN8 o) 1 (bytesOf 1 a) ∧ stores (.stN16 o) 2 (bytesOf 2 a) ∧ stores (.stN32 o) 4 (bytesOf 4 a) ∧
    stores (.st o) 8 (bytesOf 8 a) ∧ stores (.stp o) 16 (bytesOf 8 a ++ bytesOf 8 (s.cur.readG (o.a + 1)).toNat)

/-- R123, R125, R130, R136: a weak store whose home is another station goes into the copy that the station holds, which becomes
dirty and is accumulated in SIGACC; one to a chunk that a stash window maps, into the window's stash bytes; where no copy is made,
it is posted: a write request under wait counter C1, or C2 for another cube. R123, R135, R137, R145, R153, R299: a strong store
leaves as a write request with its order and scope, a release once everything earlier has been performed, under a new release
sequence number where its scope is the cube or wider. One to another station is counted and completes; one to a home of its own
station stalls until it is performed. -/
def Obligations.StoresSent : Prop :=
  (∀ (o : LdOps) (p : Exec.Part) (s : State), o.q.order = .plain → s.mayAccess (o.a :: (o.a + 1) :: o.b :: xRegs o.c) o.q.win o.q.wc →
    s.inTurn p → s.here.slice.wbOut.any (fun e => e.2 == bwOf p.fa) = false →
    let l := s.hand.at_
    let a := (s.cur.readG o.a).toNat
    let copied := p.pl.stash = false ∧ o.q.hint ≠ .nt ∧ s.leaseFor p.pl p.fa o.q.hint ≠ 0
    let stores := fun (i : Instr) (n : Nat) (bs : List Byte) =>
      Exec.access o.q.win .w false (s.cur.ea o.b o.c n).toNat n s = .ok [p] s →
      (copied → s.isLocal l.stn p.pl = false → s.noReplica p.fa → s.here.slice.windowOf (chunkOf p.fa) = none →
        ∀ h x, s.here.slice.find p.pl.ptag (regionOf p.fa) (ixOf p.fa) = some (h, x) → x.fresh s.datum = true →
        (x.poison = false ∨ n = 16) →
        ∃ t y, exec i s = .next t ∧ t.here.slice.find p.pl.ptag (regionOf p.fa) (ixOf p.fa) = some (h, y) ∧
          y.data = mergeWord x.data (p.fa % 16) bs ∧ y.dirty = true ∧ y.poison = false ∧
          t.here.slice.sigacc = s.here.slice.sigacc ||| sigOf (chunkOf p.fa) ∧
          t.cur = s.cur.retire s.hand.words ∧ SameContextsBut l s t ∧ SameStorage s t ∧ t.net = s.net) ∧
      (copied → ∀ v c x, s.here.slice.windowOf (chunkOf p.fa) = some (v, c) →
        v.lines.find? (fun y => y.ix == c * 4 + p.fa / 16 % 4) = some x → (x.dirty = true ∨ s.datum ≤ x.expiry) →
        let k := s.winCanon l.stn v x.ix / 16 * 16
        ((s.rawWord k).2 = false ∨ n = 16) →
        ∃ t, exec i s = .next t ∧ t.rawWord k = (mergeWord (s.rawWord k).1 (p.fa % 16) bs, false) ∧
          (∀ b, (b < k ∨ k + 16 ≤ b) → t.byte b = s.byte b) ∧
          t.here.slice.sigacc = s.here.slice.sigacc ||| sigOf (chunkOf p.fa) ∧
          t.cur = s.cur.retire s.hand.words ∧ SameContextsBut l s t ∧ t.full = s.full ∧ t.net = s.net) ∧
      (¬ copied → s.isLocal l.stn p.pl = false → s.cleanAt p.fa →
        ∃ t w, exec i s = .next t ∧ t.net = s.net ++ [.write w] ∧ w.fa = p.fa ∧ w.va = p.ea ∧ w.data = bs ∧
          w.order = 0 ∧ w.src = .task l s.cur.tid ∧ w.counter = (if p.pl.cube = s.cube then 1 else 2) ∧
          t.cur.flow.c1 = s.cur.flow.c1 + (if p.pl.cube = s.cube then 1 else 0) ∧
          t.cur.flow.c2 = s.cur.flow.c2 + (if p.pl.cube = s.cube then 0 else 1) ∧
          t.cur.files = s.cur.files ∧ t.cur.pc = s.nextOf ∧ SameContextsBut l s t ∧ SameStorage s t)
    stores (.stN8 o) 1 (bytesOf 1 a) ∧ stores (.stN16 o) 2 (bytesOf 2 a) ∧ stores (.stN32 o) 4 (bytesOf 4 a) ∧
    stores (.st o) 8 (bytesOf 8 a) ∧ stores (.stp o) 16 (bytesOf 8 a ++ bytesOf 8 (s.cur.readG (o.a + 1)).toNat)) ∧
  (∀ (o : LdOps) (p : Exec.Part) (s : State), o.q.order ≠ .plain → s.mayAccess (o.a :: (o.a + 1) :: o.b :: xRegs o.c) o.q.win o.q.wc →
    s.inTurn p → s.cur.flow.flights.any Flight.strongStore = false → s.cleanAt p.fa →
    let l := s.hand.at_
    let rel := decide (o.q.order = .rel ∨ o.q.order = .ar)
    let wide := decide (o.q.scope = .cube ∨ o.q.scope = .dom)
    (rel = true → s.allPerformed) →
    let a := (s.cur.readG o.a).toNat
    let stores := fun (i : Instr) (n : Nat) (bs : List Byte) =>
      Exec.access o.q.win .w true (s.cur.ea o.b o.c n).toNat n s = .ok [p] s →
      ∃ t w, exec i s = .next t ∧ t.net = s.net ++ [.write w] ∧ w.fa = p.fa ∧ w.va = p.ea ∧ w.data = bs ∧
        w.order = (if rel then 2 else 1) ∧ w.scope = (if rel then scopeNum o.q.scope else 0) ∧
        w.src = .task l s.cur.tid ∧ w.counter = s.counterFor l.stn p.pl ∧
        (rel = true → w.relseq = s.here.slice.relseq + 1) ∧
        t.here.slice.relseq = s.here.slice.relseq + (if rel && wide then 1 else 0) ∧
        (s.isLocal l.stn p.pl = false →
          t.cur.flow.flights = s.cur.flow.flights ++
            [⟨.store (s.counterFor l.stn p.pl), [⟨w.id, p.fa, p.ea, n, [], false⟩], true, false, [], [], s.datum⟩] ∧
          t.cur.flow.c1 = s.cur.flow.c1 + (if p.pl.cube = s.cube then 1 else 0) ∧
          t.cur.flow.c2 = s.cur.flow.c2 + (if p.pl.cube = s.cube then 0 else 1) ∧ t.cur.pc = s.nextOf) ∧
        (s.isLocal l.stn p.pl = true → t.cur.flow.waitOn = some w.id ∧ t.cur.flow.waitWords = s.hand.words ∧ t.cur.pc = s.cur.pc) ∧
        t.cur.files = s.cur.files ∧ SameContextsBut l s t ∧ SameStorage s t
    stores (.stN8 o) 1 (bytesOf 1 a) ∧ stores (.stN16 o) 2 (bytesOf 2 a) ∧ stores (.stN32 o) 4 (bytesOf 4 a) ∧
    stores (.st o) 8 (bytesOf 8 a) ∧ stores (.stp o) 16 (bytesOf 8 a ++ bytesOf 8 (s.cur.readG (o.a + 1)).toNat))

/-- R134, R135, R123, R152: a read request and a write request at a home of this cube. The read is answered with the bytes as the home
holds them, their poison and a lease that the home remembers. A write waits while a lease on a chunk of it runs or an operation is
held before it, and otherwise changes its bytes and is acknowledged; the acknowledgement lowers the writer's counter, or completes
the store that waits for it, which traps POISON where its block word was poisoned. -/
def Obligations.HomeReadsAndWrites : Prop :=
  (∀ (r : ReadReq) (pl : Place) (l : Loc) (tid : Nat) (s : State), s.hand.msg = .readRequest r → s.homedAt r.fa pl →
    r.src = .task l tid →
    (r.order = 2 → scopeWide r.scope = true → s.foreignWitnesses pl.stn r.fa r.bytes s.cube r.stn = []) →
    1 ≤ r.bytes → s.built pl r.fa r.bytes → (chunksIn r.fa r.bytes).any (fun c => s.chunkHeld pl.stn (c * 64)) = false →
    let e := s.expiryFor pl r.fa r.lease
    let d := s.homeBytes pl r.fa r.bytes
    ∃ t, exec .readRequest s = .next t ∧ t.net = s.net ++ [.readReply ⟨r, e, d.1, d.2, none⟩] ∧ SameStorage s t ∧ SameContexts s t ∧
      (e ≠ 0 → e ≤ t.leaseMax pl.stn r.fa) ∧ s.leaseMax pl.stn r.fa ≤ t.leaseMax pl.stn r.fa) ∧
  (∀ (w : WriteReq) (pl : Place) (l : Loc) (tid : Nat) (s : State), s.hand.msg = .write w → s.homedAt w.fa pl →
    w.src = .task l tid → w.order ≠ 2 → w.counter ≤ 2 → w.poison = [] →
    (s.blockedAt pl.stn w.fa w.data.length = true →
      ∃ t, exec .write s = .next t ∧ SameStorage s t ∧ SameContexts s t ∧ t.net = s.net ∧
        (t.stn pl.stn).home.held = (s.stn pl.stn).home.held ++ (chunksIn w.fa w.data.length).map (fun c => (c, .write w))) ∧
    (s.blockedAt pl.stn w.fa w.data.length = false → s.built pl w.fa w.data.length → pl.stash = true → 1 ≤ w.data.length →
      w.fa % 16 + w.data.length ≤ 16 → ((s.homeWord pl w.fa).2 = false ∨ w.data.length = 16) →
      ∃ t, exec .write s = .next t ∧ .writeAcknowledgement { w with poison := [] } ∈ t.net ∧ SameContexts s t ∧ t.full = s.full ∧
        ∀ b, t.byte b = if pl.canon ≤ b ∧ b < pl.canon + w.data.length then w.data.getD (b - pl.canon) 0 else s.byte b)) ∧
  (∀ (w : WriteReq) (l : Loc) (s : State), s.hand.msg = .writeAcknowledgement w → w.src = .task l (s.ctx l).tid →
    let c := s.ctx l
    (w.poison = [] → c.flow.waitOn ≠ some w.id → c.flow.flights.find? (fun g => g.pieces.any (fun q => q.id == w.id)) = none →
      ∃ t, exec .writeAcknowledgement s = .next t ∧ SameStorage s t ∧ SameContextsBut l s t ∧ (t.ctx l).files = c.files ∧
        (t.ctx l).flow.c1 = c.flow.c1 - (if w.counter = 1 then 1 else 0) ∧
        (t.ctx l).flow.c2 = c.flow.c2 - (if w.counter = 2 then 1 else 0)) ∧
    (c.flow.waitOn = some w.id →
      ∃ t, exec .writeAcknowledgement s = .next t ∧ SameStorage s t ∧ SameContextsBut l s t ∧ (t.ctx l).flow.waitOn = none ∧
        (w.poison = [] → (t.ctx l).pc = (c.pc + 2 * c.flow.waitWords) % 2 ^ 48 ∧ (t.ctx l).files = c.files) ∧
        (w.poison ≠ [] → (t.ctx l).sup = true ∧ (t.ctx l).csr.tcause = causePOISON ∧ (t.ctx l).csr.taddr = BitVec.ofNat 64 w.va ∧
          (t.ctx l).csr.tpc = c.pc)))

/-! ## Synchronisation -/

/-- R123, R156, R299: an atomic sends its request, with operation, operands, order and scope, to its word's home and completes: its
register is owed, and a posted one is counted in C1 or C2; one without a destination stalls at a home of its own station. R156,
R135, R152: at its home an atomic replaces its word by the value of its operation and is answered with the old value; a compare that
fails writes nothing; on a poisoned block word it does nothing and says so. The reply gives the flags and the register. -/
def Obligations.Atomics : Prop :=
  (∀ (o : AtomOps) (p : Exec.Part) (s : State), s.mayAccess [o.a, o.b, o.c, o.c + 1] o.q.win o.q.wc → s.inTurn p →
    s.cur.flow.flights.any Flight.strongStore = false → s.cleanAt p.fa → (o.q.order = .rel ∨ o.q.order = .ar → s.allPerformed) →
    s.counts.id ≠ 0 → (∀ r, s.cur.task = some r → r.body.obitctr = 0 ∨ s.cur.sup = true) →
    let l := s.hand.at_
    let n := if o.w32 then 4 else 8
    let ord := match o.q.order with | .acq => 1 | .rel => 2 | .ar => 3 | _ => 0
    Exec.access o.q.win .rw true (s.cur.readG o.b).toNat n s = .ok [p] s →
    let asks := fun (i : Instr) (op : Nat) (extra : Word) =>
      ∃ t a, exec i s = .next t ∧ t.net = s.net ++ [.atomic a] ∧ a.op = op ∧ a.w32 = o.w32 ∧ a.fa = p.fa ∧ a.va = p.ea ∧
        a.operand = (s.cur.readG o.c).toNat % 2 ^ (8 * n) ∧ a.extra = extra.toNat % 2 ^ (8 * n) ∧ a.order = ord ∧
        a.scope = (if ord = 0 then 0 else scopeNum o.q.scope) ∧ a.dest = o.a ∧ a.src = .task l s.cur.tid ∧
        t.cur.files = s.cur.files ∧ SameContextsBut l s t ∧ SameStorage s t ∧
        (o.a ≠ 0 → t.cur.owed o.a = true ∧ t.cur.pc = s.nextOf ∧ t.cur.flow.c1 = s.cur.flow.c1 ∧ t.cur.flow.c2 = s.cur.flow.c2) ∧
        (o.a = 0 → s.isLocal l.stn p.pl = false → t.cur.pc = s.nextOf ∧
          t.cur.flow.c1 = s.cur.flow.c1 + (if p.pl.cube = s.cube then 1 else 0) ∧
          t.cur.flow.c2 = s.cur.flow.c2 + (if p.pl.cube = s.cube then 0 else 1)) ∧
        (o.a = 0 → s.isLocal l.stn p.pl = true → t.cur.pc = s.cur.pc ∧ t.cur.flow.waitOn = some a.id)
    asks (.aadd o) 0 0 ∧ asks (.aand o) 1 0 ∧ asks (.aor o) 2 0 ∧ asks (.axor o) 3 0 ∧ asks (.aminI o) 4 0 ∧ asks (.aminN o) 5 0 ∧
    asks (.amaxI o) 6 0 ∧ asks (.amaxN o) 7 0 ∧ asks (.aswap o) 8 0 ∧ asks (.acas o) 9 (s.cur.readG o.a) ∧
    asks (.aaddt o) 10 (s.cur.readG (o.c + 1)) ∧ asks (.afaddF32 o) 11 0 ∧ asks (.afmaxnF32 o) 12 0) ∧
  ((∀ (a : AtomReq) (pl : Place) (l : Loc) (tid : Nat) (s : State), s.hand.msg = .atomic a → s.homedAt a.fa pl → pl.stash = true →
    a.src = .task l tid → a.order = 0 → a.op ≤ 12 → a.fa % (if a.w32 then 4 else 8) = 0 →
    s.blockedAt pl.stn a.fa (if a.w32 then 4 else 8) = false →
    let n := if a.w32 then 4 else 8
    a.operand < 2 ^ (8 * n) →
    let m := natOf (s.bytes pl.canon n)
    let v := a.operand
    let w := 8 * n
    let sm := (BitVec.ofNat w m).toInt
    let sv := (BitVec.ofNat w v).toInt
    let new := match a.op with
      | 0 => (m + v) % 2 ^ w | 1 => Nat.land m v | 2 => Nat.lor m v | 3 => Nat.xor m v
      | 4 => if sv < sm then v else m | 5 => min m v | 6 => if sm < sv then v else m | 7 => max m v
      | 8 => v | 9 => if m = a.extra then v else m | 10 => (m + v) % 2 ^ w
      | 11 => (addF32 m v).1 | _ => (fminmax .f32 true true m v).1
    let flags := match a.op with | 11 => (addF32 m v).2 | 12 => (fminmax .f32 true true m v).2 | _ => 0
    (s.poison.has (pl.canon / 16) = false → ∃ t, exec .atomic s = .next t ∧ .atomicReply ⟨a, m, flags, false, none⟩ ∈ t.net ∧
      SameContexts s t ∧ t.full = s.full ∧
      ∀ b, t.byte b = if pl.canon ≤ b ∧ b < pl.canon + n then BitVec.ofNat 8 (new / 256 ^ (b - pl.canon)) else s.byte b) ∧
    (s.poison.has (pl.canon / 16) = true → ∃ t, exec .atomic s = .next t ∧ t.net = s.net ++ [.atomicReply ⟨a, 0, 0, true, none⟩] ∧
      SameContexts s t ∧ SameStorage s t)) ∧
  (∀ (r : AtomRep) (l : Loc) (f : Flight) (p : Piece) (k : Nat) (s : State), s.hand.msg = .atomicReply r → r.sig = none →
    r.poisoned = false → r.req.src = .task l (s.ctx l).tid → (s.ctx l).flow.waitOn ≠ some r.req.id →
    (s.ctx l).flow.flights.find? (fun g => g.pieces.any (fun q => q.id == r.req.id)) = some f → f.pieces = [p] → p.id = r.req.id →
    p.fa = r.req.fa → p.len = 8 → f.kind = .atomic (some k) 0 → f.owes = [k] → k ≠ 0 → r.req.counter = 0 →
    r.old < 2 ^ (if r.req.w32 then 32 else 64) →
    let v : Word := if r.req.w32 = true ∧ (r.req.op = 4 ∨ r.req.op = 6) then (BitVec.ofNat 32 r.old).signExtend 64 else BitVec.ofNat 64 r.old
    ∃ t, exec .atomicReply s = .next t ∧ (t.ctx l).files = ((s.ctx l).writePhys k v).files ∧
      (t.ctx l).csr.fflags = Nat.lor (s.ctx l).csr.fflags r.flags ∧ SameContextsBut l s t ∧ SameStorage s t) ∧
  (∀ (r : AtomRep) (l : Loc) (s : State), s.hand.msg = .atomicReply r → r.sig = none →
    r.req.src = .task l (s.ctx l).tid → (s.ctx l).flow.waitOn = some r.req.id →
    let c := s.ctx l
    ∃ t, exec .atomicReply s = .next t ∧ SameContextsBut l s t ∧ SameStorage s t ∧ (t.ctx l).flow.waitOn = none ∧
      (r.poisoned = false → (t.ctx l).pc = (c.pc + 2 * c.flow.waitWords) % 2 ^ 48 ∧
        ∀ q, q < 64 → r.req.dest < 64 → (t.ctx l).readG q = if q = 0 then 0 else if q = r.req.dest then BitVec.ofNat 64 r.old else c.readG q) ∧
      (r.poisoned = true → (t.ctx l).csr.tcause = causePOISON ∧ (t.ctx l).csr.tpc = c.pc ∧ (t.ctx l).sup = true)))

/-- R154, R155: the full/empty forms: the instruction asks the stash of its word and stalls; the stash lets LDW and LDWE act on a full word,
STW on an empty one, the others on either, and holds a request that may not act; it reads or writes the word and its bit as the
form says. A held request can be cancelled, which leaves its instruction unperformed. -/
def Obligations.FullEmptyForms : Prop :=
  (∀ (o : LdOps) (p : Exec.Part) (s : State), s.mayAccess (o.a :: o.b :: xRegs o.c) o.q.win o.q.wc → s.inTurn p →
    s.cur.flow.flights.any Flight.strongStore = false → (o.q.order = .rel ∨ o.q.order = .ar → s.allPerformed) →
    Exec.access o.q.win .rw true (s.cur.ea o.b o.c 8).toNat 8 s = .ok [p] s →
    let l := s.hand.at_
    let ea := s.cur.ea o.b o.c 8
    let asks := fun (i : Instr) (op dest : Nat) =>
      (p.pl.stash = false → exec i s = .next (s.trap causePROT ea)) ∧
      (p.pl.stash = true → ∃ t a, exec i s = .next t ∧ t.net = s.net ++ [.atomic a] ∧ a.op = op ∧ a.fa = p.fa ∧ a.dest = dest ∧
        a.operand = (s.cur.readG o.a).toNat ∧ a.src = .task l s.cur.tid ∧ t.cur.flow.waitOn = some a.id ∧ t.cur.pc = s.cur.pc ∧
        t.cur.files = s.cur.files ∧ SameContextsBut l s t ∧ SameStorage s t)
    asks (.ldw o) 16 o.a ∧ asks (.ldwe o) 17 o.a ∧ asks (.stw o) 18 0 ∧ asks (.stf o) 19 0 ∧ asks (.feclr o) 20 0) ∧
  (∀ (a : AtomReq) (pl : Place) (l : Loc) (tid : Nat) (s : State), s.hand.msg = .atomic a → s.homedAt a.fa pl → pl.stash = true →
    a.fa % 8 = 0 → a.src = .task l tid → a.order = 0 → 16 ≤ a.op → a.op ≤ 20 → s.poison.has (pl.canon / 16) = false →
    (s.stn pl.stn).home.feHeld = [] →
    let k := pl.canon / 8
    let full := s.full.has k
    let acts := if a.op = 16 ∨ a.op = 17 then full else if a.op = 18 then !full else true
    let stores := a.op = 18 ∨ a.op = 19
    let after := decide (a.op = 16 ∨ a.op = 18 ∨ a.op = 19)
    (acts = true → ∃ t, exec .atomic s = .next t ∧ .atomicReply ⟨a, natOf (s.bytes pl.canon 8), 0, false, none⟩ ∈ t.net ∧ SameContexts s t ∧
      (∀ j, t.full.has j = if j = k then after else s.full.has j) ∧
      ∀ b, t.byte b = if stores ∧ pl.canon ≤ b ∧ b < pl.canon + 8 then BitVec.ofNat 8 (a.operand / 256 ^ (b - pl.canon)) else s.byte b) ∧
    (acts = false → ∃ t, exec .atomic s = .next t ∧ (t.stn pl.stn).home.feHeld = [(a.fa, .atomic a)] ∧ t.net = s.net ∧
      SameContexts s t ∧ SameStorage s t)) ∧
  (∀ (l : Loc) (id n : Nat) (x : Station) (s : State), s.hand.msg = .fullEmptyCancel l → (s.ctx l).flow.waitOn = some id →
    s.stations.find? (fun e => e.2.home.feHeld.any (fun h => isFeReq id h.2)) = some (n, x) → s.stn n = x →
    ∃ t, exec .fullEmptyCancel s = .next t ∧ (t.ctx l).flow.waitOn = none ∧ (t.ctx l).pc = (s.ctx l).pc ∧
      (t.ctx l).files = (s.ctx l).files ∧ SameContextsBut l s t ∧ SameStorage s t ∧
      ∀ h, h ∈ (t.stn n).home.feHeld ↔ h ∈ x.home.feHeld ∧ isFeReq id h.2 = false)

/-- R114, R122, R157, R158, R20: WAIT and JOIN send their condition to the word's home, which compares, behind what is held on the
word's chunk: where the condition holds, or the word is poisoned, the waiter is answered, otherwise it is registered and its task parks. A wake completes the wait with the value, 0 or 6
for a JOIN, or traps POISON. -/
def Obligations.Waiting : Prop :=
  (∀ (o : WaitOps) (b a : Nat) (x : XOp) (p : Exec.Part) (s : State), s.inTurn p → s.cleanAt p.fa →
    let l := s.hand.at_
    let arms := fun (i : Instr) (win : Win) (srcs : List Nat) (wc : Nat) (cond : WaitCond) (ea v : Word) (dest scope : Nat) =>
      s.mayAccess srcs win wc → Exec.access win .rw true ea.toNat 8 s = .ok [p] s →
      ∃ t w, exec i s = .next t ∧ t.net = s.net ++ [.waitArm w] ∧ w.cond = cond ∧ w.fa = p.fa ∧ w.va = ea.toNat ∧ w.val = v ∧ w.dest = dest ∧
        w.scope = scope ∧ w.order = 2 ∧ w.src = .task l s.cur.tid ∧ w.words = s.hand.words ∧ t.cur.flow.waitOn = some s.counts.id ∧
        t.cur.pc = s.cur.pc ∧ t.cur.files = s.cur.files ∧ SameContextsBut l s t ∧ SameStorage s t
    let wait := fun (i : Instr) (cond : WaitCond) => arms i o.q.win [o.b, o.c] o.q.wc cond (s.cur.readG o.b) (s.cur.readG o.c) o.a
      (if o.q.order = .plain then 3 else scopeNum o.q.scope)
    wait (.waitEq o) .eq ∧ wait (.waitNe o) .ne ∧ wait (.waitGe o) .ge ∧ wait (.waitLt o) .lt ∧
    arms (.join a b x) .va (b :: xRegs x) 0 .join (s.cur.readG b) (s.cur.xval x) a 3) ∧
  (∀ (w : WaitReg) (pl : Place) (l : Loc) (tid : Nat) (s : State), s.hand.msg = .waitArm w → s.homedAt w.fa pl → w.src = .task l tid → w.fa % 8 = 0 →
    (s.chunkHeld pl.stn w.fa || s.copyingAt w.fa) = true →
      ∃ t, exec .waitArm s = .next t ∧ SameStorage s t ∧ SameContexts s t ∧ t.net = s.net ∧
        (t.stn pl.stn).home.held = (s.stn pl.stn).home.held ++ [(chunkOf w.fa, .waitArm w)]) ∧
  (∀ (w : WaitReg) (pl : Place) (l : Loc) (tid : Nat) (s : State), s.hand.msg = .waitArm w → s.homedAt w.fa pl → w.src = .task l tid →
    w.fa % 8 = 0 → s.chunkHeld pl.stn w.fa = false → s.copyingAt w.fa = false →
    w.scope < 2 ∨ s.foreignWitnesses pl.stn w.fa 8 s.cube w.stn = [] →
    let m := (s.homeDw pl w.fa).1
    let v := w.val.toNat
    let holds := match w.cond with
      | .eq => decide (m = v) | .ne => decide (m ≠ v) | .ge => decide (v ≤ m) | .lt => decide (m < v)
      | .cpwait => decide (Nat.land m v = v) || bitAt m 63 | _ => decide (v % 2 ^ 63 ≤ m % 2 ^ 63) || bitAt m 63
    ((s.homeDw pl w.fa).2 = true → ∃ t, exec .waitArm s = .next t ∧ t.net = s.net ++ [.wake ⟨w, 0, true, none⟩] ∧ SameContexts s t) ∧
    ((s.homeDw pl w.fa).2 = false → holds = true →
      ∃ t, exec .waitArm s = .next t ∧ t.net = s.net ++ [.wake ⟨w, BitVec.ofNat 64 m, false, none⟩] ∧ SameContexts s t) ∧
    ((s.homeDw pl w.fa).2 = false → holds = false →
      ∃ t, exec .waitArm s = .next t ∧ (t.stn pl.stn).home.waiters = (s.stn pl.stn).home.waiters ++ [w] ∧ t.net = s.net ∧
        SameContextsBut l s t ∧ SameStorage s t ∧
        ((s.ctx l).sup = false → (t.ctx l).flow.susp = some (.park .again false) ∧ (t.ctx l).flow.waitOn = none) ∧
        ((s.ctx l).sup = true → t.ctx l = s.ctx l))) ∧
  (∀ (m : WakeMsg) (l : Loc) (s : State), s.hand.msg = .wake m → m.reg.src = .task l m.reg.tid → m.sig = none → m.reg.cond ≠ .tile →
    m.reg.tid ≠ 0 → s.whereIs m.reg.tid = some l → (s.ctx l).flow.waitOn.isSome = true →
    let c := s.ctx l
    let v : Word := if m.reg.cond = .join then (if m.val.getLsbD 63 then 6 else 0) else m.val
    ∃ t, exec .wake s = .next t ∧ SameContextsBut l s t ∧ SameStorage s t ∧ (t.ctx l).flow.waitOn = none ∧
      (m.poisoned = false → (t.ctx l).pc = (c.pc + 2 * c.flow.waitWords) % 2 ^ 48 ∧
        ∀ q, q < 64 → m.reg.dest < 64 → (t.ctx l).readG q = if q = 0 then 0 else if q = m.reg.dest then v else c.readG q) ∧
      (m.poisoned = true → (t.ctx l).csr.tcause = causePOISON ∧ (t.ctx l).csr.taddr = BitVec.ofNat 64 m.reg.va ∧ (t.ctx l).csr.tpc = c.pc))

/-! ## Coherence -/

/-- R129, R131, R135, R138, R144: a write-back reaches its home, is held behind operations on its chunk, otherwise changes the block
word there, and is then no longer outstanding at its station. A publication sends back every dirty word of the station, of its
windows too, clears SIGACC and completes, in order, when its write-backs, and those already on their way, have been acknowledged. -/
def Obligations.WriteBackAndPublish : Prop :=
  (∀ (w : WbMsg) (pl : Place) (s : State), s.hand.msg = .writeBack w → s.homedAt w.fa pl → w.src = .cube → w.poison = false →
    ((s.chunkHeld pl.stn w.fa || s.copyingAt w.fa) = true → ∃ t, exec .writeBack s = .next t ∧ SameStorage s t ∧ SameContexts s t ∧
      (t.stn pl.stn).home.held = (s.stn pl.stn).home.held ++ (chunksIn w.fa 16).map (fun c => (c, .writeBack w))) ∧
    (s.chunkHeld pl.stn w.fa = false → s.copyingAt w.fa = false → w.fa % 16 = 0 →
      (∀ x, (s.stn pl.stn).slice.find pl.ptag (regionOf w.fa) (ixOf w.fa) ≠ some (false, x)) →
      ∃ t, exec .writeBack s = .next t ∧ SameContexts s t ∧ t.homeWord pl w.fa = (w.data, false) ∧
        ∀ e ∈ (t.stn w.stn).slice.wbOut, e.1 ≠ w.pubId)) ∧
  (∀ (d : Demand) (s : State), s.hand.msg = .publicationDemand d → d.cube = s.cube → (∀ c n i, d.pubFor ≠ .emptyHomes c n i) →
    ∃ t, exec .publicationDemand s = .next t ∧ SameContexts s t ∧ SameStorage s t ∧ (t.stn d.stn).slice.sigacc = 0 ∧
      t.dirtyWords d.stn = [] ∧
      (∀ x ∈ s.dirtyWords d.stn, ∃ w, .writeBack w ∈ t.net ∧ w.fa = x.1 ∧ w.data = x.2.2.data ∧ w.poison = x.2.2.poison ∧
        w.stn = d.stn ∧ (w.pubId, bwOf w.fa) ∈ (t.stn d.stn).slice.wbOut) ∧
      (s.dirtyWords d.stn = [] → (s.stn d.stn).slice.pubs = [] → (s.stn d.stn).slice.wbOut = [] →
        t.net = s.net ++ [.publicationComplete d (s.stn d.stn).slice.sig])) ∧
  (∀ (d : Demand) (g : Sig) (c : CmdMsg) (s : State), s.hand.msg = .publicationComplete d g → d.pubFor = .command c → c.cube = s.cube →
    exec .publicationComplete s = .next (s.send (.engineCommand { c with sig := some g })))

/-- R131, R134, R135, R136, R273: what is timed or follows: a held write is performed once the datum has passed the leases of its
chunk, and waits on otherwise; an expired copy or window word and a received signature past its time leave the station; a guard
update changes its mirror, with its poison, or its parity word. -/
def Obligations.TimedCoherence : Prop :=
  (∀ (chunk : Nat) (pl : Place) (w : WriteReq) (since : Nat) (s : State), s.hand.msg = .heldWriteRelease chunk → s.homedAt (chunk * 64) pl →
    (s.stn pl.stn).home.held = [(chunk, .write w)] → (s.stn pl.stn).home.since = [(chunk, since)] →
    chunksIn w.fa w.data.length = [chunk] → s.copyingAt (chunk * 64) = false →
    (s.leased pl.stn (chunk * 64) = true → ∃ t, exec .heldWriteRelease s = .next t ∧ SameStorage s t ∧ SameContexts s t ∧
      (t.stn pl.stn).home.held = [(chunk, .write w)] ∧ (s.leaseMax pl.stn (chunk * 64) + 1, .heldWriteRelease chunk) ∈ t.timers) ∧
    (s.leased pl.stn (chunk * 64) = false → ∀ q, s.homedAt w.fa q → q.stn = pl.stn → q.stash = true → w.counter ≤ 2 →
      w.order ≠ 2 → w.poison = [] → 1 ≤ w.data.length → w.fa % 16 + w.data.length ≤ 16 → (s.homeWord q w.fa).2 = false →
      ∃ t, exec .heldWriteRelease s = .next t ∧ SameContexts s t ∧ (t.stn pl.stn).home.held = [] ∧
        ∀ b, t.byte b = if q.canon ≤ b ∧ b < q.canon + w.data.length then w.data.getD (b - q.canon) 0 else s.byte b)) ∧
  (∀ (stn chunk : Nat) (s : State), s.hand.msg = .leaseExpiry stn chunk →
    ∃ t, exec .leaseExpiry s = .next t ∧ SameContexts s t ∧
      (((s.stn stn).slice.trim (fun b w => !b.home && !w.dirty && decide (wordFa b.region w.ix / 64 = chunk) &&
          decide (w.expiry < s.datum))).2 = [] →
        SameStorage s t ∧ t.net = s.net ∧ ∀ n, n ≠ stn → t.stn n = s.stn n) ∧
      (∀ b ∈ (t.stn stn).slice.blocks, b.home = false → b.region = chunk / 32 → ∀ w ∈ b.lines, w.dirty = false → w.ix / 4 = chunk % 32 →
        s.datum ≤ w.expiry) ∧
      ∀ v ∈ (t.stn stn).slice.windows, ∀ x ∈ v.lines, x.dirty = false → v.faOf x.ix / 64 = chunk → s.datum ≤ x.expiry) ∧
  (∀ (stn : Nat) (s : State), s.hand.msg = .sigrcvExpiry stn →
    ∃ t, exec .sigrcvExpiry s = .next t ∧ SameStorage s t ∧ SameContexts s t ∧ t.net = s.net ∧ (∀ n, n ≠ stn → t.stn n = s.stn n) ∧
      ∀ e, e ∈ (t.stn stn).slice.sigrcv ↔ e ∈ (s.stn stn).slice.sigrcv ∧ s.datum ≤ e.1) ∧
  (∀ (fa : Nat) (d : BlockWord) (isXor poison : Bool) (s : State), s.hand.msg = .guardUpdate fa d isXor poison → bitsOf fa 54 43 = s.cube →
    ∃ t, exec .guardUpdate s = .next t ∧ SameContexts s t ∧ t.net = s.net ∧
      t.rawWord fa = (if isXor then (s.rawWord fa).1 ^^^ d else d, if isXor then (s.rawWord fa).2 else poison) ∧
      ∀ b, (b < fa / 16 * 16 ∨ fa / 16 * 16 + 16 ≤ b) → t.byte b = s.byte b)

/-! ## Vectors -/

/-- R186, R187, R199, R42, R53: the floating vector operations, element by element in their format, each rounded once: the arithmetic ones,
minimum and maximum, the operations on sign bits and the special functions. -/
def Obligations.VectorFloat : Prop :=
  ∀ (o : VFOps) (e : VEntry) (c : Ctx),
    let f := fmtOf o.fmt
    let w := f.width
    let ca := fun n => c.elem w o.a n
    let cb := fun n => c.elem w o.b n
    let cx := fun n => if o.bc then e.scalar.toNat % 2 ^ w else c.elem w o.c n
    let a := fun n => decodeF f (ca n)
    let b := fun n => decodeF f (cb n)
    let x := fun n => decodeF f (cx n)
    let gives := fun (i : Instr) (g : Nat → Nat × Nat) => ElementWise o.q w o.a e.vl c (vecRun i e c) g
    let rounded := fun (i : Instr) (g : Nat → Exact × Nat) => gives i (fun n => finishF f o.q.rm (drawOf o.q.rm c n) (g n))
    let special := fun (i : Instr) (k : Nat) => gives i (fun n => specialRes f k (cb n))
    let sign := fun (v : Nat) => v / 2 ^ (w - 1)
    let mag := fun (v : Nat) => v % 2 ^ (w - 1)
    rounded (.vadd o) (fun n => addFV o.q.rm (b n) (x n)) ∧
    rounded (.vsub o) (fun n => addFV o.q.rm (b n) (x n).neg) ∧
    rounded (.vmul o) (fun n => ((mulFV (b n) (x n)).1.exact, (mulFV (b n) (x n)).2)) ∧
    rounded (.vdiv o) (fun n => divFV (b n) (x n)) ∧
    rounded (.vsqrt o) (fun n => sqrtFV (b n)) ∧
    rounded (.vfma o) (fun n => fmaFV o.q.rm (b n) (x n) (a n)) ∧
    rounded (.vfms o) (fun n => fmaFV o.q.rm (b n) (x n) (a n).neg) ∧
    rounded (.vfnma o) (fun n => fmaFV o.q.rm (b n).neg (x n) (a n).neg) ∧
    rounded (.vfnms o) (fun n => fmaFV o.q.rm (b n).neg (x n) (a n)) ∧
    gives (.vmin o) (fun n => fminmax f false false (cb n) (cx n)) ∧ gives (.vmax o) (fun n => fminmax f true false (cb n) (cx n)) ∧
    gives (.vminn o) (fun n => fminmax f false true (cb n) (cx n)) ∧ gives (.vmaxn o) (fun n => fminmax f true true (cb n) (cx n)) ∧
    gives (.vneg o) (fun n => ((1 - sign (cb n)) * 2 ^ (w - 1) + mag (cb n), 0)) ∧
    gives (.vabs o) (fun n => (mag (cb n), 0)) ∧
    gives (.vsgn o) (fun n => (sign (cx n) * 2 ^ (w - 1) + mag (cb n), 0)) ∧
    special (.vexp2 o) 0 ∧ special (.vlog2 o) 1 ∧ special (.vrcp o) 2 ∧ special (.vrsqrt o) 3 ∧ special (.vsin o) 4 ∧ special (.vcos o) 5 ∧
    special (.vtanh o) 6 ∧ special (.vsigm o) 7 ∧ special (.verf o) 8 ∧ special (.vexp o) 9

/-- R188, R189, R38: the integer, logical and shift operations, element by element: an exact result modulo 2^w, or clamped under SAT; a
shift by the width or more gives zero or copies of the sign. -/
def Obligations.VectorInteger : Prop :=
  (∀ (o : VIOps) (e : VEntry) (c : Ctx),
    let w := (iTy o.ty).1
    let sg := (iTy o.ty).2
    let val := fun (v : Nat) => if sg then (BitVec.ofNat w v).toInt else (v : Int)
    let b := fun n => val (c.elem w o.b n)
    let x := fun n => val (if o.bc then e.scalar.toNat % 2 ^ w else c.elem w o.c n)
    let lo : Int := if sg then -(2 ^ (w - 1)) else 0
    let hi : Int := if sg then 2 ^ (w - 1) - 1 else 2 ^ w - 1
    let fits := fun (v : Int) => if o.q.sat then (if v < lo then lo else if hi < v then hi else v) else v
    let gives := fun (i : Instr) (g : Nat → Int) => ElementWise o.q w o.a e.vl c (vecRun i e c) (fun n => ((fits (g n) % 2 ^ w).toNat, 0))
    gives (.viadd o) (fun n => b n + x n) ∧ gives (.visub o) (fun n => b n - x n) ∧ gives (.vimul o) (fun n => b n * x n) ∧
    gives (.vimulh o) (fun n => b n * x n / 2 ^ w) ∧ gives (.vimin o) (fun n => if x n < b n then x n else b n) ∧
    gives (.vimax o) (fun n => if b n < x n then x n else b n) ∧ gives (.viabs o) (fun n => if b n < 0 then -(b n) else b n)) ∧
  (∀ (o : VLOps) (e : VEntry) (c : Ctx),
    let w := wBits o.w
    let b := fun n => BitVec.ofNat w (c.elem w o.b n)
    let x := fun n => BitVec.ofNat w (if o.bc then e.scalar.toNat else c.elem w o.c n)
    let gives := fun (i : Instr) (g : Nat → BitVec w) => ElementWise o.q w o.a e.vl c (vecRun i e c) (fun n => ((g n).toNat, 0))
    gives (.vand o) (fun n => b n &&& x n) ∧ gives (.vor o) (fun n => b n ||| x n) ∧ gives (.vxor o) (fun n => b n ^^^ x n) ∧
    gives (.vandn o) (fun n => b n &&& ~~~(x n)) ∧ gives (.vsll o) (fun n => b n <<< (x n).toNat) ∧
    gives (.vsrl o) (fun n => b n >>> (x n).toNat) ∧ gives (.vsra o) (fun n => (b n).sshiftRight (x n).toNat))

/-- R190, R191, R181: the compares, predicate logic and the select, and the instructions that read a predicate or a lane into a scalar
register: a lane of a compare is true where every element of it compares true. -/
def Obligations.ComparesAndPredicates : Prop :=
  (∀ (o : VFOps) (e : VEntry) (c : Ctx),
    let f := fmtOf o.fmt
    let w := f.width
    let b := fun n => decodeF f (c.elem w o.b n)
    let x := fun n => decodeF f (if o.bc then e.scalar.toNat % 2 ^ w else c.elem w o.c n)
    let nan := fun n => (b n).isNan = true ∨ (x n).isNan = true
    let gives := fun (i : Instr) (p : Nat → Bool) => LaneWise o.q o.a e.vl c (vecRun i e c).1
      (fun lane => (List.range (32 / w)).all (fun k => p (lane * (32 / w) + k)))
    gives (.vfeq o) (fun n => decide (¬ nan n ∧ cmpFV (b n) (x n) = 0)) ∧ gives (.vfne o) (fun n => decide (nan n ∨ cmpFV (b n) (x n) ≠ 0)) ∧
    gives (.vflt o) (fun n => decide (¬ nan n ∧ cmpFV (b n) (x n) < 0)) ∧ gives (.vfle o) (fun n => decide (¬ nan n ∧ cmpFV (b n) (x n) ≤ 0)) ∧
    gives (.vfun o) (fun n => decide (nan n))) ∧
  (∀ (o : VCOps) (e : VEntry) (c : Ctx),
    let w := (cmpTy o.ty).1
    let val := fun (v : Nat) => if (cmpTy o.ty).2 then (BitVec.ofNat w v).toInt else (v : Int)
    let b := fun n => val (c.elem w o.b n)
    let x := fun n => val (if o.bc then e.scalar.toNat % 2 ^ w else c.elem w o.c n)
    let gives := fun (i : Instr) (p : Nat → Bool) => (vecRun i e c).2 = [] ∧ LaneWise o.q o.a e.vl c (vecRun i e c).1
      (fun lane => (List.range (32 / w)).all (fun k => p (lane * (32 / w) + k)))
    gives (.vieq o) (fun n => decide (b n = x n)) ∧ gives (.vine o) (fun n => decide (b n ≠ x n)) ∧
    gives (.vilt o) (fun n => decide (b n < x n)) ∧ gives (.vile o) (fun n => decide (b n ≤ x n))) ∧
  (∀ (o : VROps) (e : VEntry) (c : Ctx),
    let b := fun i => (c.readK o.b).getLsbD i
    let x := fun i => (c.readK o.c).getLsbD i
    let gives := fun (i : Instr) (p : Nat → Bool) => (vecRun i e c).2 = [] ∧ LaneWise o.q o.a e.vl c (vecRun i e c).1 p
    gives (.kand o) (fun i => b i && x i) ∧ gives (.kor o) (fun i => b i || x i) ∧ gives (.kxor o) (fun i => b i != x i) ∧
    gives (.kandn o) (fun i => b i && !x i) ∧ gives (.knot o) (fun i => !b i) ∧
    (∀ i, i < 256 → (vecRun (.vsel o) e c).1.elem 32 o.a i =
      if i < e.vl then (if (c.readK o.q.pred).getLsbD i ≠ o.q.inv then c.elem 32 o.b i else c.elem 32 o.c i)
      else if o.q.zero then 0 else c.elem 32 o.a i)) ∧
  (∀ (o : VROps) (x : VXOps) (s : State), s.vecPending s.hand.at_ = false →
    let c := s.cur
    let on := fun i => decide (Active o.q 32 c.csr.vl c i) && (c.readK o.b).getLsbD i
    let gives := fun (i : Instr) (r v : Nat) => ∃ t, exec i s = .next t ∧ OnlyCur s t ((c.writeG r (BitVec.ofNat 64 v)).retire s.hand.words)
    gives (.kpopc o) o.a ((List.range 256).countP on) ∧
    (∀ i, i < 256 → on i = true → (∀ j, j < i → on j = false) → gives (.kfirst o) o.a i) ∧
    ((∀ i, i < 256 → on i = false) → gives (.kfirst o) o.a 256) ∧
    (s.ready (xRegs x.c) → gives (.vextr x) x.a (c.elem 32 x.b ((c.xval x.c).toNat % 256))))

/-- R192 to R195, R35: conversions of elements, and the quantising instructions: to FP8 by a scale, to E2M1 in blocks of eight with a scale
of E3M5 that holds the block's largest magnitude, and back. -/
def Obligations.VectorConversions : Prop :=
  (∀ (o : VcvtOps) (e : VEntry) (c : Ctx) (n : Nat),
    let kd := cKind o.d
    let ks := cKind o.s
    let w := max kd.width ks.width
    let r := vecRun (.vcvt o) e c
    VectorFrame o.q.rm o.a c r ∧
    (n < 8192 / w → Active o.q w e.vl c n →
      r.1.elem kd.width o.a n = (convert kd ks o.q.rm o.q.sat (drawOf o.q.rm c n) (c.elem ks.width o.b n)).1 % 2 ^ kd.width) ∧
    (n < 8192 / w → ¬ Active o.q w e.vl c n → r.1.elem kd.width o.a n = if o.q.zero then 0 else c.elem kd.width o.a n) ∧
    (8192 / w ≤ n → n < 8192 / kd.width → r.1.elem kd.width o.a n = 0)) ∧
  (∀ (o : VROps) (e : VEntry) (c : Ctx) (n : Nat), n < 256 →
    let x := fun k => (mulFV (decodeF .f32 (c.elem 32 o.b k)) (decodeF .f32 (e.scalar.toNat % 2 ^ 32))).1
    let eight := fun (i : Instr) (d : Fmt) =>
      VectorFrame o.q.rm o.a c (vecRun i e c) ∧
      (Active o.q 32 e.vl c n → (vecRun i e c).1.elem 8 o.a n = (deliver d o.q.rm o.q.sat (drawOf o.q.rm c n) (x n).exact).1 % 256) ∧
      (¬ Active o.q 32 e.vl c n → (vecRun i e c).1.elem 8 o.a n = 0)
    eight (.vq8E4m3 o) .e4m3 ∧ eight (.vq8E5m2 o) .e5m2 ∧
    -- VQ4: element n of block n / 8, and the block's scale behind the elements
    (let r := (vecRun (.vq4 o) e c).1
     let b := n / 8
     let on := fun k => Active o.q 32 e.vl c k
     let scale := r.elem 8 o.a (128 + b)
     VectorFrame o.q.rm o.a c (vecRun (.vq4 o) e c) ∧
     (¬ on n → r.elem 4 o.a n = 0) ∧
     ((∃ k, k / 8 = b ∧ on k ∧ (x k).isNan = true) → scale = 0xFF ∧ r.elem 4 o.a n = 0) ∧
     ((∀ k, k / 8 = b → on k → (x k).isNan = false) →
       (on n → r.elem 4 o.a n = (q4Elem o.q.rm (drawOf o.q.rm c n) scale (x n)).1 % 16) ∧
       ((∀ k, k / 8 = b → on k → ∃ g h, x k = .fin g 0 h) → scale = 0x60) ∧
       (∀ k m, k / 8 = b → on k → (x k).abs = m → (∀ j, j / 8 = b → on j → cmpFV (x j).abs m ≤ 0) → (∃ g h i, m = .fin g h i ∧ h ≠ 0) →
         scale = q4Scale m))) ∧
    -- VDQ4
    ElementWise o.q 32 o.a e.vl c (vecRun (.vdq4 o) e c) (fun k =>
      let v := scaledValue (decodeF .e2m1 (c.elem 4 o.b k)) (decodeF .e3m5 (c.elem 8 o.b (128 + k / 8))) (decodeF .bf16 (e.scalar.toNat % 2 ^ 16))
      let r := deliver .f32 o.q.rm false (drawOf o.q.rm c k) v.1
      (r.1, orF r.2 (if v.2 then flNV else 0))))

/-- R53, R196, R197, R198: reductions combine the active elements, floating ones as binary32, in a tree of neighbours and write one
32-bit element above zeros, or the value of an empty reduction; a scan writes running sums, rounded to its format; the permutations
move lanes. -/
def Obligations.ReductionsAndPermutations : Prop :=
  (∀ (o : VRedOps) (e : VEntry) (c : Ctx),
    let w := match redFmt o.page with | some f => f.width | none => 32
    let on := fun n => Active o.q w e.vl c n
    let low := fun (i : Instr) => (vecRun i e c).1.elem 32 o.a 0
    let clamped := fun (u v : Nat) => iWrap 32 (decide (o.page = .i32)) true (iVal 32 (decide (o.page = .i32)) u + iVal 32 (decide (o.page = .i32)) v)
    let all : List Instr := [.vrsum o, .vrmax o, .vrmin o, .vrmaxn o, .vrminn o, .vramax o, .vriand o, .vrior o, .vrixor o]
    (∀ i ∈ all, ∀ n, 1 ≤ n → n < 256 → (vecRun i e c).1.elem 32 o.a n = 0) ∧
    (∀ i ∈ all, ∀ m, m ≠ o.a → (vecRun i e c).1.readV m = c.readV m) ∧
    -- nothing active
    ((∀ n, n < 8192 / w → ¬ on n) → low (.vrsum o) = 0 ∧
      (redFmt o.page ≠ none → low (.vrmax o) = 0xFF800000 ∧ low (.vrmaxn o) = 0xFF800000 ∧ low (.vrmin o) = 0x7F800000 ∧
        low (.vrminn o) = 0x7F800000 ∧ low (.vramax o) = 0) ∧
      (redFmt o.page = none → low (.vriand o) = 0xFFFFFFFF ∧ low (.vrior o) = 0 ∧ low (.vrixor o) = 0) ∧
      (o.page = .i32 → low (.vrmax o) = 0x80000000 ∧ low (.vrmin o) = 0x7FFFFFFF) ∧
      (o.page = .n32 → low (.vrmax o) = 0 ∧ low (.vrmin o) = 0xFFFFFFFF)) ∧
    -- integers: the combination of all active elements, in any order
    (redFmt o.page = none →
      let xs := ((List.range 256).filter (fun n => decide (Active o.q 32 e.vl c n))).map (fun n => BitVec.ofNat 32 (c.elem 32 o.b n))
      low (.vriand o) = (xs.foldl (fun u v => u &&& v) (BitVec.allOnes 32)).toNat ∧
      low (.vrior o) = (xs.foldl (fun u v => u ||| v) 0).toNat ∧ low (.vrixor o) = (xs.foldl (fun u v => u ^^^ v) 0).toNat ∧
      (o.q.sat = false → low (.vrsum o) = (xs.foldl (fun u v => u + v) 0).toNat) ∧
      (xs ≠ [] →
        let val := fun (v : BitVec 32) => if o.page = .i32 then v.toInt else (v.toNat : Int)
        (∃ m ∈ xs, low (.vrmax o) = m.toNat ∧ ∀ v ∈ xs, val v ≤ val m) ∧
        ∃ m ∈ xs, low (.vrmin o) = m.toNat ∧ ∀ v ∈ xs, val m ≤ val v)) ∧
    -- sums that are clamped, in the order of the tree
    (redFmt o.page = none → o.q.sat = true →
      low (.vrsum o) = (pairTree clamped (fun n => if on n then some (c.elem 32 o.b n) else none) 8 0).getD 0) ∧
    -- floating elements
    (∀ f, redFmt o.page = some f →
      let x := fun n => if on n then some (toF32 f (c.elem w o.b n)).1 else none
      let tree := fun (i : Instr) (op : Nat → Nat → Nat × Nat) (x : Nat → Option Nat) (none_ : Nat) =>
        low i = (pairTree (fun u v => (op u v).1) x (if w = 32 then 8 else 9) 0).getD none_ % 2 ^ 32
      tree (.vrsum o) addF32 x 0 ∧
      tree (.vrmax o) (fminmax .f32 true false) x 0xFF800000 ∧ tree (.vrmin o) (fminmax .f32 false false) x 0x7F800000 ∧
      tree (.vrmaxn o) (fminmax .f32 true true) x 0xFF800000 ∧ tree (.vrminn o) (fminmax .f32 false true) x 0x7F800000 ∧
      tree (.vramax o) (fminmax .f32 true false) (fun n => (x n).map (fun v => v % 2 ^ 31)) 0) ∧
    -- the scans
    (redFmt o.page = none → ∀ n, n < 256 →
      let x := fun k => if on k then some (c.elem 32 o.b k) else none
      (vecRun (.vscan o) e c).1.elem 32 o.a n =
        if on n then (scanRun (if o.q.sat then clamped else fun u v => (u + v) % 2 ^ 32) x (n + 1)).getD 0
        else if o.q.zero then 0 else c.elem 32 o.a n) ∧
    (∀ f, redFmt o.page = some f → ∀ n, n < 8192 / w →
      let x := fun k => if on k then some (toF32 f (c.elem w o.b k)).1 else none
      let v := (scanRun (fun u v => (addF32 u v).1) x (n + 1)).getD 0
      (vecRun (.vscan o) e c).1.elem w o.a n =
        if on n then (if f = .f32 then v else (cvtFF f .f32 .ne false 0 v).1) % 2 ^ w
        else if o.q.zero then 0 else c.elem w o.a n)) ∧
  (∀ (o : VROps) (x : VXOps) (e : VEntry) (c : Ctx),
    let lane := e.scalar.toNat % 256
    let acts := (List.range 256).filter (fun n => decide (Active o.q 32 e.vl c n))
    ElementWise { o.q with rm := .ne } 32 o.a e.vl c (vecRun (.vperm o) e c) (fun n => (c.elem 32 o.b (c.elem 32 o.c n % 256), 0)) ∧
    ElementWise { x.q with rm := .ne } 32 x.a e.vl c (vecRun (.vrotl x) e c) (fun n => (c.elem 32 x.b ((n + lane) % 256), 0)) ∧
    ElementWise { x.q with rm := .ne } 32 x.a e.vl c (vecRun (.vbcast x) e c) (fun _ => (c.elem 32 x.b lane, 0)) ∧
    (∀ n, n < 256 → (vecRun (.vcompr o) e c).1.elem 32 o.a n =
      match acts[n]? with | some k => c.elem 32 o.b k | none => if o.q.zero then 0 else c.elem 32 o.a n) ∧
    (∀ k, (h : k < acts.length) → (vecRun (.vexpnd o) e c).1.elem 32 o.a acts[k] = c.elem 32 o.b k) ∧
    (∀ n, n < 256 → n ∉ acts → (vecRun (.vexpnd o) e c).1.elem 32 o.a n = if o.q.zero then 0 else c.elem 32 o.a n) ∧
    (∀ n, n < 256 → (vecRun (.vinsr x) e c).1.elem 32 x.a n =
      if n = e.scalar.toNat / 2 ^ 32 then e.scalar.toNat % 2 ^ 32 else c.elem 32 x.a n))

/-- R51, R68, R176, R177, R180: issue of the vector instructions: each enters its core's queue with what it reads at issue, VL, its scalar
operand and its guard's binding, and completes; a full queue stalls it, a guard known to be against it discards it. While FTRAPEN is
not zero a floating one stalls until its entry has executed. -/
def Obligations.VectorIssue : Prop :=
  ∀ (f : VFOps) (n : VIOps) (g : VLOps) (k : VCOps) (r : VROps) (v : VcvtOps) (d : VRedOps) (x : VXOps) (s : State),
    let l := s.hand.at_
    let c := s.cur
    let q := s.queueOf l
    let entry := fun (i : Instr) (val : Word) (gd : Option Guard) =>
      (⟨i, l, c.tid, c.pc, c.csr.vl, val, bindOf c gd, [], 0, 0, false, [], [], s.counts.id, s.datum⟩ : VEntry)
    let issues := fun (fp : Bool) (regs : List Nat) (val : Word) (gd : Option Guard) (i : Instr) =>
      s.ready regs →
      (bindOf c gd = .decided false → exec i s = .next s.retire) ∧
      (bindOf c gd ≠ .decided false → q.length < 16 →
        ∃ t, exec i s = .next t ∧ t.queueOf l = q ++ [entry i val gd] ∧ SameContextsBut l s t ∧ SameStorage s t ∧ t.net = s.net ∧
          (fp = false ∨ c.csr.ftrapen = 0 → t.cur = c.retire s.hand.words) ∧
          (fp = true → c.csr.ftrapen ≠ 0 →
            t.cur = { c with flow := { c.flow with waitOn := some s.counts.id, waitWords := s.hand.words } })) ∧
      (bindOf c gd ≠ .decided false → 16 ≤ q.length →
        ∃ t, exec i s = .next t ∧ t.queueOf l = q ∧ t.cur = { c with flow := { c.flow with waitOn := some 0 } } ∧
          SameContextsBut l s t ∧ SameStorage s t)
    let regs := fun (b : Bool) (m : Nat) => if b then [m] else ([] : List Nat)
    let val := fun (b : Bool) (m : Nat) => if b then c.readG m else (0 : Word)
    let floats : List Instr := [.vadd f, .vsub f, .vmul f, .vdiv f, .vsqrt f, .vmin f, .vmax f, .vminn f, .vmaxn f, .vneg f, .vabs f, .vsgn f,
      .vfma f, .vfms f, .vfnma f, .vfnms f, .vfeq f, .vfne f, .vflt f, .vfle f, .vfun f, .vexp2 f, .vlog2 f, .vrcp f, .vrsqrt f, .vsin f,
      .vcos f, .vtanh f, .vsigm f, .verf f, .vexp f]
    let quants : List Instr := [.vq8E4m3 r, .vq8E5m2 r, .vq4 r, .vdq4 r]
    let reds : List Instr := [.vrsum d, .vrmax d, .vrmin d, .vrmaxn d, .vrminn d, .vramax d, .vriand d, .vrior d, .vrixor d, .vscan d]
    (∀ i ∈ floats, issues true (regs f.bc f.c) (val f.bc f.c) f.q.guard i) ∧
    (∀ i ∈ quants, issues true [r.c] (c.readG r.c) r.q.guard i) ∧
    issues true [] 0 v.q.guard (.vcvt v) ∧
    (∀ i ∈ reds, issues (redFmt d.page).isSome [] 0 d.q.guard i) ∧
    (∀ i ∈ ([.viadd n, .visub n, .vimul n, .vimulh n, .vimin n, .vimax n, .viabs n] : List Instr),
      issues false (regs n.bc n.c) (val n.bc n.c) n.q.guard i) ∧
    (∀ i ∈ ([.vand g, .vor g, .vxor g, .vandn g, .vsll g, .vsrl g, .vsra g] : List Instr),
      issues false (regs g.bc g.c) (val g.bc g.c) g.q.guard i) ∧
    (∀ i ∈ ([.vieq k, .vine k, .vilt k, .vile k] : List Instr), issues false (regs k.bc k.c) (val k.bc k.c) k.q.guard i) ∧
    (∀ i ∈ ([.kand r, .kor r, .kxor r, .kandn r, .knot r, .vsel r, .vperm r, .vcompr r, .vexpnd r] : List Instr),
      issues false [] 0 r.q.guard i) ∧
    (∀ i ∈ ([.vrotl x, .vbcast x] : List Instr), issues false (xRegs x.c) (c.xval x.c) x.q.guard i) ∧
    issues false (x.b :: xRegs x.c) (BitVec.ofNat 64 ((c.xval x.c).toNat % 256 * 2 ^ 32 + (c.readG x.b).toNat % 2 ^ 32)) x.q.guard (.vinsr x)

/-- R50, R51, R68, R166, R169, R180, R183, R184: one station cycle: the head of a queue whose guard is for it takes effect and leaves,
one whose guard is against it leaves, one whose guard is still pending stays; an instruction that waits for its entry completes, or,
where it raised an enabled flag, traps FPE with the lowest position and the flags, and with no effect. Room in a full queue lets the
contexts that stall on it issue again. The memory pipeline performs a load whose words are at hand, a store to its own station's
stash, and sends VSCADD's next addition. -/
def Obligations.VectorArbitration : Prop :=
  (∀ (core ctx : Nat) (e : VEntry) (stn : Nat) (s : State), s.hand.msg = .laneGroupArbitration stn → core < 8 → ctx < 4 →
    e.at_ = ⟨stn, core, ctx⟩ → (s.stn stn).vec.queues = [(core, [e])] → (s.stn stn).vec.pipe = [] → (s.stn stn).vec.binds = [] →
    memKind e.i = none → e.vl ≤ 256 → 1 ≤ s.vecWeight stn core →
    let c := s.ctx e.at_
    let r := vecRun e.i e c
    let done := { r.1 with csr := { r.1.csr with fflags := Nat.lor r.1.csr.fflags (orFlags r.2) } }
    let waits := c.flow.waitOn = some e.num
    let ended := fun (u : Ctx) => Ctx.retire { u with flow := { u.flow with waitOn := none, waitWords := 0 } } c.flow.waitWords
    let on := fun (z : Nat × Nat) => Nat.land z.2 c.csr.ftrapen ≠ 0
    (bindRuns e.bind = some true → ¬ waits → ∃ t, exec .laneGroupArbitration s = .next t ∧ t.queueOf e.at_ = [] ∧
      t.ctx e.at_ = done ∧ SameContextsBut e.at_ s t ∧ SameStorage s t) ∧
    (bindRuns e.bind = some true → waits → (∀ z ∈ r.2, ¬ on z) → ∃ t, exec .laneGroupArbitration s = .next t ∧ t.queueOf e.at_ = [] ∧
      t.ctx e.at_ = ended done ∧ SameContextsBut e.at_ s t ∧ SameStorage s t) ∧
    (bindRuns e.bind = some true → waits → ∀ p, (∃ z ∈ r.2, z.1 = p ∧ on z) → (∀ z ∈ r.2, on z → p ≤ z.1) →
      ∃ t, exec .laneGroupArbitration s = .next t ∧ t.queueOf e.at_ = [] ∧ (t.ctx e.at_).sup = true ∧
        (t.ctx e.at_).csr.tcause = causeFPE ∧ (t.ctx e.at_).csr.taddr = BitVec.ofNat 64 (256 * p + orFlags r.2) ∧
        (t.ctx e.at_).csr.tpc = c.pc ∧ (t.ctx e.at_).files = c.files ∧ (t.ctx e.at_).csr.fflags = c.csr.fflags ∧
        (t.ctx e.at_).flow.waitOn = none ∧ SameContextsBut e.at_ s t ∧ SameStorage s t) ∧
    (bindRuns e.bind = some false → ∃ t, exec .laneGroupArbitration s = .next t ∧ t.queueOf e.at_ = [] ∧
      (¬ waits → t.ctx e.at_ = c) ∧ (waits → t.ctx e.at_ = ended c) ∧ SameContextsBut e.at_ s t ∧ SameStorage s t) ∧
    (bindRuns e.bind = none → ∃ t, exec .laneGroupArbitration s = .next t ∧ t.queueOf e.at_ = [e] ∧ SameContexts s t ∧ SameStorage s t)) ∧
  (∀ (core ctx stn w a : Nat) (zero : Bool) (hint : Hint) (e : VEntry) (s : State), s.hand.msg = .laneGroupArbitration stn → core < 8 →
    ctx < 4 → e.at_ = ⟨stn, core, ctx⟩ → (s.stn stn).vec.queues = [(core, [e])] → (s.stn stn).vec.pipe = [] →
    bindRuns e.bind = some true → (s.ctx e.at_).flow.flights = [] → w ∈ [8, 16, 32, 64] →
    let c := s.ctx e.at_
    let u := if e.bytewise then 8 else w
    (∀ x ∈ e.elems, x.1 < 8192 / u ∧ x.2.1 % (u / 8) = 0) →
    (∀ word : Nat → BlockWord, memKind e.i = some (.load w a zero hint) → e.elems.Pairwise (fun x y => x.1 < y.1) →
      (∀ x ∈ e.elems, ∃ pl, s.place x.2.1 = .ok pl ∧ pl.stash = true ∧ s.look stn pl x.2.1 = .have_ (word x.2.1) false) →
      (∀ x ∈ e.elems, ∀ y ∈ e.elems, bwOf x.2.1 = bwOf y.2.1 → word x.2.1 = word y.2.1) →
      ∃ t, exec .laneGroupArbitration s = .next t ∧ t.queueOf e.at_ = [] ∧ (t.stn stn).vec.pipe = [] ∧ SameStorage s t ∧
        SameContextsBut e.at_ s t ∧ (t.ctx e.at_).files.g = c.files.g ∧ (∀ m, m ≠ a → (t.ctx e.at_).readV m = c.readV m) ∧
        (∀ x ∈ e.elems, (t.ctx e.at_).elem u a x.1 = (word x.2.1).toNat / 2 ^ (8 * (x.2.1 % 16)) % 2 ^ u) ∧
        ∀ n, n < 8192 / u → (∀ x ∈ e.elems, x.1 ≠ n) →
          (t.ctx e.at_).elem u a n = if zero = true ∧ e.first ≤ n ∧ n < e.last then 0 else c.elem u a n) ∧
    (∀ p fa ea pl, memKind e.i = some (.store w a hint) → e.elems = [(p, fa, ea)] → s.homedAt fa pl → pl.stash = true → pl.stn = stn →
      (s.stn stn).slice.wbOut = [] → s.blockedAt stn fa (u / 8) = false → (s.homeWord pl fa).2 = false →
      ∃ t, exec .laneGroupArbitration s = .next t ∧ t.queueOf e.at_ = [] ∧ (t.stn stn).vec.pipe = [] ∧ t.full = s.full ∧
        ∀ b, t.byte b = if fa ≤ b ∧ b < fa + u / 8 then BitVec.ofNat 8 (c.elem u a p / 256 ^ (b - fa)) else s.byte b) ∧
    (∀ p fa ea pl, memKind e.i = some (.add a) → e.elems = [(p, fa, ea)] → s.place fa = .ok pl → s.cleanFor stn fa →
      ∃ t r, exec .laneGroupArbitration s = .next t ∧ t.queueOf e.at_ = [] ∧ (t.stn stn).vec.pipe = [] ∧ t.net = s.net ++ [.atomic r] ∧
        r.op = 11 ∧ r.w32 = true ∧ r.fa = fa ∧ r.dest = 0 ∧ (p < 256 → r.operand = c.elem 32 a p) ∧ SameStorage s t)) ∧
  (∀ (stn core k : Nat) (s : State), s.hand.msg = .vectorQueueStallRelease stn core → core < 8 → k < 4 →
    ∃ t, exec .vectorQueueStallRelease s = .next t ∧ SameStorage s t ∧
      t.ctx ⟨stn, core, k⟩ = (let c := s.ctx ⟨stn, core, k⟩
        if c.flow.waitOn = some 0 then { c with flow := { c.flow with waitOn := none } } else c))

/-- R166 to R170: issue of the vector memory instructions: the address of every active element from the resume position on is formed and
checked in ascending order, and the instruction enters its core's queue with them; where an element fails, what lies below it is
entered and the instruction traps precisely with the position in RESUME and TADDR. A handle that is not valid traps HANDLE; a
handle-relative element at an offset that its size does not divide is formed byte by byte. -/
def Obligations.VectorMemoryIssue : Prop :=
  ∀ (m : VMOps) (r : VMROps) (fa : Nat → Nat → Nat) (s : State),
    let l := s.hand.at_
    let c := s.cur
    let q := s.queueOf l
    let issues := fun (i : Instr) (w k : Nat) (u : VMQ) (regs : List Nat) (indexed : Bool) (ea : Nat → Nat → Nat) (check : Nat → Exec Nat) =>
      s.ready regs → s.waitCount l u.wc = 0 → c.flow.flights = [] → (u.pred ≠ 0 ∨ indexed = true → s.vecPending l = false) →
      bindOf c u.guard ≠ .decided false → q.length < 16 →
      let start := if c.sup then 0 else c.csr.resume
      let acts := (List.range (8192 / w)).filter (fun n => decide (start ≤ n) &&
        decide (Active ⟨u.pred, u.zero, u.inv, false, .ne, none⟩ w c.csr.vl c n))
      let entry := fun (ns : List Nat) (last : Nat) =>
        (⟨i, l, c.tid, c.pc, c.csr.vl, 0, bindOf c u.guard,
          (ns.map (fun n => (List.range k).map (fun j => (n * k + j, fa n j, ea n j)))).flatten, start * k, last * k, k != 1, [], [],
          s.counts.id, s.datum⟩ : VEntry)
      ((∀ n ∈ acts, ∀ j, j < k → check (ea n j) s = .ok (fa n j) s) →
        ∃ t, exec i s = .next t ∧ t.queueOf l = q ++ [entry acts (8192 / w)] ∧ t.cur = c.retire s.hand.words ∧ SameContextsBut l s t ∧
          SameStorage s t) ∧
      (∀ p j cause d, (bindRuns (bindOf c u.guard)).isSome = true → p ∈ acts →
        (∀ n ∈ acts, n < p → ∀ j, j < k → check (ea n j) s = .ok (fa n j) s) →
        j < k → (∀ i, i < j → check (ea p i) s = .ok (fa p i) s) → check (ea p j) s = .error (.trap cause d) s →
        ∃ t, exec i s = .next t ∧ t.queueOf l = (if start < p then q ++ [entry (acts.filter (fun n => n < p)) p] else q) ∧
          t.cur.csr.resume = p ∧ t.cur.csr.tcause = cause ∧ t.cur.csr.taddr = BitVec.ofNat 64 (p * 2 ^ 48 + ea p 0 % 2 ^ 48) ∧
          t.cur.csr.tpc = c.pc ∧ t.cur.sup = true ∧ SameContextsBut l s t ∧ SameStorage s t)
    let w := wBits m.w
    let wr := wBits r.w
    let lin := fun (n _ : Nat) => (s.cur.ea m.b m.c 1024 + BitVec.ofNat 64 (n * w / 8)).toNat
    let stride := fun (n _ : Nat) => (c.readG r.b + BitVec.ofNat 64 n * c.readG r.c).toNat
    let index := fun (wi n _ : Nat) => (c.readG r.b + (BitVec.ofNat wi (c.elem wi r.c n)).signExtend 64).toNat
    let h := Map.get {} s.here.handles m.b
    let off : Int := match m.c with | .reg k => (c.readG k).toInt * 1024 | .imm v => v
    let slot := fun (ix n j : Nat) =>
      stashFa s.cube l.stn (h.base + (((ix * h.slotsz + (n * w / 8 + j) : Nat) + off) % ((h.nslot * h.slotsz : Nat) : Int)).toNat)
    let inStash : Nat → Exec Nat := fun ea => do
      let _ ← Exec.home .va ea ea
      return ea
    let regs := m.b :: xRegs m.c
    let byHandle := fun (i : Instr) (ix : Nat) =>
      (h.valid = false → s.ready (xRegs m.c) → bindRuns (bindOf c m.q.guard) = some true →
        exec i s = .next (s.trap causeHANDLE (BitVec.ofNat 64 m.b))) ∧
      (h.valid = true → issues i w (if off % (w / 8 : Nat) = 0 then 1 else w / 8) m.q (xRegs m.c) false (slot ix) inStash)
    issues (.vld m) w 1 m.q regs false lin (Exec.elemFa m.q.win .r (w / 8)) ∧
    issues (.vst m) w 1 m.q regs false lin (Exec.elemFa m.q.win .w (w / 8)) ∧
    issues (.vlds r) wr 1 r.q [r.b, r.c] false stride (Exec.elemFa r.q.win .r (wr / 8)) ∧
    issues (.vsts r) wr 1 r.q [r.b, r.c] false stride (Exec.elemFa r.q.win .w (wr / 8)) ∧
    issues (.vgth r) wr 1 r.q [r.b] true (index wr) (Exec.elemFa r.q.win .r (wr / 8)) ∧
    issues (.vsct r) wr 1 r.q [r.b] true (index wr) (Exec.elemFa r.q.win .w (wr / 8)) ∧
    (r.w = .w32 → issues (.vscadd r) 32 1 r.q [r.b] true (index 32) (Exec.elemFa r.q.win .rw 4)) ∧
    byHandle (.vldConsumer m) h.cix ∧ byHandle (.vldProducer m) h.pix ∧ byHandle (.vstConsumer m) h.cix ∧ byHandle (.vstProducer m) h.pix

/-! ## Tasks -/

/-- R111, R112, R113, R141: SPAWN and FORK: once everything earlier is performed, a child's record goes to the task inbox of the parent's
station (for an anchor homed there too, log entry 93), a SPAWN's with another anchor to that of the anchor's home, after a publication
and under a wait counter; a child that names no deadline takes the parent's. FORK with a busy flag calls its target instead. -/
def Obligations.SpawnAndFork : Prop :=
  (∀ (a b : Nat) (off : Int) (s : State), s.ready [a, b, b + 1] →
    let c := s.cur
    let target := (((c.pc : Int) + 2 * off) % 2 ^ 48).toNat
    (c.readG a ≠ 0 → exec (.fork a b off) s = .next (s.modCur (fun c =>
      (((c.writeG 1 (s.cur.readG b)).writeG 2 (s.cur.readG (b + 1))).writeG 63 (BitVec.ofNat 64 s.nextOf)).finishAt s.hand.words target))) ∧
    (c.readG a = 0 → s.allPerformed → s.here.sched.inbox.length < 64 →
      ∃ t p, exec (.fork a b off) s = .next t ∧ t.net = s.net ++ [.taskPacket s.hand.at_.stn p] ∧ (TaskPkt.rec p).pc = target / 2 * 2 ∧
        (TaskPkt.rec p).arg0 = c.readG b ∧ (TaskPkt.rec p).arg1 = c.readG (b + 1) ∧
        (TaskPkt.rec p).joinctr = (c.readG (b + 1)).toNat ∧ (TaskPkt.rec p).deadline = c.csr.deadln.toNat ∧
        t.cur = c.retire s.hand.words ∧ SameContextsBut s.hand.at_ s t ∧ SameStorage s t)) ∧
  (∀ (a b c : Nat) (bs : List Byte) (s u : State), s.ready [a, b, c] → s.allPerformed → s.cur.readG c = 0 →
    let va := (s.cur.readG b).toNat
    let l := s.hand.at_
    let d := dwsOf 8 bs
    let r := recOfDws d
    let child := fun (p : TaskPkt) =>
      (TaskPkt.rec p).pc = r.pc ∧ (TaskPkt.rec p).arg0 = r.arg0 ∧ (TaskPkt.rec p).arg1 = r.arg1 ∧ (TaskPkt.rec p).joinctr = r.joinctr ∧
      (TaskPkt.rec p).obitctr = r.obitctr ∧ (TaskPkt.rec p).frame = 0 ∧
      (TaskPkt.rec p).deadline = (if r.deadline ≠ 0 then r.deadline else s.cur.csr.deadln.toNat)
    let done := fun (t : State) => t.cur.pc = s.nextOf ∧ t.cur.files = s.cur.files ∧ SameContextsBut l s t ∧ SameStorage s t
    (va % 64 ≠ 0 → exec (.spawn a b c) s = .next (s.trap causeALIGN (BitVec.ofNat 64 va))) ∧
    (va % 64 = 0 → Exec.readOwn va 64 s = .ok bs u → bs.length = 64 →
      (s.cur.readG a = 0 → (r.kind ≠ 0 ∨ recReservedOk d = false) → exec (.spawn a b c) s = .next u.retire) ∧
      (s.cur.readG a = 0 → r.kind = 0 → recReservedOk d = true → (u.stn l.stn).sched.inbox.length < 64 →
        ∃ t p, exec (.spawn a b c) s = .next t ∧ t.net = u.net ++ [.taskPacket l.stn p] ∧ child p ∧ done t) ∧
      (∀ fa pl, s.cur.readG a ≠ 0 → Exec.faOf .va (s.cur.readG a).toNat .r u = .ok fa u →
        Exec.home .va fa (s.cur.readG a).toNat u = .ok pl u → r.kind = 0 → recReservedOk d = true →
        (u.isLocal l.stn pl = true → (u.stn l.stn).sched.inbox.length < 64 →
          ∃ t p, exec (.spawn a b c) s = .next t ∧ t.net = u.net ++ [.taskPacket l.stn p] ∧ child p ∧ done t) ∧
        (u.isLocal l.stn pl = false → u.dirtyWords l.stn = [] → (u.stn l.stn).slice.pubs = [] → (u.stn l.stn).slice.wbOut = [] →
          ∃ t p, exec (.spawn a b c) s = .next t ∧ child p ∧ done t ∧
            t.net = u.net ++ [.publicationComplete ⟨s.cube, l.stn, 0, .task pl.cube pl.stn p⟩ (u.stn l.stn).slice.sig] ∧
            t.cur.flow.c1 = s.cur.flow.c1 + (if pl.cube = s.cube then 1 else 0) ∧
            t.cur.flow.c2 = s.cur.flow.c2 + (if pl.cube = s.cube then 0 else 1)))))

/-- R14, R15, R22, R115 to R117, R235, R249: the life of a task in a context: PIN and UNPIN change its record, YIELD makes it leave at the next
boundary, a suspension that has settled and saved puts its record back and frees the context, a selection starts a record with its
arguments, EXIT retires it with its status. -/
def Obligations.TaskLife : Prop :=
  (∀ (s : State),
    let pinned := fun (on : Bool) => s.modCur (fun c =>
      Ctx.retire { c with task := c.task.map (fun r => { r with body := { r.body with pin := on } }) } s.hand.words)
    exec .pin s = .next (pinned true) ∧ exec .unpin s = .next (pinned false) ∧
    (s.cur.sup = true → s.cur.task = none → exec .yield s = .next (s.trap causeILL (BitVec.ofNat 64 s.baseAddr))) ∧
    (s.cur.sup = false ∨ s.cur.task.isSome = true → ∃ t, exec .yield s = .next t ∧
      OnlyCur s t (let c := s.cur.retire s.hand.words; { c with flow := { c.flow with susp := some .yield } }))) ∧
  (∀ (l : Loc) (r : RecEntry) (s : State), s.hand.msg = .suspension l → (s.ctx l).task = some r → (s.ctx l).flow.susp = some .yield →
    s.settled l = true → (s.ctx l).sup = false → (s.stn l.stn).kernel.pending = [] → (s.stn l.stn).sched.preempted = false →
    let c := s.ctx l
    (c.flow.saved = true → ∃ t x, exec .suspension s = .next t ∧ (t.ctx l).busy = false ∧ (t.ctx l).task = none ∧ SameContextsBut l s t ∧
      x ∈ (t.stn l.stn).sched.ready ++ (t.stn l.stn).sched.spilled ∧ x.tid = r.tid ∧ x.key = r.key ∧ x.body.pc = c.pc ∧
      x.body.budget = c.csr.budget ∧ x.body.deadline = c.csr.deadln.toNat ∧ x.body.frame = r.body.frame) ∧
    (c.flow.saved = false → r.body.frame ≠ 0 → s.ownFa r.body.frame = true →
      ∃ t, exec .suspension s = .next t ∧ (t.ctx l).flow.saved = true ∧ (t.ctx l).busy = c.busy ∧ (t.ctx l).files = c.files ∧
        SameContextsBut l s t) ∧
    (c.flow.saved = false → r.body.frame = 0 → (s.popArea l.stn).1 = none → ∃ t, exec .suspension s = .next t ∧ SameContexts s t ∧ SameStorage s t)) ∧
  (∀ (l m : Loc) (r : RecEntry) (s : State), s.hand.msg = .selection m → m.stn = l.stn → s.freeCtx l.stn = some l →
    (s.stn l.stn).canSelect = true → (s.stn l.stn).kernel.pending = [] → (s.stn l.stn).sched.inbox = [] →
    (s.stn l.stn).sched.spilledMsgs = [] →
    firstRec ((s.stn l.stn).sched.ready.filter (fun r => r.heldFor.isNone)) = some r →
    let late := r.body.latedrop = true ∧ r.body.deadline ≠ 0 ∧ r.body.deadline < s.datum
    (¬ late → r.body.frame = 0 → r.sig = none → ∃ t, exec .selection s = .next t ∧ SameContextsBut l s t ∧ SameStorage s t ∧
      (t.ctx l).busy = true ∧ (t.ctx l).sup = false ∧ (t.ctx l).pc = r.body.pc ∧ (t.ctx l).tid = r.tid ∧
      (t.ctx l).readG 1 = r.body.arg0 ∧ (t.ctx l).readG 2 = r.body.arg1 ∧
      (∀ q, 3 ≤ q → q < 63 → (t.ctx l).readG q = 0) ∧ (t.ctx l).csr.budget = r.body.budget ∧
      (t.ctx l).csr.deadln = BitVec.ofNat 64 r.body.deadline ∧ (∀ x ∈ (t.stn l.stn).sched.ready, x.tid ≠ r.tid)) ∧
    (late → r.body.joinctr = 0 → r.body.obitctr = 0 → r.reply = 0 → ∃ t, exec .selection s = .next t ∧ SameContexts s t ∧
      (∀ x ∈ (t.stn l.stn).sched.ready, x.tid ≠ r.tid))) ∧
  (∀ (a : Nat) (r : RecEntry) (s : State), s.ready [a] → s.cur.task = some r → s.allPerformed →
    (∀ x ∈ s.cur.files.slots, ∀ g, x ≠ .pending g) → s.here.kernel.pending = [] → s.here.sched.inbox = [] → s.here.sched.spilledMsgs = [] →
    r.body.joinctr = 0 → r.body.obitctr = 0 →
    let v := (s.cur.readG a).toNat
    let status := if s.cur.sup then v else if v = 0 then 0 else 7
    let cause := if s.cur.sup then s.cur.csr.tcause % 256 else 0
    (s.cur.sup = true → 7 < v → exec (.exit a) s = .next (s.trap causeILL (BitVec.ofNat 64 s.baseAddr))) ∧
    (s.cur.sup = false ∨ v ≤ 7 → ∃ t, exec (.exit a) s = .next t ∧ t.cur.busy = false ∧ t.cur.task = none ∧
      SameContextsBut s.hand.at_ s t ∧
      (r.reply ≠ 0 → r.reply % 8 = 0 → ∀ pl, s.reach ⟨s.hand.at_.stn, false, false⟩ r.reply = .ok pl →
        ∃ w, .write w ∈ t.net ∧ w.fa = r.reply ∧ w.data = bytesOf 8 (status + cause * 256 + s.datum % 2 ^ 48 * 2 ^ 16))))

/-- R18, R19, R25, R29, R140, R232 to R234: what arrives at a station's scheduler: a task packet is accepted as a record with its key, or
refused; a record from another station enters the ready store; a data arrival stores its bytes and starts its handler; spilled records
come back. -/
def Obligations.SchedulerArrivals : Prop :=
  (∀ (stn : Nat) (p : TaskPkt) (l : Loc) (s : State), s.hand.msg = .taskPacket stn p → (s.stn stn).sched.preempted = false →
    (s.stn stn).sched.resuming = false → (s.stn stn).sched.spilledMsgs = [] → (s.stn stn).sched.inbox = [] → s.canInsert stn = true → p.src = .task l (s.ctx l).tid →
    let r := TaskPkt.rec p
    let lowered := fun (t : State) =>
      (t.ctx l).flow.c1 = (s.ctx l).flow.c1 - (if p.counter = 1 then 1 else 0) ∧
      (t.ctx l).flow.c2 = (s.ctx l).flow.c2 - (if p.counter = 2 then 1 else 0) ∧ SameContextsBut l s t
    (taskPktOk p (s.ptagAt stn) = true → s.lateDrop r = false →
      ∃ t x, exec .taskPacket s = .next t ∧ x ∈ (t.stn stn).sched.ready ++ (t.stn stn).sched.spilled ∧ x.body = r ∧
        x.reply = bitsOf (p.dws.getD 1 0).toNat 55 0 ∧ x.key = (if r.deadline ≠ 0 then r.deadline else s.datum + (s.stn stn).sched.horizon) ∧
        (t.stn stn).sched.inbox = [] ∧ lowered t) ∧
    (taskPktOk p (s.ptagAt stn) = false → bitsOf (p.dws.getD 1 0).toNat 55 0 = 0 →
      ∃ t, exec .taskPacket s = .next t ∧ (t.stn stn).sched = (s.stn stn).sched ∧ SameStorage s t ∧ lowered t)) ∧
  (∀ (stn : Nat) (r : RecEntry) (s : State), s.hand.msg = .recordMove stn r → (s.stn stn).sched.preempted = false → s.canInsert stn = true →
    r.heldFor = none → s.tenantAt stn = s.tenantOf r.ptag →
    ∃ t x, exec .recordMove s = .next t ∧ x ∈ (t.stn stn).sched.ready ++ (t.stn stn).sched.spilled ∧ x.body = r.body ∧ x.tid = r.tid ∧
      x.ptag = s.ptagAt stn ∧ SameContexts s t ∧
      (t.stn stn).steal.waiting = ((s.stn stn).steal.waiting && !r.granted) ∧
      (t.stn stn).steal.first = (if r.granted then ((s.stn stn).steal.first + 1) % 4 else (s.stn stn).steal.first)) ∧
  (∀ (stn : Nat) (d : DataArr) (pl : Place) (l : Loc) (s : State), s.hand.msg = .dataArrivalWithHandler stn d →
    (s.stn stn).sched.preempted = false → (s.stn stn).sched.resuming = false → (s.stn stn).sched.spilledMsgs = [] →
    (s.stn stn).slice.windows = [] → s.homedAt d.addr pl →
    pl.stash = true → d.addr % 2 ^ 22 + d.data.length ≤ readyStore → 1 ≤ d.data.length → d.addr % 16 + d.data.length ≤ 16 →
    (s.homeWord pl d.addr).2 = false → d.sig = none → d.src = .cube → (freeSlot (s.stn stn).sched.slots).isSome = true →
    (s.stn stn).kernel.pending = [] → s.freeCtx stn = some l →
    ∃ t x, exec .dataArrivalWithHandler s = .next t ∧ (t.ctx l).task = some x ∧ x.key = s.datum + (s.stn stn).sched.horizon ∧
      x.body.kind = 2 ∧ x.body.pin = true ∧ (∀ k, k < d.data.length → t.byte (pl.canon + k) = d.data.getD k 0) ∧
      SameContextsBut l s t ∧ (t.ctx l).busy = true ∧ (t.ctx l).sup = false ∧ (t.ctx l).pc = d.pc ∧
      (t.ctx l).readG 1 = BitVec.ofNat 64 d.addr ∧ (t.ctx l).readG 2 = BitVec.ofNat 64 d.data.length) ∧
  (∀ (stn : Nat) (r : RecEntry) (s : State), s.hand.msg = .spillRefill stn → (s.stn stn).sched.preempted = false →
    (s.stn stn).sched.inbox = [] → (s.stn stn).sched.spilledMsgs = [] → (∀ y ∈ (s.stn stn).sched.ready, y.tid ≠ r.tid) →
    (s.stn stn).sched.spilled = [r] → (freeSlot (s.stn stn).sched.slots).isSome = true →
    ∃ t x, exec .spillRefill s = .next t ∧ (t.stn stn).sched.spilled = [] ∧ (t.stn stn).sched.ready = (s.stn stn).sched.ready ++ [x] ∧
      x.body = r.body ∧ x.tid = r.tid ∧ x.key = r.key ∧ SameContexts s t)

/-- R20, R152, R243, R248: the traps that arrive from outside an instruction: BUDGET and POISON at a user boundary, with TPC the next
instruction, and PREEMPT in context 0 of core 0 once the station is empty. -/
def Obligations.ArrivingTraps : Prop :=
  ∀ (l : Loc) (a : Word) (m : Nat) (s : State),
    let c := s.ctx l
    (s.hand.msg = .budgetTrap l → c.sup = false → c.flow.bpend = true → ∃ t, exec .budgetTrap s = .next t ∧ SameContextsBut l s t ∧
      SameStorage s t ∧ (t.ctx l).csr.tcause = causeBUDGET ∧ (t.ctx l).csr.taddr = 0 ∧ (t.ctx l).csr.tpc = c.pc ∧ (t.ctx l).sup = true ∧
      (t.ctx l).flow.bpend = false ∧ (t.ctx l).pc = (s.stn l.stn).kernel.tvec) ∧
    (s.hand.msg = .poisonReport l a.toNat → c.sup = false → c.flow.ppend = some a → ∃ t, exec .poisonReport s = .next t ∧
      SameContextsBut l s t ∧ SameStorage s t ∧ (t.ctx l).csr.tcause = causePOISON ∧ (t.ctx l).csr.taddr = a ∧ (t.ctx l).csr.tpc = c.pc ∧
      (t.ctx l).flow.ppend = none ∧ (t.ctx l).pc = (s.stn l.stn).kernel.tvec) ∧
    (s.hand.msg = .preemptRaised l.stn → (s.stn l.stn).kernel.raise = some m → (s.stn l.stn).sched.preempted = true →
      s.anyTask l.stn = false → (s.stn l.stn).sched.ready = [] → (s.ctx ⟨l.stn, 0, 0⟩).busy = false →
      ∃ t, exec .preemptRaised s = .next t ∧ SameContextsBut ⟨l.stn, 0, 0⟩ s t ∧ SameStorage s t ∧
        (t.ctx ⟨l.stn, 0, 0⟩).csr.tcause = causePREEMPT ∧ (t.ctx ⟨l.stn, 0, 0⟩).csr.taddr = BitVec.ofNat 64 m ∧
        (t.ctx ⟨l.stn, 0, 0⟩).sup = true ∧ (t.ctx ⟨l.stn, 0, 0⟩).pc = (s.stn l.stn).kernel.tvec)

/-- R109, R240, R241, R243, R244: KMSG sends 64 bytes as the message that their TYPE names, after its checks; a message that arrives takes
the next entry of the kernel's queue, has its operation and raises KMSG in a free context, or waits for one; a full queue makes it
wait. PREEMPT and RESUME change the station's mode, CONFIG its scheduler's settings. -/
def Obligations.KernelMessages : Prop :=
  (∀ (b c : Nat) (pl : Place) (bs : List Byte) (s : State), s.cur.sup = true → s.ready [b, c] →
    let t := (s.cur.readG b).toNat
    let a := (s.cur.readG c).toNat
    let l := s.hand.at_
    let cube := bitsOf t 43 32
    let dst := bitsOf t 5 0
    let legal := bitsOf t 63 44 = 0 ∧ bitsOf t 31 6 = 0
    (¬ legal → exec (.kmsg b c) s = .next (s.trap causeILL (BitVec.ofNat 64 s.baseAddr))) ∧
    (legal → a % 64 ≠ 0 → exec (.kmsg b c) s = .next (s.trap causeALIGN (BitVec.ofNat 64 a))) ∧
    (legal → a % 64 = 0 → a < 2 ^ 56 → s.reach ⟨l.stn, true, true⟩ a = .ok pl →
      readBytes (fun x => s.wordAtStn s.cur.flow.rbuf l.stn { pl with canon := pl.canon + x - a } x) a a 64 = .ok bs →
      (cube = s.cube → ∃ u m, exec (.kmsg b c) s = .next u ∧ u.net = s.net ++ [kmsgEvent m] ∧ m.stn = dst ∧ m.sstn = l.stn ∧ m.scube = s.cube ∧
        m.dws = (dwsOf 8 bs).map (BitVec.ofNat 64) ∧ u.cur.flow.c1 = s.cur.flow.c1 + (if dst = l.stn then 0 else 1) ∧
        u.cur.files = s.cur.files ∧ u.cur.pc = s.nextOf ∧ SameContextsBut l s u ∧ SameStorage s u) ∧
      (cube ≠ s.cube → Map.get [] s.router.routes cube = [] → ∃ u, exec (.kmsg b c) s = .next u ∧ u.net = s.net ∧
        u.cur = s.cur.retire s.hand.words ∧ Map.get 0 u.plat.errors 10 = min (Map.get 0 s.plat.errors 10 + 1) (2 ^ 32 - 1)) ∧
      (cube ≠ s.cube → Map.get [] s.router.routes cube ≠ [] → ∃ u, exec (.kmsg b c) s = .next u ∧ u.cur.files = s.cur.files ∧
        u.cur.pc = s.nextOf ∧ u.cur.flow.c2 = s.cur.flow.c2 + 1 ∧ SameContextsBut l s u ∧ SameStorage s u))) ∧
  (∀ (m : KMsg) (l : Loc) (s : State), (s.stn m.stn).kernel.pending = [] → m.src = .cube → (s.stn m.stn).sched.spilledMsgs = [] →
    (s.stn m.stn).sched.inbox = [] →
    let k := (s.stn m.stn).kernel
    let fa := vaultFa s.cube (m.stn * 2 ^ 32 + 0xFFFFC000 + 64 * (k.next % 256))
    let dw := fun i => (m.dws.getD i 0).toNat
    let taken := fun (i : Instr) (op : State → Prop) => ∃ t, exec i s = .next t ∧ op t ∧ (t.stn m.stn).kernel.next = (k.next + 1) % 256 ∧
      (s.freeCtx m.stn = none → (t.stn m.stn).kernel.pending = [fa]) ∧
      (s.freeCtx m.stn = some l → (t.stn m.stn).kernel.pending = [] ∧ (t.ctx l).csr.tcause = causeKMSG ∧
        (t.ctx l).csr.taddr = BitVec.ofNat 64 fa ∧ (t.ctx l).sup = true ∧ (t.ctx l).busy = true ∧ (t.ctx l).pc = k.tvec)
    (s.hand.msg = .soft m → taken .soft (fun t => (t.stn m.stn).sched = (s.stn m.stn).sched)) ∧
    (s.hand.msg = .kernelMessageReserved m → taken .kernelMessageReserved (fun t => (t.stn m.stn).sched = (s.stn m.stn).sched)) ∧
    (s.hand.msg = .config m → taken .config (fun t =>
      let c := (t.stn m.stn).sched
      c.horizon = (if dw 1 = 0 then (s.stn m.stn).sched.horizon else dw 1) ∧ c.spill = dw 2 ∧ c.spillSz = dw 3 ∧ c.msgq = dw 4 ∧ c.msgqSz = dw 5 ∧
      (t.stn m.stn).steal.on = bitAt (dw 6) 0 ∧ c.savepool = dw 7)) ∧
    (s.hand.msg = .preempt m → taken .preempt (fun t => (t.stn m.stn).sched.preempted = true ∧
      ((s.stn m.stn).sched.preempted = false → (t.stn m.stn).kernel.raise = some fa))) ∧
    (s.hand.msg = .resume m → taken .resume (fun t => (t.stn m.stn).sched.preempted = false)) ∧
    (s.hand.msg = .move m → s.stealable m.stn = none → taken .move (fun t => (t.stn m.stn).sched = (s.stn m.stn).sched))) ∧
  (∀ (m : KMsg) (s : State), s.hand.msg = .soft m → 256 ≤ (s.stn m.stn).kernel.pending.length →
    ∃ t, exec .soft s = .next t ∧ .soft m ∈ t.net ∧ SameStorage s t ∧ SameContexts s t)

/-- R238, R239, R242: an idle station asks its neighbours in turn for a record and backs off 1,000 ticks after the last; a victim gives its
eligible record with the largest key, of its store or its spill, or refuses; balancing repeats every 10,000 ticks. -/
def Obligations.StealingAndBalancing : Prop :=
  (∀ (n v : Nat) (s : State), s.hand.msg = .stealRound n → s.idle n = true → (s.stn n).steal.waiting = false → (s.stn n).steal.until_ ≤ s.datum →
    ((s.neighbours n (s.stn n).steal.first)[(s.stn n).steal.asked]? = some v → ∃ t, exec .stealRound s = .next t ∧
      t.net = s.net ++ [.stealRequest v n] ∧ (t.stn n).steal.waiting = true ∧ (t.stn n).steal.asked = (s.stn n).steal.asked + 1 ∧
      SameContexts s t ∧ SameStorage s t) ∧
    ((s.neighbours n (s.stn n).steal.first)[(s.stn n).steal.asked]? = none → ∃ t, exec .stealRound s = .next t ∧ t.net = s.net ∧
      (s.datum + 1000, .stealBackoffExpiry n) ∈ t.timers ∧ (t.stn n).steal.until_ = s.datum + 1000 ∧ (t.stn n).steal.asked = 0 ∧
      SameContexts s t ∧ SameStorage s t)) ∧
  (∀ (v n : Nat) (s : State), s.hand.msg = .stealRequest v n →
    let t := s.stn v
    let may := t.sched.preempted = false ∧ t.sched.resuming = false ∧ t.steal.on = true ∧
      (2 ≤ t.sched.ready.length + t.sched.spilled.length ∨ s.freeCtx v = none) ∧ s.ptagAt v = s.ptagAt n
    (¬ may → exec .stealRequest s = .next (s.send (.stealRefusal n))) ∧
    (may → s.stealable v = none → exec .stealRequest s = .next (s.send (.stealRefusal n))) ∧
    (∀ r, may → s.stealable v = some r → s.dirtyWords v = [] → t.slice.pubs = [] → t.slice.wbOut = [] → t.sched.spilled = [] →
      t.sched.inbox = [] → t.sched.spilledMsgs = [] → ∃ u, exec .stealRequest s = .next u ∧
      u.net = s.net ++ [.publicationComplete ⟨s.cube, v, 0, .record s.cube n { r with granted := true }⟩ t.slice.sig] ∧
      (∀ x ∈ (u.stn v).sched.ready, x.tid ≠ r.tid) ∧ SameContexts s u ∧ SameStorage s u)) ∧
  (∀ (n : Nat) (s : State), s.hand.msg = .stealRefusal n → ∃ t, exec .stealRefusal s = .next t ∧ (t.stn n).steal.waiting = false ∧
    SameContexts s t ∧ SameStorage s t ∧ (t.net = s.net ∨ t.net = s.net ++ [.stealRound n])) ∧
  (∀ (n : Nat) (s : State), s.hand.msg = .stealBackoffExpiry n → ∃ t, exec .stealBackoffExpiry s = .next t ∧ (t.stn n).steal.until_ = 0 ∧
    SameContexts s t ∧ SameStorage s t ∧ (t.net = s.net ∨ t.net = s.net ++ [.stealRound n])) ∧
  (∀ (n : Nat) (s : State), s.hand.msg = .loadBalancing n → ∃ t, exec .loadBalancing s = .next t ∧
    (s.datum + 10000, .loadBalancing n) ∈ t.timers ∧ SameContexts s t ∧ SameStorage s t)

/-! ## Engines: commands -/

/-- R26 to R28, R77, R162 to R165, R208, R209: PUSH issues the 64 bytes at an address as a command to the inbox that its selector names,
and stalls on a full inbox of its own station alone. A command that arrives is answered FAULT where it is malformed or of a parcel
without a right to it, waits where the inbox is full, and otherwise enters it; a bank's queue takes it in any case. A result enters its task's FIFO, lowers FIFOPEND and C3, and wakes a parked POP. POP and TRYPOP take the
oldest entry, RFCNT counts. -/
def Obligations.PushAndResults : Prop :=
  (∀ (a b wc : Nat) (g : Option Guard) (bs : List Byte) (s u : State), s.mayIssue [a, b] wc →
    let va := (s.cur.readG b).toNat
    let v := (s.cur.readG a).toNat
    let runs := bindRuns (bindOf s.cur g)
    let k := cmdOfDws (dwsOf 8 bs)
    (runs = some false → exec (.push a b wc g) s = .next s.retire) ∧
    (runs = some true → va % 64 ≠ 0 → exec (.push a b wc g) s = .next (s.trap causeALIGN (BitVec.ofNat 64 va))) ∧
    (va % 64 = 0 → Exec.readOwn va 64 s = .ok bs u →
      (runs = some true → u.selector s.hand.at_.stn v false = none → exec (.push a b wc g) s = .next (u.trap causePROT (BitVec.ofNat 64 v))) ∧
      (∀ cube stn inbox, u.selector s.hand.at_.stn v false = some (cube, stn, inbox) →
        u.issues (exec (.push a b wc g) s) g cube stn inbox k ∧
        (runs = some true → (∀ h ∈ u.here.eng.heldCmds, sameWay h.msg (u.cmdOf cube stn inbox k) = false) →
          u.wayBusy s.hand.at_.stn (u.cmdOf cube stn inbox k) = false →
          cube = s.cube → stn = s.hand.at_.stn → u.inboxRoom stn inbox k.ptag = false →
          ∃ t, exec (.push a b wc g) s = .next t ∧ t.cur.flow.waitOn = some 0 ∧ t.cur.pc = s.cur.pc ∧ t.cur.files = s.cur.files ∧
            t.net = u.net ∧ t.c3 = s.c3)))) ∧
  (∀ (c : CmdMsg) (l : Loc) (tid : Nat) (s : State), s.hand.msg = .engineCommand c → c.src = .task l tid → c.sig = none → c.inbox ≤ 3 →
    let bad := fun (v : Word) => quietCmd c.cmd = false → c.cmd.reply = 0 → cmdOp c.cmd 3 = 0 → ∃ t, exec .engineCommand s = .next t ∧ SameContexts s t ∧ SameStorage s t ∧
      t.net = s.net ++ [.resultOrStatus ⟨c.tid, entryWord 0 3 c.cmd.tag, v, true, true, true⟩]
    let right := cmdMalformed c.inbox c.cmd = false ∧ s.cmdParcelOk c.stn c.inbox c.cmd.ptag = true
    let places := s.inboxOf c.stn c.inbox c.cmd.ptag
    let e := fun (x : State) => (x.stn c.stn).eng
    let queue := fun (x : State) => Map.get [] (x.vault c.stn).queues c.cmd.ptag
    (cmdMalformed c.inbox c.cmd = true → bad (faultValue causeILL 0)) ∧
    (cmdMalformed c.inbox c.cmd = false → s.cmdParcelOk c.stn c.inbox c.cmd.ptag = false → bad (faultValue causePROT 0)) ∧
    (right → places.2 ≤ places.1 → c.inbox ≠ 2 → exec .engineCommand s = .next (s.requeue (.engineCommand c))) ∧
    (right → places.1 < places.2 ∨ c.inbox = 2 → ∃ t, exec .engineCommand s = .next t ∧ SameContexts s t ∧ SameStorage s t ∧
      (c.inbox = 0 → (e t).matrix.inbox = (e s).matrix.inbox ++ [c] ∧ ((e s).matrix.inbox = [] → t.net = s.net ++ [matrixMsg c.stn c])) ∧
      (c.inbox = 1 → (e t).copy.inbox = (e s).copy.inbox ++ [c] ∧ ((e s).copy.inbox = [] → t.net = s.net ++ [.cpchainCommand c.stn])) ∧
      (c.inbox = 2 → queue t = queue s ++ [c] ∧ t.net = s.net ++ [.bkrunCommand c.stn]) ∧
      (c.inbox = 3 → (e t).coll.inbox = (e s).coll.inbox ++ [c] ∧ ((e s).coll.inbox = [] → t.net = s.net ++ [collMsg c.stn c])))) ∧
  (∀ (r : ResultMsg) (l : Loc) (s : State), s.hand.msg = .resultOrStatus r → r.tid < 2 ^ 56 → s.whereIs r.tid = some l →
    let f := (s.ctx l).flow
    let dropped := fun (t : State) => t.c3of r.tid = s.c3of r.tid - (if r.dropsC3 then 1 else 0)
    (r.toFifo = true → f.saved = false → f.fifo.length < 16 → ∃ t, exec .resultOrStatus s = .next t ∧ SameContextsBut l s t ∧ SameStorage s t ∧
      (t.ctx l).flow.fifo = f.fifo ++ [(r.entry, r.value)] ∧ (t.ctx l).flow.fifopend = f.fifopend - (if r.counted then 1 else 0) ∧
      (∀ w, f.susp = some (.park .pop w) → (t.ctx l).flow.susp = some (.park .pop true)) ∧ (t.ctx l).files = (s.ctx l).files ∧ dropped t) ∧
    (r.toFifo = true → f.saved = true ∨ 16 ≤ f.fifo.length → exec .resultOrStatus s = .next (s.requeue (.resultOrStatus r))) ∧
    (r.toFifo = false → ∃ t, exec .resultOrStatus s = .next t ∧ SameContexts s t ∧ SameStorage s t ∧ dropped t)) ∧
  (∀ (stn inbox core k : Nat) (s : State), s.hand.msg = .pushStallRelease stn inbox → core < 8 → k < 4 →
    ∃ t, exec .pushStallRelease s = .next t ∧ SameStorage s t ∧ t.net = s.net ∧
      t.ctx ⟨stn, core, k⟩ = (let c := s.ctx ⟨stn, core, k⟩
        if c.flow.waitOn = some 0 then { c with flow := { c.flow with waitOn := none } } else c)) ∧
  (∀ (a wc : Nat) (s : State), s.waitCount s.hand.at_ wc = 0 →
    let c := s.cur
    let gives := fun (i : Instr) (fifo : List (Word × Word)) (x y : Word) => ∃ t, exec i s = .next t ∧
      OnlyCur s t (((({ c with flow := { c.flow with fifo := fifo } } : Ctx).writeG a x).writeG (a + 1) y).retire s.hand.words)
    (∀ e es, c.flow.fifo = e :: es → gives (.pop a wc) es e.1 e.2 ∧ gives (.trypop a wc) es e.1 e.2) ∧
    (c.flow.fifo = [] → gives (.trypop a wc) [] (BitVec.ofNat 64 (255 * 2 ^ 32)) 0 ∧
      (c.flow.fifopend = 0 → gives (.pop a wc) [] (BitVec.ofNat 64 (255 * 2 ^ 32)) 0) ∧
      (c.flow.fifopend ≠ 0 → c.sup = false → ∃ t, exec (.pop a wc) s = .next t ∧
        OnlyCur s t (let d := c.charge s.hand.words; { d with flow := { d.flow with susp := some (.park .pop false) } })) ∧
      (c.flow.fifopend ≠ 0 → c.sup = true → exec (.pop a wc) s = .next s)) ∧
    ∃ t, exec (.rfcnt a wc) s = .next t ∧
      OnlyCur s t ((c.writeG a (BitVec.ofNat 64 (c.flow.fifopend % 2 ^ 16 * 2 ^ 16 + c.flow.fifo.length))).retire s.hand.words))

/-! ## Stream handles -/

/-- R78, R171 to R175: HWAITF and HWAITE complete where the handle has that many filled or free slots and park the task otherwise; HADVP
and HADVC move an index round and change FILL, and wake who waits for it; HSET installs a handle from its 16 bytes or makes it not
valid, HGET reads a field. What a handle does not allow traps HANDLE. -/
def Obligations.Handles : Prop :=
  (∀ (o : HOps) (filled : Bool) (s : State), s.ready (xRegs o.c) → s.waitCount s.hand.at_ o.wc = 0 →
    let i : Instr := if filled then .hwaitf o else .hwaite o
    let l := s.hand.at_
    let c := s.cur
    let h := s.handle l.stn o.h
    let n := (c.xval o.c).toNat
    let have_ := if filled then h.fill else h.nslot - h.fill
    (bindRuns (bindOf c o.guard) = some false → exec i s = .next s.retire) ∧
    (bindRuns (bindOf c o.guard) = some true →
      ((h.valid = false ∨ h.nslot < n) → exec i s = .next (s.trap causeHANDLE (BitVec.ofNat 64 o.h))) ∧
      (h.valid = true → n ≤ h.nslot → n ≤ have_ → exec i s = .next s.retire) ∧
      (h.valid = true → n ≤ h.nslot → have_ < n → c.sup = false → ∃ t, exec i s = .next t ∧ t.cur.flow.susp = some (.park .again false) ∧
        t.here.hwaiters = s.here.hwaiters ++ [⟨o.h, filled, n, c.tid⟩] ∧ t.cur.pc = c.pc ∧ t.cur.files = c.files ∧
        SameContextsBut l s t ∧ SameStorage s t) ∧
      (h.valid = true → n ≤ h.nslot → have_ < n → c.sup = true → exec i s = .next s))) ∧
  (∀ (o : HOps) (s : State), s.ready (xRegs o.c) → s.waitCount s.hand.at_ o.wc = 0 → bindRuns (bindOf s.cur o.guard) = some true →
    s.allPerformed →
    let l := s.hand.at_
    let h := s.handle l.stn o.h
    let n := (s.cur.xval o.c).toNat
    let moves := fun (i : Instr) (filled : Bool) (x : Handle) => ∃ t, exec i s = .next t ∧ t.handle l.stn o.h = x ∧
      (∀ k, k ≠ o.h → t.handle l.stn k = s.handle l.stn k) ∧
      (s.here.hwaiters = [] → t.cur = s.cur.retire s.hand.words ∧ SameContextsBut l s t ∧ SameStorage s t) ∧
      (∀ w m b, s.here.hwaiters = [w] → w.h = o.h → w.filled = filled → s.here.sched.preempted = false →
        w.count ≤ (if filled then x.fill else x.nslot - x.fill) → s.whereIs w.tid = some m → locIx m ≠ locIx l →
        (s.ctx m).flow.susp = some (.park .again b) → t.here.hwaiters = [] ∧ (t.ctx m).flow.susp = some (.park .again true))
    (h.valid = true → n ≤ h.nslot - h.fill → moves (.hadvp o) true { h with pix := (h.pix + n) % h.nslot, fill := h.fill + n }) ∧
    ((h.valid = false ∨ h.nslot - h.fill < n) → exec (.hadvp o) s = .next (s.trap causeHANDLE (BitVec.ofNat 64 o.h))) ∧
    (h.valid = true → n ≤ h.fill → moves (.hadvc o) false { h with cix := (h.cix + n) % h.nslot, fill := h.fill - n }) ∧
    ((h.valid = false ∨ h.fill < n) → exec (.hadvc o) s = .next (s.trap causeHANDLE (BitVec.ofNat 64 o.h)))) ∧
  (∀ (h b wc : Nat) (g : Option Guard) (bs : List Byte) (s u : State), s.ready [b] → s.waitCount s.hand.at_ wc = 0 →
    bindRuns (bindOf s.cur g) = some true → s.here.hwaiters = [] →
    let va := (s.cur.readG b).toNat
    let l := s.hand.at_
    let sets := fun (x : Handle) => ∃ t, exec (.hset h b wc g) s = .next t ∧ t.handle l.stn h = x ∧
      (∀ k, k ≠ h → t.handle l.stn k = s.handle l.stn k) ∧ t.cur = s.cur.retire s.hand.words ∧ SameContextsBut l s t ∧ SameStorage s t
    (va = 0 → sets { (s.handle l.stn h) with valid := false }) ∧
    (va % 16 ≠ 0 → exec (.hset h b wc g) s = .next (s.trap causeALIGN (BitVec.ofNat 64 va))) ∧
    (va ≠ 0 → va % 16 = 0 → Exec.readOwn va 16 s = .ok bs u →
      let d0 := natOf (bs.take 8)
      let d1 := natOf (bs.drop 8)
      let nslot := bitsOf d0 51 39
      let slotsz := bitsOf d0 38 22
      let base := bitsOf d0 21 0
      let mode := bitsOf d1 63 62
      let fill := bitsOf d1 36 24
      let cix := bitsOf d1 23 12
      let pix := bitsOf d1 11 0
      let good := bitsOf d0 63 52 = 0 ∧ bitsOf d1 61 37 = 0 ∧ 1 ≤ nslot ∧ nslot ≤ 4096 ∧ 64 ≤ slotsz ∧ slotsz ≤ 65536 ∧ slotsz % 64 = 0 ∧
        base % 64 = 0 ∧ base + nslot * slotsz ≤ 0x3C0000
      let whole := fill ≤ nslot ∧ pix < nslot ∧ cix < nslot ∧ pix = (cix + fill) % nslot
      bs.length = 16 →
      (good → mode = 0 → sets ⟨true, base, slotsz, nslot, 0, 0, 0, 0⟩) ∧
      (good → mode = 1 → whole → sets ⟨true, base, slotsz, nslot, pix, cix, fill, 1⟩) ∧
      ((¬ good ∨ 2 ≤ mode ∨ (mode = 1 ∧ ¬ whole)) → exec (.hset h b wc g) s = .next (u.trap causeHANDLE (BitVec.ofNat 64 va))))) ∧
  (∀ (a h : Nat) (x : XOp) (wc : Nat) (s : State), s.ready (xRegs x) → s.waitCount s.hand.at_ wc = 0 →
    let y := s.handle s.hand.at_.stn h
    let n := (s.cur.xval x).toNat
    let slot := fun (ix : Nat) => stashFa s.cube s.hand.at_.stn (y.base + ix * y.slotsz)
    let v := match n with
      | 0 => y.fill | 1 => y.nslot - y.fill | 2 => y.pix | 3 => y.cix | 4 => slot y.cix | 5 => slot y.pix
      | 6 => (if y.valid then 2 ^ 63 else 0) + y.nslot * 2 ^ 39 + y.slotsz * 2 ^ 22 + y.base | _ => y.nslot * y.slotsz
    (n ≤ 7 → ∃ t, exec (.hget a h x wc) s = .next t ∧ OnlyCur s t ((s.cur.writeG a (BitVec.ofNat 64 v)).retire s.hand.words)) ∧
    (7 < n → exec (.hget a h x wc) s = .next (s.trap causeILL (BitVec.ofNat 64 s.baseAddr))))

/-! ## Tensors -/

/-- R203 to R205: TDEF installs the entry that 64 bytes, an extension record and a shape describe once they pass every check, and removes it
for an address of 0; TSHP gives an entry another shape. What fails a check traps FMT and changes nothing. -/
def Obligations.TensorTable : Prop :=
  ∀ (o : EngOps) (s : State), s.ready [o.b, o.c] → s.waitCount s.hand.at_ o.wc = 0 → s.cur.flow.flights = [] →
    let ptag := s.ptagAt s.hand.at_.stn
    let b := (s.cur.readG o.b).toNat
    let c := (s.cur.readG o.c).toNat
    let runs := bindRuns (bindOf s.cur o.guard)
    let installs := fun (i : Instr) (id : Nat) (d : Option Desc) => ∃ t, exec i s = .next t ∧ t.tensor ptag id = d ∧
      (∀ p k, k + 1024 * p ≠ id + 1024 * ptag → t.tensor p k = s.tensor p k) ∧ t.cur = s.cur.retire s.hand.words ∧
      SameContextsBut s.hand.at_ s t ∧ SameStorage s t
    let traps := fun (i : Instr) (cause a : Nat) => exec i s = .next (s.trap cause (BitVec.ofNat 64 a))
    (runs = some false → exec (.tdef o) s = .next s.retire ∧ exec (.tshp o) s = .next s.retire) ∧
    (runs = some true →
      (1023 < c → traps (.tdef o) causeILL s.baseAddr) ∧
      (c ≤ 1023 → b = 0 → installs (.tdef o) c none) ∧
      (c ≤ 1023 → b % 64 ≠ 0 → traps (.tdef o) causeALIGN b) ∧
      (∀ bs xs lens, ∀ u v w : State, c ≤ 1023 → b ≠ 0 → b % 64 = 0 → Exec.readIn .va b 64 s = .ok bs u →
        let d := dwsOf 8 bs
        let x := dwsOf 16 xs
        let t := descOf d x
        (bitsOf (d.getD 0 0) 53 49 ≤ 4 → xs = [] ∧ v = u) →
        (4 < bitsOf (d.getD 0 0) 53 49 → Exec.readIn .va (b + 64) 128 u = .ok xs v) →
        (descOk c d x = false → exec (.tdef o) s = .next (v.trap causeFMT (BitVec.ofNat 64 b))) ∧
        (descOk c d x = true → (t.shape = 0 → lens = some [] ∧ w = v) →
          (t.shape ≠ 0 → Exec.readShape t.lin t.shape (t.extent 1) v = .ok lens w) →
          (lens.map List.length = some t.segs → installs (.tdef o) c (some t)) ∧
          (lens.map List.length ≠ some t.segs → exec (.tdef o) s = .next (w.trap causeFMT (BitVec.ofNat 64 b))))) ∧
      (1023 < b → traps (.tshp o) causeILL s.baseAddr) ∧
      (b ≤ 1023 → s.tensor ptag b = none → traps (.tshp o) causeFMT b) ∧
      (∀ t, b ≤ 1023 → s.tensor ptag b = some t →
        (c = 0 → installs (.tshp o) b (some { t with shape := 0, segs := 0 })) ∧
        (c % 64 ≠ 0 → traps (.tshp o) causeALIGN c) ∧
        (∀ u : State, c ≠ 0 → c % 64 = 0 →
          (Exec.readShape t.lin c (t.extent 1) s = .ok none u → exec (.tshp o) s = .next (u.trap causeFMT (BitVec.ofNat 64 c))) ∧
          (∀ lens, Exec.readShape t.lin c (t.extent 1) s = .ok (some lens) u →
            installs (.tshp o) b (some { t with shape := bitsOf c 47 6 * 64, segs := lens.length })))))

/-- R206 to R208, R211, R213, R214, R216, R225, R230 to R232: the instructions of the engines build the commands of R208 from their registers
and issue them, after checks that trap precisely; CPWAIT arms its condition at the word's home; SENDH sends bytes to a stash with
the handler that they start. -/
def Obligations.EngineIssue : Prop :=
  ∀ (o : EngOps) (s : State),
    let l := s.hand.at_
    let ptag := s.ptagAt l.stn
    let a := (s.cur.readG o.a).toNat
    let b := (s.cur.readG o.b).toNat
    let c := (s.cur.readG o.c).toNat
    let e := (s.cur.readG (o.c + 1)).toNat
    let issues := fun (i : Instr) (cube stn inbox opcode flags : Nat) (ops : List Nat) =>
      s.issues (exec i s) o.guard cube stn inbox ⟨flags, false, ptag, opcode, opndOf ops, 0, 0⟩
    let own := fun (i : Instr) (inbox opcode flags : Nat) (ops : List Nat) => issues i s.cube l.stn inbox opcode flags ops
    let traps := fun (i : Instr) (cause v : Nat) => bindRuns (bindOf s.cur o.guard) = some true →
      exec i s = .next (s.trap cause (BitVec.ofNat 64 v))
    let ill := fun (i : Instr) => traps i causeILL s.baseAddr
    let discards := fun (i : Instr) => bindRuns (bindOf s.cur o.guard) = some false → exec i s = .next s.retire
    let multiply := fun (i : Instr) (opcode : Nat) (trav seg : Bool) => discards i ∧ (s.mayIssue [o.b, o.c, o.c + 1] o.wc →
      let ida := bitsOf b 9 0
      let idb := bitsOf b 25 16
      let found := comboCheck seg ida idb (s.tensor ptag ida) (s.tensor ptag idb)
      let ok := mmaValuesOk trav s.here.eng.matrix.en b e
      (ok = false → ill i) ∧
      (∀ id, ok = true → found = .error id → traps i causeFMT id) ∧
      (∀ x y k g, ok = true → found = .ok (x, y, k, g) →
        (mmaOriginsOk trav k y.fmt c e = false → ill i) ∧
        (mmaOriginsOk trav k y.fmt c e = true → own i 0 opcode 1 [b + o.a * 2 ^ 32, c, e, 0, 0])))
    let tile := fun (i : Instr) (opcode flags : Nat) => discards i ∧ (s.mayIssue [o.b, o.c] o.wc →
      (1023 < b → ill i) ∧
      (b ≤ 1023 → s.tensor ptag b = none → traps i causeFMT b) ∧
      (∀ t, b ≤ 1023 → s.tensor ptag b = some t →
        (2 < t.fmt → traps i causeFMT b) ∧ (t.fmt ≤ 2 → own i 0 opcode flags [b + o.a * 2 ^ 32, c, 0, 0, 0])))
    let collective := fun (i : Instr) (opcode : Nat) (mcast : Bool) => discards i ∧ (s.mayIssue [o.a, o.b, o.c] o.wc →
      let size := if collFmt a = 1 then 2 else 4
      (collDescOk mcast a = false → ill i) ∧
      (collDescOk mcast a = true → collOpOk a = false → traps i causeFMT a) ∧
      (collDescOk mcast a = true → collOpOk a = true →
        (b % size ≠ 0 → traps i causeALIGN b) ∧ (b % size = 0 → c % size ≠ 0 → traps i causeALIGN c) ∧
        (b % size = 0 → c % size = 0 → own i 3 opcode 0 [a, b, c, 0, 0])))
    multiply (.mma o) 0 false false ∧ multiply (.mtrav o) 1 true false ∧ multiply (.mmasd o) 5 false true ∧
    tile (.mst o) 3 0 ∧ tile (.mld o) 4 1 ∧
    discards (.mzero o) ∧ (s.mayIssue [o.b] o.wc → (2 ^ 32 ≤ b → ill (.mzero o)) ∧ (b < 2 ^ 32 → own (.mzero o) 0 2 1 [o.a * 2 ^ 32, b, 0, 0, 0])) ∧
    discards (.cpchain o) ∧ (s.mayIssue [o.b] o.wc →
      (b % 256 ≠ 0 → traps (.cpchain o) causeALIGN b) ∧ (b % 256 = 0 → own (.cpchain o) 1 0x0100 0 [b, 0, 0, 0, 0])) ∧
    discards (.bkrun o) ∧ (s.mayIssue [o.a, o.b, o.c] o.wc →
      let good := b < 2 ^ 56 ∧ Nat.land c 0x03FF03FF03FF03FF = c
      (¬ good → ill (.bkrun o)) ∧
      (good → s.selector l.stn a true = none → traps (.bkrun o) causePROT a) ∧
      (∀ cube stn inbox, good → s.selector l.stn a true = some (cube, stn, inbox) →
        (b % 4 ≠ 0 → traps (.bkrun o) causeALIGN (b % 2 ^ 48)) ∧ (b % 4 = 0 → issues (.bkrun o) cube stn 2 0x0200 0 [b, c, 0, 0, 0]))) ∧
    collective (.clred o) 0x0300 false ∧ collective (.clmcast o) 0x0301 true ∧
    (∀ p : Exec.Part, s.mayAccess [o.b, o.c] .va o.wc → s.inTurn p → s.cleanAt p.fa →
      (2 ^ 63 ≤ c → exec (.cpwait o) s = .next (s.trap causeILL (BitVec.ofNat 64 s.baseAddr))) ∧
      (c < 2 ^ 63 → Exec.access .va .rw true b 8 s = .ok [p] s → ∃ t w, exec (.cpwait o) s = .next t ∧ t.net = s.net ++ [.waitArm w] ∧
        w.cond = .cpwait ∧ w.fa = p.fa ∧ w.va = b ∧ w.val.toNat = c ∧ w.dest = o.a ∧ w.src = .task l s.cur.tid ∧ w.words = s.hand.words ∧
        t.cur.flow.waitOn = some s.counts.id ∧ t.cur.pc = s.cur.pc ∧ t.cur.files = s.cur.files ∧ SameContextsBut l s t ∧ SameStorage s t)) ∧
    (s.ready [o.a, o.b, o.c, o.c + 1] → s.waitCount l o.wc = 0 →
      let cube := bitsOf a 54 43
      let stn := bitsOf a 27 22
      let size := c % 8 = 0 ∧ 8 ≤ c ∧ c ≤ 240
      let dest := a < 2 ^ 56 ∧ isStashFa a = true ∧ s.tenantAt l.stn ≠ none ∧ s.tenantHoldsStn (s.tenantAt l.stn) cube stn = true ∧
        a % 2 ^ 22 + c ≤ readyStore
      discards (.sendh o) ∧ (¬ size → ill (.sendh o)) ∧ (size → ¬ dest → traps (.sendh o) causePROT a) ∧
      (size → dest →
        (2 ^ 48 ≤ e → traps (.sendh o) causePROT e) ∧ (e < 2 ^ 48 → a % 8 ≠ 0 → traps (.sendh o) causeALIGN a) ∧
        (e < 2 ^ 48 → a % 8 = 0 → e % 2 ≠ 0 → traps (.sendh o) causeALIGN e) ∧
        (∀ (bs : List Byte) (u : State), bindRuns (bindOf s.cur o.guard) = some true → e < 2 ^ 48 → a % 8 = 0 → e % 2 = 0 → s.allPerformed →
          Exec.readIn .va b c s = .ok bs u → s.here.slice.pubs = [] → s.here.slice.wbOut = [] → s.dirtyWords l.stn = [] → ∃ t d, exec (.sendh o) s = .next t ∧
          t.net = u.net ++ [.publicationComplete ⟨s.cube, l.stn, 0, .data cube stn d⟩ s.here.slice.sig] ∧
          d.addr = a ∧ d.pc = e ∧ d.data = bs ∧ d.left = s.cur.csr.budget ∧ t.cur.pc = s.nextOf ∧ t.cur.files = s.cur.files ∧
          t.cur.flow.c1 = s.cur.flow.c1 + (if cube = s.cube then 1 else 0) ∧ t.cur.flow.c2 = s.cur.flow.c2 + (if cube = s.cube then 0 else 1) ∧
          SameContextsBut l s t ∧ SameStorage s t)))

/-! ## The matrix engine -/

/-- R54, R55, R71, R203, R210 to R217: the matrix engine's work on the command at its inbox's head. MMA and MMASD check their tensors and
the shapes of both, then make a step at a time: every element that the shape lets a step update takes its groups' contributions in order, every element between
segments −∞, the others stay. MTRAV loads a tile, applies it and moves it to the next station's latch, and ends at the timeout.
MZERO and MLD write an accumulator, MST its elements at their homes and answers with the sticky state. TRVCFG sets up the latch. -/
def Obligations.MatrixEvents : Prop :=
  (∀ (stn tid : Nat) (l : Loc) (c : CmdMsg) (rest : List CmdMsg) (s : State), (s.matrix stn).inbox = c :: rest → c.src = .task l tid →
    c.cmd.reply = 0 → (s.matrix stn).lent c = false →
    let m := s.matrix stn
    let k := c.cmd
    let y : Eye := ⟨stn, 0, k.ptag⟩
    let q := cmdAcc k
    let acc := fun (t : State) => Map.get ({} : Accum) (t.matrix stn).accs q
    let at_ := fun (t : State) (i j : Nat) => (Map.get 0 (acc t).vals (64 * i + j) : BitVec 32)
    let same := fun (t : State) => SameContexts s t ∧ SameStorage s t
    let completes := fun (i : Instr) (status flags : Nat) (v : Word) (P : State → Prop) => ∃ t, exec i s = .next t ∧ same t ∧
      (t.matrix stn).inbox = rest ∧ (t.matrix stn).started = false ∧ (t.matrix stn).trav = none ∧
      .resultOrStatus ⟨c.tid, entryWord flags status k.tag, v, !quietCmd k, !quietCmd k, true⟩ ∈ t.net ∧
      (∀ d ds, rest = d :: ds → matrixMsg stn d ∈ t.net) ∧ P t
    let sticky := fun (status : Nat) (t : State) => quietCmd k = true → (acc t).astat = max (acc s).astat status
    let i0 := cmdOp k 1 % 2 ^ 32
    let k0 := cmdOp k 1 / 2 ^ 32
    let j0 := cmdOp k 2 % 2 ^ 32
    let ida := bitsOf (cmdOp k 0) 9 0
    let idb := bitsOf (cmdOp k 0) 25 16
    let starts := fun (i : Instr) (x : Msg) (trav seg : Bool) (P : State → Prop) => m.started = false →
      let found := comboCheck seg ida idb (s.tensor k.ptag ida) (s.tensor k.ptag idb)
      (∀ id, found = .error id → completes i 3 m.stepFlags (faultValue causeFMT id) (sticky 3)) ∧
      (∀ a b kk g, found = .ok (a, b, kk, g) →
        let ok := mmaValuesOk trav m.en (cmdOp k 0 % 2 ^ 32) (cmdOp k 2) && mmaOriginsOk trav kk b.fmt (cmdOp k 1) (cmdOp k 2)
        (ok = false → completes i 3 m.stepFlags (faultValue causeILL 0) (sticky 3)) ∧
        (∀ cause d segs, ok = true → (s.engShape y a = .bad cause d ∨ (s.engShape y a = .ok segs ∧ s.engShape y b = .bad cause d)) →
          completes i (if cause = causePOISON then 4 else 3) m.stepFlags (faultValue cause d) (sticky (if cause = causePOISON then 4 else 3))) ∧
        (∀ segs others, ok = true → s.engShape y a = .ok segs → s.engShape y b = .ok others → ∃ t, exec i s = .next t ∧ same t ∧ (t.matrix stn).started = true ∧
          (t.matrix stn).descs = [a, b] ∧ (t.matrix stn).segs = segs ∧ (t.matrix stn).accs = m.accs ∧ t.net = s.net ++ [x] ∧ P t))
    let action := fun (a b : Desc) (seg : Bool) => if seg then sdAct m.segs i0 j0 else mmaAct a b m.segs i0 j0
    let flagsOf := fun (a b : Desc) (g : Nat) (seg : Bool) (ta tb : List (List (Nat × Nat × Nat))) =>
      orF m.stepFlags (applyStep seg a b g ta tb (action a b seg) (accList (acc s).vals)).2
    let applied := fun (a b : Desc) (g kk : Nat) (seg : Bool) (ta tb : List (List (Nat × Nat × Nat))) (t : State) =>
      let act := action a b seg
      ∀ i j, i < 64 → j < 64 → at_ t i j = match act i j with
        | .keep => at_ s i j
        | .negInf => 0xFF800000
        | .add => BitVec.ofNat 32 (stepElem (a.fmt == 1) g (tileRow a.fmt ta i) (if seg then tileRow b.fmt tb j else tileCol b.fmt tb j)
            (tileBand ta i) ((List.range (kk / g)).map (fun n => if seg then tileBand tb j else tileBand tb (n * g))) (at_ s i j).toNat).1
    let stepped := fun (a b : Desc) (g kk : Nat) (seg : Bool) (ta tb : List (List (Nat × Nat × Nat))) (t : State) =>
      (t.matrix stn).steps = m.steps + 1 ∧ (t.matrix stn).stepFlags = flagsOf a b g seg ta tb ∧ applied a b g kk seg ta tb t
    let works := fun (i : Instr) (x : Msg) (seg : Bool) => ∀ a b kk g, m.started = true → m.descs = [a, b] → combo a.fmt b.fmt = some (kk, g) →
      let n := bitsOf (cmdOp k 2) 47 32
      let kb := k0 + m.steps * kk
      (m.steps = n → completes i 0 m.stepFlags (BitVec.ofNat 64 n) (fun t => ∀ i j, i < 64 → j < 64 → at_ t i j = at_ s i j)) ∧
      (∀ ta tb, m.steps ≠ n → s.readTile y a i0 kb 64 kk = .ok ta →
        (if seg then s.readTile y b j0 kb 64 kk else s.readTile y b kb j0 kk 64) = .ok tb →
        ∃ t, exec i s = .next t ∧ same t ∧ stepped a b g kk seg ta tb t ∧ t.net = s.net ++ [x])
    (s.hand.msg = .mmaCommand stn → k.opcode = 0 → starts .mmaCommand (.mmaCommand stn) false false (fun _ => True) ∧
      works .mmaCommand (.mmaCommand stn) false) ∧
    (s.hand.msg = .mmasdCommand stn → k.opcode = 5 → starts .mmasdCommand (.mmasdCommand stn) false true (fun _ => True) ∧
      works .mmasdCommand (.mmasdCommand stn) true) ∧
    (s.hand.msg = .mtravCommand stn → k.opcode = 1 →
      starts .mtravCommand (.mtravCommand stn) true false (fun t =>
        (t.matrix stn).trav = some ⟨0, if bitAt (cmdOp k 2) 40 then travLoad else travTake, s.datum + m.timeout, 0, 0⟩ ∧
        (s.datum + m.timeout + 1, .latchTimeout stn) ∈ t.timers) ∧
      (∀ x, m.started = true → m.trav = some x → s.travReady stn x = false → exec .mtravCommand s = .next (s.requeue (.mtravCommand stn))) ∧
      (∀ a b kk g x tb, m.started = true → m.descs = [a, b] → combo a.fmt b.fmt = some (kk, g) → m.trav = some x → x.phase = travLoad →
        m.latch.length < 2 → s.readTile y b k0 j0 kk 64 = .ok tb →
        ∃ t, exec .mtravCommand s = .next t ∧ same t ∧ (t.matrix stn).latch = m.latch ++ [⟨idb, b.fmt, k0, j0, tb.flatten⟩] ∧
          (t.matrix stn).trav = some { x with phase := travTake, deadline := s.datum + m.timeout } ∧ t.net = s.net ++ [.mtravCommand stn]) ∧
      (∀ a b kk g x z zs ta, m.started = true → m.descs = [a, b] → combo a.fmt b.fmt = some (kk, g) → m.trav = some x →
        x.phase = travTake → m.latch = z :: zs →
        (z.fmt ≠ b.fmt → completes .mtravCommand 3 m.stepFlags (faultValue causeFMT idb) (sticky 3)) ∧
        (z.fmt = b.fmt → s.readTile y a i0 z.korg 64 kk = .ok ta →
          (x.step + 1 < bitsOf (cmdOp k 2) 39 32 ∨ bitAt (cmdOp k 2) 41 = false) →
          ∃ t, exec .mtravCommand s = .next t ∧ same t ∧ stepped a b g kk false ta (groupsOf 64 kk z.elems) t ∧
            (t.matrix stn).trav = some { x with phase := travMove, deadline := s.datum + m.timeout } ∧ (t.matrix stn).latch = m.latch ∧
            t.net = s.net ++ [.traverseTile stn]) ∧
        (∀ ta, z.fmt = b.fmt → s.readTile y a i0 z.korg 64 kk = .ok ta →
          bitsOf (cmdOp k 2) 39 32 ≤ x.step + 1 → bitAt (cmdOp k 2) 41 = true →
          completes .mtravCommand 0 (flagsOf a b g false ta (groupsOf 64 kk z.elems)) (BitVec.ofNat 64 (m.steps + 1)) (fun t =>
            applied a b g kk false ta (groupsOf 64 kk z.elems) t ∧ (t.matrix stn).latch = zs)))) ∧
    (s.hand.msg = .traverseTile stn → k.opcode = 1 → ∀ x z zs, m.trav = some x → x.phase = travMove → m.latch = z :: zs → m.next ≠ stn →
      (2 ≤ (s.matrix m.next).latch.length → exec .traverseTile s = .next (s.requeue (.traverseTile stn))) ∧
      ((s.matrix m.next).latch.length < 2 →
        (x.step + 1 < bitsOf (cmdOp k 2) 39 32 → ∃ t, exec .traverseTile s = .next t ∧ same t ∧
          (t.matrix m.next).latch = (s.matrix m.next).latch ++ [z] ∧ (t.matrix stn).latch = zs ∧
          (t.matrix stn).trav = some { x with step := x.step + 1, phase := travTake, deadline := s.datum + m.timeout } ∧
          t.net = s.net ++ [.mtravCommand stn]) ∧
        (bitsOf (cmdOp k 2) 39 32 ≤ x.step + 1 → completes .traverseTile 0 m.stepFlags (BitVec.ofNat 64 m.steps) (fun t =>
          (t.matrix m.next).latch = (s.matrix m.next).latch ++ [z] ∧ (t.matrix stn).latch = zs)))) ∧
    (s.hand.msg = .latchTimeout stn → ∀ x, m.trav = some x → x.deadline < s.datum → s.travReady stn x = false →
      completes .latchTimeout 5 m.stepFlags (BitVec.ofNat 64 m.steps) (sticky 5)) ∧
    (s.hand.msg = .mzeroCommand stn → k.opcode = 2 → completes .mzeroCommand 0 0 4096 (fun t =>
      (∀ i j, i < 64 → j < 64 → at_ t i j = BitVec.ofNat 32 (cmdOp k 1)) ∧ (acc t).astat = 0 ∧ (acc t).aflg = 0)) ∧
    (s.hand.msg = .mldCommand stn → k.opcode = 4 →
      (∀ id, s.accTensor c = .error id → completes .mldCommand 3 m.stepFlags (faultValue causeFMT id) (sticky 3)) ∧
      (∀ d segs (code : Nat → Nat), s.accTensor c = .ok d → s.engShape y d = .ok segs →
        let es := accElems d segs (cmdOp k 1 % 2 ^ 32) (cmdOp k 1 / 2 ^ 32)
        (∀ x ∈ es, s.tensCode y d x.2 = .ok (code x.1)) →
        let wide := fun (v : Nat) => if d.fmt = 0 then v else (cvtFF .f32 ((tfmtFloat d.fmt).getD .f32) .ne false 0 v).1
        ∃ fl, completes .mldCommand 0 fl (BitVec.ofNat 64 es.length) (fun t => (acc t).astat = 0 ∧ (acc t).aflg = fl ∧
          ∀ n, n < 4096 → (Map.get 0 (acc t).vals n : BitVec 32) =
            if n ∈ es.map (fun x => x.1) then BitVec.ofNat 32 (wide (code n)) else 0)) ∧
      (∀ d cause a, s.accTensor c = .ok d → s.engShape y d = .bad cause a →
        completes .mldCommand (if cause = causePOISON then 4 else 3) m.stepFlags (faultValue cause a) (sticky (if cause = causePOISON then 4 else 3)))) ∧
    (s.hand.msg = .mstCommand stn → k.opcode = 3 →
      (∀ d segs ps, m.started = false → s.accTensor c = .ok d → s.engShape y d = .ok segs →
        s.placeAll y d.lin ((accElems d segs (cmdOp k 1 % 2 ^ 32) (cmdOp k 1 / 2 ^ 32)).map (fun x => (x.1, d.elemAddr x.2))) = .ok (ps, none) →
        let f := (tfmtFloat d.fmt).getD .f32
        let code := fun (n : Nat) => if d.fmt = 0 then (Map.get 0 (acc s).vals n : BitVec 32).toNat
          else (cvtFF f .f32 .ne false 0 (Map.get 0 (acc s).vals n : BitVec 32).toNat).1
        ∃ t, exec .mstCommand s = .next t ∧ same t ∧ (t.matrix stn).started = true ∧ (t.matrix stn).waits.length = ps.length ∧
          ∀ p ∈ ps, ∃ w, .write w ∈ t.net ∧ w.fa = p.2.1 ∧ w.va = p.2.2 ∧ w.data = bytesOf (f.width / 8) (code p.1) ∧
            w.id ∈ (t.matrix stn).waits) ∧
      (m.started = true → (∃ i ∈ m.waits, i ∈ (s.stn stn).eng.writesOut) → exec .mstCommand s = .next (s.requeue (.mstCommand stn))) ∧
      (m.started = true → (∀ i ∈ m.waits, i ∉ (s.stn stn).eng.writesOut) → (s.stn stn).eng.wroteBad = [] → m.fail = none →
        cmdOp k 3 = 0 → completes .mstCommand (acc s).astat (orF (acc s).aflg m.stepFlags)
          (if (acc s).astat = 0 ∨ (acc s).value = 0 then BitVec.ofNat 64 m.waits.length else (acc s).value)
          (fun t => (acc t).astat = 0 ∧ (acc t).aflg = 0 ∧ (acc t).value = 0)))) ∧
  (∀ (o : EngOps) (s : State), s.ready [o.b, o.c] → s.waitCount s.hand.at_ o.wc = 0 → s.cur.sup = true →
    let b := (s.cur.readG o.b).toNat
    let v := (s.cur.readG o.c).toNat
    let stn := s.hand.at_.stn
    let ok := bitAt b 62 = false ∧ bitsOf b 59 52 = 0 ∧ bitsOf b 47 6 = 0
    let same := bitAt b 63 = false ∨ (s.ptagAt (b % 64) = s.ptagAt stn ∧ s.ptagAt stn ≠ 0)
    (bindRuns (bindOf s.cur o.guard) = some false → exec (.trvcfg o) s = .next s.retire) ∧
    (bindRuns (bindOf s.cur o.guard) = some true →
      (¬ ok → exec (.trvcfg o) s = .next (s.trap causeILL (BitVec.ofNat 64 s.baseAddr))) ∧
      (ok → ¬ same → exec (.trvcfg o) s = .next (s.trap causePROT (BitVec.ofNat 64 b))) ∧
      (ok → same → ∃ t, exec (.trvcfg o) s = .next t ∧ t.cur = s.cur.retire s.hand.words ∧ SameContextsBut s.hand.at_ s t ∧
        (t.matrix stn).latch = [] ∧ (t.matrix stn).en = bitAt b 63 ∧ (t.matrix stn).size = bitsOf b 61 60 ∧
        (t.matrix stn).dmask = bitsOf b 51 48 ∧ (t.matrix stn).next = b % 64 ∧
        (t.matrix stn).timeout = (if v = 0 then 1000000 else v) ∧ (stn ∈ s.stnIxs → (s.matrix stn).inbox ≠ [] → (t.matrix stn).trav = none) ∧
        ((∀ n, (s.matrix n).trav = none) → t.net = s.net ∧ SameStorage s t)))) ∧
  (∀ (o : EngOps) (s : State), s.ready [o.b, o.c] → s.cur.sup = false →
    let b := (s.cur.readG o.b).toNat
    let ok := bitAt b 62 = false ∧ bitsOf b 59 52 = 0 ∧ bitsOf b 47 6 = 0
    (ok → exec (.trvcfg o) s = .next (s.trap causePRIV 0)) ∧
    (¬ ok → exec (.trvcfg o) s = .next (s.trap causeILL (BitVec.ofNat 64 s.baseAddr))))

/-! ## Copies, tile tasks -/

/-- R218, R219, R226 to R229: the copy engine walks a chain record by record and moves elements, a run of them as one write of the bytes
that their sources hold, until all have landed; then it clears OWN with a strong store, and the chain's end is answered with its poison where it met
any before a fault, with the fault, or with the next record and the number consumed. TTASK hands a record to its parcel's dispatcher, which waits for its dependence and sends
it as one command to a station that lends the accumulator. -/
def Obligations.CopiesAndTiles : Prop :=
  (∀ (stn tid : Nat) (l : Loc) (k : CmdMsg) (rest : List CmdMsg) (c : Chain) (s : State), (s.copyEng stn).inbox = k :: rest →
    k.src = .task l tid → k.cmd.reply = 0 → s.hand.msg = .cpchainCommand stn →
    let y : Eye := ⟨stn, 1, k.cmd.ptag⟩
    let chain := fun (t : State) => (t.copyEng stn).chain
    let goes := fun (P : State → Prop) => ∃ t, exec .cpchainCommand s = .next t ∧ SameContexts s t ∧ SameStorage s t ∧
      .cpchainCommand stn ∈ t.net ∧ P t
    (chain s = none → goes (fun t => chain t = some ⟨cmdOp k.cmd 0, 0, none, none, false, []⟩)) ∧
    (chain s = some c → c.ended = false → c.active = [] →
      (c.rec_ = 0 → goes (fun t => chain t = some { c with ended := true })) ∧
      (c.rec_ % 256 ≠ 0 → goes (fun t => chain t =
        some { c with ended := true, fail := c.fail.or (some (3, faultValue causeALIGN c.rec_)) })) ∧
      (∀ img fa va, c.rec_ ≠ 0 → c.rec_ % 256 = 0 → s.engClean y false c.rec_ 256 = .ok img → s.engFa y false c.rec_ .r = .ok (fa, va) →
        (xOwn img = false → goes (fun t => chain t = some { c with ended := true })) ∧
        (xOwn img = true → xferOk img = false → goes (fun t => ∃ d, chain t = some d ∧ d.ended = true ∧
          d.fail = c.fail.or (some (3, faultValue causeILL fa)))) ∧
        (∀ src, xOwn img = true → xferOk img = true → s.footprint y img false = .ok src →
          goes (fun t => chain t = some { c with rec_ := xNext img, active := [⟨c.rec_, fa, img, 0, 0, [], [], [], 0⟩] })))) ∧
    (chain s = some c → c.ended = true → ∀ x, c.active = [x] → x.phase = 0 → xKind x.image = 0 → x.next < xTotal x.image →
      xBmap x.image = 0 → s.overlaps y [x.image] = .ok [] →
      let run := nextRun x.image x.next
      ∀ es pl fa va, run ≠ [] → Got.all (fun (a : Nat × Nat) => s.engBytes y (xSlin x.image) 3 a.1 (xSize x.image)) run = .ok es →
        (∀ b ∈ es.flatten, b.2 = false) →
        let bs := es.flatten.map (fun b => b.1)
        let dst := (run.headD (0, 0)).2
        s.engPlace y (xDlin x.image) dst .w = .ok (pl, fa, va) → (16 < bs.length ∨ dst % 16 + bs.length ≤ 16) →
        goes (fun t => ∃ w d z, .write w ∈ t.net ∧ w.fa = fa ∧ w.data = bs ∧ w.poison = [] ∧ chain t = some d ∧ d.active = [z] ∧
          z.next = x.next + run.length ∧ z.waits = x.waits ++ [w.id] ∧ w.id ∈ (t.stn stn).eng.writesOut)) ∧
    (chain s = some c → c.ended = true → (∀ x ∈ c.active, x.phase = 4) → ∃ t, exec .cpchainCommand s = .next t ∧ SameContexts s t ∧
      SameStorage s t ∧ (t.copyEng stn).inbox = rest ∧ chain t = none ∧
      let out : Nat × Word := match c.poison, c.fail with
        | some p, _ => (4, p) | none, some f => f | none, none => (0, BitVec.ofNat 64 (c.rec_ % 2 ^ 48 + min c.consumed 65535 * 2 ^ 48))
      .resultOrStatus ⟨k.tid, entryWord 0 out.1 k.cmd.tag, out.2, !quietCmd k.cmd, !quietCmd k.cmd, true⟩ ∈ t.net)) ∧
  (∀ (stn addr : Nat) (k : CmdMsg) (rest : List CmdMsg) (c : Chain) (x : Xfer) (pl : Place) (fa va : Nat) (s : State),
    s.hand.msg = .transferRecordComplete stn addr → (s.copyEng stn).inbox = k :: rest → (s.copyEng stn).chain = some c → c.active = [x] →
    x.addr = addr → x.phase = 1 → xBmap x.image = 0 → (s.stn stn).eng.wroteBad = [] →
    s.engPlace ⟨stn, 1, k.cmd.ptag⟩ false x.rec_ .w = .ok (pl, fa, va) →
    ∃ t w d z, exec .transferRecordComplete s = .next t ∧ SameContexts s t ∧ SameStorage s t ∧ .write w ∈ t.net ∧ w.fa = fa ∧
      w.data = bytesOf 8 (recDw x.image 0 - 2 ^ 48) ∧ w.order = 1 ∧ w.scope = 3 ∧ (t.copyEng stn).chain = some d ∧ d.active = [z] ∧
      z.phase = 2 ∧ w.id ∈ z.tail) ∧
  (∀ (stn addr i0 : Nat) (k : CmdMsg) (rest : List CmdMsg) (c : Chain) (x : Xfer) (r : Nat × Nat) (run : List (Nat × Nat)) (s : State),
    s.hand.msg = .gatherSublist stn addr i0 → (s.copyEng stn).inbox = k :: rest → (s.copyEng stn).chain = some c → c.active = [x] →
    x.addr = addr → x.phase = 0 → x.rows = [r] →
    let y : Eye := ⟨stn, 1, k.cmd.ptag⟩
    s.overlaps y [x.image] = .ok [] → run ≠ [] →
    copyRuns (xSize x.image) ((List.range (xExt x.image 0)).map (gatherAddrs x.image r.1 r.2)) = [run] →
    ∀ es pl fa va, Got.all (fun (a : Nat × Nat) => s.engBytes y (xSlin x.image) 3 a.1 (xSize x.image)) run = .ok es →
      (∀ b ∈ es.flatten, b.2 = false) →
      let bs := es.flatten.map (fun b => b.1)
      let dst := (run.headD (0, 0)).2
      s.engPlace y (xDlin x.image) dst .w = .ok (pl, fa, va) → (16 < bs.length ∨ dst % 16 + bs.length ≤ 16) →
      ∃ t w d z, exec .gatherSublist s = .next t ∧ SameContexts s t ∧ SameStorage s t ∧ .write w ∈ t.net ∧ w.fa = fa ∧ w.data = bs ∧
        (t.copyEng stn).chain = some d ∧ d.active = [z] ∧ z.rows = [] ∧
        z.next = (i0 + min 4096 (xExt x.image 1 - i0)) * xExt x.image 0 ∧ z.waits = x.waits ++ [w.id]) ∧
  (∀ (o : EngOps) (bs : List Byte) (s u : State), s.ready [o.b] → s.waitCount s.hand.at_ o.wc = 0 → s.cur.flow.flights = [] →
    let b := (s.cur.readG o.b).toNat
    let l := s.hand.at_
    let ptag := s.ptagAt l.stn
    let d := dwsOf 8 bs
    let ok := tileFieldsOk d && s.tileTensorsOk ptag d
    (bindRuns (bindOf s.cur o.guard) = some false → exec (.ttask o) s = .next s.retire) ∧
    (bindRuns (bindOf s.cur o.guard) = some true →
      (b % 64 ≠ 0 → exec (.ttask o) s = .next (s.trap causeALIGN (BitVec.ofNat 64 b))) ∧
      (b % 64 = 0 → Exec.readIn .va b 64 s = .ok bs u →
        (ok = false → exec (.ttask o) s = .next (u.trap causeFMT (BitVec.ofNat 64 b))) ∧
        (ok = true → 1024 ≤ u.tileCount ptag → exec (.ttask o) s = .next u) ∧
        (ok = true → u.tileCount ptag < 1024 → ∃ t, exec (.ttask o) s = .next t ∧
          t.net = u.net ++ [.tileTaskRecord ptag (d.map (BitVec.ofNat 64)) (.task l s.cur.tid)] ∧ t.cur.flow.c1 = s.cur.flow.c1 + 1 ∧
          t.cur.files = s.cur.files ∧ t.cur.pc = s.nextOf ∧ SameContextsBut l s t ∧ SameStorage s t)))) ∧
  (∀ (ptag stn : Nat) (dws : List Word) (l : Loc) (s : State), s.hand.msg = .tileTaskRecord ptag dws (.task l (s.ctx l).tid) →
    s.dispatcher ptag = some stn →
    let held := (s.tables.tiles.filter (fun t => t.ptag == ptag)).length
    let dw := fun (i : Nat) => (dws.getD i 0).toNat
    let fa := dw 4 % 2 ^ 56
    let takes := fun (P : State → TileTask → Prop) => ∃ t x, exec .tileTaskRecord s = .next t ∧ t.tables.tiles = s.tables.tiles ++ [x] ∧
      x.ptag = ptag ∧ x.dws = dws ∧ x.key = (if dw 7 ≠ 0 then dw 7 else s.datum + (s.stn stn).sched.horizon) ∧
      (t.ctx l).flow.c1 = (s.ctx l).flow.c1 - 1 ∧ SameContextsBut l s t ∧ SameStorage s t ∧ P t x
    (1024 ≤ held → ∃ t, exec .tileTaskRecord s = .next t ∧ t.tables = s.tables ∧ SameContexts s t ∧ SameStorage s t ∧ s.hand.msg ∈ t.net) ∧
    (held < 1024 → fa = 0 → takes (fun t x => x.ready = true ∧ x.broken = false ∧ .tileTaskDispatch ptag ∈ t.net)) ∧
    (∀ pl, held < 1024 → fa ≠ 0 → fa % 8 = 0 → s.reach ⟨stn, false, false⟩ fa = .ok pl → takes (fun t x => x.ready = false ∧ x.broken = false ∧
      ∃ w, .waitArm w ∈ t.net ∧ w.cond = .tile ∧ w.fa = fa ∧ w.val = BitVec.ofNat 64 (dw 5 % 2 ^ 63)))) ∧
  (∀ (ptag stn : Nat) (t : TileTask) (s : State), s.hand.msg = .tileTaskDispatch ptag → s.dispatcher ptag = some stn → s.tables.tiles = [t] →
    t.ptag = ptag → t.ready = true →
    let ss := s.tileStations ptag (bitsOf (t.dw 0) 51 50)
    let gone := t.broken = true ∨ s.tileLate t = true
    (gone → bitsOf (t.dw 6) 55 0 = 0 → ∃ u, exec .tileTaskDispatch s = .next u ∧ u.tables.tiles = [] ∧ SameContexts s u ∧ SameStorage s u) ∧
    (¬ gone → ss = [] → ∃ u, exec .tileTaskDispatch s = .next u ∧ u.tables = s.tables ∧ .tileTaskDispatch ptag ∈ u.net ∧ SameContexts s u) ∧
    (∀ h, ¬ gone → ss ≠ [] → s.tileHome stn t = .ok h → ∃ u n, exec .tileTaskDispatch s = .next u ∧ u.tables.tiles = [] ∧ n ∈ ss ∧
      (∀ x, h = some x → x ∈ ss → n = x) ∧ SameContexts s u ∧ SameStorage s u ∧
      ∃ c : CmdMsg, c.stn = n ∧ c.cube = s.cube ∧ c.inbox = 0 ∧ c.cmd.ptag = ptag ∧
        c.cmd.opnd = (List.range 5).map (fun i => t.dws.getD i 0) ∧ c.cmd.reply = BitVec.ofNat 64 (bitsOf (t.dw 6) 55 0) ∧
        (n = stn → .engineCommand c ∈ u.net) ∧
        (n ≠ stn → let d : Demand := ⟨s.cube, stn, 0, .command c⟩
          (∃ g, .publicationComplete d g ∈ u.net) ∨ ∃ p ∈ (u.stn stn).slice.pubs, p.demand = d)))

/-! ## Bank engines -/

/-- R220 to R224: a bank move reads its source port and has its destination's effect on its bank engine: RBFETCH, IVLOAD, ROWGET and
IDXFETCH read elements, MAC multiplies and adds eight lanes, IADD and ISHR compute, LOOP and JUMP go to a word of the program, HALT
stops, OUT writes an element, and registers and accumulators take the value; a move repeats REP times, then the next word
follows. What a move may not do stops its command with the move word's address. -/
def Obligations.BankMoves : Prop :=
  ∀ (r : BankRun) (x fl : Nat) (s : State),
    let v := s.hand.vault
    let b := Map.get ({} : Bank) r.banks s.hand.bank
    let at_ := r.fas.getD b.pc 0
    let m : MoveCtx := ⟨v, s.hand.bank, r, b, at_⟩
    let w := moveFields s.hand.move
    let left := b.rep.getD w.rep
    let y : Eye := bankEye v r
    (s.vault v).running = some r →
    let moves : List Instr := [.rbfetch, .ivload, .mac, .iadd, .ishr, .loop, .jump, .halt, .out, .idxfetch, .rowget, .bankAccWrite, .bankPortWrite]
    let fails := fun (i : Instr) (cause d : Nat) => ∃ t, exec i s = .next t ∧ SameContexts s t ∧ SameStorage s t ∧ (t.vault v).running = none ∧
      .bkrunCommand v ∈ t.net ∧ ∃ e ∈ (t.vault v).runs, e.2.fail = some (if cause = causePOISON then 4 else 3, faultValue cause d)
    let ends := fun (i : Instr) (P : BankRun → Bank → State → Prop) => ∃ t q, exec i s = .next t ∧ SameContexts s t ∧ SameStorage s t ∧
      (t.vault v).running = some q ∧ q.prog = r.prog ∧ (∀ n, n ≠ s.hand.bank → Map.get ({} : Bank) q.banks n = Map.get {} r.banks n) ∧
      P q (Map.get {} q.banks s.hand.bank) t
    let next := fun (c : Bank) => (left = 0 → c.pc = b.pc + 1 ∧ c.rep = none) ∧ (left ≠ 0 → c.pc = b.pc ∧ c.rep = some (left - 1))
    let alive := fun (c : Bank) => c.halted = (b.halted || decide (r.prog.length ≤ c.pc))
    let keeps := fun (ps : List Nat) (c : Bank) => ∀ p, p ∉ ps → c.port p = b.port p
    let buffers := fun (c : Bank) => c.row = b.row ∧ c.ivb = b.ivb
    let lanes := fun (c : Bank) => c.acc = b.acc
    (∀ i ∈ moves, w.imm ≠ 0 → w.src ≠ 1 → fails i causeILL at_) ∧
    ((w.imm = 0 ∨ w.src = 1) →
      (w.src = 1 → m.read w.src w.imm = .ok (w.imm, 0)) ∧
      (m.read w.src w.imm = .ok (x, fl) →
        (∀ d, bankSlot v r (b.port 5) = .ok d →
          let pos := b.port 6
          let first := (((d.share s.hand.bank).1 + 128 * pos) * 2048 : Nat) - (d.base : Int)
          let l := first * 8 / (tfmtBits d.fmt : Int)
          ((d.share s.hand.bank).2 ≤ pos → ends .rbfetch (fun _ c _ => c.halted = true ∧ next c ∧ keeps [] c ∧ lanes c ∧ buffers c)) ∧
          (∀ es, pos < (d.share s.hand.bank).2 → s.bankElems y d l (2048 * 8 / tfmtBits d.fmt) = .ok es → ends .rbfetch (fun _ c _ =>
            c.row = es.1 ∧ c.rowFirst = l ∧ c.rowSlot = b.port 5 ∧ c.port 6 = (pos + 1) % 2 ^ 32 ∧ c.port 7 = (l % 2 ^ 32).toNat ∧
            next c ∧ alive c ∧ keeps [6, 7] c ∧ lanes c ∧ c.ivb = b.ivb))) ∧
        (3 < x → fails .ivload causeILL at_ ∧ fails .rowget causeILL at_) ∧
        (∀ d, x ≤ 3 → bankSlot v r x = .ok d →
          (∀ es, s.bankElems y d 0 (min d.count 2048) = .ok es → ends .ivload (fun _ c _ =>
            c.ivb = es.1 ∧ c.ivSlot = x ∧ c.row = b.row ∧ next c ∧ alive c ∧ keeps [] c ∧ lanes c)) ∧
          (let n := d.extent 0
            let ix := b.port 25
            ((d.extent 1 ≤ ix ∨ 2048 < (n * tfmtBits d.fmt + 7) / 8) → fails .rowget causePROT at_) ∧
            (∀ es, ix < d.extent 1 → (n * tfmtBits d.fmt + 7) / 8 ≤ 2048 → s.bankElems y d ((ix * n : Nat) : Int) n = .ok es →
              ends .rowget (fun _ c _ => c.row = es.1 ∧ c.rowSlot = x ∧ c.port 7 = ix * n % 2 ^ 32 ∧ c.ivb = b.ivb ∧ next c ∧ alive c ∧
                keeps [7] c ∧ lanes c)))) ∧
        (let xo := b.port 9
          let yo := b.port 10
          ((b.row.length < xo + 8 ∨ b.ivb.length < yo + 8) → fails .mac causePROT at_) ∧
          (∀ dx dy, xo + 8 ≤ b.row.length → yo + 8 ≤ b.ivb.length → bankSlot v r b.rowSlot = .ok dx → bankSlot v r b.ivSlot = .ok dy →
            ((macFmt dx.fmt = false ∨ macFmt dy.fmt = false) → fails .mac causeFMT at_) ∧
            (macFmt dx.fmt = true → macFmt dy.fmt = true → b.rowPoison = [] → b.ivPoison = [] → ends .mac (fun _ c _ =>
              (∀ n, n < 8 → c.lane (b.port 12) n = (macLane (b.lane (b.port 12) n) (bankValue dx.fmt (b.row.getD (xo + n) (0, 0, 0)))
                (bankValue dy.fmt (b.ivb.getD (yo + n) (0, 0, 0)))).1 % 2 ^ 32) ∧
              (∀ a n, n < 8 → a ≠ b.port 12 → c.lane a n = b.lane a n) ∧
              c.port 9 = (xo + 8) % 2 ^ 32 ∧ c.port 10 = (yo + 8) % 2 ^ 32 ∧ next c ∧ alive c ∧ keeps [9, 10] c ∧ buffers c)))) ∧
        ends .iadd (fun _ c _ => c.port 15 = (b.port 14 + x) % 2 ^ 32 ∧ next c ∧ alive c ∧ keeps [15] c ∧ lanes c ∧ buffers c) ∧
        ends .ishr (fun _ c _ => c.port 15 = b.port 14 / 2 ^ (x % 32) % 2 ^ 32 ∧ next c ∧ alive c ∧ keeps [15] c ∧ lanes c ∧ buffers c) ∧
        (b.port 17 = 0 → ends .loop (fun _ c _ => next c ∧ alive c ∧ keeps [] c ∧ lanes c ∧ buffers c)) ∧
        (b.port 17 ≠ 0 → x < r.prog.length → ends .loop (fun _ c _ => c.port 17 = b.port 17 - 1 ∧ c.pc = x ∧ c.rep = none ∧
          c.halted = b.halted ∧ keeps [17] c ∧ lanes c ∧ buffers c)) ∧
        (b.port 17 ≠ 0 → r.prog.length ≤ x → fails .loop causeILL at_) ∧
        (x < r.prog.length → ends .jump (fun _ c _ => c.pc = x ∧ c.rep = none ∧ c.halted = b.halted ∧ keeps [] c ∧ lanes c ∧ buffers c)) ∧
        (r.prog.length ≤ x → fails .jump causeILL at_) ∧
        ends .halt (fun _ c _ => c.halted = true ∧ keeps [] c ∧ lanes c ∧ buffers c) ∧
        (∀ d pl fa va, bankSlot v { r with osels := r.osels.add (b.port 20) } (b.port 20) = .ok d →
          (2 < d.fmt → fails .out causeFMT at_) ∧
          (d.fmt ≤ 2 → d.count ≤ b.port 21 → fails .out causePROT at_) ∧
          (d.fmt ≤ 2 → b.port 21 < d.count →
            s.engPlace (bankEye v { r with osels := r.osels.add (b.port 20) }) true (d.elemAddr (b.port 21 : Nat)) .w = .ok (pl, fa, va) →
            let f := (tfmtFloat d.fmt).getD .f32
            ends .out (fun q c t => (∃ o, .write o ∈ t.net ∧ o.fa = fa ∧ o.id ∈ q.waits ∧
                o.data = bytesOf (f.width / 8) (if d.fmt = 0 then x else (cvtFF f .f32 .ne false 0 x).1)) ∧
              q.outs = r.outs + 1 ∧ c.port 21 = (b.port 21 + 1) % 2 ^ 32 ∧ next c ∧ alive c ∧ keeps [21] c ∧ lanes c ∧ buffers c))) ∧
        (∀ d, bankSlot v r (b.port 23) = .ok d →
          (d.fmt ≠ 11 → fails .idxfetch causeFMT at_) ∧
          (d.fmt = 11 → d.count ≤ b.port 24 → fails .idxfetch causePROT at_) ∧
          (∀ n, d.fmt = 11 → b.port 24 < d.count → s.engField y true (d.elemAddr (b.port 24 : Nat)) 4 = .ok n → ends .idxfetch (fun _ c _ =>
            c.port 25 = n % 2 ^ 32 ∧ c.port 24 = (b.port 24 + 1) % 2 ^ 32 ∧ next c ∧ alive c ∧ keeps [24, 25] c ∧ lanes c ∧ buffers c))) ∧
        ends .bankAccWrite (fun _ c _ => c.lane (moveDest s.hand.move - 32) 0 = x % 2 ^ 32 ∧
          (∀ n, 1 ≤ n → n < 8 → c.lane (moveDest s.hand.move - 32) n = 0) ∧
          (∀ a n, n < 8 → a ≠ moveDest s.hand.move - 32 → c.lane a n = b.lane a n) ∧ next c ∧ alive c ∧ keeps [] c ∧ buffers c) ∧
        (let p := moveDest s.hand.move
          let writes := ends .bankPortWrite (fun _ c _ => c.port p = x % 2 ^ 32 ∧ next c ∧ alive c ∧ keeps [p] c ∧ lanes c ∧ buffers c)
          (p = 0 → ends .bankPortWrite (fun _ c _ => next c ∧ alive c ∧ keeps [] c ∧ lanes c ∧ buffers c)) ∧
          (p ∈ [6, 9, 10, 14, 17, 21, 24] → writes) ∧
          (p ∈ [5, 20, 23] → (x ≤ 3 → writes) ∧ (3 < x → fails .bankPortWrite causeILL at_)) ∧
          (p = 12 → (x ≤ 7 → writes) ∧ (7 < x → fails .bankPortWrite causeILL at_)) ∧
          (p ∉ [0, 5, 6, 9, 10, 12, 14, 17, 20, 21, 23, 24] → fails .bankPortWrite causeILL at_))))

/-- R225: a vault's sequencer serves the queues of its parcels in turn, each for a quantum of 20 µs times its weight; a command starts with
its program, its slots' entries and their shapes as read then (the shape of a slot that no move uses too: the model's reading, log entry
87), and its end is answered with the number of elements written. -/
def Obligations.BankService : Prop :=
  ∀ (v p : Nat) (s : State),
    let q := s.vault v
    let served := fun (i : Instr) (n : Nat) => ∃ t, exec i s = .next t ∧ SameContexts s t ∧ SameStorage s t ∧ (t.vault v).serving = some n ∧
      (t.vault v).quantum = s.datum + 20000 * Map.get 1 q.weights n ∧ (t.vault v).runs = q.runs ∧ .bkrunCommand v ∈ t.net ∧
      (s.datum + 20000 * Map.get 1 q.weights n, .bankQuantumExpiry v) ∈ t.timers
    (s.hand.msg = .bkrunCommand v →
      (∀ n, q.serving = none → q.nextQueue 0 = some n → served .bkrunCommand n) ∧
      (∀ n, q.serving = some p → Map.get [] q.queues p = [] → q.nextQueue p = some n → served .bkrunCommand n) ∧
      (∀ c cs l tid, q.serving = some p → Map.get [] q.queues p = c :: cs → c.src = .task l tid → c.cmd.reply = 0 →
        let y : Eye := ⟨v, 2, c.cmd.ptag⟩
        let a := cmdOp c.cmd 0 % 2 ^ 48
        (∀ ws shapes, (∀ e ∈ q.runs, e.1 ≠ p) → a % 4 = 0 →
          Got.all (fun d => s.engShape y d) ((List.range 4).filterMap (fun k => s.tensor c.cmd.ptag (bitsOf (cmdOp c.cmd 1) (16 * k + 9) (16 * k))))
            = .ok shapes →
          Got.all (fun i => (s.engFa y false (a + 4 * i) .r).bind (fun f => (s.engField y false (a + 4 * i) 4).bind (fun w => .ok (w, f.1))))
            (List.range (bitsOf (cmdOp c.cmd 0) 55 48 + 1)) = .ok ws →
          ∃ t r, exec .bkrunCommand s = .next t ∧ SameContexts s t ∧ (t.vault v).running = some r ∧ r.prog = ws.map (fun w => w.1) ∧
            r.fas = ws.map (fun w => w.2) ∧ r.banks = [] ∧ r.outs = 0 ∧
            ∀ k, k < 4 → r.slots.getD k none = s.tensor c.cmd.ptag (bitsOf (cmdOp c.cmd 1) (16 * k + 9) (16 * k))) ∧
        (∀ r, q.runs.find? (fun e => e.1 == p) = some (p, r) →
          (r.fail = none → r.over = false → exec .bkrunCommand s = .next s) ∧
          ((r.fail.isSome = true ∨ r.over = true) → (∃ i ∈ r.waits, i ∈ (s.stn v).eng.writesOut) →
            exec .bkrunCommand s = .next (s.requeue (.bkrunCommand v))) ∧
          (r.cmd = c → (r.fail.isSome = true ∨ r.over = true) → (∀ i ∈ r.waits, i ∉ (s.stn v).eng.writesOut) → (s.stn v).eng.wroteBad = [] →
            cmdOp c.cmd 3 = 0 → ∃ t, exec .bkrunCommand s = .next t ∧ SameContexts s t ∧ SameStorage s t ∧
            Map.get [] (t.vault v).queues p = cs ∧ (∀ e ∈ (t.vault v).runs, e.1 ≠ p) ∧ .bkrunCommand v ∈ t.net ∧
            let out := r.fail.getD (0, BitVec.ofNat 64 r.outs)
            .resultOrStatus ⟨c.tid, entryWord r.flags out.1 c.cmd.tag, out.2, !quietCmd c.cmd, !quietCmd c.cmd, true⟩ ∈ t.net)))) ∧
    (s.hand.msg = .bankQuantumExpiry v → q.serving = some p →
      (s.datum < q.quantum → exec .bankQuantumExpiry s = .next s) ∧
      (∀ n, q.quantum ≤ s.datum → q.nextQueue p = some n → served .bankQuantumExpiry n))

/-! ## Collectives -/

/-- R231, R274 to R276, R300: CLRED and CLMCAST check their descriptor and contribute their elements, widened; the router collects the
contributions of a key in a slot, refuses those that do not match or that come late, and completes it when every input is there or
its timer ends: at the root every input that took part gets the pairwise combination in the order of the inputs. A result is written
by its member, then answered; a result of the parent, or its refusal, goes down to the inputs that took part. -/
def Obligations.Collectives : Prop :=
  (∀ (stn tid : Nat) (l : Loc) (mcast : Bool) (k : CmdMsg) (rest : List CmdMsg) (s : State),
    let i : Instr := if mcast then .clmcastCommand else .clredCommand
    s.hand.msg = (if mcast then .clmcastCommand stn else .clredCommand stn) → (s.stn stn).eng.coll.inbox = k :: rest →
    k.cmd.opcode = (if mcast then 0x0301 else 0x0300) → k.src = .task l tid → k.cmd.reply = 0 →
    let d := cmdOp k.cmd 0
    let src := cmdOp k.cmd 1
    let dst := cmdOp k.cmd 2
    let y : Eye := ⟨stn, 3, k.cmd.ptag⟩
    let size := if collFmt d = 1 then 2 else 4
    let fails := fun (v : Word) => ∃ t, exec i s = .next t ∧ SameContexts s t ∧ SameStorage s t ∧ (t.stn stn).eng.coll.inbox = rest ∧
      .resultOrStatus ⟨k.tid, entryWord 0 3 k.cmd.tag, v, !quietCmd k.cmd, !quietCmd k.cmd, true⟩ ∈ t.net
    let gives := fun (codes : List Nat) =>
      let wide := fun (c : Nat) => if collFmt d = 0 then (toF32 .f32 c).1 else if collFmt d = 1 then (toF32 .bf16 c).1 else c
      ∃ t n p w, exec i s = .next t ∧ SameContexts s t ∧ SameStorage s t ∧ (t.stn stn).eng.coll.inbox = rest ∧
        .collectiveContribution stn p ∈ t.net ∧ p.group = collGroup d ∧ p.seq = collSeq d ∧ p.op = collOp d ∧ p.fmt = collFmt d ∧
        p.count = collCount d ∧ p.vals = codes.map (fun c => if collOp d = 3 then wide c % 2 ^ 31 else wide c) ∧ p.mcast = mcast ∧
        p.hasData = !codes.isEmpty ∧ p.ref = n ∧ (t.stn stn).eng.coll.waits = (s.stn stn).eng.coll.waits ++ [w] ∧ w.num = n ∧ w.cmd = k ∧
        w.out = none
    (collDescOk mcast d = false → fails (faultValue causeILL 0)) ∧
    (collDescOk mcast d = true → collOpOk d = false → fails (faultValue causeFMT 0)) ∧
    (collDescOk mcast d = true → collOpOk d = true →
      (src % size ≠ 0 → fails (faultValue causeALIGN src)) ∧ (src % size = 0 → dst % size ≠ 0 → fails (faultValue causeALIGN dst)) ∧
      (src % size = 0 → dst % size = 0 → mcast = true → src = 0 → gives []) ∧
      (∀ codes, src % size = 0 → dst % size = 0 → (mcast = true → src ≠ 0) →
        Got.all (fun (n : Nat) => s.engField y false (addrAt src (n * size : Nat)) size) (List.range (collCount d)) = .ok codes → gives codes))) ∧
  (∀ (input : Nat) (p : Partial) (s : State), s.hand.msg = .collectiveContribution input p → (p.hasData = false ∨ p.vals.length = p.count) →
    let slot := s.slotOf p.group p.seq
    let i : Instr := .collectiveContribution
    let answers := fun (status : Nat) => ∃ t c, exec i s = .next t ∧ t.router.slots = s.router.slots ∧ .collectiveResult c ∈ t.net ∧
      c.input = input ∧ c.group = p.group ∧ c.seq = p.seq ∧ c.status = status ∧ c.ref = p.ref ∧ SameContexts s t ∧ SameStorage s t
    ((s.rememberedSlot p.group p.seq).isSome = true → answers 1) ∧
    (s.rememberedSlot p.group p.seq = none →
      (s.tree p.group = none → answers 3) ∧
      (∀ tree, s.tree p.group = some tree → (∀ e ∈ s.router.waiting, ¬ (e.1 = input ∧ e.2.group = p.group ∧ e.2.seq = p.seq)) →
        (input ∉ tree.expected → answers 3) ∧
        (∀ x, input ∈ tree.expected → slot = some x → (x.op ≠ p.op ∨ x.fmt ≠ p.fmt ∨ x.count ≠ p.count ∨ (∃ e ∈ x.parts, e.1 = input)) →
          answers 3) ∧
        (input ∈ tree.expected → slot = none → 256 ≤ s.router.slots.length → ∃ t, exec i s = .next t ∧ t.router.slots = s.router.slots ∧
          SameContexts s t ∧ SameStorage s t ∧ t.router.waiting = s.router.waiting ++ [(input, p)]) ∧
        (input ∈ tree.expected → slot = none → s.router.slots.length < 256 → (∃ n ∈ tree.expected, n ≠ input) →
          ∃ t x, exec i s = .next t ∧ t.slotOf p.group p.seq = some x ∧ x.op = p.op ∧ x.fmt = p.fmt ∧ x.count = p.count ∧
            x.parts.map (fun e => e.1) = [input] ∧ x.expiry = s.datum + (if tree.timer = 0 then 50000 else tree.timer) ∧
            (x.expiry, .slotTimerExpiry p.group p.seq) ∈ t.timers ∧ SameContexts s t ∧ SameStorage s t) ∧
        (∀ x, input ∈ tree.expected → slot = some x → x.op = p.op → x.fmt = p.fmt → x.count = p.count → (∀ e ∈ x.parts, e.1 ≠ input) →
          x.mcast = false → p.mcast = false →
          let parts := x.parts ++ [(input, { p with nanseen := p.nanseen || p.vals.any (collNan p.fmt) })]
          let full := { x with parts := parts, mcast := false }
          ((∃ n ∈ tree.expected, ∀ e ∈ parts, e.1 ≠ n) → ∃ t, exec i s = .next t ∧ t.slotOf p.group p.seq = some full ∧ SameContexts s t ∧
            SameStorage s t) ∧
          ((∀ n ∈ tree.expected, ∃ e ∈ parts, e.1 = n) → tree.parent = none → (∀ e ∈ parts, e.2.missing = 0 ∧ e.2.incomplete = false) →
            ∃ t, exec i s = .next t ∧ t.slotOf p.group p.seq = none ∧ SameContexts s t ∧ SameStorage s t ∧
              ∀ n ∈ tree.expected, ∃ c, .collectiveResult c ∈ t.net ∧ c.input = n ∧ c.group = p.group ∧ c.seq = p.seq ∧ c.status = 0 ∧
                c.missing = 0 ∧ c.nanseen = parts.any (fun e => e.2.nanseen) ∧
                c.vals = (List.range x.count).map (fun k => let e := (full.element k).1
                  if x.fmt = 1 then (cvtFF .bf16 .f32 .ne false 0 e).1 else e)))))) ∧
  (∀ (group seq : Nat) (x : RedSlot) (tree : Tree) (s : State), s.hand.msg = .slotTimerExpiry group seq → s.slotOf group seq = some x →
    (s.datum < x.expiry → exec .slotTimerExpiry s = .next s) ∧
    (x.expiry ≤ s.datum → s.tree group = some tree → tree.parent = none → x.mcast = false →
      let missing := (tree.expected.filter (fun n => !x.parts.any (fun e => e.1 == n))).length + x.parts.foldl (fun a e => a + e.2.missing) 0
      missing < 2 ^ 16 → ∃ t, exec .slotTimerExpiry s = .next t ∧ t.slotOf group seq = none ∧ SameContexts s t ∧ SameStorage s t ∧
        (∀ e ∈ x.parts, ∃ c, .collectiveResult c ∈ t.net ∧ c.input = e.1 ∧ c.group = group ∧ c.seq = seq ∧ c.status = 5 ∧
          c.missing = missing ∧ c.incomplete = true) ∧
        (∀ c, .collectiveResult c ∈ t.net → .collectiveResult c ∈ s.net ∨ ∃ e ∈ x.parts, c.input = e.1))) ∧
  (∀ (group seq : Nat) (s : State), s.hand.msg = .rememberedKeyExpiry group seq → ∃ t, exec .rememberedKeyExpiry s = .next t ∧
    SameContexts s t ∧ SameStorage s t ∧ ∀ e, e ∈ t.router.freed ↔ e ∈ s.router.freed ∧ ¬ (e.1 = group ∧ e.2.1 = seq ∧ e.2.2.2 ≤ s.datum)) ∧
  (∀ (r : CollRes) (s : State), s.hand.msg = .collectiveResult r →
    (∀ w l tid, r.input < 64 → (s.stn r.input).eng.coll.waits = [w] → w.isFor r = true → w.cmd.src = .task l tid → w.cmd.cmd.reply = 0 →
      w.cmd.cmd.opcode = 0x0300 →
      let dst := cmdOp w.cmd.cmd 2
      let y : Eye := ⟨r.input, 3, w.cmd.cmd.ptag⟩
      let size := if r.fmt = 1 then 2 else 4
      let v : Word := BitVec.ofNat 64 ((if r.incomplete then 2 ^ 17 else 0) + (if r.nanseen then 2 ^ 16 else 0) + r.missing)
      let entry := fun (status : Nat) (v : Word) => ∃ t, exec .collectiveResult s = .next t ∧ SameContexts s t ∧ SameStorage s t ∧
        (t.stn r.input).eng.coll.waits = [] ∧ .resultOrStatus ⟨w.cmd.tid, entryWord w.flags status w.cmd.cmd.tag, v, true, true, true⟩ ∈ t.net
      (w.out = none → r.status = 3 → entry 3 (faultValue causeFMT 0)) ∧
      (w.out = none → r.status = 1 → entry 1 v) ∧
      (w.out = none → (r.status = 0 ∨ r.status = 5) → dst = 0 → entry r.status v) ∧
      (∀ ps, w.out = none → (r.status = 0 ∨ r.status = 5) → dst ≠ 0 →
        s.placeAll y false ((List.range r.vals.length).map (fun n => (n, addrAt dst (n * size : Nat)))) = .ok (ps, none) →
        ∃ t z, exec .collectiveResult s = .next t ∧ SameContexts s t ∧ SameStorage s t ∧ (t.stn r.input).eng.coll.waits = [z] ∧
          z.out = some (r.status, v) ∧ z.waits.length = ps.length ∧ ∀ e ∈ ps, ∃ o, .write o ∈ t.net ∧ o.fa = e.2.1 ∧ o.id ∈ z.waits ∧
            o.data = bytesOf size (r.vals.getD e.1 0)) ∧
      (∀ o, w.out = some o → (∀ n ∈ w.waits, n ∉ (s.stn r.input).eng.writesOut) → (s.stn r.input).eng.wroteBad = [] → entry o.1 o.2)) ∧
    (64 ≤ r.input → r.input < 72 → (s.port (r.input - 64)).usable = false → ∃ t, exec .collectiveResult s = .next t ∧ SameContexts s t ∧
      SameStorage s t ∧ (t.port (r.input - 64)).out.length = (s.port (r.input - 64)).out.length + (resultPayloads r).length) ∧
    (72 ≤ r.input → (r.status = 1 ∨ r.status = 3 ∨ r.vals.length = r.count) →
      exec .collectiveResult s = .next (s.sendAll (((s.rememberedSlot r.group r.seq).getD []).map (fun n => Msg.collectiveResult { r with input := n })))))

/-! ## The fabric -/

/-- R255 to R265, R268, R269, R289, R297: a router drops a packet that breaks its layout, sends one for another node out by its table's
port, and delivers one for its own node once: a number already performed is only acknowledged again, one of class O waits for its
turn, one for an address that another cube owns is forwarded there, and kept. An acknowledgement releases a packet at
its source; one that is not acknowledged is sent again up to 15 times, one answered MOVED goes to the new owner, one refused or to
a lost node completes, a read with poisoned bytes. Flits are taken in order, discarded on a bad LCRC and replayed at a timeout; a
class whose buffer, whole packets among it, passes the high watermark is asked to stop; ports train, come up whole or half, and go
down, which the manager is told. -/
def Obligations.FabricAndPorts : Prop :=
  (∀ (p : Packet) (s : State), s.hand.msg = .packetRouting p → (∀ e ∈ s.router.ports, p ∉ e.2.rxq) →
    let h := p.hdr
    let same := fun (t : State) => SameContexts s t ∧ SameStorage s t
    (packetOk p = false → exec .packetRouting s = .next (s.countError 6 1)) ∧
    (packetOk p = true → s.router.live = true →
      (∀ n, h.dnode ≠ s.cube → s.isHost h.dnode = false → h.cls ≠ 1 → (h.typ ≠ 0x12 ∨ h.snode ≠ s.cube) → (Map.get [] s.router.routes h.dnode).head? = some n →
        (31 ≤ h.hops → exec .packetRouting s = .next (s.countError 6 1)) ∧
        (h.hops < 31 → (s.port n).usable = false → ∃ t, exec .packetRouting s = .next t ∧ same t ∧
          (t.port n).out = (s.port n).out ++ [{ p with hdr := { h with hops := h.hops + 1 } }] ∧ ∀ m, m ≠ n → t.port m = s.port m)) ∧
      (h.dnode ≠ s.cube → s.isHost h.dnode = false → (h.typ ≠ 0x12 ∨ h.snode ≠ s.cube) → Map.get [] s.router.routes h.dnode = [] → exec .packetRouting s = .next s) ∧
      (h.dnode = s.cube → h.pgen % 2 ^ 16 = s.tables.gen % 2 ^ 16 → h.pgen < 2 ^ 16 →
        (h.typ ∉ [0x01, 0x03, 0x05, 0x0D, 0x0E, 0x0F, 0x10] →
          let f := s.filterOf h
          let unaddressed := addrTyped h.typ = false ∨ h.addr = 0
          (f.accepts h.seq = false → ∃ t, exec .packetRouting s = .next t ∧ same t ∧
            Map.get 0 t.plat.errors 7 = min (Map.get 0 s.plat.errors 7 + 1) (2 ^ 32 - 1) ∧
            (f.performed.has h.seq = true ∨ f.below h.seq = true → ∃ q, .packetRouting q ∈ t.net ∧ q.hdr.typ = 0x0E ∧ q.hdr.seq = h.seq)) ∧
          (∀ m, f.accepts h.seq = true → h.cls ≠ 0 → unaddressed → (h.typ ≠ 0x06 ∨ s.tenantOf h.ptag = s.tenantAt h.dstn) →
            s.eventOf p h.dstn = some (m, true) → ∃ t, exec .packetRouting s = .next t ∧ same t ∧
            t.net = s.net ++ [m] ∧ (t.filterOf h).accepts h.seq = false) ∧
          (∀ pl m, f.accepts h.seq = true → h.cls ≠ 0 → ¬ unaddressed → isGuard p.body = false → s.place h.addr = .ok pl →
            (pl.cube = s.cube → h.typ ≠ 0x06 → s.tenantOf h.ptag = s.tenantOf pl.ptag → s.eventOf p pl.stn = some (m, true) →
              ∃ t, exec .packetRouting s = .next t ∧ same t ∧ t.net = s.net ++ [m] ∧ (t.filterOf h).accepts h.seq = false) ∧
            (pl.cube = s.cube → h.typ ≠ 0x06 → s.tenantOf h.ptag ≠ s.tenantOf pl.ptag → ∃ t q, exec .packetRouting s = .next t ∧ same t ∧
              t.net = s.net ++ [.packetRouting q] ∧ q.hdr.typ = 0x0D ∧ q.hdr.seq = h.seq) ∧
            (pl.cube ≠ s.cube → genBefore h.pgen s.tables.retired = false → ∃ t q, exec .packetRouting s = .next t ∧ same t ∧
              t.net = s.net ++ [.packetRouting q] ∧ t.e2e.forwarded = s.e2e.forwarded ++ [(p, q)] ∧ q.hdr.dnode = pl.cube ∧
              q.hdr.dstn = pl.stn ∧ q.hdr.fwd = true ∧ q.hdr.seq = h.seq ∧ q.body = p.body)) ∧
          (f.accepts h.seq = true → h.cls = 0 → h.onode = s.cube → h.fwd = false → f.due h.seq = false → h.seq ≠ f.nextO →
            (f.take h.seq).queue.any (fun q => q.hdr.seq == f.nextO) = false →
            ∃ t, exec .packetRouting s = .next t ∧ same t ∧ t.net = s.net ∧ (t.filterOf h).queue = f.queue ++ [p] ∧
              (t.filterOf h).nextO = f.nextO)) ∧
        (∀ u r bs, h.typ = 0x01 → s.cube < 4096 → p.body = .raw bs → s.sent h.dnode h.dstn h.cls h.onode h.ostn h.seq = some u → u.answered = false →
          u.msg = .readRequest r → bs.length = 16 + r.bytes → natOf ((bs.drop 8).take 8) = 0 → ∃ t v, exec .packetRouting s = .next t ∧ same t ∧
            .readReply v ∈ t.net ∧ v.req = r ∧ v.expiry = natOf (bs.take 8) ∧ v.data = bs.drop 16 ∧ v.sig = none ∧
            ∃ q, .packetRouting q ∈ t.net ∧ q.hdr.typ = 0x0E ∧ q.hdr.seq = h.seq)))) ∧
  (∀ (sn ss cls dn ds seq : Nat) (pr : SendPair) (u : Sent) (s : State), s.e2e.pairs.find? (fun p => p.isFor sn ss dn ds cls) = some pr →
    pr.unacked = [u] → pr.waiting = [] → u.seq = seq → u.acked = false → u.pkt.hdr.seq = seq → u.pkt.hdr.snode = sn → 
    srcNo sn u.pkt.hdr.sstn u.pkt.hdr.ptag = ss → u.pkt.hdr.cls = cls → u.pkt.hdr.onode = dn → u.pkt.hdr.ostn = ds →
    let h := u.pkt.hdr
    let pair := fun (t : State) => t.e2e.pairs.find? (fun p => p.isFor sn ss dn ds cls)
    let resent := fun (t : State) (q : Packet) => .packetRouting q ∈ t.net ∧ pair t = some { pr with unacked := [{ u with pkt := q }] } ∧
      (s.datum + s.router.retry, .retryTimeout sn ss cls dn ds seq) ∈ t.timers
    let gone := fun (i : Instr) (P : State → Prop) => ∃ t, exec i s = .next t ∧ SameContexts s t ∧ SameStorage s t ∧
      pair t = some { pr with unacked := [] } ∧ P t
    let poisoned := fun (i : Instr) =>
      (∀ r, sn < 4096 → u.msg = .readRequest r → gone i (fun t => ∃ v, .readReply v ∈ t.net ∧ v.req = r ∧
        v.poison = (List.range (r.bytes / 16 + 2)).map (fun k => bwOf r.fa + k))) ∧
      (∀ a, sn < 4096 → u.msg = .atomic a → gone i (fun t => .atomicReply ⟨a, 0, 0, true, none⟩ ∈ t.net))
    (s.hand.msg = .endToEndAcknowledgement sn ss cls dn ds seq →
      ((u.wants = false ∨ u.answered = true) → (∀ w, u.msg ≠ .writeBack w) → (∀ w, u.msg ≠ .waitArm w) → (∀ fa n, u.msg ≠ .stripeHandover fa n) →
        ∃ t, exec .endToEndAcknowledgement s = .next t ∧ SameStorage s t ∧ pair t = some { pr with unacked := [] }) ∧
      (u.wants = true → u.answered = false → ∃ t, exec .endToEndAcknowledgement s = .next t ∧ SameContexts s t ∧ SameStorage s t ∧
        pair t = some { pr with unacked := [{ u with acked := true }] }) ∧
      (∀ stn p l, u.msg = .taskPacket stn p → p.src = .task l (s.ctx l).tid → p.counter = 2 → ∃ t, exec .endToEndAcknowledgement s = .next t ∧
        (t.ctx l).flow.c2 = (s.ctx l).flow.c2 - 1 ∧ SameContextsBut l s t) ∧
      (∀ fa n, u.msg = .stripeHandover fa n → ∃ t, exec .endToEndAcknowledgement s = .next t ∧ SameContexts s t ∧ (fa, n) ∈ t.tables.moved ∧
        (fa, n) ∉ t.tables.copying ∧ ∀ m ∈ s.stnIxs, ∀ c, inStripe fa n c = true →
          Map.get 0 (t.stn m).home.leasemax c = 0 ∧ ∀ w ∈ (t.stn m).home.waiters, chunkOf w.fa ≠ c)) ∧
    (s.hand.msg = .retryTimeout sn ss cls dn ds seq → (∀ p ∈ s.e2e.pairs, p.isFor sn ss dn ds cls = true → p.reported = false) →
      s.e2e.lost.has h.dnode = false →
      (h.retry < 15 → ∃ t, exec .retryTimeout s = .next t ∧ SameContexts s t ∧ SameStorage s t ∧
        resent t (mkPacket { h with retry := h.retry + 1, hops := 0 } u.pkt.body)) ∧
      (15 ≤ h.retry → cls ≠ 3 → ∃ t, exec .retryTimeout s = .next t ∧ SameContexts s t ∧ SameStorage s t ∧
        pair t = some { pr with reported := true } ∧ t.plat.reports = s.plat.reports ++ [(2, h.dnode)] ∧
        (∀ e, s.router.manager = some e → s.e2e.pairs = [pr] → ∃ q, .packetRouting q ∈ t.net ∧ q.hdr.typ = 0x12 ∧ q.hdr.cls = 3 ∧
          q.hdr.dnode = e / 256))) ∧
    (s.hand.msg = .retryTimeout sn ss cls dn ds seq → (∀ p ∈ s.e2e.pairs, p.isFor sn ss dn ds cls = true → p.reported = false) →
      s.e2e.lost.has h.dnode = true → poisoned .retryTimeout) ∧
    (s.hand.msg = .moved sn ss cls dn ds seq → ∀ pl, addrTyped h.typ = true → h.addr ≠ 0 → s.place h.addr = .ok pl →
      ∃ t, exec .moved s = .next t ∧ SameContexts s t ∧ SameStorage s t ∧
        resent t (mkPacket { h with dnode := pl.cube, dstn := pl.stn, pgen := s.tables.gen, retry := min 15 (h.retry + 1), hops := 0 } u.pkt.body)) ∧
    (s.hand.msg = .refused sn ss cls dn ds seq → poisoned .refused) ∧
    (s.hand.msg = .destinationLost h.dnode → s.e2e.pairs = [pr] → poisoned .destinationLost ∧
      ∃ t, exec .destinationLost s = .next t ∧ t.e2e.lost.has h.dnode = true)) ∧
  (∀ (n lanes far : Nat) (s : State),
    let p := s.port n
    let does := fun (i : Instr) (P : Port → State → Prop) => ∃ t, exec i s = .next t ∧ SameContexts s t ∧ SameStorage s t ∧
      (∀ m, m ≠ n → t.port m = s.port m) ∧ P (t.port n) t
    (s.hand.msg = .portEnable n → (p.st = .down → does .portEnable (fun q _ => q = p.fresh .train)) ∧
      (p.st ≠ .down → exec .portEnable s = .next s)) ∧
    (s.hand.msg = .trainingComplete n lanes far → (p.st ≠ .train → exec .trainingComplete s = .next s) ∧
      (p.st = .train → does .trainingComplete (fun q t =>
        q.st = (if 8 ≤ lanes then .up else if 4 ≤ lanes then .half else .down) ∧ q.lanes = (if 8 ≤ lanes then 8 else if 4 ≤ lanes then 4 else 0) ∧
        q.far = far ∧
        (4 ≤ lanes → ∃ d, (d, .linkAdaptation n) ∈ t.timers)))) ∧
    (s.hand.msg = .linkDown n → (p.usable = false → exec .linkDown s = .next s) ∧
      (p.usable = true → does .linkDown (fun q t => q = p.fresh .train ∧ t.plat.reports = s.plat.reports ++ [(1, n)]))) ∧
    (s.hand.msg = .linkAdaptation n → (p.usable = false → exec .linkAdaptation s = .next s) ∧
      (p.usable = true → does .linkAdaptation (fun q t => q.replay = p.replay ∧ q.out = p.out ∧ q.st = p.st ∧
        (s.datum + 100000000, .linkAdaptation n) ∈ t.timers))) ∧
    (s.hand.msg = .replayTimeout n →
      let time := if p.st = .half then 328 else 164
      ((p.replay = [] ∨ p.usable = false) → exec .replayTimeout s = .next s) ∧
      (p.replay ≠ [] → p.usable = true →
        (s.datum < p.progress + time → does .replayTimeout (fun q t => q = p ∧ (p.progress + time, .replayTimeout n) ∈ t.timers)) ∧
        (p.progress + time ≤ s.datum → (∃ f ∈ p.replay, 3 ≤ f.2) → does .replayTimeout (fun q _ => q = p.fresh .train)) ∧
        (p.progress + time ≤ s.datum → (∀ f ∈ p.replay, f.2 < 3) → does .replayTimeout (fun q t =>
          q.replay = p.replay.map (fun f => (f.1, f.2 + 1)) ∧ q.progress = s.datum ∧ (s.datum + time, .replayTimeout n) ∈ t.timers)))) ∧
    (∀ f, s.hand.msg = .flit n f → f.fec = false →
      (p.usable = false → exec .flit s = .next s) ∧
      (p.usable = true → f.lcrc ≠ crc32 (flitBytes f) → does .flit (fun q t => q = { p with discard := true } ∧
        Map.get 0 t.plat.errors 5 = min (Map.get 0 s.plat.errors 5 + 1) (2 ^ 32 - 1))) ∧
      (p.usable = true → f.lcrc = crc32 (flitBytes f) → f.lseq ≠ p.expect → p.discard = false → exec .flit s = .next s) ∧
      (p.usable = true → f.lcrc = crc32 (flitBytes f) → f.lseq = p.expect → p.out = [] →
        let got := (if f.sop then [] else Map.get [] p.rx f.cls) ++ [f]
        does .flit (fun q t => q.expect = (p.expect + 1) % 4096 ∧ q.discard = false ∧ q.stop = f.stop ∧
          (∀ e, e ∈ q.replay ↔ e ∈ p.replay ∧ ¬ (1 ≤ (f.lack + 4096 - e.1.lseq) % 4096 ∧ (f.lack + 4096 - e.1.lseq) % 4096 ≤ 1024)) ∧
          Map.get [] q.rx f.cls = (if f.eop then [] else got) ∧
          q.rxq = p.rxq ++ (if f.eop = true ∧ f.cls ≠ 2 then [packetOf got] else []) ∧
          (let k := q.buffered f.cls
           (Config.watermarks.1 < k → bitAt q.stopping (3 - f.cls) = true) ∧
           (k ≤ Config.watermarks.1 → k < Config.watermarks.2 → bitAt q.stopping (3 - f.cls) = false)) ∧
          (f.eop = true → (packetOf got).hdr.cls ≠ 2 → t.net = s.net ++ [.packetRouting (packetOf got)])))))

/-! ## Tables, hosts, the platform -/

/-- R254, R266, R268 to R272, R279 to R282, R286, R288, R291: what the fabric manager installs, from its endpoint alone: routes, trees,
weights, endpoints, images, latency and peer tables; a plat generation with its entries, of which none may name a failed vault (the
model's reading, log entry 98); a stripe's handover, whose home keeps it until the copy is acknowledged; a parcel's map, announced
to its stations and, where it lends, to its parent, whose stations drain before homes change; a tenant's reset, which frees its tasks
and leaves memory as it is. What has been done is reported. -/
def Obligations.Tables : Prop :=
  (∀ (e : Nat) (t : TableCmd) (s : State), s.hand.msg = .tableWrite e t → (∀ p ∈ s.e2e.pairs, p.reported = false) →
    (s.managerOk e = false → exec .tableWrite s = .next s) ∧
    (s.managerOk e = true → ∃ u, exec .tableWrite s = .next u ∧ SameContexts s u ∧
      (∀ node ports, t = .route node ports → SameStorage s u ∧ ∀ n, Map.get [] u.router.routes n =
        if n = node then ports.take 4 else Map.get [] s.router.routes n) ∧
      (∀ x, t = .tree x → SameStorage s u ∧ (let timer := if x.timer = 0 then 50000 else x.timer;
        u.tree x.group = if 1000 ≤ timer ∧ timer ≤ 10000000 then some { x with timer := timer } else s.tree x.group)) ∧
      (∀ v p w, t = .bankWeight v p w → Map.get 1 (u.vault v).weights p = max w 1 ∧ SameStorage s u) ∧
      (∀ n, t = .retryTime n → u.router.retry = (if 1000 ≤ n ∧ n ≤ 1000000 then n else s.router.retry) ∧ SameStorage s u) ∧
      (∀ bs, t = .routerImage bs → u.router.imageBy = some e ∧ ∀ i, i < bs.length → u.byte (s.imageFa 0 0 + i) = bs.getD i 0) ∧
      (∀ bs, t = .kernelImage bs → ∀ i, i < bs.length → u.byte (s.imageFa 0 1 + i) = bs.getD i 0) ∧
      (t = .retired → u.tables.retired = s.tables.gen ∧ u.plat.reports = s.plat.reports ++ [(4, s.tables.gen)] ∧ SameStorage s u) ∧
      (∀ node ix tenant ptag, t = .endpoint node ix tenant ptag → ix < 256 → u.endpoint node ix = some ⟨node, ix, tenant, ptag, [], [], 0, 0, []⟩) ∧
      (∀ node ix slot hb size fa r w x, t = .window node ix slot hb size fa r w → slot < 16 → s.endpoint node ix = some x →
        ∃ y, u.endpoint node ix = some y ∧ y.windows.find? (fun z => z.1 == slot) = some (slot, hb, size, fa, r, w)) ∧
      (∀ c r, t = .latency c r → u.tables.copyLease = c % 2 ^ 20 ∧ u.tables.repLease = r % 2 ^ 20) ∧
      (∀ k ps, t = .peers k ps → u.tables.parcelPeers.find? (fun x => x.1 == k) = some (k, ps)) ∧
      (∀ cube p, t = .peerParcel cube p → (cube, p) ∈ u.tables.peers))) ∧
  (∀ (m gen ix k c : Nat) (e : List Word) (s : State), s.hand.msg = .platGenerationInstall m gen [(ix, e)] [(k, c)] →
    (s.managerOk m = false → exec .platGenerationInstall s = .next s) ∧
    ((∀ p ∈ s.e2e.pairs, p.reported = false) → (layoutOf e).guard = 0 → s.e2e.lost = [] → s.e2e.future = [] → k < 4096 →
      let barred := s.namesFailed (Map.set 0 s.tables.cubes k c) e = true ∨ 256 ≤ ix
      s.managerOk m = true → ∃ t, exec .platGenerationInstall s = .next t ∧ t.tables.gen = gen ∧
        (∀ n, regionEntry t.tables n = if n = ix ∧ ¬ barred then e else regionEntry s.tables n) ∧
        (∀ n, Map.get 0 t.tables.cubes n = if n = k then c else Map.get 0 s.tables.cubes n) ∧
        t.tables.parcels = s.tables.parcels ∧ t.plat.reports = s.plat.reports ++ [(5, gen)] ∧ (s.router.manager = none → t.net = s.net) ∧
        SameContexts s t ∧ SameStorage s t)) ∧
  (∀ (fa : Nat) (e : List Word) (pl : Place) (s : State), s.hand.msg = .backgroundRebuild fa → regionFor s.tables fa = some e →
    let l := layoutOf e
    let again := ∃ t, exec .backgroundRebuild s = .next t ∧ .backgroundRebuild fa ∈ t.net ∧ SameContexts s t ∧ SameStorage s t
    (l.state ≠ 2 → exec .backgroundRebuild s = .next s) ∧
    (l.state = 2 → s.guardNeeds fa ≠ [] → again) ∧
    (l.state = 2 → s.guardNeeds fa = [] → s.place fa = .ok pl → pl.cube = s.cube →
      (s.rebuildNeeds fa pl.canon ≠ [] → s.unbuilt fa pl.canon = true → again) ∧
      (s.rebuildNeeds fa pl.canon = [] → s.unbuilt fa pl.canon = true → ∃ t, exec .backgroundRebuild s = .next t ∧ SameContexts s t ∧
        t.unbuilt fa pl.canon = false ∧ (fa + 16 < l.base + l.size → .backgroundRebuild (fa + 16) ∈ t.net)) ∧
      (s.unbuilt fa pl.canon = false → ∃ t, exec .backgroundRebuild s = .next t ∧ SameContexts s t ∧
        (s.guardToBuild fa = none → SameStorage s t) ∧ (∀ g, s.guardToBuild fa = some g → t.tables.rebuilt.has (g.1 / 16) = true) ∧
        (fa + 16 < l.base + l.size → .backgroundRebuild (fa + 16) ∈ t.net)))) ∧
  (∀ (fa len : Nat) (old : Place) (s : State), s.hand.msg = .stripeHandover fa len → s.place fa = .ok old →
    ((old.cube ≠ s.cube ∨ len = 0 ∨ s.copyingAt fa = true) → exec .stripeHandover s = .next s) ∧
    (∀ new, old.cube = s.cube → len ≠ 0 → s.copyingAt fa = false → (s.evictStripe fa len).guardsOut = false →
      State.place { s with tables := { s.tables with moved := (fa, len) :: s.tables.moved } } fa = .ok new →
      (new.cube ≠ s.cube → s.e2e.pairs = [] → ∃ t q, exec .stripeHandover s = .next t ∧ SameContexts s t ∧ t.tables.moved = s.tables.moved ∧
        t.tables.copying = (fa, len) :: s.tables.copying ∧ .packetRouting q ∈ t.net ∧ q.hdr.dnode = new.cube ∧ q.hdr.cls = 3 ∧
        ∃ ws ls wits waits, q.body = .handover fa len ws ls wits waits) ∧
      (new.cube = s.cube → ∃ t, exec .stripeHandover s = .next t ∧ SameContexts s t ∧ t.tables.moved = (fa, len) :: s.tables.moved))) ∧
  (∀ (e : Nat) (p : Parcel) (s : State), s.hand.msg = .parcelMapWrite e p →
    let stays := exec .parcelMapWrite s = .next s
    let able := s.managerOk e = true ∧ s.stnsReleased p.smask = true
    let old := s.parcelOf p.ptag
    (¬ able → stays) ∧ (old = none → 64 ≤ s.tables.parcels.length → stays) ∧
    (∀ q, old = some q → (q.resize ≠ .steady ∨ p.bgen ≠ (q.bgen + 1) % 2 ^ 16) → stays) ∧
    (able → s.tables.newMaps = [] →
      (old = none → s.tables.parcels.length < 64 → p.parent = 0 → ∃ t, exec .parcelMapWrite s = .next t ∧ SameContexts s t ∧ SameStorage s t ∧
        t.parcelOf p.ptag = some { p with smask := 0, vmask := 0, lmap := [], resize := .announced } ∧
        t.tables.newMaps = [{ p with resize := .rehomed }] ∧ .resizeHandover p.ptag ∈ t.net) ∧
      (∀ q, old = some q → q.resize = .steady → p.bgen = (q.bgen + 1) % 2 ^ 16 →
        ((p.parent = 0 ∨ (p.smask = q.smask ∧ p.vmask = q.vmask)) → ∃ t, exec .parcelMapWrite s = .next t ∧ SameContexts s t ∧ SameStorage s t ∧
          t.parcelOf p.ptag = some { q with resize := .announced } ∧ t.tables.newMaps = [{ p with resize := .rehomed }] ∧
          .resizeHandover p.ptag ∈ t.net) ∧
        (∀ r, p.parent ≠ 0 → p.parent ≠ p.ptag → (p.smask ≠ q.smask ∨ p.vmask ≠ q.vmask) → s.parcelOf p.parent = some r →
          (r.resize ≠ .steady → stays) ∧
          (r.resize = .steady → ∃ t, exec .parcelMapWrite s = .next t ∧ SameContexts s t ∧ SameStorage s t ∧
            t.parcelOf p.ptag = some { q with resize := .announced } ∧ t.parcelOf p.parent = some { r with resize := .announced } ∧
            t.tables.newMaps = [{ p with resize := .rehomed }, { r with bgen := (r.bgen + 1) % 2 ^ 16, resize := .rehomed }] ∧
            .resizeHandover p.ptag ∈ t.net))))) ∧
  (∀ (ptag : Nat) (p : Parcel) (s : State), s.hand.msg = .resizeHandover ptag → s.parcelOf ptag = some p →
    (p.resize = .steady → exec .resizeHandover s = .next s) ∧
    (p.resize = .announced → ∃ t, exec .resizeHandover s = .next t ∧ t.parcelOf ptag = some { p with resize := .draining } ∧
      .resizeHandover ptag ∈ t.net ∧ t.plat.reports = s.plat.reports ++ [(6, ptag)] ∧
      ∀ n ∈ s.changedStns ptag, (s.parcelAt n).isSome = true → (t.stn n).sched.preempted = true) ∧
    (p.resize = .rehomed → ∃ t, exec .resizeHandover s = .next t ∧ SameContexts s t ∧ SameStorage s t ∧
      t.parcelOf ptag = some { p with resize := .steady } ∧ t.plat.reports = s.plat.reports ++ [(7, ptag)]) ∧
    (p.resize = .draining → s.resizeReady ptag = false → ∃ t, exec .resizeHandover s = .next t ∧ SameContexts s t ∧
      t.parcelOf ptag = some p ∧ (s.datum + 1000, .resizeHandover ptag) ∈ t.timers) ∧
    (∀ q, p.resize = .draining → s.resizeReady ptag = true → s.tables.newMaps = [q] → q.ptag = ptag →
      ∃ t, exec .resizeHandover s = .next t ∧ t.parcelOf ptag = some { q with resize := .rehomed } ∧ t.tables.newMaps = [] ∧
        .resizeHandover ptag ∈ t.net)) ∧
  (∀ (e k : Nat) (s : State), s.hand.msg = .tenantReset e k → (s.managerOk e = false → exec .tenantReset s = .next s) ∧
    (s.managerOk e = true → s.net = [] → ∃ t, exec .tenantReset s = .next t ∧ SameStorage s t ∧
      (∀ n, n < 64 → s.tenantAt n = some k → (t.stn n).sched.ready = [] ∧ (t.stn n).sched.inbox = [] ∧ (t.stn n).sched.parked = [] ∧
        (t.stn n).sched.spilled = [] ∧ ∀ core c, core < 8 → c < 4 → (t.ctx ⟨n, core, c⟩).task = none) ∧
      (∀ n core c, n < 64 → core < 8 → c < 4 → s.tenantAt n ≠ some k → t.ctx ⟨n, core, c⟩ = s.ctx ⟨n, core, c⟩) ∧
      (∀ x ∈ t.tables.tensors, s.tenantOf (x.1 / 1024) ≠ some k) ∧ t.plat.reports = s.plat.reports ++ [(8, k)])) ∧
  (∀ (w ix v no tenant dest : Nat) (c : Word) (s : State),
    (s.hand.msg = .pcapWrite w → ∃ t, exec .pcapWrite s = .next t ∧ t.plat.pcap = (if 600 ≤ w ∧ w ≤ 1800 then w else s.plat.pcap) ∧
      SameContexts s t ∧ SameStorage s t) ∧
    (s.hand.msg = .monitorControlWrite ix c → ∃ t, exec .monitorControlWrite s = .next t ∧ SameContexts s t ∧ SameStorage s t ∧
      ∀ n, Map.get ({} : Monitor) t.plat.monitors n =
        if n = ix ∧ ix < 64 then { control := c &&& 0x80FF00FF00000000 } else Map.get {} s.plat.monitors n) ∧
    (s.hand.msg = .errorCounterClear → ∃ t, exec .errorCounterClear s = .next t ∧ (∀ n, Map.get 0 t.plat.errors n = 0) ∧
      SameContexts s t ∧ SameStorage s t) ∧
    (s.hand.msg = .datumSet v → ∃ t, exec .datumSet s = .next t ∧ SameContexts s t ∧ SameStorage s t ∧
      (s.plat.phase ≠ 3 → t = s) ∧ (s.plat.phase = 3 → t.datum = v % 2 ^ 64 ∧ t.plat.phase = 4)) ∧
    (s.hand.msg = .survey no tenant dest →
      let t := match s.endpoint (no / 256) (no % 256) with | some e => e.tenant | none => tenant
      ((s.plat.phase < 3 ∨ dest % 4096 ≠ 0) → exec .survey s = .next s) ∧
      (3 ≤ s.plat.phase → dest % 4096 = 0 → ∃ u m, exec .survey s = .next u ∧ SameContexts s u ∧ SameStorage s u ∧ m.fa = dest ∧
        m.data = (s.summary (s.router.manager == some no) t).take 256 ∧
        (∀ pl, s.reachAs (some t) false false dest = .ok pl → u.net = s.net ++ [.write m]) ∧
        (∀ k, s.reachAs (some t) false false dest = .error k → u.net = s.net ++ [.hostWrite (no / 256) m]))))

/-- R277, R278, R283 to R297: the host adapter's submissions and accesses through its windows, the host table with its heartbeats and dead
hosts; power-up, the images and the release of a station; temperatures, power, refresh, scrub, SRAM errors, the datum's rate,
monitors. A host's write of less than a block word as a release, and its read of one as an acquire, are the model's choice (log
entry 97). -/
def Obligations.HostsAndUpkeep : Prop :=
  (∀ (node ix : Nat) (e : Endpoint) (s : State), s.endpoint node ix = some e →
    let same := fun (t : State) => SameContexts s t ∧ SameStorage s t
    let cache := s.hostCache node
    let quiet := cache.dirtyWords = [] ∧ cache.pubs = [] ∧ cache.wbOut = [] ∧ s.e2e.pairs = []
    (∀ d ds, s.hand.msg = .doorbell node ix (d :: ds) → ∃ t, exec .doorbell s = .next t ∧ same t ∧ .doorbell node ix [] ∈ t.net ∧
      t.endpoint node ix = some { e with ring := e.ring ++ d :: ds }) ∧
    (s.hand.msg = .doorbell node ix [] → e.ring = [] → ∃ t, exec .doorbell s = .next t ∧ same t ∧ t.net = s.net ∧ t.endpoint node ix = some e) ∧
    (∀ d, s.hand.msg = .doorbell node ix [] → e.ring = [d] →
      let anchor := (d.getD 0 0).toNat
      let reply := bitsOf (d.getD 1 0).toNat 55 0
      let tag := (d.getD 2 0).toNat % 65536
      (∀ pl, quiet → s.hostReach e anchor = some pl → ∃ t q, exec .doorbell s = .next t ∧ same t ∧ t.net = s.net ++ [.packetRouting q] ∧
        q.hdr.typ = 0x06 ∧ q.hdr.cls = 0 ∧ q.hdr.dnode = pl.cube ∧ q.hdr.addr = anchor ∧
        q.body = .signed (dwBytes (d.map (fun w => w.toNat))) (some (s.hostSig node)) 0 0 ∧ t.endpoint node ix = some { e with ring := [] }) ∧
      (∀ pl, s.hostReach e anchor = none → s.reachAs (s.tenantOf tag) false false reply = .ok pl → reply % 8 = 0 → reply ≠ 0 →
        ∃ t w, exec .doorbell s = .next t ∧ same t ∧ t.net = s.net ++ [.write w] ∧ w.fa = reply ∧
          w.data = bytesOf 8 (3 + s.datum % 2 ^ 48 * 2 ^ 16))) ∧
    (∀ slot off isWrite data, s.hand.msg = .dmaWindowAccess node ix slot off isWrite data →
      let refused := fun (a : Nat) => ∃ t, exec .dmaWindowAccess s = .next t ∧ same t ∧ t.net = s.net ∧
        t.endpoint node ix = some { e with refused := e.refused + 1, host := if isWrite then e.host else e.host ++ [(2 ^ 57 + a, [])] }
      (e.windows.find? (fun w => w.1 == slot) = none → refused off) ∧
      (∀ hb size base r w, e.windows.find? (fun w => w.1 == slot) = some (slot, hb, size, base, r, w) →
        let fa := base + off
        ((size < off + data.length ∨ (isWrite = true ∧ w = false) ∨ (isWrite = false ∧ r = false) ∨
          ∃ q ∈ piecesOf fa data, s.hostReach e q.1 = none) → refused fa) ∧
        (∀ pl, off + data.length ≤ size → isWrite = true → w = true → s.hostReach e fa = some pl → s.place fa = .ok pl → s.e2e.pairs = [] →
          (data.length = 16 → fa % 16 = 0 → ∃ t z, exec .dmaWindowAccess s = .next t ∧ same t ∧
            (t.hostCache node).find e.ptag (regionOf fa) (ixOf fa) = some (false, z) ∧ bytesOf 16 z.data.toNat = data ∧ z.dirty = true ∧
            ((∀ y ∈ cache.dirtyWords, chunkOf y.1 ≠ chunkOf fa) →
              ∃ q, .packetRouting q ∈ t.net ∧ q.hdr.dnode = pl.cube ∧ q.hdr.cls = 3 ∧ q.body = .mgmt 4 node (chunkOf fa))) ∧
          (1 ≤ data.length → data.length < 16 → fa % 16 + data.length ≤ 16 → cache.find e.ptag (regionOf fa) (ixOf fa) = none →
            ∃ t q, exec .dmaWindowAccess s = .next t ∧ same t ∧ t.net = s.net ++ [.packetRouting q] ∧ q.hdr.typ = 0x02 ∧ q.hdr.addr = fa ∧
              q.hdr.dnode = pl.cube ∧ q.body = .raw data)) ∧
        (∀ pl, off + data.length ≤ size → isWrite = false → r = true → 1 ≤ data.length → fa % 16 + data.length ≤ 16 →
          s.hostReach e fa = some pl → s.place fa = .ok pl →
          (s.hostWord node e.ptag fa = none → s.e2e.pairs = [] →
            ∃ t q, exec .dmaWindowAccess s = .next t ∧ same t ∧ t.net = s.net ++ [.packetRouting q] ∧ q.hdr.typ = 0x00 ∧ q.hdr.addr = fa ∧
              q.hdr.dnode = pl.cube) ∧
          (∀ z, s.hostWord node e.ptag fa = some z → z.poison = false → ∃ t y, exec .dmaWindowAccess s = .next t ∧ same t ∧ t.net = s.net ∧
            t.endpoint node ix = some y ∧ y.host = e.host ++ [(fa, ((bytesOf 16 z.data.toNat).drop (fa % 16)).take data.length)]))))) ∧
  (∀ (node chunk : Nat) (pl : Place) (s : State), s.place (chunk * 64) = .ok pl →
    (s.hand.msg = .hold node chunk → (pl.cube ≠ s.cube → exec .hold s = .next s) ∧
      (pl.cube = s.cube → ∃ t, exec .hold s = .next t ∧ SameContexts s t ∧ SameStorage s t ∧ (node, chunk, 0) ∈ t.hosts.table ∧
        ((∀ e ∈ s.hosts.table, e.1 ≠ node) → (s.datum + 100000000, .hostTimeout node) ∈ t.timers ∧
          Map.get 0 t.hosts.beats node = s.datum))) ∧
    (s.hand.msg = .heartbeatSend node →
      (s.heldCubes node = [] → exec .heartbeatSend s = .next s) ∧
      (∀ c, s.heldCubes node = [c] → s.e2e.pairs = [] → ∃ t q, exec .heartbeatSend s = .next t ∧ SameContexts s t ∧ SameStorage s t ∧
        t.net = s.net ++ [.packetRouting q] ∧ q.hdr.dnode = c ∧ q.hdr.cls = 3 ∧ q.body = .mgmt 5 node 0 ∧
        (s.datum + 10000000, .heartbeatSend node) ∈ t.timers)) ∧
    (s.hand.msg = .heartbeat node → ∃ t, exec .heartbeat s = .next t ∧ SameContexts s t ∧ SameStorage s t ∧
      Map.get 0 t.hosts.beats node = s.datum ∧ (s.datum + 100000000, .hostTimeout node) ∈ t.timers) ∧
    (let dies := fun (i : Instr) => ∃ t, exec i s = .next t ∧ SameContexts s t ∧ (∀ e ∈ t.hosts.table, e.1 ≠ node) ∧
        t.hosts.dead.has node = true ∧
        (∀ w, s.hosts.table = [(node, chunk, w)] → pl.cube = s.cube → (t.homeWord pl (chunk * 64)).2 = true);
      (s.hand.msg = .hostDeadDeclaration node → dies .hostDeadDeclaration) ∧
      (s.hand.msg = .hostTimeout node →
        (s.datum < Map.get 0 s.hosts.beats node + 100000000 → exec .hostTimeout s = .next s) ∧
        (Map.get 0 s.hosts.beats node + 100000000 ≤ s.datum → dies .hostTimeout)))) ∧
  (∀ (stns vaults arrays : List Nat) (rf : Bool) (s : State), s.hand.msg = .powerGood stns vaults arrays rf →
    ∃ t, exec .powerGood s = .next t ∧ t.plat.phase = 3 ∧
    t.mem = [] ∧ t.poison = [] ∧ t.full = [] ∧ t.ctxs = [] ∧ t.cube = s.cube ∧ t.datum = s.datum ∧ t.router.live = false ∧
    (∀ n, (t.stn n).boot = if n ∈ stns then .failed else .off) ∧ (∀ v, (t.vault v).failed = decide (v ∈ vaults)) ∧
    t.plat.failedArrays = arrays ∧ t.plat.routerFailed = rf ∧ (∀ n, n < 8 → (t.port n).st = .train) ∧
    (∀ v, v < 64 → v ∉ vaults → (s.datum + 32000000, .refresh v) ∈ t.timers ∧ (s.datum + 321000, .scrubStep v 0) ∈ t.timers)) ∧
  (∀ (img : Image) (n : Nat) (s : State),
    (s.hand.msg = .routerImageVerify img →
      let accepted := s.plat.routerFailed = false ∧ s.holdsImage 0 0 img = true ∧ imageOk img = true
      ((s.plat.phase < 4 ∨ s.router.live = true ∨ ¬ accepted) → exec .routerImageVerify s = .next s) ∧
      (4 ≤ s.plat.phase → s.router.live = false → accepted → ∃ t, exec .routerImageVerify s = .next t ∧ t.router.live = true ∧
        t.router.manager = s.router.imageBy ∧ t.plat.routerImage = sha256 (imageBytes img) ∧ SameContexts s t ∧ SameStorage s t)) ∧
    (s.hand.msg = .stationBoot n img →
      let accepted := s.holdsImage 0 1 img = true ∧ imageOk img = true
      ((s.plat.phase < 4 ∨ (s.stn n).boot ≠ .off) → exec .stationBoot s = .next s) ∧
      (4 ≤ s.plat.phase → (s.stn n).boot = .off → ¬ accepted → ∃ t, exec .stationBoot s = .next t ∧ (t.stn n).boot = .locked ∧
        SameContexts s t) ∧
      (4 ≤ s.plat.phase → (s.stn n).boot = .off → accepted → ∃ t, exec .stationBoot s = .next t ∧ (t.stn n).boot = .released ∧
        (t.stn n).kernel.tvec = img.entry ∧ t.plat.kernelImage = sha256 (imageBytes img) ∧
        t.ctx ⟨n, 0, 0⟩ = { busy := true, sup := true, pc := img.entry } ∧
        (∀ core c, core < 8 → c < 4 → (core ≠ 0 ∨ c ≠ 0) → t.ctx ⟨n, core, c⟩ = {}) ∧
        (∀ m core c, core < 8 → c < 4 → m ≠ n → t.ctx ⟨m, core, c⟩ = s.ctx ⟨m, core, c⟩) ∧
        (∀ a, stashFa s.cube n 0 ≤ a → a < stashFa s.cube n 0 + 2 ^ 22 → t.byte a = 0)))) ∧
  (∀ (n x v b row fa verdict ix k : Nat) (ppm : Int) (s : State),
    let same := fun (t : State) => SameContexts s t ∧ SameStorage s t
    (s.hand.msg = .thermalReading n x → (160 ≤ n → exec .thermalReading s = .next s) ∧
      (n < 160 → ∃ t, exec .thermalReading s = .next t ∧ same t ∧ (∀ k, Map.get 0 t.plat.temps k = if k = n then x else Map.get 0 s.plat.temps k) ∧
        (n < 128 → let h := t.plat.vaultHeat (n / 2)
          (t.vault (n / 2)).hot = (if 680 < h then true else if h < 664 then false else (s.vault (n / 2)).hot) ∧
          t.plat.throttled = (if 800 ≤ t.plat.heat then true else if t.plat.heat < 760 then false else s.plat.throttled)))) ∧
    (s.hand.msg = .governorMeasurement x → ∃ t, exec .governorMeasurement s = .next t ∧ same t ∧
      let xs := s.plat.samples ++ [x]
      let total := xs.foldl (fun a x => a + x) 0
      let excess := (total + x * (10 - xs.length) + 9) / 10 - s.plat.budget
      let w := t.plat.withheld
      Map.get 0 w 0 + Map.get 0 w 1 + Map.get 0 w 2 + Map.get 0 w 3 = excess ∧
      (xs.length < 10 → t.plat.samples = xs ∧ t.plat.budget = s.plat.budget ∧ t.plat.mean = s.plat.mean) ∧
      (10 ≤ xs.length → t.plat.samples = [] ∧ t.plat.mean = total / 10 ∧
        t.plat.budget = if 760 ≤ s.plat.heat then s.plat.budget - 50 else s.plat.pcap)) ∧
    (s.hand.msg = .refresh v → ∃ t, exec .refresh s = .next t ∧ same t ∧ Map.get 0 t.plat.refreshes v = Map.get 0 s.plat.refreshes v + 1 ∧
      (s.datum + (if (s.vault v).hot then 16000000 else 32000000), .refresh v) ∈ t.timers) ∧
    (let count := fun (u : State) (r : Nat) => Map.get 0 u.plat.rowRefreshes (rowNo v b r)
     let refreshes := ∃ t, exec .targetedRefresh s = .next t ∧ same t ∧
       count t (row + 1) = count s (row + 1) + 1 ∧ (row ≠ 0 → count t (row - 1) = count s (row - 1) + 1) ∧ count t row = count s row
     (s.hand.msg = .targetedRefresh v b row → refreshes) ∧
     (s.hand.msg = .rowActivations v b row k →
       let n := Map.get 0 s.plat.activations (rowNo v b row) + k
       (4096 ≤ n → refreshes) ∧
       (n < 4096 → ∃ t, exec .targetedRefresh s = .next t ∧ same t ∧ Map.get 0 t.plat.activations (rowNo v b row) = n ∧
         t.plat.rowRefreshes = s.plat.rowRefreshes))) ∧
    (s.hand.msg = .patrolScrub fa verdict → ∀ pl, s.place fa = .ok pl → pl.cube = s.cube → pl.stash = false →
      (s.inHomeBlock pl.canon = true → exec .patrolScrub s = .next s) ∧ (s.inHomeBlock pl.canon = false →
      (verdict = 0 → exec .patrolScrub s = .next s) ∧
      (verdict = 1 → ∃ t, exec .patrolScrub s = .next t ∧ same t ∧
        Map.get 0 t.plat.errors 0 = min (Map.get 0 s.plat.errors 0 + 1) (2 ^ 32 - 1)) ∧
      (verdict = 2 → ∃ t, exec .patrolScrub s = .next t ∧ SameContexts s t ∧ (t.homeWord pl fa).2 = true ∧ (∀ a, t.byte a = s.byte a) ∧
        Map.get 0 t.plat.errors 1 = min (Map.get 0 s.plat.errors 1 + 1) (2 ^ 32 - 1)))) ∧
    (s.hand.msg = .scrubStep v k → ∃ t, exec .patrolScrub s = .next t ∧ SameContexts s t ∧ (∀ a, t.byte a = s.byte a) ∧
      (s.datum + 321000, .scrubStep v ((k + 1) % 2 ^ 28)) ∈ t.timers) ∧
    (s.hand.msg = .sramError n fa true → ∃ t, exec .patrolScrub s = .next t ∧ same t ∧
      Map.get 0 t.plat.errors 2 = min (Map.get 0 s.plat.errors 2 + 1) (2 ^ 32 - 1)) ∧
    (s.hand.msg = .sramError n fa false →
      (isStashFa fa = true → ∃ t, exec .patrolScrub s = .next t ∧ SameContexts s t ∧ t.poison.has (fa / 16) = true ∧
        (∀ a, t.byte a = s.byte a) ∧ Map.get 0 t.plat.errors 3 = min (Map.get 0 s.plat.errors 3 + 1) (2 ^ 32 - 1)) ∧
      (∀ c w, isStashFa fa = false → s.windowLine n fa = none → c ∈ (s.stn n).slice.blocks → w ∈ c.lines → c.region = regionOf fa →
        w.ix = ixOf fa → w.dirty = true → ∃ t, exec .patrolScrub s = .next t ∧ same t ∧ (t.stn n).slice.bad.has (bwOf fa) = true ∧
          ∃ d ∈ (t.stn n).slice.blocks, d.region = regionOf fa ∧ ∃ z ∈ d.lines, z.ix = w.ix ∧ z.dirty = true ∧ z.poison = true)) ∧
    (s.hand.msg = .datumSynchronisation ppm → ∃ t, exec .datumSynchronisation s = .next t ∧ same t ∧ t.datum = s.datum ∧
      t.plat.rate = max (-100) (min 100 ppm)) ∧
    (s.hand.msg = .datumExchange → ∃ t, exec .datumSynchronisation s = .next t ∧ same t ∧ t.datum = s.datum ∧
      (s.datum + 1000000, .datumExchange) ∈ t.timers) ∧
    (s.hand.msg = .monitorSample ix →
      let m := Map.get ({} : Monitor) s.plat.monitors ix
      (s.level (monSrc m.control) (monUnit m.control) = none → exec .monitorSample s = .next s) ∧
      (∀ y, s.level (monSrc m.control) (monUnit m.control) = some y → ∃ t, exec .monitorSample s = .next t ∧ same t ∧
        let k := Map.get ({} : Monitor) t.plat.monitors ix
        let bin := if y = 0 then 0 else min (Nat.log2 y + 1) 31
        (monEn m.control = false → k = m) ∧
        (monEn m.control = true → Map.get 0 k.bins bin = min (Map.get 0 m.bins bin + 1) (2 ^ 32 - 1) ∧ k.max = max m.max y ∧
          k.min = (if m.total = 0 then y else min m.min y) ∧ k.total = min (m.total + 1) (2 ^ 32 - 1)))))

/-! ## Steps, decoding, reset -/

/-- R57, R70, R80, R286: a turn of a busy context, where nothing is pending at its boundary, fetches the words at its PC and executes
the instruction that they decode to, with its words counted and nothing else done around it; words that decode to nothing take the trap
ILL at the word found illegal, a fetch that traps enters the trap with the words fetched so far counted and nothing charged, and one
that stalls ends the turn there. A 2-byte word that the TLB maps is read as the station finds it. A bank's turn executes the move at its
program counter; a turn that takes a message executes that message's event. A turn that the environment did not choose (log entry 1) is
one that it could have chosen. The datum has moved on (R7), and has 64 bits (log entry 83). -/
def Obligations.StepRunsDecoded : Prop :=
  (∀ (d : Nat) (s : State), (d < 2 ^ 64 → s.advanceTo d = { s with datum := d }) ∧
    (2 ^ 64 ≤ d → s.advanceTo d =
      { s with datum := d % 2 ^ 64, timers := s.timers.map (fun e => (e.1 - 2 ^ 64, e.2)) })) ∧
  (∀ (l : Loc) (k : Nat) (ts : List Turn) (s : State), s.turns = ⟨.ctx l, k⟩ :: ts → locOk l = true →
    let v := s.advanceTo (s.datum + k)
    let u := { v with counts := { v.counts with steps := v.counts.steps + 1 }, turns := ts, hand := { v.hand with at_ := l } }
    (u.ctx l).busy = true → u.boundary l = none → (u.ctx l).flow.waitOn = none → u.takesKmsg l = none →
    let f := Exec.fetch 5 u.cur.pc { u with hand := { u.hand with words := 0, msg := .none } }
    (∀ ws t, f = .ok ws t →
      (∀ i, decodeWords ws = .ok i → step s = exec i t) ∧
      (∀ p, decodeWords ws = .error p → step s = .next (t.trap causeILL (BitVec.ofNat 64 (nextPc u.cur.pc p))))) ∧
    (∀ c a t, f = .error (.trap c a) t → step s = .next (t.enterTrap t.hand.at_ c a u.cur.pc t.hand.words)) ∧
    (∀ t, f = .error .stall t → step s = .next t)) ∧
  (∀ (pc n : Nat) (e : Tlb) (pl : Place) (w : BlockWord) (s : State), pc % 2 = 0 → pc < 2 ^ 48 →
    (s.stn s.hand.at_.stn).tlb.find? (Tlb.hit s.curTag pc) = some e → e.x = true →
    let fa := e.fa + pc % e.size
    fa % 16 = pc % 16 → s.reach ⟨s.hand.at_.stn, s.cur.sup, s.cur.sup⟩ fa = .ok pl →
    s.wordAtStn s.cur.flow.rbuf s.hand.at_.stn { pl with canon := pl.canon / 16 * 16 } (fa / 16 * 16) = .ok (w, false) →
    let v := w.toNat / 2 ^ (8 * (fa % 16)) % 65536
    let t := State.useStn { s with hand := { s.hand with words := s.hand.words + 1 } } s.hand.at_.stn fa
    (isPrefix v = false → Exec.fetch (n + 1) pc s = .ok [v] t) ∧
    (isPrefix v = true → ∀ ws u, Exec.fetch n (nextPc pc 1) t = .ok ws u → Exec.fetch (n + 1) pc s = .ok (v :: ws) u)) ∧
  (∀ (v b k w : Nat) (ts : List Turn) (s : State), s.turns = ⟨.bank v b, k⟩ :: ts → v < 64 → b < 128 → bankWord s v b = some w →
    let u := s.advanceTo (s.datum + k)
    step s = exec (decodeMove w) { u with
      counts := { u.counts with steps := u.counts.steps + 1 }, turns := ts,
      hand := { u.hand with vault := v, bank := b, move := w } }) ∧
  (∀ (k : Nat) (ts : List Turn) (m : Msg) (ms : List Msg) (i : Instr) (s : State), msgInstr m = some i →
    let v := s.advanceTo (s.datum + k)
    let u := { v with counts := { v.counts with steps := v.counts.steps + 1 }, turns := ts }
    let runs := fun (t : State) => step s = exec i { t with hand := { t.hand with msg := m } }
    (s.turns = ⟨.ext, k⟩ :: ts → s.ext = m :: ms → runs { u with ext := ms }) ∧
    (∀ n, s.turns = ⟨.net n, k⟩ :: ts → s.net[n]? = some m → msgChannel m = none → runs { u with net := s.net.eraseIdx n }) ∧
    (∀ d l, s.turns = ⟨.timer, k⟩ :: ts → v.timers = (d, m) :: l → runs (State.advanceTo { u with timers := l } (max v.datum d)))) ∧
  (∀ s : State, s.turns = [] →
    let k := Config.elapsed s.counts.steps
    step s = step { s with turns := [⟨(s.tick k).defaultWho, k⟩], counts := { s.counts with rr := s.counts.rr + 1 } })

/-- R58, R63, R70, R72, R75, R222: words written out from the spec's encodings decode to the instructions that they stand for, or are
found illegal at the word that the spec says. -/
def Obligations.DecodedWords : Prop :=
  decodeWords [0xF940, 0xF340, 0xF019, 0x30A3] = .ok (.ld { a := 40, b := 5, c := .imm 200, q := { order := .acq, scope := .cube } }) ∧
  decodeWords [0xF340, 0xF019, 0x30A3] = .ok (.ld { a := 40, b := 5, c := .imm 200, q := {} }) ∧
  decodeWords [0x34BB] = .ok (.ld { a := 4, b := 5, c := .reg 6, q := {} }) ∧
  decodeWords [0xF401, 0xF005, 0x34E2] = .ok (.ldI32 { a := 4, b := 7, c := .imm 40, q := {} }) ∧
  decodeWords [0xF9E0, 0x3B43] = .ok (.st { a := 3, b := 2, c := .reg 0, q := { order := .rel, scope := .dom } }) ∧
  decodeWords [0xFCC0, 0xF683, 0xF460, 0xF201, 0x8386] =
    .ok (.vmul { fmt := .bf16, bc := true, a := 3, b := 4, c := 9, q := { pred := 2, rm := .ru, guard := some ⟨1, true⟩ } }) ∧
  decodeWords [0x137F] = .ok (.addi { sat := false, a := 3, imm := 127 }) ∧ decodeWords [0x1380] = .ok (.addi { sat := false, a := 3, imm := -128 }) ∧
  decodeWords [0xF000, 0x1380] = .ok (.addi { sat := false, a := 3, imm := 128 }) ∧
  decodeWords [0xF1FF, 0x1338] = .ok (.addi { sat := false, a := 3, imm := -200 }) ∧
  decodeWords [0x0B74] = .ok (.add { uns := false, sat := false, a := 3, b := 3, c := .reg 5 }) ∧ decodeWords [0x2411] = .ok (.bne { a := 4, b := 0, off := -4 }) ∧
  decodeWords [0x0000] = .ok .nop ∧ decodeWords [0x0003] = .ok .eret ∧
  decodeWords [0xF201, 0xF201, 0x0B74] = .error 1 ∧ decodeWords [0xF000, 0x8374] = .error 0 ∧ decodeWords [0xF610, 0x8374] = .error 0 ∧
  decodeWords [0xF340, 0x8374] = .error 0 ∧ decodeWords [0xF440, 0x0000] = .error 0 ∧ decodeWords [0x0100] = .error 0 ∧
  decodeWords [0xFFFF, 0xFFFF, 0xFFFF, 0xFFFF, 0xFFFF] = .error 0 ∧ decodeWords [0xF000, 0xF000, 0xF000, 0xF000, 0xF000] = .error 4 ∧
  decodeMove 0x2C100001 = .ivload ∧ moveFields 0x2C100001 = ⟨1, 0, 1⟩ ∧ decodeMove 0x34007F00 = .mac ∧
  moveFields 0x34007F00 = ⟨0, 127, 0⟩ ∧ decodeMove 0x4010000A = .ishr ∧ decodeMove 0x80000000 = .bankAccWrite

/-- R57 to R75, R85: an instruction that the encodings admit and at most four prefix words hold has 16-bit words, all but the last of
them prefixes, and they decode to it again. -/
def Obligations.EncodeDecode : Prop :=
  ∀ i : Instr, i.wf = true → i.fits = true →
    decodeWords (encodeWords i) = .ok i ∧ (∀ w ∈ encodeWords i, w < 65536) ∧
    (∀ w ∈ (encodeWords i).dropLast, isPrefix w = true) ∧ (∀ w ∈ (encodeWords i).getLast?, isPrefix w = false)

/-- R222: a bank move's word is 32 bits, and decodes to its port, its move and its fields again; every word is the word of what it decodes
to. -/
def Obligations.MovesEncodeDecode : Prop :=
  (∀ (d : Nat) (m : BMove), d < 64 → m.wf = true →
    encodeMove d m < 2 ^ 32 ∧ moveDest (encodeMove d m) = d ∧ moveFields (encodeMove d m) = m ∧ decodeMove (encodeMove d m) = moveOf d) ∧
  (∀ w : Nat, w < 2 ^ 32 → (moveFields w).wf = true ∧ moveDest w < 64 ∧ encodeMove (moveDest w) (moveFields w) = w)

/-- The state after reset. R49, R80: FFLAGS, FTRAPEN, RNDSEED, TCAUSE, TADDR, TPC and TSTAT zero, VL 256, every field of VWEIGHT 1.
R76, R288: accumulators zero, every handle's VALID 0. R124: stash bytes zero, their full bits clear. R123: the wait counters zero. R134,
R215, R240, R262, R285: the lease lengths, latch timeout, no-deadline horizon, retry time and PCAP at their stated values. The
rest is the model's choice (log entry 2): DRAM bytes and registers zero, no context busy, TVEC zero; nothing is in flight, and where
nothing comes from outside only the datum moves. The canonical forms hold. -/
def Obligations.ResetState : Prop :=
  let s := State.reset
  (∀ a, s.byte a = 0) ∧ s.poison = [] ∧ s.full = [] ∧ s.canonical ∧
  (∀ l, let c := s.ctx l
    c.busy = false ∧ c.pc = 0 ∧ (∀ r, c.readG r = 0) ∧ (∀ r, c.readV r = 0) ∧ c.csr.fflags = 0 ∧ c.csr.ftrapen = 0 ∧ c.csr.rndseed = 0 ∧
    c.csr.vl = 256 ∧ c.csr.tcause = 0 ∧ c.csr.taddr = 0 ∧ c.csr.tpc = 0 ∧ c.csr.iwords = 0 ∧ c.csr.taie = false ∧ c.csr.pmode = false ∧
    c.flow.c1 = 0 ∧ c.flow.c2 = 0) ∧
  (∀ tid, s.c3of tid = 0) ∧
  (∀ n, let t := s.stn n
    (∀ i, i < 8 → t.vec.vweight.toNat / 2 ^ (8 * i) % 256 = 1) ∧ (∀ h, (Map.get {} t.handles h).valid = false) ∧
    (∀ a k, Map.get 0 (Map.get {} t.eng.matrix.accs a).vals k = 0) ∧ t.eng.matrix.timeout = 1000000 ∧ t.sched.horizon = 10000000 ∧
    t.sched.ready = [] ∧ t.tlb = [] ∧ t.slice.blocks = [] ∧ t.kernel.tvec = 0 ∧ t.boot = .off) ∧
  s.tables.copyLease = 2000 ∧ s.tables.repLease = 1000000 ∧ s.router.retry = 20000 ∧ s.plat.pcap = 1800 ∧
  s.net = [] ∧ s.timers = [] ∧ s.ext = [] ∧
  ∃ k, step s = .next { s with datum := k, counts := { s.counts with steps := 1, rr := 1 } }

/-- A whole-machine rule: every step keeps memory, the set of poisoned block words and the set of full stash words in their canonical
form, so that equal contents are equal data. -/
def Obligations.StepKeepsCanonical : Prop :=
  ∀ s t : State, s.canonical → step s = .next t → t.canonical
end

