-- ==== Sys2Proof/Laws/Map.lean ====
section
/-! SUPPORT. Laws of the finite maps that memory and every numbered file of state is held in: reading after writing, and that
writing keeps the canonical form. -/

namespace Sys2Proof.Map

section

variable {β : Type} {d : β}

/-- Below the first key a map reads as the default. -/
theorem get_of_lt {k a : Nat} {v : β} {m : Map β} (h : a < k) : get d ((k, v) :: m) a = d := by
  simp [get, Nat.ne_of_lt h, h]

/-- Entries at or below a number do not matter to reads above it. -/
theorem get_dropWhile_le (m : Map β) {a b : Nat} (h : a < b) :
    get d (m.dropWhile (fun e => decide (e.1 ≤ a))) b = get d m b := by
  induction m with
  | nil => rfl
  | cons e m ih =>
    obtain ⟨k, v⟩ := e
    by_cases hk : k ≤ a
    · have h1 : ¬b = k := by omega
      have h2 : ¬b < k := by omega
      simp [hk, ih, get, h1, h2]
    · simp [hk]

/-- After dropping the entries at or below a number, every read up to it is the default. -/
theorem get_dropWhile_self (m : Map β) {a b : Nat} (h : b ≤ a) :
    get d (m.dropWhile (fun e => decide (e.1 ≤ a))) b = d := by
  induction m with
  | nil => rfl
  | cons e m ih =>
    obtain ⟨k, v⟩ := e
    by_cases hk : k ≤ a
    · simp [hk, ih]
    · have h1 : ¬b = k := by omega
      have h2 : b < k := by omega
      simp [hk, get, h1, h2]

end

variable {β : Type} [DecidableEq β] {d : β}

/-- A read after a write at the same place gives what was written. -/
@[simp] theorem get_set_self (m : Map β) (a : Nat) (v : β) : get d (set d m a v) a = v := by
  induction m with
  | nil => by_cases h : v = d <;> simp [set, get, h]
  | cons e m ih =>
    obtain ⟨k, x⟩ := e
    by_cases h1 : a < k
    · by_cases h : v = d
      · simp [set, h1, h, get, Nat.ne_of_lt h1]
      · simp [set, h1, h, get]
    · by_cases h2 : a = k
      · subst h2
        by_cases h : v = d
        · simp [set, h, get_dropWhile_self m (Nat.le_refl a)]
        · simp [set, h, get]
      · simp [set, h1, h2, get, ih]

/-- A write leaves every other place alone. -/
theorem get_set_ne (m : Map β) {a b : Nat} (v : β) (hb : b ≠ a) : get d (set d m a v) b = get d m b := by
  induction m with
  | nil =>
    by_cases h : v = d
    · simp [set, h]
    · by_cases h2 : b < a <;> simp [set, h, get, hb]
  | cons e m ih =>
    obtain ⟨k, x⟩ := e
    by_cases h1 : a < k
    · by_cases h : v = d
      · simp [set, h1, h]
      · by_cases h3 : b < a
        · have h4 : ¬b = k := by omega
          have h5 : b < k := by omega
          simp [set, h1, h, get, hb, h3, h4, h5]
        · simp [set, h1, h, get, hb, h3]
    · by_cases h2 : a = k
      · subst h2
        by_cases h : v = d
        · by_cases h3 : b < a
          · simp [set, h, get, hb, h3, get_dropWhile_self m (Nat.le_of_lt h3)]
          · simp [set, h, get, hb, h3, get_dropWhile_le m (show a < b by omega)]
        · simp [set, h, get, hb]
      · simp [set, h1, h2, get, ih]

/-- Reading after writing, in one statement. -/
theorem get_set (m : Map β) (a b : Nat) (v : β) : get d (set d m a v) b = if b = a then v else get d m b := by
  by_cases h : b = a
  · simp [h]
  · simp [h, get_set_ne m v h]

/-- A weaker lower bound keeps the form. -/
theorem wfFrom_mono {lo lo' : Nat} (h : lo' ≤ lo) : ∀ {m : Map β}, wfFrom d lo m = true → wfFrom d lo' m = true
  | [], _ => rfl
  | (k, v) :: m, hm => by
    simp [wfFrom] at hm ⊢
    exact ⟨⟨by omega, hm.1.2⟩, hm.2⟩

/-- In canonical form nothing at or below a lower bound is dropped. -/
theorem dropWhile_of_wfFrom {a : Nat} : ∀ {m : Map β}, wfFrom d (a + 1) m = true →
    m.dropWhile (fun e => decide (e.1 ≤ a)) = m
  | [], _ => rfl
  | (k, v) :: m, hm => by
    simp [wfFrom] at hm
    have : ¬k ≤ a := by omega
    simp [this]

/-- Writing keeps the canonical form. -/
theorem wfFrom_set {a : Nat} (v : β) : ∀ {lo : Nat} {m : Map β}, lo ≤ a → wfFrom d lo m = true → wfFrom d lo (set d m a v) = true
  | lo, [], ha, _ => by by_cases h : v = d <;> simp [set, h, wfFrom, ha]
  | lo, (k, x) :: m, ha, hm => by
    simp [wfFrom] at hm
    by_cases h1 : a < k
    · by_cases h : v = d
      · simp [set, h1, h, wfFrom, hm]
      · have hk : a + 1 ≤ k := by omega
        simp [set, h1, h, wfFrom, hm, ha, hk]
    · by_cases h2 : a = k
      · subst h2
        by_cases h : v = d
        · simp [set, h, dropWhile_of_wfFrom hm.2]
          exact wfFrom_mono (by omega) hm.2
        · simp [set, h, wfFrom, hm]
      · simp [set, h1, h2, wfFrom, hm]
        exact wfFrom_set v (by omega) hm.2

/-- Writing keeps the canonical form. -/
theorem wf_set {m : Map β} (a : Nat) (v : β) (h : wf d m = true) : wf d (set d m a v) = true := wfFrom_set v (Nat.zero_le a) h

/-- Removing entries keeps the canonical form. -/
theorem wfFrom_filter (p : Nat × β → Bool) : ∀ {lo : Nat} {m : Map β}, wfFrom d lo m = true → wfFrom d lo (m.filter p) = true
  | _, [], _ => rfl
  | lo, (k, v) :: m, hm => by
    simp [wfFrom] at hm
    by_cases h : p (k, v) = true
    · simp [h, wfFrom, hm]
      exact wfFrom_filter p hm.2
    · simp [h]
      exact wfFrom_mono (by omega) (wfFrom_filter p hm.2)

/-- Removing entries keeps the canonical form. -/
theorem wf_filter {m : Map β} (p : Nat × β → Bool) (h : wf d m = true) : wf d (m.filter p) = true := wfFrom_filter p h

end Sys2Proof.Map
end

