-- ==== Sys2Proof/Laws/State.lean ====
section
/-! SUPPORT. What each named update of a state leaves alone, and what reading gives after it. -/

namespace Sys2Proof.Machine

variable (s : State)

/-! ## Fields that an update does not change -/

@[simp] theorem State.setCtx_cube (l : Loc) (c : Ctx) : (s.setCtx l c).cube = s.cube := rfl
@[simp] theorem State.setCtx_datum (l : Loc) (c : Ctx) : (s.setCtx l c).datum = s.datum := rfl
@[simp] theorem State.setCtx_mem (l : Loc) (c : Ctx) : (s.setCtx l c).mem = s.mem := rfl
@[simp] theorem State.setCtx_poison (l : Loc) (c : Ctx) : (s.setCtx l c).poison = s.poison := rfl
@[simp] theorem State.setCtx_full (l : Loc) (c : Ctx) : (s.setCtx l c).full = s.full := rfl
@[simp] theorem State.setCtx_stations (l : Loc) (c : Ctx) : (s.setCtx l c).stations = s.stations := rfl
@[simp] theorem State.setCtx_vaults (l : Loc) (c : Ctx) : (s.setCtx l c).vaults = s.vaults := rfl
@[simp] theorem State.setCtx_c3 (l : Loc) (c : Ctx) : (s.setCtx l c).c3 = s.c3 := rfl
@[simp] theorem State.setCtx_away (l : Loc) (c : Ctx) : (s.setCtx l c).away = s.away := rfl
@[simp] theorem State.setCtx_tables (l : Loc) (c : Ctx) : (s.setCtx l c).tables = s.tables := rfl
@[simp] theorem State.setCtx_router (l : Loc) (c : Ctx) : (s.setCtx l c).router = s.router := rfl
@[simp] theorem State.setCtx_e2e (l : Loc) (c : Ctx) : (s.setCtx l c).e2e = s.e2e := rfl
@[simp] theorem State.setCtx_hosts (l : Loc) (c : Ctx) : (s.setCtx l c).hosts = s.hosts := rfl
@[simp] theorem State.setCtx_plat (l : Loc) (c : Ctx) : (s.setCtx l c).plat = s.plat := rfl
@[simp] theorem State.setCtx_net (l : Loc) (c : Ctx) : (s.setCtx l c).net = s.net := rfl
@[simp] theorem State.setCtx_timers (l : Loc) (c : Ctx) : (s.setCtx l c).timers = s.timers := rfl
@[simp] theorem State.setCtx_after (l : Loc) (c : Ctx) : (s.setCtx l c).after = s.after := rfl
@[simp] theorem State.setCtx_ext (l : Loc) (c : Ctx) : (s.setCtx l c).ext = s.ext := rfl
@[simp] theorem State.setCtx_turns (l : Loc) (c : Ctx) : (s.setCtx l c).turns = s.turns := rfl
@[simp] theorem State.setCtx_hand (l : Loc) (c : Ctx) : (s.setCtx l c).hand = s.hand := rfl
@[simp] theorem State.setCtx_counts (l : Loc) (c : Ctx) : (s.setCtx l c).counts = s.counts := rfl

@[simp] theorem State.modCtx_cube (l : Loc) (f : Ctx → Ctx) : (s.modCtx l f).cube = s.cube := rfl
@[simp] theorem State.modCtx_datum (l : Loc) (f : Ctx → Ctx) : (s.modCtx l f).datum = s.datum := rfl
@[simp] theorem State.modCtx_mem (l : Loc) (f : Ctx → Ctx) : (s.modCtx l f).mem = s.mem := rfl
@[simp] theorem State.modCtx_poison (l : Loc) (f : Ctx → Ctx) : (s.modCtx l f).poison = s.poison := rfl
@[simp] theorem State.modCtx_full (l : Loc) (f : Ctx → Ctx) : (s.modCtx l f).full = s.full := rfl
@[simp] theorem State.modCtx_stations (l : Loc) (f : Ctx → Ctx) : (s.modCtx l f).stations = s.stations := rfl
@[simp] theorem State.modCtx_vaults (l : Loc) (f : Ctx → Ctx) : (s.modCtx l f).vaults = s.vaults := rfl
@[simp] theorem State.modCtx_c3 (l : Loc) (f : Ctx → Ctx) : (s.modCtx l f).c3 = s.c3 := rfl
@[simp] theorem State.modCtx_away (l : Loc) (f : Ctx → Ctx) : (s.modCtx l f).away = s.away := rfl
@[simp] theorem State.modCtx_tables (l : Loc) (f : Ctx → Ctx) : (s.modCtx l f).tables = s.tables := rfl
@[simp] theorem State.modCtx_router (l : Loc) (f : Ctx → Ctx) : (s.modCtx l f).router = s.router := rfl
@[simp] theorem State.modCtx_e2e (l : Loc) (f : Ctx → Ctx) : (s.modCtx l f).e2e = s.e2e := rfl
@[simp] theorem State.modCtx_hosts (l : Loc) (f : Ctx → Ctx) : (s.modCtx l f).hosts = s.hosts := rfl
@[simp] theorem State.modCtx_plat (l : Loc) (f : Ctx → Ctx) : (s.modCtx l f).plat = s.plat := rfl
@[simp] theorem State.modCtx_net (l : Loc) (f : Ctx → Ctx) : (s.modCtx l f).net = s.net := rfl
@[simp] theorem State.modCtx_timers (l : Loc) (f : Ctx → Ctx) : (s.modCtx l f).timers = s.timers := rfl
@[simp] theorem State.modCtx_after (l : Loc) (f : Ctx → Ctx) : (s.modCtx l f).after = s.after := rfl
@[simp] theorem State.modCtx_ext (l : Loc) (f : Ctx → Ctx) : (s.modCtx l f).ext = s.ext := rfl
@[simp] theorem State.modCtx_turns (l : Loc) (f : Ctx → Ctx) : (s.modCtx l f).turns = s.turns := rfl
@[simp] theorem State.modCtx_hand (l : Loc) (f : Ctx → Ctx) : (s.modCtx l f).hand = s.hand := rfl
@[simp] theorem State.modCtx_counts (l : Loc) (f : Ctx → Ctx) : (s.modCtx l f).counts = s.counts := rfl

@[simp] theorem State.modCur_cube (f : Ctx → Ctx) : (s.modCur f).cube = s.cube := rfl
@[simp] theorem State.modCur_datum (f : Ctx → Ctx) : (s.modCur f).datum = s.datum := rfl
@[simp] theorem State.modCur_mem (f : Ctx → Ctx) : (s.modCur f).mem = s.mem := rfl
@[simp] theorem State.modCur_poison (f : Ctx → Ctx) : (s.modCur f).poison = s.poison := rfl
@[simp] theorem State.modCur_full (f : Ctx → Ctx) : (s.modCur f).full = s.full := rfl
@[simp] theorem State.modCur_stations (f : Ctx → Ctx) : (s.modCur f).stations = s.stations := rfl
@[simp] theorem State.modCur_vaults (f : Ctx → Ctx) : (s.modCur f).vaults = s.vaults := rfl
@[simp] theorem State.modCur_c3 (f : Ctx → Ctx) : (s.modCur f).c3 = s.c3 := rfl
@[simp] theorem State.modCur_away (f : Ctx → Ctx) : (s.modCur f).away = s.away := rfl
@[simp] theorem State.modCur_tables (f : Ctx → Ctx) : (s.modCur f).tables = s.tables := rfl
@[simp] theorem State.modCur_router (f : Ctx → Ctx) : (s.modCur f).router = s.router := rfl
@[simp] theorem State.modCur_e2e (f : Ctx → Ctx) : (s.modCur f).e2e = s.e2e := rfl
@[simp] theorem State.modCur_hosts (f : Ctx → Ctx) : (s.modCur f).hosts = s.hosts := rfl
@[simp] theorem State.modCur_plat (f : Ctx → Ctx) : (s.modCur f).plat = s.plat := rfl
@[simp] theorem State.modCur_net (f : Ctx → Ctx) : (s.modCur f).net = s.net := rfl
@[simp] theorem State.modCur_timers (f : Ctx → Ctx) : (s.modCur f).timers = s.timers := rfl
@[simp] theorem State.modCur_after (f : Ctx → Ctx) : (s.modCur f).after = s.after := rfl
@[simp] theorem State.modCur_ext (f : Ctx → Ctx) : (s.modCur f).ext = s.ext := rfl
@[simp] theorem State.modCur_turns (f : Ctx → Ctx) : (s.modCur f).turns = s.turns := rfl
@[simp] theorem State.modCur_hand (f : Ctx → Ctx) : (s.modCur f).hand = s.hand := rfl
@[simp] theorem State.modCur_counts (f : Ctx → Ctx) : (s.modCur f).counts = s.counts := rfl

@[simp] theorem State.retire_cube : (s.retire).cube = s.cube := rfl
@[simp] theorem State.retire_datum : (s.retire).datum = s.datum := rfl
@[simp] theorem State.retire_mem : (s.retire).mem = s.mem := rfl
@[simp] theorem State.retire_poison : (s.retire).poison = s.poison := rfl
@[simp] theorem State.retire_full : (s.retire).full = s.full := rfl
@[simp] theorem State.retire_stations : (s.retire).stations = s.stations := rfl
@[simp] theorem State.retire_vaults : (s.retire).vaults = s.vaults := rfl
@[simp] theorem State.retire_c3 : (s.retire).c3 = s.c3 := rfl
@[simp] theorem State.retire_away : (s.retire).away = s.away := rfl
@[simp] theorem State.retire_tables : (s.retire).tables = s.tables := rfl
@[simp] theorem State.retire_router : (s.retire).router = s.router := rfl
@[simp] theorem State.retire_e2e : (s.retire).e2e = s.e2e := rfl
@[simp] theorem State.retire_hosts : (s.retire).hosts = s.hosts := rfl
@[simp] theorem State.retire_plat : (s.retire).plat = s.plat := rfl
@[simp] theorem State.retire_net : (s.retire).net = s.net := rfl
@[simp] theorem State.retire_timers : (s.retire).timers = s.timers := rfl
@[simp] theorem State.retire_after : (s.retire).after = s.after := rfl
@[simp] theorem State.retire_ext : (s.retire).ext = s.ext := rfl
@[simp] theorem State.retire_turns : (s.retire).turns = s.turns := rfl
@[simp] theorem State.retire_hand : (s.retire).hand = s.hand := rfl
@[simp] theorem State.retire_counts : (s.retire).counts = s.counts := rfl

@[simp] theorem State.finishAt_cube (pc : Nat) : (s.finishAt pc).cube = s.cube := rfl
@[simp] theorem State.finishAt_datum (pc : Nat) : (s.finishAt pc).datum = s.datum := rfl
@[simp] theorem State.finishAt_mem (pc : Nat) : (s.finishAt pc).mem = s.mem := rfl
@[simp] theorem State.finishAt_poison (pc : Nat) : (s.finishAt pc).poison = s.poison := rfl
@[simp] theorem State.finishAt_full (pc : Nat) : (s.finishAt pc).full = s.full := rfl
@[simp] theorem State.finishAt_stations (pc : Nat) : (s.finishAt pc).stations = s.stations := rfl
@[simp] theorem State.finishAt_vaults (pc : Nat) : (s.finishAt pc).vaults = s.vaults := rfl
@[simp] theorem State.finishAt_c3 (pc : Nat) : (s.finishAt pc).c3 = s.c3 := rfl
@[simp] theorem State.finishAt_away (pc : Nat) : (s.finishAt pc).away = s.away := rfl
@[simp] theorem State.finishAt_tables (pc : Nat) : (s.finishAt pc).tables = s.tables := rfl
@[simp] theorem State.finishAt_router (pc : Nat) : (s.finishAt pc).router = s.router := rfl
@[simp] theorem State.finishAt_e2e (pc : Nat) : (s.finishAt pc).e2e = s.e2e := rfl
@[simp] theorem State.finishAt_hosts (pc : Nat) : (s.finishAt pc).hosts = s.hosts := rfl
@[simp] theorem State.finishAt_plat (pc : Nat) : (s.finishAt pc).plat = s.plat := rfl
@[simp] theorem State.finishAt_net (pc : Nat) : (s.finishAt pc).net = s.net := rfl
@[simp] theorem State.finishAt_timers (pc : Nat) : (s.finishAt pc).timers = s.timers := rfl
@[simp] theorem State.finishAt_after (pc : Nat) : (s.finishAt pc).after = s.after := rfl
@[simp] theorem State.finishAt_ext (pc : Nat) : (s.finishAt pc).ext = s.ext := rfl
@[simp] theorem State.finishAt_turns (pc : Nat) : (s.finishAt pc).turns = s.turns := rfl
@[simp] theorem State.finishAt_hand (pc : Nat) : (s.finishAt pc).hand = s.hand := rfl
@[simp] theorem State.finishAt_counts (pc : Nat) : (s.finishAt pc).counts = s.counts := rfl

@[simp] theorem State.enterTrap_cube (l : Loc) (cause : Nat) (addr : Word) (tpc iwords : Nat) : (s.enterTrap l cause addr tpc iwords).cube = s.cube := rfl
@[simp] theorem State.enterTrap_datum (l : Loc) (cause : Nat) (addr : Word) (tpc iwords : Nat) : (s.enterTrap l cause addr tpc iwords).datum = s.datum := rfl
@[simp] theorem State.enterTrap_mem (l : Loc) (cause : Nat) (addr : Word) (tpc iwords : Nat) : (s.enterTrap l cause addr tpc iwords).mem = s.mem := rfl
@[simp] theorem State.enterTrap_poison (l : Loc) (cause : Nat) (addr : Word) (tpc iwords : Nat) : (s.enterTrap l cause addr tpc iwords).poison = s.poison := rfl
@[simp] theorem State.enterTrap_full (l : Loc) (cause : Nat) (addr : Word) (tpc iwords : Nat) : (s.enterTrap l cause addr tpc iwords).full = s.full := rfl
@[simp] theorem State.enterTrap_stations (l : Loc) (cause : Nat) (addr : Word) (tpc iwords : Nat) : (s.enterTrap l cause addr tpc iwords).stations = s.stations := rfl
@[simp] theorem State.enterTrap_vaults (l : Loc) (cause : Nat) (addr : Word) (tpc iwords : Nat) : (s.enterTrap l cause addr tpc iwords).vaults = s.vaults := rfl
@[simp] theorem State.enterTrap_c3 (l : Loc) (cause : Nat) (addr : Word) (tpc iwords : Nat) : (s.enterTrap l cause addr tpc iwords).c3 = s.c3 := rfl
@[simp] theorem State.enterTrap_away (l : Loc) (cause : Nat) (addr : Word) (tpc iwords : Nat) : (s.enterTrap l cause addr tpc iwords).away = s.away := rfl
@[simp] theorem State.enterTrap_tables (l : Loc) (cause : Nat) (addr : Word) (tpc iwords : Nat) : (s.enterTrap l cause addr tpc iwords).tables = s.tables := rfl
@[simp] theorem State.enterTrap_router (l : Loc) (cause : Nat) (addr : Word) (tpc iwords : Nat) : (s.enterTrap l cause addr tpc iwords).router = s.router := rfl
@[simp] theorem State.enterTrap_e2e (l : Loc) (cause : Nat) (addr : Word) (tpc iwords : Nat) : (s.enterTrap l cause addr tpc iwords).e2e = s.e2e := rfl
@[simp] theorem State.enterTrap_hosts (l : Loc) (cause : Nat) (addr : Word) (tpc iwords : Nat) : (s.enterTrap l cause addr tpc iwords).hosts = s.hosts := rfl
@[simp] theorem State.enterTrap_plat (l : Loc) (cause : Nat) (addr : Word) (tpc iwords : Nat) : (s.enterTrap l cause addr tpc iwords).plat = s.plat := rfl
@[simp] theorem State.enterTrap_net (l : Loc) (cause : Nat) (addr : Word) (tpc iwords : Nat) : (s.enterTrap l cause addr tpc iwords).net = s.net := rfl
@[simp] theorem State.enterTrap_timers (l : Loc) (cause : Nat) (addr : Word) (tpc iwords : Nat) : (s.enterTrap l cause addr tpc iwords).timers = s.timers := rfl
@[simp] theorem State.enterTrap_after (l : Loc) (cause : Nat) (addr : Word) (tpc iwords : Nat) : (s.enterTrap l cause addr tpc iwords).after = s.after := rfl
@[simp] theorem State.enterTrap_ext (l : Loc) (cause : Nat) (addr : Word) (tpc iwords : Nat) : (s.enterTrap l cause addr tpc iwords).ext = s.ext := rfl
@[simp] theorem State.enterTrap_turns (l : Loc) (cause : Nat) (addr : Word) (tpc iwords : Nat) : (s.enterTrap l cause addr tpc iwords).turns = s.turns := rfl
@[simp] theorem State.enterTrap_hand (l : Loc) (cause : Nat) (addr : Word) (tpc iwords : Nat) : (s.enterTrap l cause addr tpc iwords).hand = s.hand := rfl
@[simp] theorem State.enterTrap_counts (l : Loc) (cause : Nat) (addr : Word) (tpc iwords : Nat) : (s.enterTrap l cause addr tpc iwords).counts = s.counts := rfl

@[simp] theorem State.trap_cube (cause : Nat) (addr : Word) : (s.trap cause addr).cube = s.cube := rfl
@[simp] theorem State.trap_datum (cause : Nat) (addr : Word) : (s.trap cause addr).datum = s.datum := rfl
@[simp] theorem State.trap_mem (cause : Nat) (addr : Word) : (s.trap cause addr).mem = s.mem := rfl
@[simp] theorem State.trap_poison (cause : Nat) (addr : Word) : (s.trap cause addr).poison = s.poison := rfl
@[simp] theorem State.trap_full (cause : Nat) (addr : Word) : (s.trap cause addr).full = s.full := rfl
@[simp] theorem State.trap_stations (cause : Nat) (addr : Word) : (s.trap cause addr).stations = s.stations := rfl
@[simp] theorem State.trap_vaults (cause : Nat) (addr : Word) : (s.trap cause addr).vaults = s.vaults := rfl
@[simp] theorem State.trap_c3 (cause : Nat) (addr : Word) : (s.trap cause addr).c3 = s.c3 := rfl
@[simp] theorem State.trap_away (cause : Nat) (addr : Word) : (s.trap cause addr).away = s.away := rfl
@[simp] theorem State.trap_tables (cause : Nat) (addr : Word) : (s.trap cause addr).tables = s.tables := rfl
@[simp] theorem State.trap_router (cause : Nat) (addr : Word) : (s.trap cause addr).router = s.router := rfl
@[simp] theorem State.trap_e2e (cause : Nat) (addr : Word) : (s.trap cause addr).e2e = s.e2e := rfl
@[simp] theorem State.trap_hosts (cause : Nat) (addr : Word) : (s.trap cause addr).hosts = s.hosts := rfl
@[simp] theorem State.trap_plat (cause : Nat) (addr : Word) : (s.trap cause addr).plat = s.plat := rfl
@[simp] theorem State.trap_net (cause : Nat) (addr : Word) : (s.trap cause addr).net = s.net := rfl
@[simp] theorem State.trap_timers (cause : Nat) (addr : Word) : (s.trap cause addr).timers = s.timers := rfl
@[simp] theorem State.trap_after (cause : Nat) (addr : Word) : (s.trap cause addr).after = s.after := rfl
@[simp] theorem State.trap_ext (cause : Nat) (addr : Word) : (s.trap cause addr).ext = s.ext := rfl
@[simp] theorem State.trap_turns (cause : Nat) (addr : Word) : (s.trap cause addr).turns = s.turns := rfl
@[simp] theorem State.trap_hand (cause : Nat) (addr : Word) : (s.trap cause addr).hand = s.hand := rfl
@[simp] theorem State.trap_counts (cause : Nat) (addr : Word) : (s.trap cause addr).counts = s.counts := rfl

@[simp] theorem State.writes_cube (r : Nat) (v : Word) : (s.writes r v).cube = s.cube := rfl
@[simp] theorem State.writes_datum (r : Nat) (v : Word) : (s.writes r v).datum = s.datum := rfl
@[simp] theorem State.writes_mem (r : Nat) (v : Word) : (s.writes r v).mem = s.mem := rfl
@[simp] theorem State.writes_poison (r : Nat) (v : Word) : (s.writes r v).poison = s.poison := rfl
@[simp] theorem State.writes_full (r : Nat) (v : Word) : (s.writes r v).full = s.full := rfl
@[simp] theorem State.writes_stations (r : Nat) (v : Word) : (s.writes r v).stations = s.stations := rfl
@[simp] theorem State.writes_vaults (r : Nat) (v : Word) : (s.writes r v).vaults = s.vaults := rfl
@[simp] theorem State.writes_c3 (r : Nat) (v : Word) : (s.writes r v).c3 = s.c3 := rfl
@[simp] theorem State.writes_away (r : Nat) (v : Word) : (s.writes r v).away = s.away := rfl
@[simp] theorem State.writes_tables (r : Nat) (v : Word) : (s.writes r v).tables = s.tables := rfl
@[simp] theorem State.writes_router (r : Nat) (v : Word) : (s.writes r v).router = s.router := rfl
@[simp] theorem State.writes_e2e (r : Nat) (v : Word) : (s.writes r v).e2e = s.e2e := rfl
@[simp] theorem State.writes_hosts (r : Nat) (v : Word) : (s.writes r v).hosts = s.hosts := rfl
@[simp] theorem State.writes_plat (r : Nat) (v : Word) : (s.writes r v).plat = s.plat := rfl
@[simp] theorem State.writes_net (r : Nat) (v : Word) : (s.writes r v).net = s.net := rfl
@[simp] theorem State.writes_timers (r : Nat) (v : Word) : (s.writes r v).timers = s.timers := rfl
@[simp] theorem State.writes_after (r : Nat) (v : Word) : (s.writes r v).after = s.after := rfl
@[simp] theorem State.writes_ext (r : Nat) (v : Word) : (s.writes r v).ext = s.ext := rfl
@[simp] theorem State.writes_turns (r : Nat) (v : Word) : (s.writes r v).turns = s.turns := rfl
@[simp] theorem State.writes_hand (r : Nat) (v : Word) : (s.writes r v).hand = s.hand := rfl
@[simp] theorem State.writes_counts (r : Nat) (v : Word) : (s.writes r v).counts = s.counts := rfl

@[simp] theorem State.setStn_cube (n : Nat) (t : Station) : (s.setStn n t).cube = s.cube := rfl
@[simp] theorem State.setStn_datum (n : Nat) (t : Station) : (s.setStn n t).datum = s.datum := rfl
@[simp] theorem State.setStn_mem (n : Nat) (t : Station) : (s.setStn n t).mem = s.mem := rfl
@[simp] theorem State.setStn_poison (n : Nat) (t : Station) : (s.setStn n t).poison = s.poison := rfl
@[simp] theorem State.setStn_full (n : Nat) (t : Station) : (s.setStn n t).full = s.full := rfl
@[simp] theorem State.setStn_ctxs (n : Nat) (t : Station) : (s.setStn n t).ctxs = s.ctxs := rfl
@[simp] theorem State.setStn_vaults (n : Nat) (t : Station) : (s.setStn n t).vaults = s.vaults := rfl
@[simp] theorem State.setStn_c3 (n : Nat) (t : Station) : (s.setStn n t).c3 = s.c3 := rfl
@[simp] theorem State.setStn_away (n : Nat) (t : Station) : (s.setStn n t).away = s.away := rfl
@[simp] theorem State.setStn_tables (n : Nat) (t : Station) : (s.setStn n t).tables = s.tables := rfl
@[simp] theorem State.setStn_router (n : Nat) (t : Station) : (s.setStn n t).router = s.router := rfl
@[simp] theorem State.setStn_e2e (n : Nat) (t : Station) : (s.setStn n t).e2e = s.e2e := rfl
@[simp] theorem State.setStn_hosts (n : Nat) (t : Station) : (s.setStn n t).hosts = s.hosts := rfl
@[simp] theorem State.setStn_plat (n : Nat) (t : Station) : (s.setStn n t).plat = s.plat := rfl
@[simp] theorem State.setStn_net (n : Nat) (t : Station) : (s.setStn n t).net = s.net := rfl
@[simp] theorem State.setStn_timers (n : Nat) (t : Station) : (s.setStn n t).timers = s.timers := rfl
@[simp] theorem State.setStn_after (n : Nat) (t : Station) : (s.setStn n t).after = s.after := rfl
@[simp] theorem State.setStn_ext (n : Nat) (t : Station) : (s.setStn n t).ext = s.ext := rfl
@[simp] theorem State.setStn_turns (n : Nat) (t : Station) : (s.setStn n t).turns = s.turns := rfl
@[simp] theorem State.setStn_hand (n : Nat) (t : Station) : (s.setStn n t).hand = s.hand := rfl
@[simp] theorem State.setStn_counts (n : Nat) (t : Station) : (s.setStn n t).counts = s.counts := rfl

@[simp] theorem State.modStn_cube (n : Nat) (f : Station → Station) : (s.modStn n f).cube = s.cube := rfl
@[simp] theorem State.modStn_datum (n : Nat) (f : Station → Station) : (s.modStn n f).datum = s.datum := rfl
@[simp] theorem State.modStn_mem (n : Nat) (f : Station → Station) : (s.modStn n f).mem = s.mem := rfl
@[simp] theorem State.modStn_poison (n : Nat) (f : Station → Station) : (s.modStn n f).poison = s.poison := rfl
@[simp] theorem State.modStn_full (n : Nat) (f : Station → Station) : (s.modStn n f).full = s.full := rfl
@[simp] theorem State.modStn_ctxs (n : Nat) (f : Station → Station) : (s.modStn n f).ctxs = s.ctxs := rfl
@[simp] theorem State.modStn_vaults (n : Nat) (f : Station → Station) : (s.modStn n f).vaults = s.vaults := rfl
@[simp] theorem State.modStn_c3 (n : Nat) (f : Station → Station) : (s.modStn n f).c3 = s.c3 := rfl
@[simp] theorem State.modStn_away (n : Nat) (f : Station → Station) : (s.modStn n f).away = s.away := rfl
@[simp] theorem State.modStn_tables (n : Nat) (f : Station → Station) : (s.modStn n f).tables = s.tables := rfl
@[simp] theorem State.modStn_router (n : Nat) (f : Station → Station) : (s.modStn n f).router = s.router := rfl
@[simp] theorem State.modStn_e2e (n : Nat) (f : Station → Station) : (s.modStn n f).e2e = s.e2e := rfl
@[simp] theorem State.modStn_hosts (n : Nat) (f : Station → Station) : (s.modStn n f).hosts = s.hosts := rfl
@[simp] theorem State.modStn_plat (n : Nat) (f : Station → Station) : (s.modStn n f).plat = s.plat := rfl
@[simp] theorem State.modStn_net (n : Nat) (f : Station → Station) : (s.modStn n f).net = s.net := rfl
@[simp] theorem State.modStn_timers (n : Nat) (f : Station → Station) : (s.modStn n f).timers = s.timers := rfl
@[simp] theorem State.modStn_after (n : Nat) (f : Station → Station) : (s.modStn n f).after = s.after := rfl
@[simp] theorem State.modStn_ext (n : Nat) (f : Station → Station) : (s.modStn n f).ext = s.ext := rfl
@[simp] theorem State.modStn_turns (n : Nat) (f : Station → Station) : (s.modStn n f).turns = s.turns := rfl
@[simp] theorem State.modStn_hand (n : Nat) (f : Station → Station) : (s.modStn n f).hand = s.hand := rfl
@[simp] theorem State.modStn_counts (n : Nat) (f : Station → Station) : (s.modStn n f).counts = s.counts := rfl

@[simp] theorem State.modSlice_cube (n : Nat) (f : Slice → Slice) : (s.modSlice n f).cube = s.cube := rfl
@[simp] theorem State.modSlice_datum (n : Nat) (f : Slice → Slice) : (s.modSlice n f).datum = s.datum := rfl
@[simp] theorem State.modSlice_mem (n : Nat) (f : Slice → Slice) : (s.modSlice n f).mem = s.mem := rfl
@[simp] theorem State.modSlice_poison (n : Nat) (f : Slice → Slice) : (s.modSlice n f).poison = s.poison := rfl
@[simp] theorem State.modSlice_full (n : Nat) (f : Slice → Slice) : (s.modSlice n f).full = s.full := rfl
@[simp] theorem State.modSlice_ctxs (n : Nat) (f : Slice → Slice) : (s.modSlice n f).ctxs = s.ctxs := rfl
@[simp] theorem State.modSlice_vaults (n : Nat) (f : Slice → Slice) : (s.modSlice n f).vaults = s.vaults := rfl
@[simp] theorem State.modSlice_c3 (n : Nat) (f : Slice → Slice) : (s.modSlice n f).c3 = s.c3 := rfl
@[simp] theorem State.modSlice_away (n : Nat) (f : Slice → Slice) : (s.modSlice n f).away = s.away := rfl
@[simp] theorem State.modSlice_tables (n : Nat) (f : Slice → Slice) : (s.modSlice n f).tables = s.tables := rfl
@[simp] theorem State.modSlice_router (n : Nat) (f : Slice → Slice) : (s.modSlice n f).router = s.router := rfl
@[simp] theorem State.modSlice_e2e (n : Nat) (f : Slice → Slice) : (s.modSlice n f).e2e = s.e2e := rfl
@[simp] theorem State.modSlice_hosts (n : Nat) (f : Slice → Slice) : (s.modSlice n f).hosts = s.hosts := rfl
@[simp] theorem State.modSlice_plat (n : Nat) (f : Slice → Slice) : (s.modSlice n f).plat = s.plat := rfl
@[simp] theorem State.modSlice_net (n : Nat) (f : Slice → Slice) : (s.modSlice n f).net = s.net := rfl
@[simp] theorem State.modSlice_timers (n : Nat) (f : Slice → Slice) : (s.modSlice n f).timers = s.timers := rfl
@[simp] theorem State.modSlice_after (n : Nat) (f : Slice → Slice) : (s.modSlice n f).after = s.after := rfl
@[simp] theorem State.modSlice_ext (n : Nat) (f : Slice → Slice) : (s.modSlice n f).ext = s.ext := rfl
@[simp] theorem State.modSlice_turns (n : Nat) (f : Slice → Slice) : (s.modSlice n f).turns = s.turns := rfl
@[simp] theorem State.modSlice_hand (n : Nat) (f : Slice → Slice) : (s.modSlice n f).hand = s.hand := rfl
@[simp] theorem State.modSlice_counts (n : Nat) (f : Slice → Slice) : (s.modSlice n f).counts = s.counts := rfl

@[simp] theorem State.modHome_cube (n : Nat) (f : Home → Home) : (s.modHome n f).cube = s.cube := rfl
@[simp] theorem State.modHome_datum (n : Nat) (f : Home → Home) : (s.modHome n f).datum = s.datum := rfl
@[simp] theorem State.modHome_mem (n : Nat) (f : Home → Home) : (s.modHome n f).mem = s.mem := rfl
@[simp] theorem State.modHome_poison (n : Nat) (f : Home → Home) : (s.modHome n f).poison = s.poison := rfl
@[simp] theorem State.modHome_full (n : Nat) (f : Home → Home) : (s.modHome n f).full = s.full := rfl
@[simp] theorem State.modHome_ctxs (n : Nat) (f : Home → Home) : (s.modHome n f).ctxs = s.ctxs := rfl
@[simp] theorem State.modHome_vaults (n : Nat) (f : Home → Home) : (s.modHome n f).vaults = s.vaults := rfl
@[simp] theorem State.modHome_c3 (n : Nat) (f : Home → Home) : (s.modHome n f).c3 = s.c3 := rfl
@[simp] theorem State.modHome_away (n : Nat) (f : Home → Home) : (s.modHome n f).away = s.away := rfl
@[simp] theorem State.modHome_tables (n : Nat) (f : Home → Home) : (s.modHome n f).tables = s.tables := rfl
@[simp] theorem State.modHome_router (n : Nat) (f : Home → Home) : (s.modHome n f).router = s.router := rfl
@[simp] theorem State.modHome_e2e (n : Nat) (f : Home → Home) : (s.modHome n f).e2e = s.e2e := rfl
@[simp] theorem State.modHome_hosts (n : Nat) (f : Home → Home) : (s.modHome n f).hosts = s.hosts := rfl
@[simp] theorem State.modHome_plat (n : Nat) (f : Home → Home) : (s.modHome n f).plat = s.plat := rfl
@[simp] theorem State.modHome_net (n : Nat) (f : Home → Home) : (s.modHome n f).net = s.net := rfl
@[simp] theorem State.modHome_timers (n : Nat) (f : Home → Home) : (s.modHome n f).timers = s.timers := rfl
@[simp] theorem State.modHome_after (n : Nat) (f : Home → Home) : (s.modHome n f).after = s.after := rfl
@[simp] theorem State.modHome_ext (n : Nat) (f : Home → Home) : (s.modHome n f).ext = s.ext := rfl
@[simp] theorem State.modHome_turns (n : Nat) (f : Home → Home) : (s.modHome n f).turns = s.turns := rfl
@[simp] theorem State.modHome_hand (n : Nat) (f : Home → Home) : (s.modHome n f).hand = s.hand := rfl
@[simp] theorem State.modHome_counts (n : Nat) (f : Home → Home) : (s.modHome n f).counts = s.counts := rfl

@[simp] theorem State.modSched_cube (n : Nat) (f : Sched → Sched) : (s.modSched n f).cube = s.cube := rfl
@[simp] theorem State.modSched_datum (n : Nat) (f : Sched → Sched) : (s.modSched n f).datum = s.datum := rfl
@[simp] theorem State.modSched_mem (n : Nat) (f : Sched → Sched) : (s.modSched n f).mem = s.mem := rfl
@[simp] theorem State.modSched_poison (n : Nat) (f : Sched → Sched) : (s.modSched n f).poison = s.poison := rfl
@[simp] theorem State.modSched_full (n : Nat) (f : Sched → Sched) : (s.modSched n f).full = s.full := rfl
@[simp] theorem State.modSched_ctxs (n : Nat) (f : Sched → Sched) : (s.modSched n f).ctxs = s.ctxs := rfl
@[simp] theorem State.modSched_vaults (n : Nat) (f : Sched → Sched) : (s.modSched n f).vaults = s.vaults := rfl
@[simp] theorem State.modSched_c3 (n : Nat) (f : Sched → Sched) : (s.modSched n f).c3 = s.c3 := rfl
@[simp] theorem State.modSched_away (n : Nat) (f : Sched → Sched) : (s.modSched n f).away = s.away := rfl
@[simp] theorem State.modSched_tables (n : Nat) (f : Sched → Sched) : (s.modSched n f).tables = s.tables := rfl
@[simp] theorem State.modSched_router (n : Nat) (f : Sched → Sched) : (s.modSched n f).router = s.router := rfl
@[simp] theorem State.modSched_e2e (n : Nat) (f : Sched → Sched) : (s.modSched n f).e2e = s.e2e := rfl
@[simp] theorem State.modSched_hosts (n : Nat) (f : Sched → Sched) : (s.modSched n f).hosts = s.hosts := rfl
@[simp] theorem State.modSched_plat (n : Nat) (f : Sched → Sched) : (s.modSched n f).plat = s.plat := rfl
@[simp] theorem State.modSched_net (n : Nat) (f : Sched → Sched) : (s.modSched n f).net = s.net := rfl
@[simp] theorem State.modSched_timers (n : Nat) (f : Sched → Sched) : (s.modSched n f).timers = s.timers := rfl
@[simp] theorem State.modSched_after (n : Nat) (f : Sched → Sched) : (s.modSched n f).after = s.after := rfl
@[simp] theorem State.modSched_ext (n : Nat) (f : Sched → Sched) : (s.modSched n f).ext = s.ext := rfl
@[simp] theorem State.modSched_turns (n : Nat) (f : Sched → Sched) : (s.modSched n f).turns = s.turns := rfl
@[simp] theorem State.modSched_hand (n : Nat) (f : Sched → Sched) : (s.modSched n f).hand = s.hand := rfl
@[simp] theorem State.modSched_counts (n : Nat) (f : Sched → Sched) : (s.modSched n f).counts = s.counts := rfl

@[simp] theorem State.modEng_cube (n : Nat) (f : Engines → Engines) : (s.modEng n f).cube = s.cube := rfl
@[simp] theorem State.modEng_datum (n : Nat) (f : Engines → Engines) : (s.modEng n f).datum = s.datum := rfl
@[simp] theorem State.modEng_mem (n : Nat) (f : Engines → Engines) : (s.modEng n f).mem = s.mem := rfl
@[simp] theorem State.modEng_poison (n : Nat) (f : Engines → Engines) : (s.modEng n f).poison = s.poison := rfl
@[simp] theorem State.modEng_full (n : Nat) (f : Engines → Engines) : (s.modEng n f).full = s.full := rfl
@[simp] theorem State.modEng_ctxs (n : Nat) (f : Engines → Engines) : (s.modEng n f).ctxs = s.ctxs := rfl
@[simp] theorem State.modEng_vaults (n : Nat) (f : Engines → Engines) : (s.modEng n f).vaults = s.vaults := rfl
@[simp] theorem State.modEng_c3 (n : Nat) (f : Engines → Engines) : (s.modEng n f).c3 = s.c3 := rfl
@[simp] theorem State.modEng_away (n : Nat) (f : Engines → Engines) : (s.modEng n f).away = s.away := rfl
@[simp] theorem State.modEng_tables (n : Nat) (f : Engines → Engines) : (s.modEng n f).tables = s.tables := rfl
@[simp] theorem State.modEng_router (n : Nat) (f : Engines → Engines) : (s.modEng n f).router = s.router := rfl
@[simp] theorem State.modEng_e2e (n : Nat) (f : Engines → Engines) : (s.modEng n f).e2e = s.e2e := rfl
@[simp] theorem State.modEng_hosts (n : Nat) (f : Engines → Engines) : (s.modEng n f).hosts = s.hosts := rfl
@[simp] theorem State.modEng_plat (n : Nat) (f : Engines → Engines) : (s.modEng n f).plat = s.plat := rfl
@[simp] theorem State.modEng_net (n : Nat) (f : Engines → Engines) : (s.modEng n f).net = s.net := rfl
@[simp] theorem State.modEng_timers (n : Nat) (f : Engines → Engines) : (s.modEng n f).timers = s.timers := rfl
@[simp] theorem State.modEng_after (n : Nat) (f : Engines → Engines) : (s.modEng n f).after = s.after := rfl
@[simp] theorem State.modEng_ext (n : Nat) (f : Engines → Engines) : (s.modEng n f).ext = s.ext := rfl
@[simp] theorem State.modEng_turns (n : Nat) (f : Engines → Engines) : (s.modEng n f).turns = s.turns := rfl
@[simp] theorem State.modEng_hand (n : Nat) (f : Engines → Engines) : (s.modEng n f).hand = s.hand := rfl
@[simp] theorem State.modEng_counts (n : Nat) (f : Engines → Engines) : (s.modEng n f).counts = s.counts := rfl

@[simp] theorem State.modVec_cube (n : Nat) (f : Vec → Vec) : (s.modVec n f).cube = s.cube := rfl
@[simp] theorem State.modVec_datum (n : Nat) (f : Vec → Vec) : (s.modVec n f).datum = s.datum := rfl
@[simp] theorem State.modVec_mem (n : Nat) (f : Vec → Vec) : (s.modVec n f).mem = s.mem := rfl
@[simp] theorem State.modVec_poison (n : Nat) (f : Vec → Vec) : (s.modVec n f).poison = s.poison := rfl
@[simp] theorem State.modVec_full (n : Nat) (f : Vec → Vec) : (s.modVec n f).full = s.full := rfl
@[simp] theorem State.modVec_ctxs (n : Nat) (f : Vec → Vec) : (s.modVec n f).ctxs = s.ctxs := rfl
@[simp] theorem State.modVec_vaults (n : Nat) (f : Vec → Vec) : (s.modVec n f).vaults = s.vaults := rfl
@[simp] theorem State.modVec_c3 (n : Nat) (f : Vec → Vec) : (s.modVec n f).c3 = s.c3 := rfl
@[simp] theorem State.modVec_away (n : Nat) (f : Vec → Vec) : (s.modVec n f).away = s.away := rfl
@[simp] theorem State.modVec_tables (n : Nat) (f : Vec → Vec) : (s.modVec n f).tables = s.tables := rfl
@[simp] theorem State.modVec_router (n : Nat) (f : Vec → Vec) : (s.modVec n f).router = s.router := rfl
@[simp] theorem State.modVec_e2e (n : Nat) (f : Vec → Vec) : (s.modVec n f).e2e = s.e2e := rfl
@[simp] theorem State.modVec_hosts (n : Nat) (f : Vec → Vec) : (s.modVec n f).hosts = s.hosts := rfl
@[simp] theorem State.modVec_plat (n : Nat) (f : Vec → Vec) : (s.modVec n f).plat = s.plat := rfl
@[simp] theorem State.modVec_net (n : Nat) (f : Vec → Vec) : (s.modVec n f).net = s.net := rfl
@[simp] theorem State.modVec_timers (n : Nat) (f : Vec → Vec) : (s.modVec n f).timers = s.timers := rfl
@[simp] theorem State.modVec_after (n : Nat) (f : Vec → Vec) : (s.modVec n f).after = s.after := rfl
@[simp] theorem State.modVec_ext (n : Nat) (f : Vec → Vec) : (s.modVec n f).ext = s.ext := rfl
@[simp] theorem State.modVec_turns (n : Nat) (f : Vec → Vec) : (s.modVec n f).turns = s.turns := rfl
@[simp] theorem State.modVec_hand (n : Nat) (f : Vec → Vec) : (s.modVec n f).hand = s.hand := rfl
@[simp] theorem State.modVec_counts (n : Nat) (f : Vec → Vec) : (s.modVec n f).counts = s.counts := rfl

@[simp] theorem State.modVault_cube (n : Nat) (f : Vault → Vault) : (s.modVault n f).cube = s.cube := rfl
@[simp] theorem State.modVault_datum (n : Nat) (f : Vault → Vault) : (s.modVault n f).datum = s.datum := rfl
@[simp] theorem State.modVault_mem (n : Nat) (f : Vault → Vault) : (s.modVault n f).mem = s.mem := rfl
@[simp] theorem State.modVault_poison (n : Nat) (f : Vault → Vault) : (s.modVault n f).poison = s.poison := rfl
@[simp] theorem State.modVault_full (n : Nat) (f : Vault → Vault) : (s.modVault n f).full = s.full := rfl
@[simp] theorem State.modVault_ctxs (n : Nat) (f : Vault → Vault) : (s.modVault n f).ctxs = s.ctxs := rfl
@[simp] theorem State.modVault_stations (n : Nat) (f : Vault → Vault) : (s.modVault n f).stations = s.stations := rfl
@[simp] theorem State.modVault_c3 (n : Nat) (f : Vault → Vault) : (s.modVault n f).c3 = s.c3 := rfl
@[simp] theorem State.modVault_away (n : Nat) (f : Vault → Vault) : (s.modVault n f).away = s.away := rfl
@[simp] theorem State.modVault_tables (n : Nat) (f : Vault → Vault) : (s.modVault n f).tables = s.tables := rfl
@[simp] theorem State.modVault_router (n : Nat) (f : Vault → Vault) : (s.modVault n f).router = s.router := rfl
@[simp] theorem State.modVault_e2e (n : Nat) (f : Vault → Vault) : (s.modVault n f).e2e = s.e2e := rfl
@[simp] theorem State.modVault_hosts (n : Nat) (f : Vault → Vault) : (s.modVault n f).hosts = s.hosts := rfl
@[simp] theorem State.modVault_plat (n : Nat) (f : Vault → Vault) : (s.modVault n f).plat = s.plat := rfl
@[simp] theorem State.modVault_net (n : Nat) (f : Vault → Vault) : (s.modVault n f).net = s.net := rfl
@[simp] theorem State.modVault_timers (n : Nat) (f : Vault → Vault) : (s.modVault n f).timers = s.timers := rfl
@[simp] theorem State.modVault_after (n : Nat) (f : Vault → Vault) : (s.modVault n f).after = s.after := rfl
@[simp] theorem State.modVault_ext (n : Nat) (f : Vault → Vault) : (s.modVault n f).ext = s.ext := rfl
@[simp] theorem State.modVault_turns (n : Nat) (f : Vault → Vault) : (s.modVault n f).turns = s.turns := rfl
@[simp] theorem State.modVault_hand (n : Nat) (f : Vault → Vault) : (s.modVault n f).hand = s.hand := rfl
@[simp] theorem State.modVault_counts (n : Nat) (f : Vault → Vault) : (s.modVault n f).counts = s.counts := rfl

@[simp] theorem State.send_cube (m : Msg) : (s.send m).cube = s.cube := rfl
@[simp] theorem State.send_datum (m : Msg) : (s.send m).datum = s.datum := rfl
@[simp] theorem State.send_mem (m : Msg) : (s.send m).mem = s.mem := rfl
@[simp] theorem State.send_poison (m : Msg) : (s.send m).poison = s.poison := rfl
@[simp] theorem State.send_full (m : Msg) : (s.send m).full = s.full := rfl
@[simp] theorem State.send_ctxs (m : Msg) : (s.send m).ctxs = s.ctxs := rfl
@[simp] theorem State.send_stations (m : Msg) : (s.send m).stations = s.stations := rfl
@[simp] theorem State.send_vaults (m : Msg) : (s.send m).vaults = s.vaults := rfl
@[simp] theorem State.send_c3 (m : Msg) : (s.send m).c3 = s.c3 := rfl
@[simp] theorem State.send_away (m : Msg) : (s.send m).away = s.away := rfl
@[simp] theorem State.send_tables (m : Msg) : (s.send m).tables = s.tables := rfl
@[simp] theorem State.send_router (m : Msg) : (s.send m).router = s.router := rfl
@[simp] theorem State.send_e2e (m : Msg) : (s.send m).e2e = s.e2e := rfl
@[simp] theorem State.send_hosts (m : Msg) : (s.send m).hosts = s.hosts := rfl
@[simp] theorem State.send_plat (m : Msg) : (s.send m).plat = s.plat := rfl
@[simp] theorem State.send_timers (m : Msg) : (s.send m).timers = s.timers := rfl
@[simp] theorem State.send_after (m : Msg) : (s.send m).after = s.after := rfl
@[simp] theorem State.send_ext (m : Msg) : (s.send m).ext = s.ext := rfl
@[simp] theorem State.send_turns (m : Msg) : (s.send m).turns = s.turns := rfl
@[simp] theorem State.send_hand (m : Msg) : (s.send m).hand = s.hand := rfl
@[simp] theorem State.send_counts (m : Msg) : (s.send m).counts = s.counts := rfl

@[simp] theorem State.sendAll_cube (ms : List Msg) : (s.sendAll ms).cube = s.cube := rfl
@[simp] theorem State.sendAll_datum (ms : List Msg) : (s.sendAll ms).datum = s.datum := rfl
@[simp] theorem State.sendAll_mem (ms : List Msg) : (s.sendAll ms).mem = s.mem := rfl
@[simp] theorem State.sendAll_poison (ms : List Msg) : (s.sendAll ms).poison = s.poison := rfl
@[simp] theorem State.sendAll_full (ms : List Msg) : (s.sendAll ms).full = s.full := rfl
@[simp] theorem State.sendAll_ctxs (ms : List Msg) : (s.sendAll ms).ctxs = s.ctxs := rfl
@[simp] theorem State.sendAll_stations (ms : List Msg) : (s.sendAll ms).stations = s.stations := rfl
@[simp] theorem State.sendAll_vaults (ms : List Msg) : (s.sendAll ms).vaults = s.vaults := rfl
@[simp] theorem State.sendAll_c3 (ms : List Msg) : (s.sendAll ms).c3 = s.c3 := rfl
@[simp] theorem State.sendAll_away (ms : List Msg) : (s.sendAll ms).away = s.away := rfl
@[simp] theorem State.sendAll_tables (ms : List Msg) : (s.sendAll ms).tables = s.tables := rfl
@[simp] theorem State.sendAll_router (ms : List Msg) : (s.sendAll ms).router = s.router := rfl
@[simp] theorem State.sendAll_e2e (ms : List Msg) : (s.sendAll ms).e2e = s.e2e := rfl
@[simp] theorem State.sendAll_hosts (ms : List Msg) : (s.sendAll ms).hosts = s.hosts := rfl
@[simp] theorem State.sendAll_plat (ms : List Msg) : (s.sendAll ms).plat = s.plat := rfl
@[simp] theorem State.sendAll_timers (ms : List Msg) : (s.sendAll ms).timers = s.timers := rfl
@[simp] theorem State.sendAll_after (ms : List Msg) : (s.sendAll ms).after = s.after := rfl
@[simp] theorem State.sendAll_ext (ms : List Msg) : (s.sendAll ms).ext = s.ext := rfl
@[simp] theorem State.sendAll_turns (ms : List Msg) : (s.sendAll ms).turns = s.turns := rfl
@[simp] theorem State.sendAll_hand (ms : List Msg) : (s.sendAll ms).hand = s.hand := rfl
@[simp] theorem State.sendAll_counts (ms : List Msg) : (s.sendAll ms).counts = s.counts := rfl

@[simp] theorem State.schedule_cube (due : Nat) (m : Msg) : (s.schedule due m).cube = s.cube := rfl
@[simp] theorem State.schedule_datum (due : Nat) (m : Msg) : (s.schedule due m).datum = s.datum := rfl
@[simp] theorem State.schedule_mem (due : Nat) (m : Msg) : (s.schedule due m).mem = s.mem := rfl
@[simp] theorem State.schedule_poison (due : Nat) (m : Msg) : (s.schedule due m).poison = s.poison := rfl
@[simp] theorem State.schedule_full (due : Nat) (m : Msg) : (s.schedule due m).full = s.full := rfl
@[simp] theorem State.schedule_ctxs (due : Nat) (m : Msg) : (s.schedule due m).ctxs = s.ctxs := rfl
@[simp] theorem State.schedule_stations (due : Nat) (m : Msg) : (s.schedule due m).stations = s.stations := rfl
@[simp] theorem State.schedule_vaults (due : Nat) (m : Msg) : (s.schedule due m).vaults = s.vaults := rfl
@[simp] theorem State.schedule_c3 (due : Nat) (m : Msg) : (s.schedule due m).c3 = s.c3 := rfl
@[simp] theorem State.schedule_away (due : Nat) (m : Msg) : (s.schedule due m).away = s.away := rfl
@[simp] theorem State.schedule_tables (due : Nat) (m : Msg) : (s.schedule due m).tables = s.tables := rfl
@[simp] theorem State.schedule_router (due : Nat) (m : Msg) : (s.schedule due m).router = s.router := rfl
@[simp] theorem State.schedule_e2e (due : Nat) (m : Msg) : (s.schedule due m).e2e = s.e2e := rfl
@[simp] theorem State.schedule_hosts (due : Nat) (m : Msg) : (s.schedule due m).hosts = s.hosts := rfl
@[simp] theorem State.schedule_plat (due : Nat) (m : Msg) : (s.schedule due m).plat = s.plat := rfl
@[simp] theorem State.schedule_net (due : Nat) (m : Msg) : (s.schedule due m).net = s.net := rfl
@[simp] theorem State.schedule_after (due : Nat) (m : Msg) : (s.schedule due m).after = s.after := rfl
@[simp] theorem State.schedule_ext (due : Nat) (m : Msg) : (s.schedule due m).ext = s.ext := rfl
@[simp] theorem State.schedule_turns (due : Nat) (m : Msg) : (s.schedule due m).turns = s.turns := rfl
@[simp] theorem State.schedule_hand (due : Nat) (m : Msg) : (s.schedule due m).hand = s.hand := rfl
@[simp] theorem State.schedule_counts (due : Nat) (m : Msg) : (s.schedule due m).counts = s.counts := rfl

@[simp] theorem State.setBytes_cube (a : Nat) (bs : List Byte) : (s.setBytes a bs).cube = s.cube := rfl
@[simp] theorem State.setBytes_datum (a : Nat) (bs : List Byte) : (s.setBytes a bs).datum = s.datum := rfl
@[simp] theorem State.setBytes_poison (a : Nat) (bs : List Byte) : (s.setBytes a bs).poison = s.poison := rfl
@[simp] theorem State.setBytes_full (a : Nat) (bs : List Byte) : (s.setBytes a bs).full = s.full := rfl
@[simp] theorem State.setBytes_ctxs (a : Nat) (bs : List Byte) : (s.setBytes a bs).ctxs = s.ctxs := rfl
@[simp] theorem State.setBytes_stations (a : Nat) (bs : List Byte) : (s.setBytes a bs).stations = s.stations := rfl
@[simp] theorem State.setBytes_vaults (a : Nat) (bs : List Byte) : (s.setBytes a bs).vaults = s.vaults := rfl
@[simp] theorem State.setBytes_c3 (a : Nat) (bs : List Byte) : (s.setBytes a bs).c3 = s.c3 := rfl
@[simp] theorem State.setBytes_away (a : Nat) (bs : List Byte) : (s.setBytes a bs).away = s.away := rfl
@[simp] theorem State.setBytes_tables (a : Nat) (bs : List Byte) : (s.setBytes a bs).tables = s.tables := rfl
@[simp] theorem State.setBytes_router (a : Nat) (bs : List Byte) : (s.setBytes a bs).router = s.router := rfl
@[simp] theorem State.setBytes_e2e (a : Nat) (bs : List Byte) : (s.setBytes a bs).e2e = s.e2e := rfl
@[simp] theorem State.setBytes_hosts (a : Nat) (bs : List Byte) : (s.setBytes a bs).hosts = s.hosts := rfl
@[simp] theorem State.setBytes_plat (a : Nat) (bs : List Byte) : (s.setBytes a bs).plat = s.plat := rfl
@[simp] theorem State.setBytes_net (a : Nat) (bs : List Byte) : (s.setBytes a bs).net = s.net := rfl
@[simp] theorem State.setBytes_timers (a : Nat) (bs : List Byte) : (s.setBytes a bs).timers = s.timers := rfl
@[simp] theorem State.setBytes_after (a : Nat) (bs : List Byte) : (s.setBytes a bs).after = s.after := rfl
@[simp] theorem State.setBytes_ext (a : Nat) (bs : List Byte) : (s.setBytes a bs).ext = s.ext := rfl
@[simp] theorem State.setBytes_turns (a : Nat) (bs : List Byte) : (s.setBytes a bs).turns = s.turns := rfl
@[simp] theorem State.setBytes_hand (a : Nat) (bs : List Byte) : (s.setBytes a bs).hand = s.hand := rfl
@[simp] theorem State.setBytes_counts (a : Nat) (bs : List Byte) : (s.setBytes a bs).counts = s.counts := rfl

@[simp] theorem State.setC3_cube (tid n : Nat) : (s.setC3 tid n).cube = s.cube := rfl
@[simp] theorem State.setC3_away (tid n : Nat) : (s.setC3 tid n).away = s.away := rfl
@[simp] theorem State.setC3_datum (tid n : Nat) : (s.setC3 tid n).datum = s.datum := rfl
@[simp] theorem State.setC3_mem (tid n : Nat) : (s.setC3 tid n).mem = s.mem := rfl
@[simp] theorem State.setC3_poison (tid n : Nat) : (s.setC3 tid n).poison = s.poison := rfl
@[simp] theorem State.setC3_full (tid n : Nat) : (s.setC3 tid n).full = s.full := rfl
@[simp] theorem State.setC3_ctxs (tid n : Nat) : (s.setC3 tid n).ctxs = s.ctxs := rfl
@[simp] theorem State.setC3_stations (tid n : Nat) : (s.setC3 tid n).stations = s.stations := rfl
@[simp] theorem State.setC3_vaults (tid n : Nat) : (s.setC3 tid n).vaults = s.vaults := rfl
@[simp] theorem State.setC3_tables (tid n : Nat) : (s.setC3 tid n).tables = s.tables := rfl
@[simp] theorem State.setC3_router (tid n : Nat) : (s.setC3 tid n).router = s.router := rfl
@[simp] theorem State.setC3_e2e (tid n : Nat) : (s.setC3 tid n).e2e = s.e2e := rfl
@[simp] theorem State.setC3_hosts (tid n : Nat) : (s.setC3 tid n).hosts = s.hosts := rfl
@[simp] theorem State.setC3_plat (tid n : Nat) : (s.setC3 tid n).plat = s.plat := rfl
@[simp] theorem State.setC3_net (tid n : Nat) : (s.setC3 tid n).net = s.net := rfl
@[simp] theorem State.setC3_timers (tid n : Nat) : (s.setC3 tid n).timers = s.timers := rfl
@[simp] theorem State.setC3_after (tid n : Nat) : (s.setC3 tid n).after = s.after := rfl
@[simp] theorem State.setC3_ext (tid n : Nat) : (s.setC3 tid n).ext = s.ext := rfl
@[simp] theorem State.setC3_turns (tid n : Nat) : (s.setC3 tid n).turns = s.turns := rfl
@[simp] theorem State.setC3_hand (tid n : Nat) : (s.setC3 tid n).hand = s.hand := rfl
@[simp] theorem State.setC3_counts (tid n : Nat) : (s.setC3 tid n).counts = s.counts := rfl

@[simp] theorem State.countError_cube (i n : Nat) : (s.countError i n).cube = s.cube := rfl
@[simp] theorem State.countError_datum (i n : Nat) : (s.countError i n).datum = s.datum := rfl
@[simp] theorem State.countError_mem (i n : Nat) : (s.countError i n).mem = s.mem := rfl
@[simp] theorem State.countError_poison (i n : Nat) : (s.countError i n).poison = s.poison := rfl
@[simp] theorem State.countError_full (i n : Nat) : (s.countError i n).full = s.full := rfl
@[simp] theorem State.countError_ctxs (i n : Nat) : (s.countError i n).ctxs = s.ctxs := rfl
@[simp] theorem State.countError_stations (i n : Nat) : (s.countError i n).stations = s.stations := rfl
@[simp] theorem State.countError_vaults (i n : Nat) : (s.countError i n).vaults = s.vaults := rfl
@[simp] theorem State.countError_c3 (i n : Nat) : (s.countError i n).c3 = s.c3 := rfl
@[simp] theorem State.countError_away (i n : Nat) : (s.countError i n).away = s.away := rfl
@[simp] theorem State.countError_tables (i n : Nat) : (s.countError i n).tables = s.tables := rfl
@[simp] theorem State.countError_router (i n : Nat) : (s.countError i n).router = s.router := rfl
@[simp] theorem State.countError_e2e (i n : Nat) : (s.countError i n).e2e = s.e2e := rfl
@[simp] theorem State.countError_hosts (i n : Nat) : (s.countError i n).hosts = s.hosts := rfl
@[simp] theorem State.countError_net (i n : Nat) : (s.countError i n).net = s.net := rfl
@[simp] theorem State.countError_timers (i n : Nat) : (s.countError i n).timers = s.timers := rfl
@[simp] theorem State.countError_after (i n : Nat) : (s.countError i n).after = s.after := rfl
@[simp] theorem State.countError_ext (i n : Nat) : (s.countError i n).ext = s.ext := rfl
@[simp] theorem State.countError_turns (i n : Nat) : (s.countError i n).turns = s.turns := rfl
@[simp] theorem State.countError_hand (i n : Nat) : (s.countError i n).hand = s.hand := rfl
@[simp] theorem State.countError_counts (i n : Nat) : (s.countError i n).counts = s.counts := rfl

@[simp] theorem State.report_cube (what about : Nat) : (s.report what about).cube = s.cube := rfl
@[simp] theorem State.report_datum (what about : Nat) : (s.report what about).datum = s.datum := rfl
@[simp] theorem State.report_mem (what about : Nat) : (s.report what about).mem = s.mem := rfl
@[simp] theorem State.report_poison (what about : Nat) : (s.report what about).poison = s.poison := rfl
@[simp] theorem State.report_full (what about : Nat) : (s.report what about).full = s.full := rfl
@[simp] theorem State.report_ctxs (what about : Nat) : (s.report what about).ctxs = s.ctxs := rfl
@[simp] theorem State.report_stations (what about : Nat) : (s.report what about).stations = s.stations := rfl
@[simp] theorem State.report_vaults (what about : Nat) : (s.report what about).vaults = s.vaults := rfl
@[simp] theorem State.report_c3 (what about : Nat) : (s.report what about).c3 = s.c3 := rfl
@[simp] theorem State.report_away (what about : Nat) : (s.report what about).away = s.away := rfl
@[simp] theorem State.report_tables (what about : Nat) : (s.report what about).tables = s.tables := rfl
@[simp] theorem State.report_router (what about : Nat) : (s.report what about).router = s.router := rfl
@[simp] theorem State.report_e2e (what about : Nat) : (s.report what about).e2e = s.e2e := rfl
@[simp] theorem State.report_hosts (what about : Nat) : (s.report what about).hosts = s.hosts := rfl
@[simp] theorem State.report_net (what about : Nat) : (s.report what about).net = s.net := rfl
@[simp] theorem State.report_timers (what about : Nat) : (s.report what about).timers = s.timers := rfl
@[simp] theorem State.report_after (what about : Nat) : (s.report what about).after = s.after := rfl
@[simp] theorem State.report_ext (what about : Nat) : (s.report what about).ext = s.ext := rfl
@[simp] theorem State.report_turns (what about : Nat) : (s.report what about).turns = s.turns := rfl
@[simp] theorem State.report_hand (what about : Nat) : (s.report what about).hand = s.hand := rfl
@[simp] theorem State.report_counts (what about : Nat) : (s.report what about).counts = s.counts := rfl

/-! ## Fresh numbers -/

@[simp] theorem State.freshId_fst : s.freshId.1 = s.counts.id := rfl
@[simp] theorem State.freshId_snd : s.freshId.2 = { s with counts := { s.counts with id := s.counts.id + 1 } } := rfl
@[simp] theorem State.freshWord_fst : s.freshWord.1 = Config.freeWord s.counts.free := rfl
@[simp] theorem State.freshWord_snd : s.freshWord.2 = { s with counts := { s.counts with free := s.counts.free + 1 } } := rfl

/-! ## Fields that an update changes -/

@[simp] theorem State.send_net (m : Msg) : (s.send m).net = s.net ++ [m] := rfl
@[simp] theorem State.sendAll_net (ms : List Msg) : (s.sendAll ms).net = s.net ++ ms := rfl
@[simp] theorem State.schedule_timers (due : Nat) (m : Msg) : (s.schedule due m).timers = insertTimer s.timers due m := rfl
@[simp] theorem State.setBytes_mem (a : Nat) (bs : List Byte) : (s.setBytes a bs).mem = storeBytes s.mem a bs := rfl

/-- A context read after one was set: two places are the same context where their numbers agree. -/
theorem State.ctx_setCtx (l m : Loc) (c : Ctx) : (s.setCtx l c).ctx m = if locIx m = locIx l then c else s.ctx m := by
  simp [State.ctx, State.setCtx, Map.get_set]
@[simp] theorem State.ctx_setCtx_self (l : Loc) (c : Ctx) : (s.setCtx l c).ctx l = c := by simp [State.ctx_setCtx]
@[simp] theorem State.ctx_modCtx_self (l : Loc) (f : Ctx → Ctx) : (s.modCtx l f).ctx l = f (s.ctx l) := by simp [State.modCtx]
theorem State.ctx_modCtx_ne {l m : Loc} (f : Ctx → Ctx) (h : locIx m ≠ locIx l) : (s.modCtx l f).ctx m = s.ctx m := by
  simp [State.modCtx, State.ctx_setCtx, h]
@[simp] theorem State.cur_modCur (f : Ctx → Ctx) : (s.modCur f).cur = f s.cur := by simp [State.cur, State.modCur]
@[simp] theorem State.cur_modCtx_hand (f : Ctx → Ctx) : (s.modCtx s.hand.at_ f).cur = f s.cur := by simp [State.cur]
theorem State.ctx_modCur_ne {m : Loc} (f : Ctx → Ctx) (h : locIx m ≠ locIx s.hand.at_) : (s.modCur f).ctx m = s.ctx m :=
  s.ctx_modCtx_ne f h

/-- A station read after one was set. -/
theorem State.stn_setStn (n k : Nat) (t : Station) : (s.setStn n t).stn k = if k = n then t else s.stn k := by
  simp [State.stn, State.setStn, Map.get_set]
@[simp] theorem State.stn_setStn_self (n : Nat) (t : Station) : (s.setStn n t).stn n = t := by simp [State.stn_setStn]
@[simp] theorem State.stn_modStn_self (n : Nat) (f : Station → Station) : (s.modStn n f).stn n = f (s.stn n) := by
  simp [State.modStn]
theorem State.stn_modStn_ne {n k : Nat} (f : Station → Station) (h : k ≠ n) : (s.modStn n f).stn k = s.stn k := by
  simp [State.modStn, State.stn_setStn, h]
@[simp] theorem State.vault_modVault_self (n : Nat) (f : Vault → Vault) : (s.modVault n f).vault n = f (s.vault n) := by
  simp [State.vault, State.modVault]

/-- Contexts do not see stations, nor stations contexts. -/
@[simp] theorem State.ctx_setStn (n : Nat) (t : Station) (l : Loc) : (s.setStn n t).ctx l = s.ctx l := rfl
@[simp] theorem State.ctx_modStn (n : Nat) (f : Station → Station) (l : Loc) : (s.modStn n f).ctx l = s.ctx l := rfl
@[simp] theorem State.ctx_send (m : Msg) (l : Loc) : (s.send m).ctx l = s.ctx l := rfl
@[simp] theorem State.stn_setCtx (l : Loc) (c : Ctx) (n : Nat) : (s.setCtx l c).stn n = s.stn n := rfl
@[simp] theorem State.stn_modCtx (l : Loc) (f : Ctx → Ctx) (n : Nat) : (s.modCtx l f).stn n = s.stn n := rfl
@[simp] theorem State.stn_modCur (f : Ctx → Ctx) (n : Nat) : (s.modCur f).stn n = s.stn n := rfl
@[simp] theorem State.stn_send (m : Msg) (n : Nat) : (s.send m).stn n = s.stn n := rfl

/-! ## Registers -/

/-- g0 reads as zero. -/
@[simp] theorem Ctx.readG_zero (c : Ctx) : c.readG 0 = 0 := rfl
/-- A write of g0 is ignored. -/
@[simp] theorem Ctx.writeG_zero (c : Ctx) (v : Word) : c.writeG 0 v = c := rfl

section

variable (c : Ctx) (r : Nat) (v : Word)

@[simp] theorem Ctx.writePhys_sup : (c.writePhys r v).sup = c.sup := by unfold Ctx.writePhys; split <;> (try split) <;> rfl
@[simp] theorem Ctx.writePhys_aie : (c.writePhys r v).aie = c.aie := by unfold Ctx.writePhys; split <;> (try split) <;> rfl
@[simp] theorem Ctx.writePhys_pc : (c.writePhys r v).pc = c.pc := by unfold Ctx.writePhys; split <;> (try split) <;> rfl
@[simp] theorem Ctx.writePhys_busy : (c.writePhys r v).busy = c.busy := by unfold Ctx.writePhys; split <;> (try split) <;> rfl
@[simp] theorem Ctx.writePhys_task : (c.writePhys r v).task = c.task := by unfold Ctx.writePhys; split <;> (try split) <;> rfl
@[simp] theorem Ctx.writePhys_csr : (c.writePhys r v).csr = c.csr := by unfold Ctx.writePhys; split <;> (try split) <;> rfl
@[simp] theorem Ctx.writePhys_flow : (c.writePhys r v).flow = c.flow := by unfold Ctx.writePhys; split <;> (try split) <;> rfl
@[simp] theorem Ctx.writePhys_v : (c.writePhys r v).files.v = c.files.v := by unfold Ctx.writePhys; split <;> (try split) <;> rfl
@[simp] theorem Ctx.writePhys_k : (c.writePhys r v).files.k = c.files.k := by unfold Ctx.writePhys; split <;> (try split) <;> rfl
@[simp] theorem Ctx.writePhys_slots : (c.writePhys r v).files.slots = c.files.slots := by
  unfold Ctx.writePhys; split <;> (try split) <;> rfl

@[simp] theorem Ctx.writeG_sup : (c.writeG r v).sup = c.sup := by unfold Ctx.writeG; split <;> simp
@[simp] theorem Ctx.writeG_aie : (c.writeG r v).aie = c.aie := by unfold Ctx.writeG; split <;> simp
@[simp] theorem Ctx.writeG_pc : (c.writeG r v).pc = c.pc := by unfold Ctx.writeG; split <;> simp
@[simp] theorem Ctx.writeG_busy : (c.writeG r v).busy = c.busy := by unfold Ctx.writeG; split <;> simp
@[simp] theorem Ctx.writeG_task : (c.writeG r v).task = c.task := by unfold Ctx.writeG; split <;> simp
@[simp] theorem Ctx.writeG_csr : (c.writeG r v).csr = c.csr := by unfold Ctx.writeG; split <;> simp
@[simp] theorem Ctx.writeG_v : (c.writeG r v).files.v = c.files.v := by unfold Ctx.writeG; split <;> simp
@[simp] theorem Ctx.writeG_k : (c.writeG r v).files.k = c.files.k := by unfold Ctx.writeG; split <;> simp
@[simp] theorem Ctx.writeG_slots : (c.writeG r v).files.slots = c.files.slots := by unfold Ctx.writeG; split <;> simp

end

/-- What a write of a scalar register makes each register read as. -/
theorem Ctx.readG_writeG (c : Ctx) {q r : Nat} (v : Word) (hr : r < 64) :
    (c.writeG r v).readG q = if q = 0 then 0 else if q = r then v else c.readG q := by
  by_cases h0 : q = 0
  · simp [h0]
  by_cases hr0 : r = 0
  · by_cases hqr : q = r <;> simp_all
  have hb : ∀ x, Ctx.banked { (c.writePhys (c.phys r) v) with flow := c.flow.disown (c.phys r) } x = c.banked x := by
    intro x; simp [Ctx.banked]
  unfold Ctx.writeG
  simp only [hr0, if_false, Ctx.readG, h0, hb]
  by_cases hbr : c.banked r = true
  · have hp : c.phys r = 64 + r := by simp [Ctx.phys, hbr]
    have hr15 : r ≤ 15 := by simp [Ctx.banked] at hbr; exact hbr.2
    have hw : c.writePhys (64 + r) v = { c with files := { c.files with bank := Map.set 0 c.files.bank r v } } := by
      simp [Ctx.writePhys]
    rw [hp, hw]
    by_cases hbq : c.banked q = true
    · simp [hbq, Map.get_set]
    · have hqr : q ≠ r := by rintro rfl; exact hbq hbr
      simp [hbq, hqr]
  · have hp : c.phys r = r := by simp [Ctx.phys, hbr]
    have hw : c.writePhys r v = { c with files := { c.files with g := Map.set 0 c.files.g r v } } := by
      have : ¬64 ≤ r := by omega
      simp [Ctx.writePhys, hr0, this]
    rw [hp, hw]
    by_cases hbq : c.banked q = true
    · have hqr : q ≠ r := by rintro rfl; exact hbr hbq
      simp [hbq, hqr]
    · simp [hbq, Map.get_set]

/-! ## Completing an instruction -/

section

variable (c : Ctx) (n pc : Nat)

@[simp] theorem Ctx.charge_sup : (c.charge n).sup = c.sup := by unfold Ctx.charge; split <;> (try split) <;> rfl
@[simp] theorem Ctx.charge_aie : (c.charge n).aie = c.aie := by unfold Ctx.charge; split <;> (try split) <;> rfl
@[simp] theorem Ctx.charge_pc : (c.charge n).pc = c.pc := by unfold Ctx.charge; split <;> (try split) <;> rfl
@[simp] theorem Ctx.charge_busy : (c.charge n).busy = c.busy := by unfold Ctx.charge; split <;> (try split) <;> rfl
@[simp] theorem Ctx.charge_task : (c.charge n).task = c.task := by unfold Ctx.charge; split <;> (try split) <;> rfl
@[simp] theorem Ctx.charge_files : (c.charge n).files = c.files := by unfold Ctx.charge; split <;> (try split) <;> rfl
/-- Charging changes no control register but BUDGET. -/
theorem Ctx.charge_csr : ∃ b, (c.charge n).csr = { c.csr with budget := b } := by
  unfold Ctx.charge
  split
  · exact ⟨c.csr.budget, rfl⟩
  · split
    · exact ⟨_, rfl⟩
    · exact ⟨_, rfl⟩
/-- Charging changes nothing outstanding but the pending BUDGET trap. -/
theorem Ctx.charge_flow : ∃ b, (c.charge n).flow = { c.flow with bpend := b } := by
  unfold Ctx.charge
  split
  · exact ⟨c.flow.bpend, rfl⟩
  · split
    · exact ⟨_, rfl⟩
    · exact ⟨c.flow.bpend, rfl⟩

@[simp] theorem Ctx.finishAt_sup : (c.finishAt n pc).sup = c.sup := by simp [Ctx.finishAt]
@[simp] theorem Ctx.finishAt_aie : (c.finishAt n pc).aie = c.aie := by simp [Ctx.finishAt]
@[simp] theorem Ctx.finishAt_pc : (c.finishAt n pc).pc = pc := rfl
@[simp] theorem Ctx.finishAt_busy : (c.finishAt n pc).busy = c.busy := by simp [Ctx.finishAt]
@[simp] theorem Ctx.finishAt_task : (c.finishAt n pc).task = c.task := by simp [Ctx.finishAt]
@[simp] theorem Ctx.finishAt_files : (c.finishAt n pc).files = c.files := by simp [Ctx.finishAt]
@[simp] theorem Ctx.retire_files : (c.retire n).files = c.files := by simp [Ctx.retire]
@[simp] theorem Ctx.retire_sup : (c.retire n).sup = c.sup := by simp [Ctx.retire]
@[simp] theorem Ctx.retire_pc : (c.retire n).pc = nextPc c.pc n := rfl
/-- Completing leaves every scalar register as it reads. -/
@[simp] theorem Ctx.finishAt_readG (r : Nat) : (c.finishAt n pc).readG r = c.readG r := by
  simp [Ctx.readG, Ctx.banked]
@[simp] theorem Ctx.retire_readG (r : Nat) : (c.retire n).readG r = c.readG r := by simp [Ctx.retire]

end

/-! ## Updates of the router, the platform and the host adapters -/

@[simp] theorem State.modPlat_cube (f : Platform → Platform) : (s.modPlat f).cube = s.cube := rfl
@[simp] theorem State.modPlat_datum (f : Platform → Platform) : (s.modPlat f).datum = s.datum := rfl
@[simp] theorem State.modPlat_mem (f : Platform → Platform) : (s.modPlat f).mem = s.mem := rfl
@[simp] theorem State.modPlat_poison (f : Platform → Platform) : (s.modPlat f).poison = s.poison := rfl
@[simp] theorem State.modPlat_full (f : Platform → Platform) : (s.modPlat f).full = s.full := rfl
@[simp] theorem State.modPlat_ctxs (f : Platform → Platform) : (s.modPlat f).ctxs = s.ctxs := rfl
@[simp] theorem State.modPlat_stations (f : Platform → Platform) : (s.modPlat f).stations = s.stations := rfl
@[simp] theorem State.modPlat_vaults (f : Platform → Platform) : (s.modPlat f).vaults = s.vaults := rfl
@[simp] theorem State.modPlat_c3 (f : Platform → Platform) : (s.modPlat f).c3 = s.c3 := rfl
@[simp] theorem State.modPlat_away (f : Platform → Platform) : (s.modPlat f).away = s.away := rfl
@[simp] theorem State.modPlat_tables (f : Platform → Platform) : (s.modPlat f).tables = s.tables := rfl
@[simp] theorem State.modPlat_router (f : Platform → Platform) : (s.modPlat f).router = s.router := rfl
@[simp] theorem State.modPlat_e2e (f : Platform → Platform) : (s.modPlat f).e2e = s.e2e := rfl
@[simp] theorem State.modPlat_hosts (f : Platform → Platform) : (s.modPlat f).hosts = s.hosts := rfl
@[simp] theorem State.modPlat_net (f : Platform → Platform) : (s.modPlat f).net = s.net := rfl
@[simp] theorem State.modPlat_timers (f : Platform → Platform) : (s.modPlat f).timers = s.timers := rfl
@[simp] theorem State.modPlat_after (f : Platform → Platform) : (s.modPlat f).after = s.after := rfl
@[simp] theorem State.modPlat_ext (f : Platform → Platform) : (s.modPlat f).ext = s.ext := rfl
@[simp] theorem State.modPlat_turns (f : Platform → Platform) : (s.modPlat f).turns = s.turns := rfl
@[simp] theorem State.modPlat_hand (f : Platform → Platform) : (s.modPlat f).hand = s.hand := rfl
@[simp] theorem State.modPlat_counts (f : Platform → Platform) : (s.modPlat f).counts = s.counts := rfl

@[simp] theorem State.modRouter_cube (f : Router → Router) : (s.modRouter f).cube = s.cube := rfl
@[simp] theorem State.modRouter_datum (f : Router → Router) : (s.modRouter f).datum = s.datum := rfl
@[simp] theorem State.modRouter_mem (f : Router → Router) : (s.modRouter f).mem = s.mem := rfl
@[simp] theorem State.modRouter_poison (f : Router → Router) : (s.modRouter f).poison = s.poison := rfl
@[simp] theorem State.modRouter_full (f : Router → Router) : (s.modRouter f).full = s.full := rfl
@[simp] theorem State.modRouter_ctxs (f : Router → Router) : (s.modRouter f).ctxs = s.ctxs := rfl
@[simp] theorem State.modRouter_stations (f : Router → Router) : (s.modRouter f).stations = s.stations := rfl
@[simp] theorem State.modRouter_vaults (f : Router → Router) : (s.modRouter f).vaults = s.vaults := rfl
@[simp] theorem State.modRouter_c3 (f : Router → Router) : (s.modRouter f).c3 = s.c3 := rfl
@[simp] theorem State.modRouter_away (f : Router → Router) : (s.modRouter f).away = s.away := rfl
@[simp] theorem State.modRouter_tables (f : Router → Router) : (s.modRouter f).tables = s.tables := rfl
@[simp] theorem State.modRouter_e2e (f : Router → Router) : (s.modRouter f).e2e = s.e2e := rfl
@[simp] theorem State.modRouter_hosts (f : Router → Router) : (s.modRouter f).hosts = s.hosts := rfl
@[simp] theorem State.modRouter_plat (f : Router → Router) : (s.modRouter f).plat = s.plat := rfl
@[simp] theorem State.modRouter_net (f : Router → Router) : (s.modRouter f).net = s.net := rfl
@[simp] theorem State.modRouter_timers (f : Router → Router) : (s.modRouter f).timers = s.timers := rfl
@[simp] theorem State.modRouter_after (f : Router → Router) : (s.modRouter f).after = s.after := rfl
@[simp] theorem State.modRouter_ext (f : Router → Router) : (s.modRouter f).ext = s.ext := rfl
@[simp] theorem State.modRouter_turns (f : Router → Router) : (s.modRouter f).turns = s.turns := rfl
@[simp] theorem State.modRouter_hand (f : Router → Router) : (s.modRouter f).hand = s.hand := rfl
@[simp] theorem State.modRouter_counts (f : Router → Router) : (s.modRouter f).counts = s.counts := rfl

@[simp] theorem State.modPort_cube (n : Nat) (f : Port → Port) : (s.modPort n f).cube = s.cube := rfl
@[simp] theorem State.modPort_datum (n : Nat) (f : Port → Port) : (s.modPort n f).datum = s.datum := rfl
@[simp] theorem State.modPort_mem (n : Nat) (f : Port → Port) : (s.modPort n f).mem = s.mem := rfl
@[simp] theorem State.modPort_poison (n : Nat) (f : Port → Port) : (s.modPort n f).poison = s.poison := rfl
@[simp] theorem State.modPort_full (n : Nat) (f : Port → Port) : (s.modPort n f).full = s.full := rfl
@[simp] theorem State.modPort_ctxs (n : Nat) (f : Port → Port) : (s.modPort n f).ctxs = s.ctxs := rfl
@[simp] theorem State.modPort_stations (n : Nat) (f : Port → Port) : (s.modPort n f).stations = s.stations := rfl
@[simp] theorem State.modPort_vaults (n : Nat) (f : Port → Port) : (s.modPort n f).vaults = s.vaults := rfl
@[simp] theorem State.modPort_c3 (n : Nat) (f : Port → Port) : (s.modPort n f).c3 = s.c3 := rfl
@[simp] theorem State.modPort_away (n : Nat) (f : Port → Port) : (s.modPort n f).away = s.away := rfl
@[simp] theorem State.modPort_tables (n : Nat) (f : Port → Port) : (s.modPort n f).tables = s.tables := rfl
@[simp] theorem State.modPort_e2e (n : Nat) (f : Port → Port) : (s.modPort n f).e2e = s.e2e := rfl
@[simp] theorem State.modPort_hosts (n : Nat) (f : Port → Port) : (s.modPort n f).hosts = s.hosts := rfl
@[simp] theorem State.modPort_plat (n : Nat) (f : Port → Port) : (s.modPort n f).plat = s.plat := rfl
@[simp] theorem State.modPort_net (n : Nat) (f : Port → Port) : (s.modPort n f).net = s.net := rfl
@[simp] theorem State.modPort_timers (n : Nat) (f : Port → Port) : (s.modPort n f).timers = s.timers := rfl
@[simp] theorem State.modPort_after (n : Nat) (f : Port → Port) : (s.modPort n f).after = s.after := rfl
@[simp] theorem State.modPort_ext (n : Nat) (f : Port → Port) : (s.modPort n f).ext = s.ext := rfl
@[simp] theorem State.modPort_turns (n : Nat) (f : Port → Port) : (s.modPort n f).turns = s.turns := rfl
@[simp] theorem State.modPort_hand (n : Nat) (f : Port → Port) : (s.modPort n f).hand = s.hand := rfl
@[simp] theorem State.modPort_counts (n : Nat) (f : Port → Port) : (s.modPort n f).counts = s.counts := rfl

@[simp] theorem State.modEndpoint_cube (node ix : Nat) (f : Endpoint → Endpoint) : (s.modEndpoint node ix f).cube = s.cube := rfl
@[simp] theorem State.modEndpoint_datum (node ix : Nat) (f : Endpoint → Endpoint) : (s.modEndpoint node ix f).datum = s.datum := rfl
@[simp] theorem State.modEndpoint_mem (node ix : Nat) (f : Endpoint → Endpoint) : (s.modEndpoint node ix f).mem = s.mem := rfl
@[simp] theorem State.modEndpoint_poison (node ix : Nat) (f : Endpoint → Endpoint) : (s.modEndpoint node ix f).poison = s.poison := rfl
@[simp] theorem State.modEndpoint_full (node ix : Nat) (f : Endpoint → Endpoint) : (s.modEndpoint node ix f).full = s.full := rfl
@[simp] theorem State.modEndpoint_ctxs (node ix : Nat) (f : Endpoint → Endpoint) : (s.modEndpoint node ix f).ctxs = s.ctxs := rfl
@[simp] theorem State.modEndpoint_stations (node ix : Nat) (f : Endpoint → Endpoint) : (s.modEndpoint node ix f).stations = s.stations := rfl
@[simp] theorem State.modEndpoint_vaults (node ix : Nat) (f : Endpoint → Endpoint) : (s.modEndpoint node ix f).vaults = s.vaults := rfl
@[simp] theorem State.modEndpoint_c3 (node ix : Nat) (f : Endpoint → Endpoint) : (s.modEndpoint node ix f).c3 = s.c3 := rfl
@[simp] theorem State.modEndpoint_away (node ix : Nat) (f : Endpoint → Endpoint) : (s.modEndpoint node ix f).away = s.away := rfl
@[simp] theorem State.modEndpoint_tables (node ix : Nat) (f : Endpoint → Endpoint) : (s.modEndpoint node ix f).tables = s.tables := rfl
@[simp] theorem State.modEndpoint_router (node ix : Nat) (f : Endpoint → Endpoint) : (s.modEndpoint node ix f).router = s.router := rfl
@[simp] theorem State.modEndpoint_e2e (node ix : Nat) (f : Endpoint → Endpoint) : (s.modEndpoint node ix f).e2e = s.e2e := rfl
@[simp] theorem State.modEndpoint_plat (node ix : Nat) (f : Endpoint → Endpoint) : (s.modEndpoint node ix f).plat = s.plat := rfl
@[simp] theorem State.modEndpoint_net (node ix : Nat) (f : Endpoint → Endpoint) : (s.modEndpoint node ix f).net = s.net := rfl
@[simp] theorem State.modEndpoint_timers (node ix : Nat) (f : Endpoint → Endpoint) : (s.modEndpoint node ix f).timers = s.timers := rfl
@[simp] theorem State.modEndpoint_after (node ix : Nat) (f : Endpoint → Endpoint) : (s.modEndpoint node ix f).after = s.after := rfl
@[simp] theorem State.modEndpoint_ext (node ix : Nat) (f : Endpoint → Endpoint) : (s.modEndpoint node ix f).ext = s.ext := rfl
@[simp] theorem State.modEndpoint_turns (node ix : Nat) (f : Endpoint → Endpoint) : (s.modEndpoint node ix f).turns = s.turns := rfl
@[simp] theorem State.modEndpoint_hand (node ix : Nat) (f : Endpoint → Endpoint) : (s.modEndpoint node ix f).hand = s.hand := rfl
@[simp] theorem State.modEndpoint_counts (node ix : Nat) (f : Endpoint → Endpoint) : (s.modEndpoint node ix f).counts = s.counts := rfl

@[simp] theorem State.modTagged_cube (node ptag : Nat) (f : Endpoint → Endpoint) : (s.modTagged node ptag f).cube = s.cube := rfl
@[simp] theorem State.modTagged_datum (node ptag : Nat) (f : Endpoint → Endpoint) : (s.modTagged node ptag f).datum = s.datum := rfl
@[simp] theorem State.modTagged_mem (node ptag : Nat) (f : Endpoint → Endpoint) : (s.modTagged node ptag f).mem = s.mem := rfl
@[simp] theorem State.modTagged_poison (node ptag : Nat) (f : Endpoint → Endpoint) : (s.modTagged node ptag f).poison = s.poison := rfl
@[simp] theorem State.modTagged_full (node ptag : Nat) (f : Endpoint → Endpoint) : (s.modTagged node ptag f).full = s.full := rfl
@[simp] theorem State.modTagged_ctxs (node ptag : Nat) (f : Endpoint → Endpoint) : (s.modTagged node ptag f).ctxs = s.ctxs := rfl
@[simp] theorem State.modTagged_stations (node ptag : Nat) (f : Endpoint → Endpoint) : (s.modTagged node ptag f).stations = s.stations := rfl
@[simp] theorem State.modTagged_vaults (node ptag : Nat) (f : Endpoint → Endpoint) : (s.modTagged node ptag f).vaults = s.vaults := rfl
@[simp] theorem State.modTagged_c3 (node ptag : Nat) (f : Endpoint → Endpoint) : (s.modTagged node ptag f).c3 = s.c3 := rfl
@[simp] theorem State.modTagged_away (node ptag : Nat) (f : Endpoint → Endpoint) : (s.modTagged node ptag f).away = s.away := rfl
@[simp] theorem State.modTagged_tables (node ptag : Nat) (f : Endpoint → Endpoint) : (s.modTagged node ptag f).tables = s.tables := rfl
@[simp] theorem State.modTagged_router (node ptag : Nat) (f : Endpoint → Endpoint) : (s.modTagged node ptag f).router = s.router := rfl
@[simp] theorem State.modTagged_e2e (node ptag : Nat) (f : Endpoint → Endpoint) : (s.modTagged node ptag f).e2e = s.e2e := rfl
@[simp] theorem State.modTagged_plat (node ptag : Nat) (f : Endpoint → Endpoint) : (s.modTagged node ptag f).plat = s.plat := rfl
@[simp] theorem State.modTagged_net (node ptag : Nat) (f : Endpoint → Endpoint) : (s.modTagged node ptag f).net = s.net := rfl
@[simp] theorem State.modTagged_timers (node ptag : Nat) (f : Endpoint → Endpoint) : (s.modTagged node ptag f).timers = s.timers := rfl
@[simp] theorem State.modTagged_after (node ptag : Nat) (f : Endpoint → Endpoint) : (s.modTagged node ptag f).after = s.after := rfl
@[simp] theorem State.modTagged_ext (node ptag : Nat) (f : Endpoint → Endpoint) : (s.modTagged node ptag f).ext = s.ext := rfl
@[simp] theorem State.modTagged_turns (node ptag : Nat) (f : Endpoint → Endpoint) : (s.modTagged node ptag f).turns = s.turns := rfl
@[simp] theorem State.modTagged_hand (node ptag : Nat) (f : Endpoint → Endpoint) : (s.modTagged node ptag f).hand = s.hand := rfl
@[simp] theorem State.modTagged_counts (node ptag : Nat) (f : Endpoint → Endpoint) : (s.modTagged node ptag f).counts = s.counts := rfl

@[simp] theorem State.modCache_cube (node : Nat) (f : Slice → Slice) : (s.modCache node f).cube = s.cube := rfl
@[simp] theorem State.modCache_datum (node : Nat) (f : Slice → Slice) : (s.modCache node f).datum = s.datum := rfl
@[simp] theorem State.modCache_mem (node : Nat) (f : Slice → Slice) : (s.modCache node f).mem = s.mem := rfl
@[simp] theorem State.modCache_poison (node : Nat) (f : Slice → Slice) : (s.modCache node f).poison = s.poison := rfl
@[simp] theorem State.modCache_full (node : Nat) (f : Slice → Slice) : (s.modCache node f).full = s.full := rfl
@[simp] theorem State.modCache_ctxs (node : Nat) (f : Slice → Slice) : (s.modCache node f).ctxs = s.ctxs := rfl
@[simp] theorem State.modCache_stations (node : Nat) (f : Slice → Slice) : (s.modCache node f).stations = s.stations := rfl
@[simp] theorem State.modCache_vaults (node : Nat) (f : Slice → Slice) : (s.modCache node f).vaults = s.vaults := rfl
@[simp] theorem State.modCache_c3 (node : Nat) (f : Slice → Slice) : (s.modCache node f).c3 = s.c3 := rfl
@[simp] theorem State.modCache_away (node : Nat) (f : Slice → Slice) : (s.modCache node f).away = s.away := rfl
@[simp] theorem State.modCache_tables (node : Nat) (f : Slice → Slice) : (s.modCache node f).tables = s.tables := rfl
@[simp] theorem State.modCache_router (node : Nat) (f : Slice → Slice) : (s.modCache node f).router = s.router := rfl
@[simp] theorem State.modCache_e2e (node : Nat) (f : Slice → Slice) : (s.modCache node f).e2e = s.e2e := rfl
@[simp] theorem State.modCache_plat (node : Nat) (f : Slice → Slice) : (s.modCache node f).plat = s.plat := rfl
@[simp] theorem State.modCache_net (node : Nat) (f : Slice → Slice) : (s.modCache node f).net = s.net := rfl
@[simp] theorem State.modCache_timers (node : Nat) (f : Slice → Slice) : (s.modCache node f).timers = s.timers := rfl
@[simp] theorem State.modCache_after (node : Nat) (f : Slice → Slice) : (s.modCache node f).after = s.after := rfl
@[simp] theorem State.modCache_ext (node : Nat) (f : Slice → Slice) : (s.modCache node f).ext = s.ext := rfl
@[simp] theorem State.modCache_turns (node : Nat) (f : Slice → Slice) : (s.modCache node f).turns = s.turns := rfl
@[simp] theorem State.modCache_hand (node : Nat) (f : Slice → Slice) : (s.modCache node f).hand = s.hand := rfl
@[simp] theorem State.modCache_counts (node : Nat) (f : Slice → Slice) : (s.modCache node f).counts = s.counts := rfl

@[simp] theorem State.modPlat_plat (f : Platform → Platform) : (s.modPlat f).plat = f s.plat := rfl
@[simp] theorem State.modRouter_router (f : Router → Router) : (s.modRouter f).router = f s.router := rfl

/-! ## The passing of time (R7) -/

@[simp] theorem State.advanceTo_cube (d : Nat) : (s.advanceTo d).cube = s.cube := by unfold State.advanceTo; split <;> rfl
@[simp] theorem State.advanceTo_mem (d : Nat) : (s.advanceTo d).mem = s.mem := by unfold State.advanceTo; split <;> rfl
@[simp] theorem State.advanceTo_poison (d : Nat) : (s.advanceTo d).poison = s.poison := by unfold State.advanceTo; split <;> rfl
@[simp] theorem State.advanceTo_full (d : Nat) : (s.advanceTo d).full = s.full := by unfold State.advanceTo; split <;> rfl
@[simp] theorem State.advanceTo_ctxs (d : Nat) : (s.advanceTo d).ctxs = s.ctxs := by unfold State.advanceTo; split <;> rfl
@[simp] theorem State.advanceTo_stations (d : Nat) : (s.advanceTo d).stations = s.stations := by unfold State.advanceTo; split <;> rfl
@[simp] theorem State.advanceTo_vaults (d : Nat) : (s.advanceTo d).vaults = s.vaults := by unfold State.advanceTo; split <;> rfl
@[simp] theorem State.advanceTo_c3 (d : Nat) : (s.advanceTo d).c3 = s.c3 := by unfold State.advanceTo; split <;> rfl
@[simp] theorem State.advanceTo_away (d : Nat) : (s.advanceTo d).away = s.away := by unfold State.advanceTo; split <;> rfl
@[simp] theorem State.advanceTo_tables (d : Nat) : (s.advanceTo d).tables = s.tables := by unfold State.advanceTo; split <;> rfl
@[simp] theorem State.advanceTo_router (d : Nat) : (s.advanceTo d).router = s.router := by unfold State.advanceTo; split <;> rfl
@[simp] theorem State.advanceTo_e2e (d : Nat) : (s.advanceTo d).e2e = s.e2e := by unfold State.advanceTo; split <;> rfl
@[simp] theorem State.advanceTo_hosts (d : Nat) : (s.advanceTo d).hosts = s.hosts := by unfold State.advanceTo; split <;> rfl
@[simp] theorem State.advanceTo_plat (d : Nat) : (s.advanceTo d).plat = s.plat := by unfold State.advanceTo; split <;> rfl
@[simp] theorem State.advanceTo_net (d : Nat) : (s.advanceTo d).net = s.net := by unfold State.advanceTo; split <;> rfl
@[simp] theorem State.advanceTo_after (d : Nat) : (s.advanceTo d).after = s.after := by unfold State.advanceTo; split <;> rfl
@[simp] theorem State.advanceTo_ext (d : Nat) : (s.advanceTo d).ext = s.ext := by unfold State.advanceTo; split <;> rfl
@[simp] theorem State.advanceTo_turns (d : Nat) : (s.advanceTo d).turns = s.turns := by unfold State.advanceTo; split <;> rfl
@[simp] theorem State.advanceTo_hand (d : Nat) : (s.advanceTo d).hand = s.hand := by unfold State.advanceTo; split <;> rfl
@[simp] theorem State.advanceTo_counts (d : Nat) : (s.advanceTo d).counts = s.counts := by unfold State.advanceTo; split <;> rfl

/-! ## How a meaning runs -/

/-- Where no source awaits a result, a scalar instruction acts and completes. -/
theorem scalar_ready {srcs : List Nat} (f : Ctx → Ctx) (h : s.ready srcs) :
    scalar srcs f s = .next (s.modCur (fun c => (f c).retire s.hand.words)) := by
  have : srcs.any s.cur.owed = false := by simpa [State.ready] using h
  simp [scalar, this]
/-- The same for one that ends in a jump. -/
theorem scalarTo_ready {srcs : List Nat} (f : Ctx → Ctx) (pc : Ctx → Nat) (h : s.ready srcs) :
    scalarTo srcs f pc s = .next (s.modCur (fun c => (f c).finishAt s.hand.words (pc c))) := by
  have : srcs.any s.cur.owed = false := by simpa [State.ready] using h
  simp [scalarTo, this]
/-- A privileged instruction in supervisor mode, and in user mode (R71). -/
theorem privileged_sup (k : State → Out) (h : s.cur.sup = true) : privileged k s = k s := by simp [privileged, h]
theorem privileged_user (k : State → Out) (h : s.cur.sup = false) : privileged k s = .next (s.trap causePRIV 0) := by
  simp [privileged, h]

end Sys2Proof.Machine
end

