-- ==== Sys2Proof/Laws/Memory.lean ====
section
/-! SUPPORT. Laws of storage: what a read gives after a store, and that every operation that writes storage keeps the canonical
forms of memory and of the sets of poisoned block words and full stash words. -/

namespace Sys2Proof.Machine

/-! ## Bytes -/

/-- Storing bytes keeps memory's canonical form. -/
theorem storeBytes_wf : ∀ (bs : List Byte) {m : List Host.Cell} (a : Nat), Memory.wf m = true → Memory.wf (storeBytes m a bs) = true
  | [], _, _, h => h
  | b :: bs, _, a, h => storeBytes_wf bs (a + 1) (Map.wf_set a b h)

/-- A read after a store: the byte stored there, or what was there. -/
theorem get_storeBytes : ∀ (bs : List Byte) (m : List Host.Cell) (a x : Nat),
    Map.get 0 (storeBytes m a bs) x = if a ≤ x ∧ x < a + bs.length then bs.getD (x - a) 0 else Map.get 0 m x
  | [], m, a, x => by
    have h : ¬(a ≤ x ∧ x < a + ([] : List Byte).length) := fun h => by have := h.2; simp at this; omega
    rw [if_neg h]
    rfl
  | b :: bs, m, a, x => by
    rw [storeBytes, get_storeBytes bs]
    by_cases h1 : x = a
    · subst h1
      have h2 : ¬(x + 1 ≤ x ∧ x < x + 1 + bs.length) := by omega
      have h3 : x ≤ x ∧ x < x + (b :: bs).length := ⟨Nat.le_refl x, by simp⟩
      rw [if_neg h2, if_pos h3, Nat.sub_self]
      simp
    · rw [Map.get_set_ne m b h1]
      by_cases h2 : a + 1 ≤ x ∧ x < a + 1 + bs.length
      · have h3 : a ≤ x ∧ x < a + (b :: bs).length := by simp; omega
        have h4 : x - a = (x - (a + 1)) + 1 := by omega
        rw [if_pos h2, if_pos h3, h4]
        rfl
      · have h3 : ¬(a ≤ x ∧ x < a + (b :: bs).length) := by simp; omega
        rw [if_neg h2, if_neg h3]

/-- A byte after a store of bytes. -/
theorem State.byte_setBytes (s : State) (a x : Nat) (bs : List Byte) :
    (s.setBytes a bs).byte x = if a ≤ x ∧ x < a + bs.length then bs.getD (x - a) 0 else s.byte x :=
  get_storeBytes bs s.mem a x

@[simp] theorem bytesOf_length (n v : Nat) : (bytesOf n v).length = n := by
  induction n generalizing v with
  | zero => rfl
  | succ n ih => simp [bytesOf, ih]

/-- The bytes of a number give its low bytes back. -/
theorem natOf_bytesOf (n v : Nat) : natOf (bytesOf n v) = v % 256 ^ n := by
  induction n generalizing v with
  | zero => simp [bytesOf, natOf]; omega
  | succ n ih =>
    have h : (BitVec.ofNat 8 v).toNat = v % 256 := BitVec.toNat_ofNat ..
    rw [bytesOf, natOf, ih, h, Nat.pow_succ, Nat.mul_comm (256 ^ n) 256, Nat.mod_mul]

/-! ## Sets -/

theorem NSet.add_wf {m : NSet} (a : Nat) (h : Map.wf false m = true) : Map.wf false (m.add a) = true := Map.wf_set a true h
theorem NSet.del_wf {m : NSet} (a : Nat) (h : Map.wf false m = true) : Map.wf false (m.del a) = true := Map.wf_set a false h
/-- What a set holds after a number has been added. -/
theorem NSet.has_add (m : NSet) (a b : Nat) : (m.add a).has b = (b == a || m.has b) := by
  by_cases h : b = a <;> simp [NSet.add, NSet.has, Map.get_set, h]

/-! ## Canonical forms -/

/-- The canonical forms depend on the storage alone. -/
theorem State.canonical_of_eq {s t : State} (hm : t.mem = s.mem) (hp : t.poison = s.poison) (hf : t.full = s.full)
    (h : s.canonical) : t.canonical := by
  unfold State.canonical
  rw [hm, hp, hf]
  exact h

theorem State.canonical_setBytes {s : State} (a : Nat) (bs : List Byte) (h : s.canonical) : (s.setBytes a bs).canonical :=
  ⟨storeBytes_wf bs a h.1, h.2⟩

theorem State.canonical_setRaw {s : State} (a : Nat) (w : BlockWord) (p : Bool) (h : s.canonical) : (s.setRaw a w p).canonical := by
  obtain ⟨hm, hp, hf⟩ := h
  have h1 := storeBytes_wf (bytesOf 16 w.toNat) (a / 16 * 16) hm
  have h2 := Map.wf_set (a / 16) p hp
  generalize hb : bytesOf 16 w.toNat = bs at h1
  unfold State.setRaw State.setBytes State.canonical
  rw [hb]
  exact ⟨h1, h2, hf⟩

theorem State.canonical_send {s : State} (m : Msg) (h : s.canonical) : (s.send m).canonical := h
theorem State.canonical_sendAll {s : State} (ms : List Msg) (h : s.canonical) : (s.sendAll ms).canonical := h
theorem State.canonical_schedule {s : State} (d : Nat) (m : Msg) (h : s.canonical) : (s.schedule d m).canonical := h
theorem State.canonical_modCtx {s : State} (l : Loc) (f : Ctx → Ctx) (h : s.canonical) : (s.modCtx l f).canonical := h
theorem State.canonical_modStn {s : State} (n : Nat) (f : Station → Station) (h : s.canonical) : (s.modStn n f).canonical := h
theorem State.canonical_trap {s : State} (c : Nat) (a : Word) (h : s.canonical) : (s.trap c a).canonical := h

/-- What holds along a fold. -/
theorem foldl_keeps {α β : Type} {p : β → Prop} {f : β → α → β} (hf : ∀ b a, p b → p (f b a)) :
    ∀ (xs : List α) {b : β}, p b → p (xs.foldl f b)
  | [], _, h => h
  | x :: xs, _, h => foldl_keeps hf xs (hf _ x h)

theorem State.canonical_sendSeq {s : State} (ms : List Msg) (h : s.canonical) : (s.sendSeq ms).canonical := by
  unfold State.sendSeq
  split
  · exact h
  · dsimp only
    split <;> exact h

theorem State.canonical_logError {s : State} (p t fa n : Nat) (h : s.canonical) : (s.logError p t fa n).canonical := by
  unfold State.logError
  split
  · exact h
  · split
    · exact h
    · split
      · exact h
      · dsimp only
        split
        · exact h
        · exact State.canonical_sendSeq _ h

theorem State.canonical_putDram {s : State} (fa canon : Nat) (w : BlockWord) (p : Bool) (h : s.canonical) :
    (s.putDram fa canon w p).canonical := by
  have h1 := State.canonical_setRaw canon w p h
  unfold State.putDram
  dsimp only
  split
  · exact h1
  · split
    · exact State.canonical_setRaw _ _ _ h1
    · exact h1

theorem State.canonical_rebuild {s : State} (fa canon : Nat) (h : s.canonical) : (s.rebuild fa canon).canonical := by
  unfold State.rebuild
  split
  · have h1 := fun w b => State.canonical_setRaw canon w b h
    simp only [State.canonical]
    split
    · exact State.canonical_logError _ _ _ _ (h1 _ _)
    · exact h1 _ _
  · exact h

theorem State.canonical_chargeBad {s : State} (n fa p : Nat) (w : Line) (h : s.canonical) : (s.chargeBad n fa p w).canonical := by
  unfold State.chargeBad
  split
  · dsimp only
    split
    · exact State.canonical_logError (s := s.modSlice n _) _ _ _ _ h
    · exact h
  · exact h

theorem State.canonical_homeToDram {s : State} (n r p : Nat) (w : Line) (h : s.canonical) : (s.homeToDram n r p w).canonical := by
  unfold State.homeToDram
  dsimp only
  split
  · exact State.canonical_putDram _ _ _ _ (State.canonical_chargeBad _ _ _ _ h)
  · exact h

theorem State.canonical_writeBack {s : State} (n r p : Nat) (w : Line) (h : s.canonical) : (s.writeBack n r p w).canonical := by
  have h1 := State.canonical_chargeBad n (wordFa r w.ix) p w h
  unfold State.writeBack
  dsimp only
  generalize s.chargeBad n (wordFa r w.ix) p w = t at h1 ⊢
  exact h1

theorem State.canonical_spillBlock {s : State} (n : Nat) (b : Block) (h : s.canonical) : (s.spillBlock n b).canonical := by
  refine foldl_keeps (p := State.canonical) (fun t w ht => ?_) _ h
  split
  · exact ht
  · split
    · exact State.canonical_homeToDram _ _ _ _ ht
    · exact State.canonical_writeBack _ _ _ _ ht

theorem State.canonical_modSlice {s : State} (n : Nat) (f : Slice → Slice) (h : s.canonical) : (s.modSlice n f).canonical := h

theorem State.canonical_yieldTag {s : State} (n r p : Nat) (ws : List Line) (h : s.canonical) : (s.yieldTag n r p ws).canonical :=
  foldl_keeps (p := State.canonical) (fun _ b ht => State.canonical_spillBlock n b ht) _ (State.canonical_modSlice n _ h)

theorem State.canonical_fillSlice {s : State} (n : Nat) (home : Bool) (r p : Nat) (ws : List Line) (h : s.canonical) :
    (s.fillSlice n home r p ws).canonical :=
  foldl_keeps (p := State.canonical) (fun _ b ht => State.canonical_spillBlock n b ht) _
    (State.canonical_modSlice _ _ (State.canonical_yieldTag n r p ws h))

theorem State.canonical_putHomeWord {s : State} (pl : Place) (fa : Nat) (bs : List Byte) (h : s.canonical) :
    (s.putHomeWord pl fa bs).1.canonical := by
  unfold State.putHomeWord
  dsimp only
  split
  · exact h
  · split
    · exact State.canonical_setRaw _ _ _ h
    · split
      · exact h
      · exact State.canonical_fillSlice _ _ _ _ _ h

theorem State.canonical_putHome {s : State} (pl : Place) (fa : Nat) (bs : List Byte) (h : s.canonical) :
    (s.putHome pl fa bs).1.canonical :=
  foldl_keeps (p := fun r : State × List Nat => r.1.canonical) (fun _ _ ht => State.canonical_putHomeWord _ _ _ ht) _ h

theorem State.canonical_poisonHome {s : State} (pl : Place) (fa : Nat) (h : s.canonical) : (s.poisonHome pl fa).canonical := by
  have h1 : ({ s with poison := s.poison.add (pl.canon / 16) } : State).canonical := ⟨h.1, NSet.add_wf _ h.2.1, h.2.2⟩
  unfold State.poisonHome
  split
  · exact h1
  · split
    · exact h
    · exact h1

theorem State.canonical_answerWait {s : State} (n : Nat) (w : WaitReg) (m : Nat) (p : Bool) (h : s.canonical) :
    (s.answerWait n w m p).canonical := by
  unfold State.answerWait
  dsimp only
  split
  · exact h
  · split <;> exact h

theorem State.canonical_wakeWaiters {s : State} (b : State) (pl : Place) (fa n : Nat) (all : Bool) (h : s.canonical) :
    (s.wakeWaiters b pl fa n all).canonical := by
  unfold State.wakeWaiters
  dsimp only
  split
  · exact h
  · exact foldl_keeps (p := State.canonical) (fun _ _ ht => State.canonical_answerWait _ _ _ _ ht) _ h

/-- Performing a write at its home keeps the canonical forms. -/
theorem State.canonical_performWrite {s : State} (pl : Place) (fa : Nat) (bs : List Byte) (poison : List Nat) (h : s.canonical) :
    (s.performWrite pl fa bs poison).1.canonical := by
  unfold State.performWrite
  dsimp only
  refine State.canonical_wakeWaiters _ _ _ _ _ ?_
  exact foldl_keeps (p := State.canonical) (fun _ _ ht => State.canonical_poisonHome _ _ ht) _ (State.canonical_putHome _ _ _ h)

theorem State.canonical_poisonStripe {s : State} (fa len : Nat) (h : s.canonical) : (s.poisonStripe fa len).canonical := by
  unfold State.poisonStripe
  split
  · exact h
  · refine foldl_keeps (p := State.canonical) (fun _ _ ht => State.canonical_logError _ _ _ _ ht) _ ⟨h.1, ?_, h.2.2⟩
    exact foldl_keeps (p := fun m : NSet => Map.wf false m = true) (fun _ _ ht => NSet.add_wf _ ht) _ h.2.1

/-- Reset memory is in canonical form, and so are the sets. -/
theorem State.canonical_reset : State.reset.canonical := ⟨rfl, rfl, rfl⟩

end Sys2Proof.Machine
end

