-- ==== Sys2Proof/Laws/Ops.lean ====
section
/-! SUPPORT. What each shared operation can do, said once: register files, taking a trap and returning, completing an
instruction, and the steps that meanings are built of. -/

namespace Sys2Proof.Machine

/-! ## Register files -/

section

variable (c : Ctx) (r q : Nat)

theorem Ctx.readV_writeV (v : VReg) : (c.writeV r v).readV q = if q = r then v else c.readV q := by
  simp [Ctx.readV, Ctx.writeV, Map.get_set]
theorem Ctx.writeV_vsaved (v : VReg) (q : Nat) :
    NSet.has (c.writeV r v).csr.vsaved q = (q == r || NSet.has c.csr.vsaved q) := by
  by_cases h : q = r <;> simp [Ctx.writeV, NSet.has, NSet.add, Map.get_set, h]
@[simp] theorem Ctx.writeV_g (v : VReg) : (c.writeV r v).files.g = c.files.g := rfl
@[simp] theorem Ctx.writeV_k (v : VReg) : (c.writeV r v).files.k = c.files.k := rfl
@[simp] theorem Ctx.writeV_pc (v : VReg) : (c.writeV r v).pc = c.pc := rfl
@[simp] theorem Ctx.writeV_readG (v : VReg) (x : Nat) : (c.writeV r v).readG x = c.readG x := rfl
@[simp] theorem Ctx.readK_zero : c.readK 0 = BitVec.allOnes 256 := rfl
theorem Ctx.readK_writeK (v : Pred) : (c.writeK r v).readK q = if q = 0 then BitVec.allOnes 256 else if q = r then v else c.readK q := by
  by_cases hq : q = 0
  · simp [Ctx.readK, hq]
  · by_cases hr : r = 0
    · have : q ≠ r := by omega
      simp [Ctx.writeK, hr, hq]
    · simp [Ctx.readK, Ctx.writeK, hr, hq, Map.get_set]
@[simp] theorem Ctx.writeK_g (v : Pred) : (c.writeK r v).files.g = c.files.g := by unfold Ctx.writeK; split <;> rfl
@[simp] theorem Ctx.writeK_v (v : Pred) : (c.writeK r v).files.v = c.files.v := by unfold Ctx.writeK; split <;> rfl
@[simp] theorem Ctx.writeK_pc (v : Pred) : (c.writeK r v).pc = c.pc := by unfold Ctx.writeK; split <;> rfl
theorem Ctx.slot_setSlot (v : Slot) (h : r < c.files.slots.length) : (c.setSlot r v).slot q = if q = r then v else c.slot q := by
  by_cases hq : q = r
  · subst hq
    simp [Ctx.slot, Ctx.setSlot, h]
  · have : ¬r = q := fun e => hq e.symm
    simp [Ctx.slot, Ctx.setSlot, this, hq]

end

/-! ## Traps -/

section

variable (c : Ctx) (cause : Nat) (addr : Word) (tpc iwords tvec : Nat)

/-- R245: everything that taking a trap does to a context. -/
theorem Ctx.enter_spec : let d := c.enter cause addr tpc iwords tvec
    d.pc = tvec ∧ d.sup = true ∧ d.aie = false ∧ d.busy = true ∧ d.csr.tcause = cause ∧ d.csr.taddr = addr ∧ d.csr.tpc = tpc ∧
    d.csr.iwords = iwords ∧ d.csr.pmode = c.sup ∧ d.csr.taie = (c.aie || !c.sup) ∧ d.files = c.files ∧ d.task = c.task :=
  ⟨rfl, rfl, rfl, rfl, rfl, rfl, rfl, rfl, rfl, rfl, rfl, rfl⟩

/-- R107, R248: everything that a return does: back to the saved mode and address, or free where no task is held. -/
theorem Ctx.eret_spec : let d := c.eret
    d.csr = c.csr ∧ d.files = c.files ∧ d.task = c.task ∧ d.flow = c.flow ∧
    ((c.csr.pmode = true ∨ c.task ≠ none) → d.pc = c.csr.tpc ∧ d.sup = c.csr.pmode ∧ d.aie = c.csr.taie ∧ d.busy = c.busy) ∧
    (c.csr.pmode = false → c.task = none → d.busy = false ∧ d.sup = false ∧ d.aie = false) := by
  unfold Ctx.eret
  by_cases hp : c.csr.pmode = true
  · simp [hp]
  · by_cases ht : c.task = none <;> simp [hp, ht]

end

/-- A trap charges the acting context its issue cycles, enters, and changes that context alone. -/
theorem State.trap_cur (s : State) (cause : Nat) (addr : Word) :
    (s.trap cause addr).cur = (s.cur.charge s.hand.words).enter cause addr s.cur.pc s.hand.words s.here.kernel.tvec := by
  simp [State.trap, State.trapOf, State.enterTrap, State.cur, State.here]
theorem State.trap_other (s : State) (cause : Nat) (addr : Word) {l : Loc} (h : locIx l ≠ locIx s.hand.at_) :
    (s.trap cause addr).ctx l = s.ctx l := by
  simp [State.trap, State.trapOf, State.enterTrap, State.modCtx, State.setCtx, State.ctx, Map.get_set, h]

/-- A supervisor-only instruction with a limited register value: in supervisor mode, and in user mode (R71). -/
theorem privilegedBy_sup (s : State) (srcs : List Nat) (ok : Ctx → Bool) (k : State → Out) (h : s.cur.sup = true) :
    privilegedBy srcs ok k s = k s := by simp [privilegedBy, h]
theorem privilegedBy_user (s : State) {srcs : List Nat} (ok : Ctx → Bool) (k : State → Out) (h : s.cur.sup = false)
    (hr : s.ready srcs) : privilegedBy srcs ok k s =
      .next (s.trap (if ok s.cur then causePRIV else causeILL) (if ok s.cur then 0 else w64 s.baseAddr)) := by
  have : srcs.any s.cur.owed = false := by simpa [State.ready] using hr
  simp [privilegedBy, h, this]

/-! ## Steps of a meaning -/

section

variable {α β : Type} (s : State)

/-- Steps in sequence: the first succeeds and the rest go on, or the first stops. -/
theorem Exec.bind_ok {m : Exec α} {f : α → Exec β} {a : α} {t : State} (h : m s = .ok a t) : (m >>= f) s = f a t := by
  show EStateM.bind m f s = f a t
  simp only [EStateM.bind, h]
theorem Exec.bind_error {m : Exec α} {f : α → Exec β} {e : Stop} {t : State} (h : m s = .error e t) : (m >>= f) s = .error e t := by
  show EStateM.bind m f s = .error e t
  simp only [EStateM.bind, h]
@[simp] theorem Exec.pure_run (a : α) : (pure a : Exec α) s = .ok a s := rfl
@[simp] theorem Exec.get_run : (get : Exec State) s = .ok s s := rfl
@[simp] theorem Exec.ctx_run : Exec.ctx s = .ok s.cur s := rfl
@[simp] theorem Exec.modCtx_run (f : Ctx → Ctx) : Exec.modCtx f s = .ok () (s.modCur f) := rfl
@[simp] theorem Exec.trap_run (c a : Nat) : (Exec.trap c a : Exec α) s = .error (.trap c (w64 a)) s := rfl
@[simp] theorem Exec.stall_run : (Exec.stall : Exec α) s = .error .stall s := rfl
/-- A check passes and changes nothing, or traps. -/
theorem Exec.check_run (ok : Bool) (c a : Nat) :
    Exec.check ok c a s = if ok then .ok () s else .error (.trap c (w64 a)) s := by cases ok <;> rfl
/-- A wait passes and changes nothing, or stalls. -/
theorem Exec.wait_run (ok : Bool) : Exec.wait ok s = if ok then .ok () s else .error .stall s := by cases ok <;> rfl
/-- Sources that await nothing are read at once (R88). -/
theorem Exec.need_ready {rs : List Nat} (h : s.ready rs) : Exec.need rs s = .ok () s := by
  have : rs.any s.cur.owed = false := by simpa [State.ready] using h
  rw [Exec.need, Exec.bind_ok s (Exec.ctx_run s), this]
  rfl
theorem Exec.reg_ready {r : Nat} (h : s.cur.owed r = false) : Exec.reg r s = .ok (s.cur.readG r) s := by
  have hr : s.ready [r] := by simpa [State.ready] using h
  rw [Exec.reg, Exec.bind_ok s (Exec.need_ready s hr)]
  rfl

/-- However the steps of a meaning end, the machine goes on. -/
theorem runSeq_next (m : Exec Unit) : ∃ t, runSeq m s = .next t := by
  unfold runSeq
  split <;> exact ⟨_, rfl⟩
theorem runTo_next (m : Exec Nat) : ∃ t, runTo m s = .next t := by
  unfold runTo
  split <;> exact ⟨_, rfl⟩
theorem runSelf_next (m : Exec Unit) : ∃ t, runSelf m s = .next t := by
  unfold runSelf
  split <;> exact ⟨_, rfl⟩
theorem event_next (m : Exec Unit) : ∃ t, event m s = .next t := by
  unfold event
  split <;> exact ⟨_, rfl⟩
theorem scalar_next (srcs : List Nat) (f : Ctx → Ctx) : ∃ t, scalar srcs f s = .next t := by
  unfold scalar
  split <;> exact ⟨_, rfl⟩
theorem scalarTo_next (srcs : List Nat) (f : Ctx → Ctx) (pc : Ctx → Nat) : ∃ t, scalarTo srcs f pc s = .next t := by
  unfold scalarTo
  split <;> exact ⟨_, rfl⟩

/-- Steps that succeed complete their instruction. -/
theorem runSeq_ok {m : Exec Unit} {t : State} (h : m s = .ok () t) : runSeq m s = .next t.retire := by simp [runSeq, h]
theorem runSeq_trap {m : Exec Unit} {c : Nat} {a : Word} {t : State} (h : m s = .error (.trap c a) t) :
    runSeq m s = .next (t.trap c a) := by simp [runSeq, h]
theorem runSeq_stall {m : Exec Unit} {t : State} (h : m s = .error .stall t) : runSeq m s = .next t := by simp [runSeq, h]

end

end Sys2Proof.Machine
end

