-- ==== Sys2Proof/Tests/Slice0.lean ====
section
/-! SUPPORT. The author's tests: ill-formed terms that the checks refuse, words written out from the spec's encodings, and for each
statement states that meet its hypotheses, with what the spec says of them. Expected values come from the spec's rules, worked
examples and tables. -/

open Sys2Proof Sys2Proof.Machine

namespace Sys2Proof.Tests

set_option maxRecDepth 100000
set_option exponentiation.threshold 9000

/-! ## Small states -/

/-- A parcel of tenant 1 with stations and vaults 0 to 3, and one of tenant 2 with station and vault 4. -/
def parcels : List Parcel :=
  [⟨5, 1, 0, 15, 15, 0, .steady, [0, 1, 2, 3], 0, 0⟩, ⟨6, 2, 0, 16, 16, 0, .steady, [], 0, 0⟩]
/-- A task. -/
def task : RecEntry := ⟨{ pc := 0x1000 }, 7, 5, 0, 0, 0, 0, none, none, .again, 0, false⟩
/-- A user context that runs it. -/
def user (g : Map Word) : Ctx := { busy := true, pc := 0x1000, task := some task, files := { g := g } }
/-- Virtual pages at 0x10000, 0x20000 and 0x30000: the stashes of stations 0 and 1, and vault 1. -/
def tlb : List Tlb :=
  [⟨5, 0x10000, 65536, stashFa 0 0 0, true, true, true⟩, ⟨5, 0x20000, 65536, stashFa 0 1 0, true, true, true⟩,
   ⟨5, 0x30000, 65536, vaultFa 0 (2 ^ 32), true, true, true⟩]
/-- Context 0 of core 0 of station 0 runs a task of the first parcel. -/
def base : State :=
  { stations := [(0, { boot := .released, tlb := tlb, kernel := { tvec := 0x8000 } }), (1, { boot := .released })]
    tables := { parcels := parcels }, ctxs := [(0, user [])] }
/-- With registers. -/
def withG (g : Map Word) : State := { base with ctxs := [(0, user g)] }
/-- With a context of its own. -/
def withC (c : Ctx) : State := { base with ctxs := [(0, c)] }
/-- In supervisor mode. -/
def sup (g : Map Word) : State := withC { user g with sup := true }
/-- With a message in hand. -/
def msg (m : Msg) (s : State) : State := { s with hand := { s.hand with msg := m } }

/-- What holds of the state that an outcome goes on to. -/
def next (o : Out) (p : State → Bool) : Bool := match o with | .next t => p t | _ => false
/-- A scalar register of the acting context after an outcome. -/
def reg (r : Nat) (o : Out) : Word := match o with | .next t => t.cur.readG r | _ => 0xDEAD
/-- Whether an outcome is a trap with this cause and TADDR, taken in place, at the kernel's entry. -/
def trapped (c : Nat) (a : Word) (o : Out) : Bool :=
  next o (fun t => t.cur.csr.tcause == c && t.cur.csr.taddr == a && t.cur.sup && t.cur.pc == 0x8000)

/-! ## Well-formedness -/

theorem test_wf_registers : [Instr.csrr 0 64, .add ⟨false, false, 64, 0, .reg 0⟩, .add ⟨false, false, 0, 64, .reg 0⟩,
    .add ⟨false, false, 0, 0, .reg 64⟩, .clz ⟨false, 0, 64⟩, .addi ⟨false, 64, 0⟩, .beq ⟨64, 0, 0⟩, .jr 64, .gset 8 0, .gset 0 64,
    .gwait 0 8, .pop 1 0, .pop 64 0, .kmsg 0 64, .spawn 64 0 0, .fork 0 1 0, .mma ⟨4, 0, 0, 0, none⟩, .mma ⟨0, 0, 1, 0, none⟩,
    .mzero ⟨0, 0, 1, 0, none⟩, .tdef ⟨1, 0, 0, 0, none⟩, .sendh ⟨0, 0, 1, 0, none⟩, .hset 16 0 0 none,
    .ldp ⟨1, 0, .reg 0, {}⟩, .feclr ⟨1, 0, .reg 0, {}⟩, .aaddt ⟨false, 0, 0, 1, {}⟩].all (fun i => !i.wf) = true := by decide
theorem test_wf_vector_registers : [Instr.vadd ⟨.f32, false, 32, 0, 0, {}⟩, .vadd ⟨.f32, false, 0, 32, 0, {}⟩, .vadd ⟨.f32, false, 0, 0, 32, {}⟩,
    .vadd ⟨.f32, true, 0, 0, 64, {}⟩, .vsqrt ⟨.f32, false, 0, 0, 1, {}⟩, .vneg ⟨.f32, true, 0, 0, 0, {}⟩, .vfeq ⟨.f32, false, 0, 0, 0, {}⟩,
    .kand ⟨0, 0, 0, {}⟩, .kand ⟨1, 8, 0, {}⟩, .knot ⟨1, 0, 1, {}⟩, .kpopc ⟨64, 0, 0, {}⟩, .kpopc ⟨0, 0, 0, { guard := some ⟨0, true⟩ }⟩,
    .vsel ⟨32, 0, 0, {}⟩, .vq4 ⟨0, 0, 64, {}⟩, .vgth ⟨.w32, 0, 0, 32, {}⟩, .vldConsumer ⟨.w32, 0, 16, .reg 0, {}⟩,
    .vextr ⟨64, 0, .reg 0, {}⟩, .vinsr ⟨32, 0, .reg 0, {}⟩].all (fun i => !i.wf) = true := by decide
theorem test_wf_immediates : [Instr.add ⟨false, false, 0, 0, .imm (2 ^ 38)⟩, .add ⟨false, false, 0, 0, .imm (-(2 ^ 38) - 1)⟩, .addi ⟨false, 0, 2 ^ 43⟩,
    .slli ⟨false, 0, 64⟩, .slli ⟨false, 0, -1⟩, .srai ⟨true, 0, 3⟩, .movi 0 (-(2 ^ 43) - 1), .movh 0 (2 ^ 20), .movh 0 (-1), .brk (2 ^ 39), .trap (2 ^ 39),
    .kcall (2 ^ 39), .beq ⟨0, 0, 2 ^ 38⟩, .jmp (2 ^ 43), .call (2 ^ 43), .adpc 0 (2 ^ 38), .fork 0 0 (2 ^ 38), .vrotl ⟨0, 0, .imm 256, {}⟩,
    .vrotl ⟨0, 0, .imm (-(2 ^ 38) - 1), {}⟩, .hget 0 0 (.imm 8) 0, .hadvp ⟨0, .imm (2 ^ 39), 0, none⟩, .cwait 8 0, .csrr 0x00D 0, .csrr 0x03F 0, .csrr 0x046 0,
    .csrw 4096 0, .ext 64 ⟨false, 0, 0⟩].all (fun i => !i.wf) = true := by decide
theorem test_wf_qualifiers : [Instr.and ⟨false, true, 0, 0, .reg 0⟩, .andi ⟨true, 0, 0⟩, .ld ⟨0, 0, .reg 0, { wc := 4 }⟩,
    .ld ⟨0, 0, .reg 0, { scope := .dom }⟩, .ld ⟨0, 0, .reg 0, { order := .rel }⟩, .st ⟨0, 0, .reg 0, { order := .acq }⟩,
    .st ⟨0, 0, .reg 0, { hint := .rep }⟩, .ldw ⟨0, 0, .reg 0, { hint := .nt }⟩, .stf ⟨0, 0, .reg 0, { order := .sg }⟩,
    .waitEq ⟨0, 0, 0, { order := .rel }⟩, .aadd ⟨false, 0, 0, 0, { hint := .nt }⟩, .afaddF32 ⟨false, 0, 0, 0, {}⟩,
    .flushr ⟨0, .reg 0, .va, 4⟩, .smap 0 0 0 4, .push 0 0 4 none, .push 0 0 0 (some ⟨8, true⟩),
    .fmin ⟨.f32, .rz, 0, 0, 0⟩, .fneg ⟨.f32, .rz, 0, 0⟩, .vadd ⟨.f32, false, 0, 0, 0, { pred := 8 }⟩, .vadd ⟨.f32, false, 0, 0, 0, { inv := true }⟩,
    .vadd ⟨.f32, false, 0, 0, 0, { sat := true }⟩, .vmin ⟨.f32, false, 0, 0, 0, { rm := .rz }⟩, .vimulh ⟨.i32, false, 0, 0, 0, { sat := true }⟩,
    .vand ⟨.w32, false, 0, 0, 0, { rm := .rs }⟩, .vrsum ⟨.f32, 0, 0, { sat := true }⟩, .vriand ⟨.f32, 0, 0, {}⟩,
    .vq8E4m3 ⟨0, 0, 0, { zero := true }⟩, .vdq4 ⟨0, 0, 0, { sat := true }⟩,
    .vst ⟨.w32, 0, 0, .reg 0, { zero := true }⟩, .vst ⟨.w32, 0, 0, .reg 0, { hint := .rep }⟩, .vld ⟨.w32, 0, 0, .reg 0, { wc := 4 }⟩,
    .vld ⟨.w32, 0, 0, .reg 0, { win := .fa }⟩, .vq8E4m3 ⟨0, 0, 0, { rm := .rs }⟩, .vdq4 ⟨0, 0, 0, { rm := .rs }⟩, .vscadd ⟨.w64, 0, 0, 0, {}⟩,
    .vsct ⟨.w16, 0, 0, 0, {}⟩, .hwaitf ⟨0, .reg 0, 4, none⟩, .cpwait ⟨0, 0, 0, 0, some ⟨0, true⟩⟩].all (fun i => !i.wf) = true := by decide
theorem test_wf_conversions : [Instr.fcvt ⟨.f32, .f32, .ne, false, 0, 0⟩, .fcvt ⟨.e4m3, .i64, .ne, false, 0, 0⟩, .fcvt ⟨.f32, .i16, .ne, false, 0, 0⟩,
    .fcvt ⟨.f32, .i64, .ne, true, 0, 0⟩, .vcvt ⟨.e4m3, .e5m2, 0, 0, {}⟩, .vcvt ⟨.f32, .i64, 0, 0, {}⟩,
    .vcvt ⟨.f32, .f16, 0, 0, { sat := true }⟩].all (fun i => !i.wf) = true := by decide
theorem test_wf_admits : [Instr.add ⟨true, true, 63, 63, .imm (-(2 ^ 38))⟩, .ldp ⟨62, 63, .imm (2 ^ 38 - 1), { order := .acq, scope := .dom, win := .fa }⟩,
    .srai ⟨false, 1, 63⟩, .csrr 0x045 1, .vadd ⟨.f16, true, 31, 31, 63, { pred := 7, inv := true, rm := .rs }⟩, .vcvt ⟨.n8, .f16, 31, 31, { sat := true }⟩,
    .mma ⟨3, 63, 62, 3, some ⟨7, false⟩⟩, .vscadd ⟨.w32, 31, 63, 31, {}⟩, .vrotl ⟨0, 0, .imm (-1), {}⟩, .vldConsumer ⟨.w32, 0, 0, .reg 0, { win := .lin }⟩, .selection].all Instr.wf = true := by decide
theorem test_wf_messages : [Msg.selection ⟨64, 0, 0⟩, .selection ⟨0, 8, 0⟩, .selection ⟨0, 0, 4⟩, .stationBoot 64 ⟨[], [], [], 0, [], [], 0, 0⟩, .spillRefill 64,
    .vectorQueueStallRelease 0 8, .linkDown 8].all (fun m => !m.wf) = true := by decide
theorem test_wf_moves : (BMove.wf ⟨64, 0, 0⟩, BMove.wf ⟨0, 4096, 0⟩, BMove.wf ⟨0, 0, 256⟩, BMove.wf ⟨63, 4095, 255⟩) = (false, false, false, true) := by
  decide

/-! ## Decoding: one word or more of every major opcode, bit by bit from R61 to R75 -/

/-- Words decode to an instruction, and what it encodes to decodes to it too. -/
def codes (ws : List Nat) (i : Instr) : Prop := decodeWords ws = .ok i ∧ decodeWords (encodeWords i) = .ok i

-- MAJ 00000: TLBINV is operation 5 (fn6 1, FN 1), B 011, C 100; KCALL operation 4
theorem test_decode_system : codes [0b1111010000000001, 0b0000000001110001] (.tlbinv 3 4) ∧
    codes [0b1111010000000001, 0b0000000000011100] (.kcall 7) ∧ codes [0b0000000000011101] (.brk 7) := ⟨⟨rfl, rfl⟩, ⟨rfl, rfl⟩, ⟨rfl, rfl⟩⟩
-- MAJ 00001: page 1 of SUB with `.sat`: PFXQ bit 3
theorem test_decode_alu : codes [0b1111010001000000, 0b1111011000001000, 0b0000101101001101] (.sub ⟨true, true, 3, 2, .reg 3⟩) ∧
    codes [0b1111010000000100, 0b0000101100100001] (.ext 8 ⟨false, 3, 1⟩) := ⟨⟨rfl, rfl⟩, ⟨rfl, rfl⟩⟩
-- MAJ 00010: XORI is operation 3; MAJ 00011: MOVH g5, 0x12345
theorem test_decode_immediates : codes [0b1111010000000011, 0b0001001011111111] (.xori ⟨false, 2, -1⟩) ∧
    codes [0b1111010000000001, 0b1111000000000000, 0b1111000100100011, 0b0001110101000101] (.movh 5 0x12345) := ⟨⟨rfl, rfl⟩, ⟨rfl, rfl⟩⟩
-- MAJ 00100: BGE unsigned, offset 2; MAJ 00101: CALL -3
theorem test_decode_branches : codes [0b1111010001000000, 0b0010000101001011] (.bgeN64 ⟨1, 2, 2⟩) ∧
    codes [0b1111010000000001, 0b0010100011111101] (.call (-3)) ∧ codes [0b1111010000000100, 0b0010100000000000] .ret :=
  ⟨⟨rfl, rfl⟩, ⟨rfl, rfl⟩, ⟨rfl, rfl⟩⟩
-- MAJ 00110: LDP; 00111: ST.n8 with `.w2.nt`
theorem test_decode_memory : codes [0b1111010000000001, 0b0011010000100111] (.ldp ⟨4, 1, .reg 1, {}⟩) ∧
    codes [0b1111011000010011, 0b0011101001100000] (.stN8 ⟨2, 3, .reg 0, { wc := 2, hint := .nt }⟩) := ⟨⟨rfl, rfl⟩, ⟨rfl, rfl⟩⟩
-- MAJ 01000: page 1, AFADD.f32 (operation 11); 01001: WAIT.ge.cube ... ORDER acquire
theorem test_decode_sync : codes [0b1111010001000010, 0b0100000101001111] (.afaddF32 ⟨true, 1, 2, 3, {}⟩) ∧
    codes [0b1111100101000000, 0b0100100101001111] (.waitGe ⟨1, 2, 3, { order := .acq, scope := .cube }⟩) ∧
    codes [0b1111010000000010, 0b0100100000011110] (.cwait 7 0) := ⟨⟨rfl, rfl⟩, ⟨rfl, rfl⟩, ⟨rfl, rfl⟩⟩
-- MAJ 01010: FORK; 01011: FMA.f16.rz is operation 9, FCVT.f32.i64 has n = 5; 01100: CSRW TVEC
theorem test_decode_tasks : codes [0b0101000101001001] (.fork 1 2 2) ∧
    codes [0b1111010010000010, 0b1111011000000001, 0b0101100101001101] (.fma ⟨.f16, .rz, 1, 2, 3⟩) ∧
    codes [0b1111010011000001, 0b0101100101000001] (.fcvt ⟨.f32, .i64, .ne, false, 1, 2⟩) ∧
    codes [0b1111000000000001, 0b0110001100000001] (.csrw 0x040 3) := ⟨⟨rfl, rfl⟩, ⟨rfl, rfl⟩, ⟨rfl, rfl⟩, ⟨rfl, rfl⟩⟩
-- MAJ 01101: SEL, page 2 FLT.bf16; 01110: LEA; 01111: PUSH guarded by :!j5
theorem test_decode_selects : codes [0b1111010000000001, 0b0110100101001110] (.sel 1 2 (.reg 3)) ∧
    codes [0b1111010010000000, 0b0110100101001101] (.flt ⟨.bf16, .ne, 1, 2, 3⟩) ∧ codes [0b0111000101001100] (.lea 1 2 (.reg 3)) ∧
    codes [0b1111111010000000, 0b0111100101000000] (.push 1 2 0 (some ⟨5, false⟩)) := ⟨⟨rfl, rfl⟩, ⟨rfl, rfl⟩, ⟨rfl, rfl⟩, ⟨rfl, rfl⟩⟩
-- MAJ 10000: VSUB.f16 with predicate; 10001: VFNMS; 10010: VIMULH.i16; 10011: VSRA 64-bit by a scalar (n 6 + 128)
theorem test_decode_vectors : codes [0b1111010010000000, 0b1111011011110000, 0b1000000101001101] (.vsub ⟨.f16, false, 1, 2, 3, { pred := 3, zero := true, inv := true }⟩) ∧
    codes [0b1000100101001111] (.vfnms ⟨.f32, false, 1, 2, 3, {}⟩) ∧ codes [0b1111010010000000, 0b1001000101001111] (.vimulh ⟨.i16, false, 1, 2, 3, {}⟩) ∧
    codes [0b1111010011100001, 0b1001100101001110] (.vsra ⟨.w64, true, 1, 2, 3, {}⟩) := ⟨⟨rfl, rfl⟩, ⟨rfl, rfl⟩, ⟨rfl, rfl⟩, ⟨rfl, rfl⟩⟩
-- MAJ 10100: VILE.n8 (page 6), KNOT (page 7, n 4); 10101: VCVT.e4m3.f16 has n = 50; 10110: VSCAN.n32 (page 4, n 6), VBCAST (page 7, n 6)
theorem test_decode_predicates : codes [0b1111010110000000, 0b1010000101001111] (.vile ⟨.n8, false, 1, 2, 3, {}⟩) ∧
    codes [0b1111010111000001, 0b1010000101000000] (.knot ⟨1, 2, 0, {}⟩) ∧ codes [0b1111010000001100, 0b1010100101000010] (.vcvt ⟨.e4m3, .f16, 1, 2, {}⟩) ∧
    codes [0b1111010100000001, 0b1011000101000010] (.vscan ⟨.n32, 1, 2, {}⟩) ∧ codes [0b1111010111000001, 0b1011000101001110] (.vbcast ⟨1, 2, .reg 3, {}⟩) :=
  ⟨⟨rfl, rfl⟩, ⟨rfl, rfl⟩, ⟨rfl, rfl⟩, ⟨rfl, rfl⟩, ⟨rfl, rfl⟩⟩
-- MAJ 10111: VLD 16-bit `.rep`; 11000: VST producer side of h2; 11001: VSCADD
theorem test_decode_vector_memory : codes [0b1111010001000000, 0b1111011000000010, 0b1011100101000000] (.vld ⟨.w16, 1, 2, .reg 0, { hint := .rep }⟩) ∧
    codes [0b1100000101000011] (.vstProducer ⟨.w32, 1, 2, .reg 0, {}⟩) ∧ codes [0b1100100101001110] (.vscadd ⟨.w32, 1, 2, 3, {}⟩) :=
  ⟨⟨rfl, rfl⟩, ⟨rfl, rfl⟩, ⟨rfl, rfl⟩⟩
-- MAJ 11010: HSET is operation 4; 11011: MMASD operation 8 with `.w1` under j0; 11100: SENDH operation 5; 11101: VERF operation 8
theorem test_decode_engines : codes [0b1111010000000001, 0b1101000101000000] (.hset 1 2 0 none) ∧
    codes [0b1111010000000010, 0b1111011000001000, 0b1111110001000000, 0b1101100101010000] (.mmasd ⟨1, 2, 4, 1, some ⟨0, true⟩⟩) ∧
    codes [0b1111010000000001, 0b1110000101010001] (.sendh ⟨1, 2, 4, 0, none⟩) ∧ codes [0b1111010000000010, 0b1110100101000000] (.verf ⟨.f32, false, 1, 2, 0, {}⟩) :=
  ⟨⟨rfl, rfl⟩, ⟨rfl, rfl⟩, ⟨rfl, rfl⟩, ⟨rfl, rfl⟩⟩
-- R222: ports in [31:26] and [25:20], repeat count in [19:8], immediate in [7:0]
theorem test_decode_moves : (decodeMove 0b000111_000000_000000000000_00000000, decodeMove 0b011001_000000_000000000000_00000000,
    decodeMove 0b011010_000001_000000000000_00000011, decodeMove 0b011011_000000_000000000000_00000000, decodeMove 0b010010_000001_000000000000_00000010,
    decodeMove 0b010110_100000_000000000111_00000000) = (.rbfetch, .idxfetch, .rowget, .halt, .loop, .out) ∧
    moveFields 0b010110_100000_000000000111_00000000 = ⟨32, 7, 0⟩ := ⟨rfl, rfl⟩
-- R70: the same words with one field that they may not have
theorem test_decode_refuses : decodeWords [0xF6C8, 0x0B4D] = .error 0 ∧ decodeWords [0xF40A, 0x1300] = .error 0 ∧
    decodeWords [0xF400, 0xF401, 0x0B74] = .error 1 ∧ decodeWords [0xF405, 0x0B74] = .error 0 ∧ decodeWords [0xF401, 0x3527] = .error 1 := ⟨rfl, rfl, rfl, rfl, rfl⟩
-- R63: an immediate of kind X is signed: VROTL by -1, HADVP by -1; R67: WIN 01 on a handle-relative VLD
theorem test_decode_signed : codes [0b1111010111000000, 0b1111000111111111, 0b1011000101011101] (.vrotl ⟨1, 2, .imm (-1), {}⟩) ∧
    codes [0b1111000111111111, 0b1101000100011110] (.hadvp ⟨1, .imm (-1), 0, none⟩) ∧
    codes [0b1111100000001000, 0b1011100101000010] (.vldConsumer ⟨.w32, 1, 2, .reg 0, { win := .lin }⟩) := ⟨⟨rfl, rfl⟩, ⟨rfl, rfl⟩, ⟨rfl, rfl⟩⟩
-- R159: a prefix of zeros before FENCE that is not its PFXP; R42, R193, R195: VQ8 with `.rs`; R198: VROTL by 263, found at its PFXI
theorem test_decode_refuses_more : decodeWords [0xF600, 0x4800] = .error 0 ∧ decodeWords [0xF604, 0xF440, 0xA94C] = .error 0 ∧
    decodeWords [0xF5C0, 0xF020, 0xB15D] = .error 1 := ⟨rfl, rfl, rfl⟩

/-! ## Scalar instructions -/

def two (a b : Word) : State := withG [(1, a), (2, b)]
theorem test_ready : (two 7 3).ready [1, 2, 0, 63] ∧ (two 7 3).vecPending (two 7 3).hand.at_ = false := by
  unfold State.ready; decide
theorem test_integers : (let s := two 7 3; let o : AluOps := ⟨false, false, 3, 1, .reg 2⟩
    [Instr.add o, .sub o, .mul o, .mulh o, .and o, .or o, .xor o, .sll o, .srl o, .sra o, .min o, .max o, .div o, .rem o].map
      (fun i => reg 3 (exec i s))) = [10, 4, 21, 0, 3, 7, 4, 56, 0, 0, 3, 7, 2, 1] := by decide
theorem test_integers_signs : (let s := two (-8) 3; let o : AluOps := ⟨false, false, 3, 1, .reg 2⟩; let u : AluOps := ⟨true, false, 3, 1, .imm 3⟩
    ([Instr.mulh o, .sra o, .srl o, .min o, .max o, .div o, .rem o].map (fun i => reg 3 (exec i s)),
     [Instr.mulh u, .min u, .max u, .rem u].map (fun i => reg 3 (exec i s)))) =
    ([-1, -1, 0x1FFFFFFFFFFFFFFF, -8, 3, -2, -2], [2, 3, -8, 2]) := by decide
theorem test_saturation : (let o : AluOps := ⟨false, true, 3, 1, .reg 2⟩; let u : AluOps := ⟨true, true, 3, 1, .reg 2⟩
    (reg 3 (exec (.add o) (two 0x7FFFFFFFFFFFFFFF 1)), reg 3 (exec (.sub o) (two 0x8000000000000000 1)), reg 3 (exec (.add u) (two (-1) 1)),
     reg 3 (exec (.sub u) (two 0 1)), reg 3 (exec (.mul o) (two 0x4000000000000000 (-4))))) =
    (0x7FFFFFFFFFFFFFFF, 0x8000000000000000, -1, 0, 0x8000000000000000) := by decide
-- R39's corners
theorem test_division_corners : (let o : AluOps := ⟨false, false, 3, 1, .reg 2⟩; let u : AluOps := ⟨true, false, 3, 1, .reg 2⟩
    (reg 3 (exec (.div o) (two 9 0)), reg 3 (exec (.rem o) (two 9 0)), reg 3 (exec (.div u) (two 9 0)), reg 3 (exec (.rem u) (two 9 0)),
     reg 3 (exec (.div o) (two 0x8000000000000000 (-1))), reg 3 (exec (.rem o) (two 0x8000000000000000 (-1))))) =
    (-1, 9, -1, 9, 0x8000000000000000, 0) := by decide
theorem test_bits : (let s := two 0x00F0000000000008 0
    [Instr.clz ⟨false, 3, 1⟩, .ctz ⟨false, 3, 1⟩, .popc ⟨false, 3, 1⟩, .clz ⟨false, 3, 2⟩, .ctz ⟨false, 3, 2⟩].map (fun i => reg 3 (exec i s))) =
    [8, 3, 5, 64, 64] := by decide
theorem test_extensions : (let s := two 0xFFFFFFFF80008081 0
    [Instr.ext 8 ⟨false, 3, 1⟩, .ext 8 ⟨true, 3, 1⟩, .ext 16 ⟨false, 3, 1⟩, .ext 32 ⟨true, 3, 1⟩].map (fun i => reg 3 (exec i s))) =
    [0xFFFFFFFFFFFFFF81, 0x81, 0xFFFFFFFFFFFF8081, 0x80008081] := by decide
theorem test_immediates : (let s := two 7 3; let o : ImmOps := ⟨false, 1, 5⟩
    [Instr.addi o, .muli o, .andi o, .ori o, .xori o, .slli o, .srli o, .srai ⟨false, 1, 63⟩, .slli ⟨false, 1, 0⟩, .movi 1 (-2), .movh 1 0xABCDE,
     .addi ⟨true, 1, -8⟩].map (fun i => reg 1 (exec i s))) = [12, 35, 5, 7, 2, 224, 0, 0, 7, -2, 0xABCDE00000000007, -1] := by decide
theorem test_compares : (let s := two (-1) 3
    [Instr.seq 3 1 (.reg 2), .sne 3 1 (.reg 2), .sltI 3 1 (.reg 2), .sltN 3 1 (.reg 2), .sleI 3 1 (.imm (-1)), .sleN 3 1 (.reg 2), .lea 3 1 (.imm 9),
     .sel 3 1 (.reg 2), .adpc 3 (-1)].map (fun i => reg 3 (exec i s))) = [0, 1, 1, 0, 1, 0, 8, 3, 0xFFE] := by decide
theorem test_sel_true : reg 2 (exec (.sel 2 1 (.imm 5)) (two (-1) 3)) = -1 := by decide
-- g0 ignores the write; the rest of the frame
theorem test_write_g0 : next (exec (.movi 0 9) (two 7 3)) (fun t => t.cur.readG 0 == 0 && t.cur.readG 1 == 7 && t.cur.pc == 0x1002) = true := by decide
theorem test_budget : (let c : Nat → Ctx := fun b => { user [] with csr := { budget := b } }
    let f := fun (d : Ctx) => (d.csr.budget, d.flow.bpend)
    (f ((c 3).finishAt 2 0), f ((c 2).finishAt 2 0), f ((c 0).finishAt 2 0), f (({ c 1 with sup := true }).finishAt 2 0))) =
    ((1, false), (0, true), (0, false), (1, false)) := by decide
theorem test_branches : (let s := two (-1) 3; let o : BrOps := ⟨1, 2, -4⟩
    [Instr.beq o, .bne o, .blt o, .bge o, .bltN64 o, .bgeN64 o, .jmp 3, .call 3].map (fun i => match exec i s with | .next t => t.cur.pc | _ => 0)) =
    [0x1002, 0xFF8, 0xFF8, 0x1002, 0x1002, 0xFF8, 0x1006, 0x1006] := by decide
theorem test_call : (reg 63 (exec (.call 3) base), reg 63 (exec (.callr 1) (two 0x2000 0))) = (0x1002, 0x1002) := by decide
theorem test_register_jumps : next (exec (.jr 1) (two 0x2000 0)) (fun t => t.cur.pc == 0x2000) &&
    next (exec (.callr 1) (two 0x2000 0)) (fun t => t.cur.pc == 0x2000) && next (exec .ret (withG [(63, 0x2002)])) (fun t => t.cur.pc == 0x2002) &&
    trapped causeALIGN 0x2001 (exec (.jr 1) (two 0x2001 0)) && trapped causePROT 0x1000000000000 (exec (.jr 1) (two 0x1000000000000 0)) = true := by decide

/-! ## Scalar floating point -/

-- 1.0 and 2.0
theorem test_float_arithmetic : (let s := withG [(1, 0x3F800000), (2, 0x40000000), (3, 0x3F800000)]; let o : FOps := ⟨.f32, .ne, 3, 1, 2⟩
    [Instr.fadd o, .fsub o, .fmul o, .fdiv o, .fma o, .fsqrt ⟨.f32, .ne, 3, 1⟩].map (fun i => reg 3 (exec i s))) =
    [0x40400000, 0xBF800000, 0x40000000, 0x3F000000, 0x40400000, 0x3F800000] := by decide
-- 1/3 is inexact: FFLAGS, or FPE with the flags in TADDR; under `.rs` RNDSEED moves on
theorem test_float_inexact : (let s := withG [(1, 0x3F800000), (2, 0x40400000)]
    next (exec (.fdiv ⟨.f32, .ne, 3, 1, 2⟩) s) (fun t => t.cur.readG 3 == 0x3EAAAAAB && t.cur.csr.fflags == flNX) &&
    next (exec (.fdiv ⟨.f32, .rz, 3, 1, 2⟩) s) (fun t => t.cur.readG 3 == 0x3EAAAAAA) &&
    next (exec (.fdiv ⟨.f32, .rs, 3, 1, 2⟩) s) (fun t => t.cur.csr.rndseed != 0) &&
    trapped causeFPE (BitVec.ofNat 64 flNX) (exec (.fdiv ⟨.f32, .ne, 3, 1, 2⟩) (withC { s.cur with csr := { ftrapen := flNX } }))) = true := by decide
-- −0 orders below +0; a quiet and a signalling NaN
theorem test_float_minmax : (let s := withG [(1, 0x80000000), (2, 0), (4, 0x7FC00000), (5, 0x7F800001)]; let o : FOps := ⟨.f32, .ne, 3, 1, 2⟩
    let n : FOps := ⟨.f32, .ne, 3, 4, 1⟩
    ([Instr.fmin o, .fmax o, .fminn o, .fmaxn o, .fmin n, .fmax n, .fminn n, .fmaxn n].map (fun i => reg 3 (exec i s)),
     next (exec (.fminn ⟨.f32, .ne, 3, 1, 5⟩) s) (fun t => t.cur.csr.fflags == flNV && t.cur.readG 3 == 0x80000000))) =
    ([0x80000000, 0, 0x80000000, 0, 0x7FC00000, 0x7FC00000, 0x80000000, 0x80000000], true) := by decide
theorem test_float_signs : (let s := withG [(1, 0xBC00), (2, 0x8000)]
    (reg 3 (exec (.fneg ⟨.f16, .ne, 3, 1⟩) s), reg 3 (exec (.fabs ⟨.f16, .ne, 3, 1⟩) s), reg 3 (exec (.fsgn ⟨.f16, .ne, 3, 3, 2⟩) s))) =
    (0x3C00, 0x3C00, 0x8000) := by decide
theorem test_float_compares : (let s := withG [(1, 0x80000000), (2, 0), (3, 0x3F800000), (4, 0x7FC00000)]
    let f := fun (b c : Nat) => let o : FOps := ⟨.f32, .ne, 6, b, c⟩; [Instr.feq o, .flt o, .fle o, .fun_ o].map (fun i => reg 6 (exec i s))
    (f 1 2, f 2 3, f 3 4)) = ([1, 0, 1, 0], [0, 1, 1, 0], [0, 0, 0, 1]) := by decide
theorem test_float_invalid : (let s := withG [(1, 0x3F800000), (4, 0x7FC00000)]
    next (exec (.flt ⟨.f32, .ne, 6, 1, 4⟩) s) (fun t => t.cur.csr.fflags == flNV) && next (exec (.feq ⟨.f32, .ne, 6, 1, 4⟩) s) (fun t => t.cur.csr.fflags == 0)) =
    true := by decide
theorem test_rounding : decodeF .f32 0x3F800000 = .fin false 0x800000 (-23) ∧ 0x3F800000 < 2 ^ Fmt.f32.width ∧
    (roundAt .ne false 0 (.rat 5 1 (-1)) 0).1 = 2 ∧ (roundAt .ne false 0 (.rat 7 1 (-1)) 0).1 = 4 := by decide
-- 3; −1.5; 1.0 to binary16 and back; 2^16 saturates to binary16's largest only as infinity without `.sat`
theorem test_conversions : (let s := withG [(1, 3), (2, 0xBFC00000), (3, 0x3C00), (4, 0x3F800000)]
    [Instr.fcvt ⟨.f32, .i64, .ne, false, 6, 1⟩, .fcvt ⟨.i64, .f32, .ne, false, 6, 2⟩, .fcvt ⟨.f32, .f16, .ne, false, 6, 3⟩,
     .fcvt ⟨.f16, .f32, .ne, false, 6, 4⟩].map (fun i => reg 6 (exec i s))) = [0x40400000, -2, 0x3F800000, 0x3C00] ∧
    (cKind .f32, cKind .i64, cKind .f16) = (.fp .f32, .int 64 true, .fp .f16) := by decide

/-! ## Control registers, traps -/

theorem test_csr_reads : (let s := withC { user [] with csr := { fflags := 3, ftrapen := 0, rndseed := 9, deadln := 8, budget := 5, latedrop := true } }
    [0, 1, 2, 3, 4, 5, 6, 7, 8, 9, 10, 11, 12].map (fun n => reg 6 (exec (.csrr n 6) s))) =
    [3, 0, 9, 256, 0, 0, 0, 0, 0x00800100003C0000, 8, 5, 0x50000, 1] := by decide
theorem test_csr_reads_supervisor : (let s := withC { user [] with sup := true, csr := { tcause := 4, taddr := 5, tpc := 6, iwords := 2, taie := true } }
    [0x40, 0x41, 0x42, 0x43, 0x44, 0x45].map (fun n => reg 16 (exec (.csrr n 16) s))) = [0x8000, 4, 5, 6, 0x202, 0x0101010101010101] := by decide
theorem test_csr_hypotheses : csrAssigned 0x45 = true ∧ csrAssigned 0x0C = true ∧ csrAssigned 0x0D = false ∧ base.cur.task = some task ∧
    (base.parcelAt 0).isSome = true ∧ base.cur.sup = false ∧ (sup []).cur.sup = true := by decide
theorem test_csr_writes : (let s := two 0x222 0xFF
    next (exec (.csrw 3 1) s) (fun t => t.cur.csr.vl == 256) && next (exec (.csrw 0 2) s) (fun t => t.cur.csr.fflags == 31) &&
    next (exec (.csrs 9 1) s) (fun t => t.cur.csr.deadln == 0x222) && next (exec (.csrc 3 2) s) (fun t => t.cur.csr.vl == 256) &&
    next (exec (.csrw 4 1) s) (fun t => t.datum == 0) && next (exec (.csrw 12 1) s) (fun t => !t.cur.csr.latedrop)) = true := by decide
theorem test_csr_writes_supervisor : (let s := withC { user [(16, 0x1234567), (17, 0x0102030400000006)] with sup := true }
    next (exec (.csrw 0x40 16) s) (fun t => t.here.kernel.tvec == 0x1234566) && next (exec (.csrw 0x45 17) s) (fun t => t.here.vec.vweight == 0x0102030401010106) &&
    next (exec (.csrw 0x44 16) s) (fun t => t.cur.csr.iwords == 5 && t.cur.csr.taie && t.cur.csr.pmode)) = true := by decide
theorem test_csr_steps : (let s := fun (m : Msg) => msg m (withC { user [] with sup := true })
    next (exec .vl (s (.csr .write 7))) (fun t => t.cur.csr.vl == 7) && next (exec .fflags (s (.csr .setBits 7))) (fun t => t.cur.csr.fflags == 7) &&
    next (exec .tpc (s (.csr .write 7))) (fun t => t.cur.csr.tpc == 6) && next (exec .vweight (s (.csr .clearBits (-1)))) (fun t => t.here.vec.vweight == 0x0101010101010101) &&
    next (exec .budget (s (.csr .write 7))) (fun t => t.cur.csr.budget == 7) && next (exec .deadln (s (.csr .read 7))) (fun t => t.cur.csr.deadln == 0) &&
    next (exec .tflags (s (.csr .write 1))) (fun t => t.cur.csr.latedrop) && next (exec .ftrapen (s (.csr .write 1))) (fun t => t.cur.csr.ftrapen == 1) &&
    next (exec .rndseed (s (.csr .write 1))) (fun t => t.cur.csr.rndseed == 1)) = true := by decide
theorem test_privilege : ([Instr.eret, .tlbinv 1 2, .kmsg 1 2, .vweight, .tpc, .csrr 0x40 1, .csrw 0x45 1, .csrs 0x41 1, .csrc 0x44 1].all
    (fun i => trapped causePRIV 0 (exec i base)) && [Instr.csrr 0x0D 1, .csrw 0x3F 1, .csrs 0x46 1, .csrc 0x46 1].all (fun i => trapped causeILL 0x1000 (exec i base))) =
    true := by decide
-- R71: a register value that R108 or R109 finds illegal traps ILL before PRIV
theorem test_privilege_order : (trapped causeILL 0x1000 (exec (.tlbinv 1 2) (two 0 4)) && trapped causeILL 0x1000 (exec (.kmsg 1 2) (two 64 0))) = true := by
  decide
-- R20: BRK is charged as it traps, and leaves BUDGET pending
theorem test_trap_charged : next (exec (.brk 9) (withC { user [] with csr := { budget := 1 } })) (fun t => t.cur.csr.budget == 0 && t.cur.flow.bpend &&
    t.cur.csr.tcause == causeBRK) = true := by decide
theorem test_trap_entry : next (exec (.trap 9) (withG [(1, 5), (16, 6)])) (fun t => t.cur.csr.tpc == 0x1000 && t.cur.csr.iwords == 1 && !t.cur.csr.pmode &&
    t.cur.csr.taie && !t.cur.aie && t.cur.readG 1 == 0 && t.cur.readG 16 == 6 && t.cur.csr.tcause == 0x0D && t.cur.csr.taddr == 9) = true := by decide
theorem test_trap_instructions : (trapped 0x0A 9 (exec (.brk 9) base) &&
    next (exec (.kcall 9) base) (fun t => t.cur.csr.tpc == 0x1002 && t.cur.csr.taddr == 0x8000000000000009)) = true := by decide
theorem test_trap_return : (let t := base.trap 4 9
    next (exec .eret t) (fun u => u.cur.pc == 0x1000 && !u.cur.sup && u.cur.aie) &&
    next (exec .eret (withC { busy := true, sup := true, csr := { tpc := 8 } })) (fun u => !u.cur.busy && !u.cur.sup) &&
    next (exec .eret (withC { busy := true, sup := true, csr := { tpc := 8, pmode := true } })) (fun u => u.cur.busy && u.cur.sup && u.cur.pc == 8)) = true := by decide

/-! ## Guard slots -/

theorem test_gset : (let s := two 0 3
    next (exec (.gset 2 1) s) (fun t => t.cur.slot 2 == .pending 1 && t.net == [.guardSlotResolution ⟨0, 0, 0⟩ 1 false]) &&
    next (exec (.gsetz 7 1) s) (fun t => t.cur.slot 7 == .pending 1 && t.net == [.guardSlotResolution ⟨0, 0, 0⟩ 1 true])) = true := by decide
def owing : State := withC { user [] with flow := { flights := [⟨.load (.reg 1 8 false), [⟨9, 0, 0, 8, [], false⟩], false, false, [1], [], 0⟩] } }
theorem test_gset_owed : owing.cur.owed 1 = true ∧ next (exec (.gset 2 1) owing) (fun t => t.net == [] &&
    t.cur.flow.flights.all (fun f => f.gsets.any (fun g => g.1 == 1))) = true := by decide
theorem test_slot_resolves : (let c : Ctx := (user []).setSlot 2 (.pending 4)
    next (exec .guardSlotResolution (msg (.guardSlotResolution ⟨0, 0, 0⟩ 4 false) (withC c))) (fun t => t.cur.slot 2 == .no && t.cur.slot 3 == .yes) &&
    next (exec .guardSlotResolution (msg (.guardSlotResolution ⟨0, 0, 0⟩ 3 false) (withC c))) (fun t => t.cur.slot 2 == .pending 4) &&
    next (exec (.gwait 5 2) (withC c)) (fun t => t.cur.pc == 0x1000)) = true := by decide
theorem test_gwait : (reg 5 (exec (.gwait 5 2) base), reg 5 (exec (.gwait 5 2) (withC ((user [(5, 9)]).setSlot 2 .no)))) = (1, 0) := by decide

/-! ## Addresses and order -/

/-- The plat's bytes from 0 are mapped by the TLB, but no region entry names them. -/
def unplaced : State := { withG [(1, 0x50000)] with stations := [(0, { tlb := [⟨5, 0x50000, 65536, 0, true, true, true⟩], kernel := { tvec := 0x8000 } })] }
theorem test_unplaced : unplaced.translate [] 0 5 0x50000 .any = .ok (0, false) ∧ trapped causePLAT 0x50000 (exec (.faddr 3 1 (.reg 0)) unplaced) = true ∧
    trapped causePLAT 0x50000 (exec (.homeof 3 1 (.reg 0)) unplaced) = true := ⟨rfl, by decide, by decide⟩
theorem test_tlbinv : (let s := fun (g : Map Word) => withC { user g with sup := true, files := { g := g, bank := g } }
    next (exec (.tlbinv 1 2) (s [(1, 0x1FFFF), (2, 0)])) (fun t => t.here.tlb.map (fun e => e.va) == [0x20000, 0x30000]) &&
    next (exec (.tlbinv 1 2) (s [(2, 0x50001)])) (fun t => t.here.tlb == []) && next (exec (.tlbinv 1 2) (s [(2, 0x60001)])) (fun t => t.here.tlb.length == 3) &&
    next (exec (.tlbinv 1 2) (s [(2, 2)])) (fun t => t.here.tlb == []) && next (exec (.tlbinv 1 2) (s [(2, 0x60003)])) (fun t => t.here.tlb == []) &&
    trapped causeILL 0x1000 (exec (.tlbinv 1 2) (s [(2, 4)]))) = true := by decide

/-- Parcel 5's level-1 table at stash 0, byte 0x4000; a level-1 leaf, and a level-2 and a level-3 table, for the first three entries. -/
def walked : State :=
  let a := stashFa 0 0 0x4000
  (({ base with tables := { parcels := [⟨5, 1, 0, 15, 15, 0, .steady, [], a, 0⟩] } }.setBytes a
    (bytesOf 8 (vaultFa 0 0 + 0x1F) ++ bytesOf 8 (stashFa 0 0 0x5000 + 1) ++ bytesOf 8 0)).setBytes (stashFa 0 0 0x5000)
    (bytesOf 8 (stashFa 0 0 0x6000 + 1))).setBytes (stashFa 0 0 0x6000) (bytesOf 8 (stashFa 0 0 0 + 7))
theorem test_level1 : walked.level1 0 5 = some (stashFa 0 0 0x4000) := by decide
theorem test_walk : walked.walk [] 0 5 0x12345 = .ok ⟨vaultFa 0 0, 2 ^ 30, true, true, true⟩ ∧
    walked.walk [] 0 5 (2 ^ 30 + 0x123) = .ok ⟨stashFa 0 0 0, 2 ^ 16, true, false, false⟩ ∧ walked.walk [] 0 5 (2 ^ 31) = .bad causePAGE (2 ^ 31) := by decide
theorem test_translate : walked.translate [] 0 5 (2 ^ 30 + 0x123) .r = .ok (stashFa 0 0 0x123, true) ∧
    walked.translate [] 0 5 (2 ^ 30 + 0x123) .w = .bad causePROT (2 ^ 30 + 0x123) ∧ walked.translate [] 0 5 (2 ^ 48) .r = .bad causePROT (2 ^ 48) ∧
    walked.translate [] 0 5 (2 ^ 48 - 1) .r = .bad causePAGE (2 ^ 48 - 1) := by decide
theorem test_page_walk : next (exec .pageWalk (msg (.pageWalk 0 5 (2 ^ 30 + 0x123)) walked)) (fun t =>
    decide (t.translate [] 0 5 (2 ^ 30 + 0xFFFF) .any = .ok (stashFa 0 0 0xFFFF, false))) = true := by decide

-- a page of a station of the parcel, one that no mapping covers, and generation 0, cube 0, parcel 5, station 1
theorem test_addresses : (let s := { walked with ctxs := [(0, user [(1, 0x20040), (2, 0x80000000)])] }
    (reg 3 (exec (.faddr 3 1 (.imm 8)) s) == BitVec.ofNat 64 (stashFa 0 1 0x48)) && (reg 3 (exec (.homeof 3 1 (.reg 0)) s) == 0x50001) &&
    trapped causePAGE 0x80000000 (exec (.faddr 3 2 (.reg 0)) s) && trapped causePAGE 0x80000000 (exec (.homeof 3 2 (.reg 0)) s)) = true := by decide
theorem test_address_results : base.translate [] 0 5 0x20048 .any = .ok (stashFa 0 1 0x48, false) ∧
    base.place (stashFa 0 1 0x48) = .ok ⟨0, 1, true, stashFa 0 1 0x48, 5⟩ ∧ walked.translate [] 0 5 0x80000000 .any = .bad causePAGE 0x80000000 ∧
    platResolve base.tables 0 = none ∧ base.place 0 = .error causePLAT ∧ base.curTag = 5 := ⟨rfl, rfl, rfl, rfl, rfl, rfl⟩
theorem test_fences : (let quiet := base; let busy := withC { user [] with flow := { c1 := 1 } }
    [Instr.nop, .fence, .cwait 7 0, .cwait 0 3].all (fun i => next (exec i quiet) (fun t => t.cur.pc == 0x1002)) &&
    [Instr.fence, .cwait 1 0, .cwait 6 1, .fenceAlias].all (fun i => next (exec i busy) (fun t => t.cur.pc == 0x1000)) &&
    next (exec (.cwait 6 0) busy) (fun t => t.cur.pc == 0x1002) && trapped causeILL 0x1000 (exec (.cwait 8 0) base)) = true := by decide
-- its three phases (R142): the station's dirty words leave; the homes are emptied; the leases pass
theorem test_fence_alias : (let s := fun (f d : Nat) => { withC { user [] with flow := { fence := some f } } with datum := d }
    next (exec .fenceAlias base) (fun t => t.cur.pc == 0x1000 && t.cur.flow.fence == some 0) &&
    next (exec .fenceAlias (s 0 7)) (fun t => t.cur.pc == 0x1000 && t.cur.flow.fence == some 1 && t.cur.flow.fenceOn == []) &&
    next (exec .fenceAlias { s 0 7 with stations := [(0, { home := { leasemax := [(9, 50)] } })] }) (fun t => t.cur.flow.fence == some 51) &&
    next (exec .fenceAlias (s 5 5)) (fun t => t.cur.pc == 0x1002 && t.cur.flow.fence == none) && next (exec .fenceAlias (s 5 4)) (fun t => t.cur.pc == 0x1000)) =
    true := by decide
theorem test_fence_alias_quiet : base.guardsOut = false ∧ base.domainCubes 0 = [] := by decide
theorem test_ranges : (let s := withG [(1, 0x100), (2, 2 ^ 38), (3, 1)]
    [Instr.flushr ⟨1, .imm 0, .va, 0⟩, .invr ⟨1, .imm 64, .lin, 0⟩, .flushr ⟨1, .imm 1, .lin, 0⟩].all (fun i => next (exec i s) (fun t => t.cur.pc == 0x1002)) &&
    trapped causePROT (2 ^ 38) (exec (.invr ⟨2, .reg 3, .lin, 0⟩) s) && trapped causePRIV 0 (exec (.flushr ⟨1, .reg 3, .fa, 0⟩) s) &&
    next (exec (.flushr ⟨16, .imm 64, .fa, 0⟩) (sup [(16, BitVec.ofNat 64 (vaultFa 0 0))])) (fun t => t.cur.pc == 0x1002)) = true := by decide
theorem test_smap : (let s := fun (st va len : Word) => withG [(1, st), (2, va), (3, len)]
    next (exec (.smap 1 2 3 0) (s 0x1000 0x30000 128)) (fun t => t.here.slice.windows.map (fun w => (w.va, w.len, w.stash)) == [(0x30000, 128, 0x1000)]) &&
    trapped causeALIGN 0x1001 (exec (.smap 1 2 3 0) (s 0x1001 0x30001 0)) && trapped causeALIGN 0x30001 (exec (.smap 1 2 3 0) (s 0x1000 0x30001 0)) &&
    trapped causeALIGN 0 (exec (.smap 1 2 3 0) (s 0x1000 0x30000 0)) && trapped causePROT 0x30000 (exec (.smap 1 2 3 0) (s 0x3BFFC0 0x30000 128))) = true := by decide
theorem test_smap_pages : (match (withG [(1, 0x1000), (2, 0x30000), (3, 128)]).rangeMap [] 0 5 2 0x30000 128 with | .ok _ => true | _ => false) = true := by decide
/-- A window over 0x30000. -/
def windowed : State := match exec (.smap 1 2 3 0) (withG [(1, 0x1000), (2, 0x30000), (3, 128)]) with | .next t => t | _ => base
theorem test_sunmap : (next (exec (.sunmap 2 0) windowed) (fun t => t.here.slice.windows == [] && t.cur.pc == 0x1004) &&
    next (exec (.sunmap 1 0) windowed) (fun t => t.here.slice.windows.length == 1 && t.cur.pc == 0x1004)) = true := by decide

/-! ## Loads and stores -/

/-- Sixteen bytes 81, 82 ... 90 in the stash of station 0. -/
def filled : State := (withG [(1, 0x10040), (2, 0x1122334455667788), (3, 0x99AABBCCDDEEFF00)]).setBytes (stashFa 0 0 0x40)
  (bytesOf 16 0x908F8E8D8C8B8A898887868584838281)
def here_ : Exec.Part := ⟨stashFa 0 0 0x40, 0x10040, 8, ⟨0, 0, true, stashFa 0 0 0x40, 5⟩⟩
def plainLd : LdOps := ⟨4, 1, .reg 0, {}⟩
theorem test_load_meets : filled.mayAccess [1] .va 0 ∧ filled.untouched here_.fa ∧ filled.cleanAt here_.fa ∧ filled.allPerformed := by
  unfold State.mayAccess State.ready State.untouched State.cleanAt State.cleanFor State.allPerformed; decide
theorem test_in_turn : filled.inTurn here_ := ⟨by unfold State.untouched; decide, fun _ f h => by
  have e : filled.cur.flow.flights = [] := by decide
  rw [e] at h
  cases h⟩
theorem test_load_finds : filled.look 0 here_.pl here_.fa = .have_ 0x908F8E8D8C8B8A898887868584838281 false ∧
    Exec.access .va .r false (filled.cur.ea 1 (.reg 0) 8).toNat 8 filled = .ok [here_] filled := ⟨by decide, rfl⟩
theorem test_loads : [Instr.ldN8 plainLd, .ldN16 plainLd, .ldN32 plainLd, .ld plainLd, .ldI8 plainLd, .ldI16 plainLd, .ldI32 plainLd].map
    (fun i => reg 4 (exec i filled)) = [0x81, 0x8281, 0x84838281, 0x8887868584838281, 0xFFFFFFFFFFFFFF81, 0xFFFFFFFFFFFF8281, 0xFFFFFFFF84838281] := by decide
theorem test_load_pair : (reg 4 (exec (.ldp plainLd) filled), reg 5 (exec (.ldp plainLd) filled)) = (0x8887868584838281, 0x908F8E8D8C8B8A89) := by decide
theorem test_access_checks : (let s := withG [(1, 0x10041), (2, 0x10042)]; let o : LdOps := ⟨4, 1, .reg 0, { order := .sg }⟩; let f : LdOps := ⟨4, 1, .reg 0, { win := .fa }⟩
    let p : LdOps := ⟨4, 1, .reg 0, {}⟩; let x : AtomOps := ⟨false, 4, 2, 6, {}⟩; let w : WaitOps := ⟨4, 1, 3, {}⟩
    [Instr.ldN16 o, .ld o, .stp o, .ldw p, .ldwe p, .stw p, .stf p, .feclr p, .waitEq w, .waitLt w].all (fun i => trapped causeALIGN 0x10041 (exec i s)) &&
    [Instr.aadd x, .acas x, .aaddt x, .afaddF32 ⟨true, 4, 2, 6, {}⟩].all (fun i => trapped causeALIGN 0x10042 (exec i s)) &&
    [Instr.ldN8 f, .st f, .ldw f, .aswap ⟨false, 4, 2, 6, { win := .fa }⟩, .waitGe ⟨4, 1, 3, { win := .fa }⟩].all (fun i => trapped causePRIV 0 (exec i s))) = true := by
  decide
theorem test_access_checks_meet : (withG [(1, 0x10041), (2, 0x10042)]).mayAccess [4, 5, 1] .va 0 ∧ (withG []).ready [4, 5, 6, 7] := by
  unfold State.mayAccess State.ready; decide

/-- Another station's stash, and its vault. -/
def far : State := withG [(1, 0x20040), (2, 0x1122334455667788), (3, 0x30040), (16, 3)]
def there : Exec.Part := ⟨stashFa 0 1 0x40, 0x20040, 8, ⟨0, 1, true, stashFa 0 1 0x40, 5⟩⟩
def thereDram : Exec.Part := ⟨vaultFa 0 (2 ^ 32 + 0x40), 0x30040, 8, ⟨0, 1, false, vaultFa 0 (2 ^ 32 + 0x40), 5⟩⟩
theorem test_far_meets : far.mayAccess [1] .va 0 ∧ far.untouched there.fa ∧ far.cleanAt there.fa ∧ far.untouched thereDram.fa ∧ far.allPerformed ∧
    far.counts.id ≠ 0 := by
  unfold State.mayAccess State.ready State.untouched State.cleanAt State.cleanFor State.allPerformed; decide
theorem test_far_in_turn : far.inTurn there ∧ far.inTurn thereDram := by
  have e : far.cur.flow.flights = [] := by decide
  refine ⟨⟨by unfold State.untouched; decide, ?_⟩, ⟨by unfold State.untouched; decide, ?_⟩⟩ <;> intro _ f h <;> rw [e] at h <;> cases h
theorem test_far_asks : far.look 0 there.pl there.fa = .fetch ∧ Exec.access .va .r false (far.cur.ea 1 (.reg 0) 8).toNat 8 far = .ok [there] far ∧
    Exec.access .va .r true (far.cur.ea 1 (.reg 0) 8).toNat 8 far = .ok [there] far ∧ far.isLocal 0 there.pl = false ∧
    Exec.access .va .w false (far.cur.ea 3 (.reg 0) 8).toNat 8 far = .ok [thereDram] far := ⟨by decide, rfl, rfl, by decide, rfl⟩
theorem test_load_in_flight : (next (exec (.ld plainLd) far) (fun t => t.cur.owed 4 && t.cur.pc == 0x1002 && (t.net.any (fun m => match m with
      | .readRequest r => r.fa ≤ there.fa && there.fa + 8 ≤ r.fa + r.bytes && r.order == 0 | _ => false))) &&
    next (exec (.ldp ⟨4, 1, .reg 0, { order := .acq, scope := .dom }⟩) far) (fun t => t.cur.owed 5 && (t.net.any (fun m => match m with
      | .readRequest r => r.order == 2 && r.bytes == 16 | _ => false)))) = true := by decide
/-- The load above, in flight as request 9. -/
def awaits : State := withC { user [] with flow := { flights := [⟨.load (.reg 4 8 false), [⟨9, stashFa 0 1 0x40, 0x20040, 8, [], false⟩], false, false, [4], [], 0⟩] } }
def reply (ps : List Nat) : ReadRep :=
  ⟨⟨9, .task ⟨0, 0, 0⟩ 7, 0, .reg 4 8 false, stashFa 0 1 0x40, 0x20040, 8, 0, 0, 0, 5, 0⟩, 0, [1, 2, 3, 4, 5, 6, 7, 8], ps, none⟩
theorem test_reply : (next (exec .readReply (msg (.readReply (reply [])) awaits)) (fun t => t.cur.readG 4 == 0x0807060504030201 && !t.cur.owed 4 && t.cur.flow.flights.isEmpty) &&
    next (exec .readReply (msg (.readReply (reply [bwOf (stashFa 0 1 0x40)])) awaits)) (fun t => t.cur.flow.ppend == some 0x20040 && !t.cur.owed 4)) = true := by decide

def stOps : LdOps := ⟨2, 1, .reg 0, {}⟩
theorem test_store_meets : filled.mayAccess [2, 3, 1] .va 0 ∧ filled.isLocal 0 here_.pl = true ∧ filled.unbuilt here_.fa here_.pl.canon = false ∧
    filled.blockedAt 0 here_.fa 8 = false ∧ filled.here.slice.find 5 (regionOf here_.fa) (ixOf here_.fa) = none := by
  unfold State.mayAccess State.ready; decide
theorem test_stores : [Instr.stN8 stOps, .stN16 stOps, .stN32 stOps, .st stOps, .stp stOps].map (fun i => match exec i filled with
    | .next t => (natOf (t.bytes (stashFa 0 0 0x40) 16), t.cur.pc) | _ => (0, 0)) =
    [(0x908F8E8D8C8B8A898887868584838288, 0x1002), (0x908F8E8D8C8B8A898887868584837788, 0x1002), (0x908F8E8D8C8B8A898887868555667788, 0x1002),
     (0x908F8E8D8C8B8A891122334455667788, 0x1002), (0x99AABBCCDDEEFF001122334455667788, 0x1002)] := by decide
theorem test_store_poisoned : (let s := { filled with poison := [((stashFa 0 0 0x40) / 16, true)] }
    trapped causePOISON 0x10040 (exec (.st stOps) s) && next (exec (.stp stOps) s) (fun t => t.poison == [])) = true := by decide
theorem test_store_sent : next (exec (.st stOps) far) (fun t => t.cur.flow.c1 == 1 && t.cur.flow.c2 == 0 && (t.net.any (fun m => match m with
    | .write w => w.fa == there.fa && w.data == [0x88, 0x77, 0x66, 0x55, 0x44, 0x33, 0x22, 0x11] && w.order == 0 | _ => false))) = true := by decide
/-- Station 0 holds a copy of the chunk of vault 1. -/
def copied : State := { far with stations := [(0, { boot := .released, tlb := tlb, slice := { blocks := [⟨false, regionOf thereDram.fa, 5, [⟨ixOf thereDram.fa, 0, false, false, 100, false⟩]⟩] } }),
  (1, { boot := .released })] }
theorem test_store_copied : copied.leaseFor thereDram.pl thereDram.fa .none ≠ 0 ∧ (next (exec (.st ⟨2, 3, .reg 0, {}⟩) copied) (fun t => t.net == [] &&
    (match t.here.slice.find 5 (regionOf thereDram.fa) (ixOf thereDram.fa) with | some (false, y) => y.dirty && y.data == 0x1122334455667788 | _ => false) &&
    t.here.slice.sigacc == sigOf (chunkOf thereDram.fa))) = true := by decide
theorem test_store_strong : next (exec (.st ⟨2, 1, .reg 0, { order := .rel, scope := .dom }⟩) far) (fun t => t.here.slice.relseq == 1 && t.cur.flow.flights.length == 1 &&
    (t.net.any (fun m => match m with | .write w => w.order == 2 && w.scope == 3 && w.relseq == 1 && w.counter == 1 | _ => false))) = true := by decide

/-! ## Homes -/

def rdReq (fa n : Nat) : ReadReq := ⟨9, .task ⟨0, 0, 0⟩ 7, 0, .reg 4 8 false, fa, 0, n, 0, 0, 1, 5, 0⟩
def wrReq (fa : Nat) (bs : List Byte) : WriteReq := ⟨9, .task ⟨0, 0, 0⟩ 7, 0, fa, 0, bs, [], 0, 0, 1, 0, 0, 5⟩
theorem test_homed : filled.homedAt here_.fa here_.pl ∧ filled.built here_.pl here_.fa 8 := by
  refine ⟨⟨rfl, rfl⟩, ?_⟩
  intro k hk
  have h : (here_.fa % 16 + 8 + 15) / 16 = 1 := by decide
  have : k = 0 := by rw [h] at hk; omega
  subst this
  decide
theorem test_home_read : next (exec .readRequest (msg (.readRequest (rdReq here_.fa 8)) filled)) (fun t => t.net ==
    [.readReply ⟨rdReq here_.fa 8, 0, [0x81, 0x82, 0x83, 0x84, 0x85, 0x86, 0x87, 0x88], [], none⟩]) = true := by decide
-- DRAM is leased: 2,000 ticks by default (R134)
theorem test_home_lease : next (exec .readRequest (msg (.readRequest (rdReq thereDram.fa 8)) filled)) (fun t => t.leaseMax 1 thereDram.fa == 2000) = true := by decide
theorem test_home_write : (filled.blockedAt 0 here_.fa 2 = false) ∧ next (exec .write (msg (.write (wrReq here_.fa [1, 2])) filled)) (fun t =>
    natOf (t.bytes here_.fa 4) == 0x84830201 && t.net == [.writeAcknowledgement (wrReq here_.fa [1, 2])]) = true := by decide
/-- A lease on the chunk of vault 1 runs until datum 50. -/
def leased : State := { far with stations := [(0, { tlb := tlb }), (1, { home := { leasemax := [(chunkOf thereDram.fa, 50)] } })] }
theorem test_home_held : leased.blockedAt 1 thereDram.fa 2 = true ∧ next (exec .write (msg (.write (wrReq thereDram.fa [1, 2])) leased)) (fun t =>
    t.net == [] && (t.stn 1).home.held == [(chunkOf thereDram.fa, .write (wrReq thereDram.fa [1, 2]))] && t.byte thereDram.fa == 0) = true := by decide
theorem test_acknowledged : next (exec .writeAcknowledgement (msg (.writeAcknowledgement (wrReq there.fa [1])) (withC { user [] with flow := { c1 := 2, c2 := 3 } })))
    (fun t => t.cur.flow.c1 == 1 && t.cur.flow.c2 == 3) = true := by decide

/-! ## Synchronisation -/

def atomOps : AtomOps := ⟨false, 4, 1, 2, {}⟩
theorem test_atomic_meets : far.mayAccess [4, 1, 2, 3] .va 0 ∧ (∀ r, far.cur.task = some r → r.body.obitctr = 0 ∨ far.cur.sup = true) ∧
    far.cur.flow.flights.any Flight.strongStore = false := by
  refine ⟨by unfold State.mayAccess State.ready; decide, fun r h => Or.inl ?_, by decide⟩
  injection h with h
  subst h
  rfl
theorem test_atomic_access : Exec.access .va .rw true (far.cur.readG 1).toNat 8 far = .ok [there] far ∧
    Exec.access .va .rw true (filled.cur.readG 1).toNat 8 filled = .ok [here_] filled := ⟨rfl, rfl⟩
theorem test_atomics_ask : ([Instr.aadd atomOps, .aand atomOps, .aor atomOps, .axor atomOps, .aminI atomOps, .aminN atomOps, .amaxI atomOps, .amaxN atomOps,
    .aswap atomOps, .acas atomOps, .aaddt atomOps, .afaddF32 { atomOps with w32 := true }, .afmaxnF32 { atomOps with w32 := true }].map (fun i => match exec i far with
    | .next t => (match t.net with | [.atomic a] => if t.cur.owed 4 && a.fa == there.fa && a.dest == 4 then a.op else 99 | _ => 98) | _ => 97)) =
    [0, 1, 2, 3, 4, 5, 6, 7, 8, 9, 10, 11, 12] := by decide
theorem test_atomic_posted : (next (exec (.aadd ⟨false, 0, 1, 2, {}⟩) far) (fun t => t.cur.flow.c1 == 1 && t.cur.pc == 0x1002) &&
    next (exec (.aadd ⟨false, 0, 1, 2, {}⟩) filled) (fun t => t.cur.flow.c1 == 0 && t.cur.pc == 0x1000 && t.cur.flow.waitOn.isSome)) = true := by decide
def atomReq (op : Nat) (w32 : Bool) (operand extra : Nat) : AtomReq := ⟨9, .task ⟨0, 0, 0⟩ 7, 0, here_.fa, 0x10040, op, w32, operand, extra, 0, 0, 4, 0, 0, 0, 5⟩
/-- The word 0xFFFFFFFF00000003 at the same place. -/
def atomic : State := base.setBytes here_.fa (bytesOf 8 0xFFFFFFFF00000003)
theorem test_atomics : ((List.range 11).map (fun op => match exec .atomic (msg (.atomic (atomReq op false 5 0xFFFFFFFF00000003)) atomic) with
    | .next t => natOf (t.bytes here_.fa 8) | _ => 0)) =
    [0xFFFFFFFF00000008, 1, 0xFFFFFFFF00000007, 0xFFFFFFFF00000006, 0xFFFFFFFF00000003, 5, 5, 0xFFFFFFFF00000003, 5, 5, 0xFFFFFFFF00000008] := by decide
-- 1.0 + 2.0 in the low word; maximum-number of 1.0 and 2.0; a compare that fails; poison
theorem test_atomics_float : (let s := base.setBytes here_.fa (bytesOf 8 0x3F800000)
    let f := fun (a : AtomReq) (u : State) => match exec .atomic (msg (.atomic a) u) with | .next t => (natOf (t.bytes here_.fa 8), t.net) | _ => (0, [])
    (f (atomReq 11 true 0x40000000 0) s).1 == 0x40400000 && (f (atomReq 12 true 0x40000000 0) s).1 == 0x40000000 && (f (atomReq 9 false 5 4) atomic).1 == 0xFFFFFFFF00000003 &&
    f (atomReq 0 false 5 0) { atomic with poison := [(here_.fa / 16, true)] } == (0xFFFFFFFF00000003, [.atomicReply ⟨atomReq 0 false 5 0, 0, 0, true, none⟩])) = true := by decide
def atomFlight : State := withC { user [] with flow := { flights := [⟨.atomic (some 4) 0, [⟨9, here_.fa, 0x10040, 8, [], false⟩], true, false, [4], [], 0⟩] } }
theorem test_atomic_reply : (next (exec .atomicReply (msg (.atomicReply ⟨atomReq 4 true 5 0, 0xFFFFFFF0, 0, false, none⟩) atomFlight)) (fun t => t.cur.readG 4 == -16 && t.cur.flow.flights.isEmpty) &&
    next (exec .atomicReply (msg (.atomicReply ⟨atomReq 11 true 5 0, 0xFFFFFFF0, flNX, false, none⟩) atomFlight)) (fun t => t.cur.readG 4 == 0xFFFFFFF0 && t.cur.csr.fflags == flNX) &&
    next (exec .atomicReply (msg (.atomicReply ⟨atomReq 16 false 5 0, 77, 0, false, none⟩) (withC { user [] with flow := { waitOn := some 9, waitWords := 2 } })))
      (fun t => t.cur.readG 4 == 77 && t.cur.pc == 0x1004 && t.cur.flow.waitOn == none) &&
    next (exec .atomicReply (msg (.atomicReply ⟨atomReq 16 false 5 0, 77, 0, true, none⟩) (withC { user [] with flow := { waitOn := some 9, waitWords := 2 } })))
      (fun t => t.cur.csr.tcause == causePOISON && t.cur.csr.tpc == 0x1000)) = true := by decide

theorem test_full_empty_ask : ([Instr.ldw plainLd, .ldwe plainLd, .stw plainLd, .stf plainLd, .feclr { plainLd with a := 0 }].map (fun i => match exec i filled with
    | .next t => (match t.net with | [.atomic a] => if t.cur.flow.waitOn == some a.id && t.cur.pc == 0x1000 then a.op else 99 | _ => 98) | _ => 97)) = [16, 17, 18, 19, 20] ∧
    trapped causePROT 0x30040 (exec (.ldw ⟨4, 3, .reg 0, {}⟩) far) = true := by decide
-- on an empty word, then on a full one: LDW, LDWE, STW, STF, FECLR; whether it acts, and whether the word is then full
theorem test_full_empty : (let f := fun (full : Bool) => (List.range 5).map (fun n => match exec .atomic (msg (.atomic (atomReq (16 + n) false 5 0))
      (if full then { atomic with full := [(here_.fa / 8, true)] } else atomic)) with
      | .next t => (decide (t.net ≠ []), t.full.has (here_.fa / 8), (t.stn 0).home.feHeld.length) | _ => (false, false, 9))
    (f false, f true)) = ([(false, false, 1), (false, false, 1), (true, true, 0), (true, true, 0), (true, false, 0)],
      [(true, true, 0), (true, false, 0), (false, true, 1), (true, true, 0), (true, false, 0)]) := by decide
theorem test_full_empty_cancel : (let s := { (withC { user [] with flow := { waitOn := some 9 } }) with stations := [(0, { home := { feHeld := [(here_.fa, .atomic (atomReq 16 false 0 0))] } })] }
    next (exec .fullEmptyCancel (msg (.fullEmptyCancel ⟨0, 0, 0⟩) s)) (fun t => t.cur.flow.waitOn == none && (t.stn 0).home.feHeld == [] && t.cur.pc == 0x1000)) = true := by decide
-- R155 over the fabric: cube 3's held request is cancelled here, and one that this cube sent is cancelled there
theorem test_full_empty_cancel_away : (let far : Src := .packet ⟨3, 0, 0, 0, 0, 1, 1, here_.fa, false⟩
    let q : AtomReq := { atomReq 16 false 0 0 with src := far }
    let body := fun (b : Body) (m : Msg) => match m with | .packetRouting p => p.body == b | _ => false
    let s := { (withC (user [])) with stations := [(0, { home := { feHeld := [(here_.fa, .atomic q)] } })] }
    let w := withC { user [] with flow := { waitOn := some 9 } }
    let mine : AtomReq := { atomReq 16 false 0 0 with id := 9, src := .task ⟨0, 0, 0⟩ 1 }
    let h : Hdr := { typ := 5, cls := 0, dnode := 0, snode := 3, dstn := 0, sstn := 1, len := 64 }
    let out := { w with e2e := { pairs := [⟨0, 0, 3, 1, 0, 1, [{ seq := 1, pkt := ⟨h, .fe mine⟩, msg := .atomic mine }], [], false⟩] } }
    next (exec .fullEmptyCancel (msg (.feCancel q) s)) (fun t => (t.stn 0).home.feHeld == [] && t.net.any (body .cancelled)) &&
    next (exec .fullEmptyCancel (msg (.fullEmptyCancel ⟨0, 0, 0⟩) out)) (fun t => t.net.any (body (.cancel mine)) && t.cur.flow.waitOn == some 9) &&
    (out.answerTo h .cancelled (.atomic mine)).cur.flow.waitOn == none) = true := by decide +kernel

theorem test_wait_asks : ([Instr.waitEq ⟨4, 1, 2, {}⟩, .waitNe ⟨4, 1, 2, {}⟩, .waitGe ⟨4, 1, 2, {}⟩, .waitLt ⟨4, 1, 2, {}⟩, .join 4 1 (.imm 3)].map (fun i => match exec i far with
    | .next t => (match t.net with | [.waitArm w] => if t.cur.flow.waitOn.isSome && w.fa == there.fa && w.dest == 4 then some w.cond else none | _ => none) | _ => none)) =
    [some .eq, some .ne, some .ge, some .lt, some .join] := by decide
def waitReg (c : WaitCond) (v : Word) : WaitReg := ⟨c, here_.fa, 0x10040, v, .task ⟨0, 0, 0⟩ 7, 7, 0, 4, 1, 2, 3, 5⟩
theorem test_wait_arms : (let s := base.setBytes here_.fa (bytesOf 8 6)
    let wakes := fun (c : WaitCond) (v : Word) => match exec .waitArm (msg (.waitArm (waitReg c v)) s) with
      | .next t => if t.net == [.wake ⟨waitReg c v, 6, false, none⟩] then some true
        else if t.net == [] && (t.stn 0).home.waiters == [waitReg c v] && t.cur.flow.susp == some (.park .again false) then some false else none
      | _ => none
    ([wakes .eq 6, wakes .ne 5, wakes .ge 6, wakes .lt 7, wakes .join 6, wakes .cpwait 2], [wakes .eq 5, wakes .ne 6, wakes .ge 7, wakes .lt 6, wakes .join 7, wakes .cpwait 8])) =
    ([some true, some true, some true, some true, some true, some true], [some false, some false, some false, some false, some false, some false]) := by decide
theorem test_wait_poisoned : next (exec .waitArm (msg (.waitArm (waitReg .eq 0)) { base with poison := [(here_.fa / 16, true)] })) (fun t => t.net == [.wake ⟨waitReg .eq 0, 0, true, none⟩]) =
    true := by decide
theorem test_wake : (let s := withC { user [] with flow := { waitOn := some 3, waitWords := 2 } }
    next (exec .wake (msg (.wake ⟨waitReg .eq 6, 6, false, none⟩) s)) (fun t => t.cur.readG 4 == 6 && t.cur.pc == 0x1004 && t.cur.flow.waitOn == none) &&
    next (exec .wake (msg (.wake ⟨waitReg .join 6, 0x8000000000000006, false, none⟩) s)) (fun t => t.cur.readG 4 == 6) &&
    next (exec .wake (msg (.wake ⟨waitReg .join 6, 6, false, none⟩) s)) (fun t => t.cur.readG 4 == 0) &&
    next (exec .wake (msg (.wake ⟨waitReg .eq 6, 6, true, none⟩) s)) (fun t => t.cur.csr.tcause == causePOISON && t.cur.csr.taddr == 0x10040 && t.cur.csr.tpc == 0x1000)) =
    true := by decide
theorem test_wait_hypotheses : base.foreignWitnesses 0 here_.fa 8 0 0 = [] ∧ base.chunkHeld 0 here_.fa = false ∧ base.copyingAt here_.fa = false ∧ (withC { user [] with flow := { waitOn := some 3 } }).whereIs 7 = some ⟨0, 0, 0⟩ := by decide

/-! ## Coherence -/

def wb : WbMsg := ⟨thereDram.fa, 0x55, false, 0, 3, 5, .cube⟩
theorem test_write_back : (let s := { copied with stations := [(0, { slice := { wbOut := [(3, bwOf thereDram.fa), (4, 0)] } })] }
    next (exec .writeBack (msg (.writeBack wb) s)) (fun t => t.homeWord thereDram.pl thereDram.fa == (0x55, false) && (t.stn 0).slice.wbOut == [(4, 0)]) &&
    next (exec .writeBack (msg (.writeBack wb) { leased with stations := [(1, { home := { held := [(chunkOf thereDram.fa, .writeBack wb)] } })] }))
      (fun t => (t.stn 1).home.held.length == 2)) = true := by decide
theorem test_write_back_hypotheses : copied.homedAt wb.fa thereDram.pl := ⟨rfl, rfl⟩
theorem test_write_back_held : copied.chunkHeld 1 wb.fa = false ∧
    State.chunkHeld { leased with stations := [(1, { home := { held := [(chunkOf thereDram.fa, .writeBack wb)] } })] } 1 wb.fa = true := by decide
def dirtied : State := { far with stations := [(0, { slice := { sigacc := 1, blocks := [⟨false, regionOf thereDram.fa, 5, [⟨ixOf thereDram.fa, 9, true, false, 100, false⟩]⟩] } })] }
theorem test_publication : (next (exec .publicationDemand (msg (.publicationDemand ⟨0, 0, 1, .witness 0⟩) dirtied)) (fun t => (t.stn 0).slice.sigacc == 0 &&
      (t.stn 0).slice.dirtyWords == [] && (t.net.any (fun m => match m with | .writeBack w => w.fa == thereDram.fa && w.data == 9 | _ => false)) && (t.stn 0).slice.wbOut.length == 1) &&
    next (exec .publicationDemand (msg (.publicationDemand ⟨0, 0, 1, .witness 0⟩) far)) (fun t => t.net == [.publicationComplete ⟨0, 0, 1, .witness 0⟩ 0])) = true := by decide
def command : CmdMsg := ⟨⟨1, false, 5, 2, [0, 0, 0, 0, 0], 0, 0⟩, 0, 0, 0, .task ⟨0, 0, 0⟩ 7, 7, none⟩
theorem test_publication_complete : next (exec .publicationComplete (msg (.publicationComplete ⟨0, 0, 0, .command command⟩ 5) far))
    (fun t => t.net == [.engineCommand { command with sig := some 5 }]) = true := by decide
theorem test_held_release : (let w := wrReq (here_.fa) [1, 2]; let c := chunkOf here_.fa
    let s := fun (d : Nat) => { base with datum := d, stations := [(0, { home := { leasemax := [(c, 50)], held := [(c, .write w)], since := [(c, 0)] } })] }
    next (exec .heldWriteRelease (msg (.heldWriteRelease c) (s 50))) (fun t => (t.stn 0).home.held.length == 1 && t.timers == [(51, .heldWriteRelease c)]) &&
    next (exec .heldWriteRelease (msg (.heldWriteRelease c) (s 51))) (fun t => (t.stn 0).home.held == [] && natOf (t.bytes here_.fa 2) == 0x0201)) = true := by decide
theorem test_expiries : (let s := fun (d : Nat) => { copied with datum := d }
    let n := fun (t : State) => (t.stn 0).slice.blocks.length
    next (exec .leaseExpiry (msg (.leaseExpiry 0 (chunkOf thereDram.fa)) (s 100))) (fun t => n t == 1) &&
    next (exec .leaseExpiry (msg (.leaseExpiry 0 (chunkOf thereDram.fa)) (s 101))) (fun t => n t == 0) &&
    next (exec .sigrcvExpiry (msg (.sigrcvExpiry 0) { base with datum := 5, stations := [(0, { slice := { sigrcv := [(4, 1), (5, 2)] } })] }))
      (fun t => (t.stn 0).slice.sigrcv == [(5, 2)])) = true := by decide
theorem test_guard_update : (let s := base.setBytes (vaultFa 0 64) (bytesOf 16 3)
    next (exec .guardUpdate (msg (.guardUpdate (vaultFa 0 64) 5 true false) s)) (fun t => (t.rawWord (vaultFa 0 64)).1 == 6) &&
    next (exec .guardUpdate (msg (.guardUpdate (vaultFa 0 64) 5 false true) s)) (fun t => t.rawWord (vaultFa 0 64) == (5, true))) = true := by decide

/-! ## More of the same: what waits, what goes into windows, ranges over held words -/

/-- Vault 0, homed at station 0, by the `.lin` window. -/
def ownDram : State := withG [(1, 0x40), (2, 0x1122334455667788), (3, 64)]
def ownPart : Exec.Part := ⟨vaultFa 0 0x40, 0x40, 8, ⟨0, 0, false, vaultFa 0 0x40, 5⟩⟩
theorem test_own_dram : (match Exec.access .lin .w false (ownDram.cur.ea 1 (.reg 0) 8).toNat 8 ownDram with | .ok ps t => ps == [ownPart] && t == ownDram | _ => false) = true ∧ ownDram.isLocal 0 ownPart.pl = true ∧
    ownDram.windowLine 0 ownPart.fa = none ∧ guardPlace ownDram.tables ownPart.fa = none := by decide
-- R128: `.nt` to the station's own home allocates nothing; otherwise the block word is filled and dirty
theorem test_store_nt : (let st := fun (h : Hint) => exec (.st ⟨2, 1, .reg 0, { win := .lin, hint := h }⟩) ownDram
    next (st .nt) (fun t => t.here.slice.blocks == [] && natOf (t.bytes ownPart.fa 8) == 0x1122334455667788) &&
    next (st .none) (fun t => t.here.slice.blocks.length == 1 && t.homeWord ownPart.pl ownPart.fa == (0x1122334455667788, false))) = true := by decide
-- behind a lease the store's write is sent, and its instruction waits for the acknowledgement; R152: a poisoned word traps precisely
theorem test_store_waits : (let s := { ownDram with stations := [(0, { home := { leasemax := [(chunkOf ownPart.fa, 50)] }, kernel := { tvec := 0x8000 } })] }
    s.blockedAt 0 ownPart.fa 8 && next (exec (.st ⟨2, 1, .reg 0, { win := .lin }⟩) s) (fun t => t.cur.flow.waitOn == some 1 && t.cur.pc == 0x1000 && t.cur.flow.c1 == 0 &&
      (match t.net with | [.write w] => w.id == 1 && w.counter == 0 && w.va == 0x40 | _ => false)) &&
    next (exec (.st ⟨2, 1, .reg 0, { win := .lin, order := .sg }⟩) s) (fun t => t.cur.flow.waitOn == some 1 && t.cur.pc == 0x1000)) = true := by decide
theorem test_store_wait_ends : (let s := withC { user [] with flow := { waitOn := some 9, waitWords := 2 } }
    next (exec .writeAcknowledgement (msg (.writeAcknowledgement (wrReq there.fa [1])) s)) (fun t => t.cur.flow.waitOn == none && t.cur.pc == 0x1004) &&
    next (exec .writeAcknowledgement (msg (.writeAcknowledgement { wrReq there.fa [1] with poison := [3], va := 0x20040 }) s)) (fun t =>
      t.cur.flow.waitOn == none && t.cur.csr.tcause == causePOISON && t.cur.csr.taddr == 0x20040 && t.cur.csr.tpc == 0x1000)) = true := by decide

/-- The window over 0x30000 holds the block word at 0x30040, clean, its data in the stash at 0x1040. -/
def windowWith (dirty : Bool) : State :=
  { withG [(2, 0x1122334455667788), (3, 0x30040), (5, 0x30000)] with
    stations := [(0, { boot := .released, tlb := tlb, slice := { windows := [⟨5, 0x30000, 128, 0x1000,
      [(0, chunkOf thereDram.fa - 1), (1, chunkOf thereDram.fa)], [⟨4, dirty, 100⟩]⟩] } })] }.setBytes (stashFa 0 0 0x1040) (bytesOf 16 7)
def windowHeld : State := windowWith false
theorem test_window_held : windowHeld.here.slice.windows.map (fun v => (v.faOf 4, windowHeld.winCanon 0 v 4)) = [(thereDram.fa, stashFa 0 0 0x1040)] ∧
    (windowHeld.here.slice.windowOf (chunkOf thereDram.fa)).map (fun e => e.2) = some 1 := by decide
theorem test_window_used : (next (exec (.ld ⟨4, 3, .reg 0, {}⟩) windowHeld) (fun t => t.cur.readG 4 == 7 && t.net == []) &&
    next (exec (.st ⟨2, 3, .reg 0, {}⟩) windowHeld) (fun t => natOf (t.bytes (stashFa 0 0 0x1040) 8) == 0x1122334455667788 && t.net == [] &&
      t.here.slice.windows.all (fun v => v.lines == [⟨4, true, 100⟩]) && t.here.slice.sigacc == sigOf (chunkOf thereDram.fa))) = true := by decide
/-- The same word, dirty. -/
def windowDirty : State := windowWith true
theorem test_sunmap_dirty : next (exec (.sunmap 5 0) windowDirty) (fun t => t.here.slice.windows.length == 1 && t.cur.pc == windowDirty.cur.pc &&
    (match t.net with | [.writeBack w] => w.fa == thereDram.fa && w.data == 7 | _ => false) &&
    next (exec (.sunmap 5 0) (t.modSlice 0 (fun l => { l with wbOut := [] }))) (fun u => u.here.slice.windows == [] && u.cur.pc == windowDirty.cur.pc + 2)) = true := by
  decide
theorem test_window_flushed : (let o : RangeOps := ⟨5, .imm 128, .va, 0⟩
    next (exec (.flushr o) windowDirty) (fun t => t.net.length == 1 && t.cur.pc == windowDirty.cur.pc && t.here.slice.windows.all (fun v => v.lines.all (fun x => !x.dirty))) &&
    next (exec (.flushr o) windowHeld) (fun t => t.here.slice.windows.all (fun v => v.lines.length == 1) && t.cur.pc == windowHeld.cur.pc + 2) &&
    next (exec (.invr o) windowHeld) (fun t => t.here.slice.windows.all (fun v => v.lines == []) && t.cur.pc == windowHeld.cur.pc + 2)) = true := by decide

/-- Station 0 holds the block word at 0x30040 dirty. -/
def copyDirty : State :=
  { far with stations := [(0, { boot := .released, tlb := tlb, slice := { blocks := [⟨false, regionOf thereDram.fa, 5, [⟨ixOf thereDram.fa, 9, true, false, 100, false⟩]⟩] } }),
    (1, { boot := .released })] }
/-- The same, clean. -/
def copyClean : State :=
  { far with stations := [(0, { boot := .released, tlb := tlb, slice := { blocks := [⟨false, regionOf thereDram.fa, 5, [⟨ixOf thereDram.fa, 9, false, false, 100, false⟩]⟩] } }),
    (1, { boot := .released })] }
-- a dirty copy goes home first; a clean one stays under FLUSHR and goes under INVR; a range beside it touches nothing
theorem test_copy_flushed : (let o : RangeOps := ⟨3, .imm 16, .va, 0⟩; let beside : RangeOps := ⟨3, .imm (-16), .va, 0⟩
    let kept := fun (t : State) => t.here.slice.blocks.map (fun b => b.lines.length) == [1]
    next (exec (.invr o) copyDirty) (fun t => t.cur.pc == 0x1000 && (match t.net with | [.writeBack w] => w.fa == thereDram.fa && w.data == 9 | _ => false)) &&
    next (exec (.flushr o) copyClean) (fun t => t.cur.pc == 0x1002 && kept t && t.net == []) &&
    next (exec (.invr o) copyClean) (fun t => t.cur.pc == 0x1002 && t.here.slice.blocks == []) &&
    next (exec (.invr ⟨0, .imm 16, .lin, 0⟩) copyClean) (fun t => t.cur.pc == 0x1002 && kept t) && trapped causePROT (2 ^ 48) (exec (.invr beside)
      { copyClean with stations := [(0, { kernel := { tvec := 0x8000 } })] })) = true := by decide
-- a dirty home word is written to its DRAM
theorem test_home_flushed : (let s := { ownDram with stations := [(0, { slice := { blocks := [⟨true, regionOf ownPart.fa, 5, [⟨ixOf ownPart.fa, 9, true, false, 0, false⟩]⟩] } })] }
    next (exec (.flushr ⟨1, .imm 16, .lin, 0⟩) s) (fun t => t.rawWord (vaultFa 0 0x40) == (9, false) && t.cur.pc == 0x1002 &&
      t.here.slice.blocks.map (fun b => b.lines.map (fun w => w.dirty)) == [[false]])) = true := by decide
-- a range that enters a vault of another parcel (R67, R120)
theorem test_range_elsewhere : trapped causePROT (2 ^ 34) (exec (.flushr ⟨1, .imm 16, .lin, 0⟩) (withG [(1, 2 ^ 34)])) = true := by decide
theorem test_range_reach : (∃ pl, (withG []).reach ((withG []).asker .lin) (vaultFa 0 0) = .ok pl) ∧ (withG []).reach ((withG []).asker .lin) (vaultFa 0 (2 ^ 34)) = .error causePROT :=
  ⟨⟨⟨0, 0, false, vaultFa 0 0, 5⟩, rfl⟩, rfl⟩
-- a wait behind a held operation; an acquire that no other station's release reaches
theorem test_wait_held : (let s := { base with stations := [(0, { home := { held := [(chunkOf here_.fa, .write (wrReq here_.fa [1]))] } })] }
    next (exec .waitArm (msg (.waitArm (waitReg .eq 6)) s)) (fun t => (t.stn 0).home.held.length == 2 && t.net == [])) = true := by decide
theorem test_home_acquire : filled.foreignWitnesses 0 here_.fa 8 0 0 = [] ∧
    next (exec .readRequest (msg (.readRequest { rdReq here_.fa 8 with order := 2, scope := 3 }) filled)) (fun t => t.net.length == 1) = true := by decide
-- a FENCE.ALIAS that waits for a store of its station
theorem test_fence_alias_waits : (let s := { withC { user [] with flow := { fence := some 0, fenceOn := [9] } } with net := [.write (wrReq there.fa [1])] }
    (s.storesOut 0).contains 9 && next (exec .fenceAlias s) (fun t => t == s)) = true := by decide

/-! ## Vectors -/

def ve (i : Instr) (vl : Nat) (scalar : Word) : VEntry := ⟨i, ⟨0, 0, 0⟩, 7, 0x1000, vl, scalar, .free, [], 0, 0, false, [], [], 5, 0⟩
def vctx (v : Map VReg) : Ctx := { user [] with files := { v := v } }
/-- The first `n` elements of `w` bits of v3 after an instruction with this VL and scalar operand. -/
def gives (w n vl : Nat) (scalar : Word) (c : Ctx) (i : Instr) : List Nat := (List.range n).map (fun k => (vecRun i (ve i vl scalar) c).1.elem w 3 k)
/-- A list of elements as a register. -/
def pack (w : Nat) (xs : List Nat) : VReg := BitVec.ofNat 8192 (xs.foldr (fun x a => a * 2 ^ w + x) 0)

-- 2.0, 4.0 and 1.0, -3.0, with 1.0, 1.0 in v3
def vfl : Ctx := vctx [(1, pack 32 [0x40000000, 0x40800000, 5]), (2, pack 32 [0x3F800000, 0xC0400000]), (3, pack 32 [0x3F800000, 0x3F800000, 9])]
def fo : VFOps := ⟨.f32, false, 3, 1, 2, {}⟩
theorem test_vector_float : [Instr.vadd fo, .vsub fo, .vmul fo, .vdiv { fo with b := 2, c := 1 }, .vsqrt { fo with b := 1 }, .vmin fo, .vmax fo, .vminn fo, .vmaxn fo,
      .vneg fo, .vabs { fo with b := 2 }, .vsgn fo].map (gives 32 3 2 0 vfl) =
    [[0x40400000, 0x3F800000, 9], [0x3F800000, 0x40E00000, 9], [0x40000000, 0xC1400000, 9], [0x3F000000, 0xBF400000, 9], [0x3FB504F3, 0x40000000, 9],
     [0x3F800000, 0xC0400000, 9], [0x40000000, 0x40800000, 9], [0x3F800000, 0xC0400000, 9], [0x40000000, 0x40800000, 9], [0xC0000000, 0xC0800000, 9],
     [0x3F800000, 0x40400000, 9], [0x40000000, 0xC0800000, 9]] := by decide +kernel
-- R187: b × c + a, b × c − a, −(b × c + a), a − b × c for a = 1.0, b = 2.0, c = 1.0
theorem test_fused : [Instr.vfma fo, .vfms fo, .vfnma fo, .vfnms fo].map (gives 32 1 1 0 vfl) = [[0x40400000], [0x3F800000], [0xC0400000], [0xBF800000]] := by decide
theorem test_broadcast_zeroed : gives 32 3 2 0x40A00000 vfl (.vadd { fo with bc := true, q := { zero := true } }) = [0x40E00000, 0x41100000, 0] := by decide
-- 2^3, log2 8, 1/2, 1/sqrt 4, sin 0, cos 0, tanh 0, sigm 0, erf 0, exp 0
theorem test_special : (let c := vctx [(1, 0x40400000), (2, 0x41000000), (4, 0x40000000), (5, 0x40800000)]
    let o := fun n : Nat => ({ fo with b := n } : VFOps)
    ([Instr.vexp2 (o 1), .vlog2 (o 2), .vrcp (o 4), .vrsqrt (o 5), .vsin (o 6), .vcos (o 6), .vtanh (o 6), .vsigm (o 6), .verf (o 6), .vexp (o 6)].map (gives 32 1 1 0 c))) =
    [[0x41000000], [0x40400000], [0x3F000000], [0x3F000000], [0], [0x3F800000], [0], [0x3F000000], [0], [0x3F800000]] := by decide +kernel
-- R50: 1.0 / 0 raises DZ (bit 1) in its element
theorem test_vector_flags : (vecRun (.vdiv { fo with c := 4 }) (ve (.vdiv { fo with c := 4 }) 1 0) vfl).2 = [(0, flDZ)] := by decide

-- the largest and the smallest number, and 1, -1
def vint : Ctx := vctx [(1, pack 32 [0x7FFFFFFF, 0x80000000]), (2, pack 32 [1, 0xFFFFFFFF])]
def io : VIOps := ⟨.i32, false, 3, 1, 2, {}⟩
theorem test_vector_integer : [Instr.viadd io, .visub io, .vimul io, .vimulh io, .vimin io, .vimax io, .viabs { io with b := 2 }, .viadd { io with q := { sat := true } },
      .vimulh { io with ty := .n32 }, .vimul { io with q := { sat := true } }].map (gives 32 2 2 0 vint) =
    [[0x80000000, 0x7FFFFFFF], [0x7FFFFFFE, 0x80000001], [0x7FFFFFFF, 0x80000000], [0, 0], [1, 0x80000000], [0x7FFFFFFF, 0xFFFFFFFF], [1, 1], [0x7FFFFFFF, 0x80000000],
     [0, 0x7FFFFFFF], [0x7FFFFFFF, 0x7FFFFFFF]] := by decide +kernel
def lo : VLOps := ⟨.w32, false, 3, 1, 2, {}⟩
theorem test_vector_logic : [Instr.vand lo, .vor lo, .vxor lo, .vandn lo, .vsll lo, .vsrl lo, .vsra lo].map (gives 32 2 2 0 vint) =
    [[1, 0x80000000], [0x7FFFFFFF, 0xFFFFFFFF], [0x7FFFFFFE, 0x7FFFFFFF], [0x7FFFFFFE, 0], [0xFFFFFFFE, 0], [0x3FFFFFFF, 0], [0x3FFFFFFF, 0xFFFFFFFF]] := by decide
-- bytes: VL 1 makes the four of lane 0 active
theorem test_vector_bytes : gives 8 5 1 0 (vctx [(1, pack 8 [127, 128, 1, 1, 1]), (2, pack 8 [1, 255, 2, 3, 4])]) (.viadd { io with ty := .i8 }) = [128, 127, 3, 4, 0] := by decide

def kreg (r : Nat) (c : Ctx) (i : Instr) : Nat := ((vecRun i (ve i 3 0) c).1.readK r).toNat
-- lanes of 2.0, 4.0, NaN against 2.0, 5.0, 1.0; k3 holds ones
def vcm : Ctx := { user [] with files := { v := [(1, pack 32 [0x40000000, 0x40800000, 0x7FC00000]), (2, pack 32 [0x40000000, 0x40A00000, 0x3F800000])], k := [(1, 0b0110), (2, 0b0101), (3, 0b1111)] } }
theorem test_vector_compares : [Instr.vfeq fo, .vfne fo, .vflt fo, .vfle fo, .vfun fo].map (kreg 3 vcm) = [0b1001, 0b1110, 0b1010, 0b1011, 0b1100] := by decide
def co : VCOps := ⟨.i8, false, 3, 1, 2, {}⟩
-- a lane of bytes is true where all four are; lane 1 compares 4 zeros
theorem test_vector_byte_compares : (let c := { vcm with files := { vcm.files with v := [(1, pack 8 [1, 2, 3, 4]), (2, pack 8 [1, 2, 3, 5])] } }
    [Instr.vieq co, .vine co, .vilt co, .vile co].map (kreg 3 c)) = [0b1110, 0b1000, 0b1000, 0b1111] := by decide
def ro : VROps := ⟨3, 1, 2, {}⟩
theorem test_predicates : ([Instr.kand ro, .kor ro, .kxor ro, .kandn ro, .knot ro].map (kreg 3 vcm), kreg 0 vcm (.kor { ro with a := 0 })) =
    ([0b1100, 0b1111, 0b1011, 0b1010, 0b1001], 2 ^ 256 - 1) := by decide
theorem test_select : gives 32 4 3 0 { vcm with files := { vcm.files with v := [(1, pack 32 [1, 2, 3, 4]), (2, pack 32 [5, 6, 7, 8]), (3, pack 32 [9, 9, 9, 9])] } }
    (.vsel { ro with q := { pred := 1 } }) = [5, 2, 3, 9] := by decide
def vlane : State := withC { vcm with csr := { vl := 3 } }
theorem test_predicate_reads : [Instr.kpopc ⟨4, 1, 0, {}⟩, .kfirst ⟨4, 1, 0, {}⟩, .kfirst ⟨4, 5, 0, {}⟩, .vextr ⟨4, 2, .imm 257, {}⟩].map (fun i => reg 4 (exec i vlane)) =
    [2, 1, 256, 0x40A00000] := by decide
theorem test_predicate_reads_meet : vlane.vecPending vlane.hand.at_ = false ∧ vlane.ready (xRegs (.imm 257)) := by unfold State.ready; decide

-- 1.0, -2.5 to BF16 and to N32, and 3, -2 to F32; the elements above the narrow ones are zero
theorem test_convert : (let c := vctx [(1, pack 32 [0x3F800000, 0xC0200000]), (2, pack 32 [3, 0xFFFFFFFE]), (3, pack 32 [9, 9])]
    (gives 16 3 3 0 c (.vcvt ⟨.bf16, .f32, 3, 1, {}⟩), gives 32 2 3 0 c (.vcvt ⟨.i32, .f32, 3, 1, { rm := .rz }⟩), gives 32 2 3 0 c (.vcvt ⟨.f32, .i32, 3, 2, {}⟩))) =
    ([0x3F80, 0xC020, 0], [1, 0xFFFFFFFE], [0x40400000, 0xC0000000]) := by decide
-- 1.5 and -0.25, scaled by 2: 3.0 and -0.5
theorem test_quantise8 : (let c := vctx [(1, pack 32 [0x3FC00000, 0xBE800000])]
    (gives 8 3 2 0x40000000 c (.vq8E4m3 ro), gives 8 3 2 0x40000000 c (.vq8E5m2 ro))) = ([0x44, 0xB0, 0], [0x42, 0xB8, 0]) := by decide
/-- The block of the worked example of R194: 0.3, -1.1, 2.5, 0, 7, -0.6, 4.4, 1. -/
def block4 : Ctx := vctx [(1, pack 32 [0x3E99999A, 0xBF8CCCCD, 0x40200000, 0, 0x40E00000, 0xBF19999A, 0x408CCCCD, 0x3F800000])]
theorem test_quantise4 : (gives 8 4 8 0x3F800000 block4 (.vq4 ro), gives 8 129 8 0x3F800000 block4 (.vq4 ro) |>.getLast?) = ([0xA1, 0x04, 0x97, 0x26], some 0x66) := by decide
-- an empty block, and a block with a NaN
theorem test_quantise4_corners : (let s := fun (vl : Nat) (c : Ctx) => (gives 8 129 vl 0x3F800000 c (.vq4 ro)).getLast?
    (s 8 (vctx []), s 8 (vctx [(1, pack 32 [0x7FC00000, 0x3F800000])]))) = (some 0x60, some 0xFF) := by decide
-- codes 2, 7 (1.0 and 6.0) with scale 0x60 (1.0) and band scale 2.0
theorem test_dequantise4 : gives 32 3 2 0x4000 (vctx [(1, 0x72 + BitVec.ofNat 8192 (0x60 * 2 ^ 1024))]) (.vdq4 ro) = [0x40000000, 0x41400000, 0] := by decide

def rd (p : RPage) : VRedOps := ⟨p, 3, 1, {}⟩
theorem test_reductions_float : (let c := vctx [(1, pack 32 [0x3F800000, 0xC0400000, 0x40000000])]
    [Instr.vrsum (rd .f32), .vrmax (rd .f32), .vrmin (rd .f32), .vrmaxn (rd .f32), .vrminn (rd .f32), .vramax (rd .f32)].map (gives 32 2 3 0 c)) =
    [[0, 0], [0x40000000, 0], [0xC0400000, 0], [0x40000000, 0], [0xC0400000, 0], [0x40400000, 0]] := by decide
theorem test_reductions_integer : (let c := vctx [(1, pack 32 [6, 3, 0xFFFFFFFF])]
    ([Instr.vrsum (rd .i32), .vriand (rd .i32), .vrior (rd .i32), .vrixor (rd .i32), .vrmax (rd .n32), .vrmin (rd .i32)].map (gives 32 2 3 0 c), gives 32 4 3 0 c (.vscan (rd .i32)))) =
    ([[8, 0], [2, 0], [0xFFFFFFFF, 0], [0xFFFFFFFA, 0], [0xFFFFFFFF, 0], [0xFFFFFFFF, 0]], [6, 9, 8, 0]) := by decide
theorem test_reductions_empty : [Instr.vrsum (rd .f32), .vrmax (rd .f32), .vrmin (rd .f32), .vramax (rd .f32), .vriand (rd .i32), .vrior (rd .i32), .vrmax (rd .i32), .vrmin (rd .i32),
    .vrmax (rd .n32), .vrmin (rd .n32)].map (gives 32 1 0 0 vfl) =
    [[0], [0xFF800000], [0x7F800000], [0], [0xFFFFFFFF], [0], [0x80000000], [0x7FFFFFFF], [0], [0xFFFFFFFF]] := by decide
def xo : VXOps := ⟨3, 1, .imm 0, {}⟩
/-- 10, 11, 12, 13 in v1, an order in v2, and k1 selects lanes 1 and 2. -/
def vperm : Ctx := { user [] with files := { v := [(1, pack 32 [10, 11, 12, 13]), (2, pack 32 [3, 0, 257, 2]), (3, pack 32 [9, 9, 9, 9])], k := [(1, 0b0110)] } }
theorem test_permutations : [(Instr.vperm ro, (0 : Word)), (.vrotl xo, 257), (.vbcast xo, 2), (.vcompr { ro with q := { pred := 1 } }, 0), (.vexpnd { ro with q := { pred := 1 } }, 0),
      (.vinsr xo, 0x0000000200000055)].map (fun x => gives 32 4 4 x.2 vperm x.1) =
    [[13, 10, 11, 12], [11, 12, 13, 0], [12, 12, 12, 12], [11, 12, 9, 9], [9, 10, 11, 9], [9, 9, 0x55, 9]] := by decide

def queued (o : Out) : List (Instr × Nat × Word × Bind) := match o with | .next t => (t.queueOf ⟨0, 0, 0⟩).map (fun e => (e.i, e.vl, e.scalar, e.bind)) | _ => []
/-- VL 5, slot 2 NO, slot 3 pending. -/
def vissue : State := withC { user [(2, 8), (1, 0x100000003)] with files := { g := [(1, 0x100000003), (2, 8)], slots := [.yes, .yes, .no, .pending 4, .yes, .yes, .yes, .yes] }, csr := { vl := 5 } }
theorem test_vector_issue : ([Instr.vadd { fo with bc := true }, .vq8E4m3 ro, .vrotl { xo with c := .reg 2 }, .vinsr { xo with c := .imm 258 }, .kand { ro with q := { guard := some ⟨3, true⟩ } },
      .viadd { io with q := { guard := some ⟨2, true⟩ } }].map (fun i => queued (exec i vissue))) =
    [[(.vadd { fo with bc := true }, 5, 8, .free)], [(.vq8E4m3 ro, 5, 8, .free)], [(.vrotl { xo with c := .reg 2 }, 5, 8, .free)], [(.vinsr { xo with c := .imm 258 }, 5, 0x200000003, .free)],
     [(.kand { ro with q := { guard := some ⟨3, true⟩ } }, 5, 0, .pending 4 true)], []] := by decide
theorem test_vector_issue_meets : vissue.ready [1, 2] ∧ bindOf vissue.cur (some ⟨2, true⟩) = .decided false ∧ bindOf vissue.cur none = .free ∧
    (vissue.queueOf vissue.hand.at_).length < 16 := by unfold State.ready; decide
def vfull : State := { vissue with stations := [(0, { vec := { queues := [(0, List.replicate 16 (ve (.vadd fo) 5 0))] } })] }
theorem test_vector_full : (vfull.queueOf vfull.hand.at_).length = 16 ∧ next (exec (.vadd fo) vfull) (fun t => t.cur.flow.waitOn == some 0 && t.cur.pc == 0x1000) = true ∧
    next (exec .vectorQueueStallRelease (msg (.vectorQueueStallRelease 0 0) (withC { user [] with flow := { waitOn := some 0 } }))) (fun t => t.cur.flow.waitOn == none) = true := by decide
/-- FTRAPEN enables DZ; the second element of v2 is zero. -/
def vprec : State := withC { vctx [(1, pack 32 [0x3F800000, 0x3F800000]), (2, pack 32 [0x3F800000, 0])] with csr := { vl := 2, ftrapen := flDZ } }
-- R51: the instruction waits for its entry, which completes it, or traps with position 1 and the flags, and writes nothing
theorem test_vector_precise : vprec.ready [] ∧ vprec.vecPending ⟨0, 0, 0⟩ = false ∧ next (exec (.vdiv fo) { vprec with stations := base.stations }) (fun t =>
      t.cur.flow.waitOn == some 1 && t.cur.pc == 0x1000 && trapped causeFPE (BitVec.ofNat 64 (256 + flDZ)) (exec .laneGroupArbitration (msg (.laneGroupArbitration 0) t)) &&
      next (exec .laneGroupArbitration (msg (.laneGroupArbitration 0) t)) (fun u => u.cur.csr.tpc == 0x1000 && u.cur.csr.fflags == 0 && u.cur.elem 32 3 0 == 0)) = true ∧
    next (exec (.vadd fo) vprec) (fun t => next (exec .laneGroupArbitration (msg (.laneGroupArbitration 0) { t with hand := { t.hand with words := 1 } })) (fun u =>
      u.cur.elem 32 3 0 == 0x40000000 && u.cur.pc == 0x1002 && u.cur.flow.waitOn == none)) = true := by unfold State.ready; decide

/-- One instruction in the queue of core 0. -/
def waiting (b : Bind) : State := { withC vfl with stations := [(0, { vec := { queues := [(0, [{ ve (.vadd fo) 2 0 with bind := b }])] } })] }
theorem test_arbitration : ([Bind.free, .decided false, .pending 3 true].map (fun b => match exec .laneGroupArbitration (msg (.laneGroupArbitration 0) (waiting b)) with
      | .next t => (t.cur.elem 32 3 0, (t.queueOf ⟨0, 0, 0⟩).length) | _ => (0, 9))) = [(0x40400000, 0), (0x3F800000, 0), (0x3F800000, 1)] ∧
    memKind (.vadd fo) = none ∧ 1 ≤ (waiting .free).vecWeight 0 0 := by decide
def vm : VMOps := ⟨.w16, 3, 1, .reg 0, {}⟩
def vr : VMROps := ⟨.w32, 3, 1, 2, {}⟩
/-- Station 0 with an entry of a memory instruction; bytes 81 to 90 at stash offset 0x40. -/
def piped (e : VEntry) (c : Ctx) : State :=
  { filled with stations := [(0, { tlb := tlb, vec := { queues := [(0, [e])] } })], ctxs := [(0, c)] }
def loads : State := piped { ve (.vld vm) 1 0 with elems := [(0, here_.fa, 0x10040), (1, here_.fa + 2, 0x10042)], last := 512 } (vctx [(3, pack 16 [7, 7, 7])])
theorem test_pipe_load : next (exec .laneGroupArbitration (msg (.laneGroupArbitration 0) loads)) (fun t => t.queueOf ⟨0, 0, 0⟩ == [] && t.cur.elem 16 3 0 == 0x8281 &&
      t.cur.elem 16 3 1 == 0x8483 && t.cur.elem 16 3 2 == 7) = true ∧ loads.place here_.fa = .ok here_.pl ∧
    loads.look 0 here_.pl here_.fa = .have_ 0x908F8E8D8C8B8A898887868584838281 false ∧ memKind (.vld vm) = some (.load 16 3 false .none) := ⟨by decide, rfl, by decide, by decide⟩
def stores : State := piped { ve (.vst vm) 1 0 with elems := [(1, here_.fa, 0x10040)], last := 512 } (vctx [(3, pack 16 [0x1111, 0xABCD])])
theorem test_pipe_store : next (exec .laneGroupArbitration (msg (.laneGroupArbitration 0) stores)) (fun t => natOf (t.bytes here_.fa 4) == 0x8483ABCD && t.queueOf ⟨0, 0, 0⟩ == []) = true ∧
    stores.homedAt here_.fa here_.pl ∧ stores.blockedAt 0 here_.fa 2 = false ∧ (stores.homeWord here_.pl here_.fa).2 = false := ⟨by decide, ⟨rfl, rfl⟩, by decide, by decide⟩
def adds : State := piped { ve (.vscadd vr) 1 0 with elems := [(0, here_.fa, 0x10040)], last := 256 } (vctx [(3, pack 32 [0x3F800000])])
theorem test_pipe_add : next (exec .laneGroupArbitration (msg (.laneGroupArbitration 0) adds)) (fun t => match t.net with
      | [.atomic r] => r.op == 11 && r.w32 && r.fa == here_.fa && r.operand == 0x3F800000 && t.queueOf ⟨0, 0, 0⟩ == [] | _ => false) = true ∧
    adds.ownDirty 0 (chunkOf here_.fa) = false := by decide

/-- Two lanes; the station's first page; v2 holds offsets 4 and 0. -/
def vmem (b c : Word) : State := withC { user [] with files := { g := [(1, b), (2, c)], v := [(2, pack 32 [4, 0])] }, csr := { vl := 2 } }
def formed (o : Out) : List (Nat × Nat) := match o with | .next t => (t.queueOf ⟨0, 0, 0⟩).flatMap (fun e => e.elems.map (fun x => (x.1, x.2.2))) | _ => []
theorem test_vector_memory : [Instr.vld { vm with w := .w32 }, .vst { vm with w := .w64 }, .vlds vr, .vsts vr, .vgth vr, .vsct vr, .vscadd vr].map (fun i => formed (exec i (vmem 0x10040 8))) =
    [[(0, 0x10040), (1, 0x10044)], [(0, 0x10040)], [(0, 0x10040), (1, 0x10048)], [(0, 0x10040), (1, 0x10048)], [(0, 0x10044), (1, 0x10040)], [(0, 0x10044), (1, 0x10040)],
     [(0, 0x10044), (1, 0x10040)]] := by decide
theorem test_vector_memory_meets : (vmem 0x10040 8).ready [1, 2] ∧ (vmem 0x10040 8).waitCount ⟨0, 0, 0⟩ 0 = 0 ∧ (vmem 0x10040 8).vecPending ⟨0, 0, 0⟩ = false := by unfold State.ready; decide
theorem test_vector_memory_checks : (match Exec.elemFa .va .r 4 0x10044 (vmem 0x10040 8) with | .ok a _ => a == stashFa 0 0 0x44 | _ => false) = true ∧
    (match Exec.elemFa .va .r 4 0x10042 (vmem 0x10040 8) with | .error (.trap c a) _ => c == causeALIGN && a == 0x10042 | _ => false) = true := by decide
-- the second element is misaligned: position 1 and the address in TADDR, what lies below is entered
theorem test_vector_memory_trap : next (exec (.vlds vr) (vmem 0x10040 2)) (fun t => t.cur.csr.resume == 1 && t.cur.csr.tcause == causeALIGN && t.cur.csr.taddr == 0x1000000010042 &&
    t.cur.sup && (t.queueOf ⟨0, 0, 0⟩).map (fun e => (e.elems.map (fun x => x.1), e.last)) == [([0], 1)]) = true := by decide
/-- Handle 1: 4 slots of 64 bytes from 0x1000, consumer slot 3, producer slot 1. -/
def vhandle (v : Bool) : State := { vmem 0 64 with stations := [(0, { tlb := tlb, kernel := { tvec := 0x8000 }, handles := [(1, { valid := v, base := 0x1000, slotsz := 64, nslot := 4, pix := 1, cix := 3 })] })] }
theorem test_vector_handles : ([Instr.vldConsumer { vm with w := .w32, c := .imm 60 }, .vldProducer { vm with w := .w32 }, .vstConsumer { vm with w := .w32 }, .vstProducer { vm with w := .w32 }].map
      (fun i => formed (exec i (vhandle true)))) =
    [[(0, stashFa 0 0 0x10FC), (1, stashFa 0 0 0x1000)], [(0, stashFa 0 0 0x1040), (1, stashFa 0 0 0x1044)], [(0, stashFa 0 0 0x10C0), (1, stashFa 0 0 0x10C4)],
     [(0, stashFa 0 0 0x1040), (1, stashFa 0 0 0x1044)]] ∧ [Instr.vldConsumer vm, .vstProducer vm].all (fun i => trapped causeHANDLE 1 (exec i (vhandle false))) = true := by decide

-- R168: at an offset that 4 does not divide a handle-relative element is formed byte by byte, around the ring
theorem test_vector_handles_bytes : (formed (exec (.vldConsumer { vm with w := .w32, c := .imm 62 }) (vhandle true))).take 5 =
    [(0, stashFa 0 0 0x10FE), (1, stashFa 0 0 0x10FF), (2, stashFa 0 0 0x1000), (3, stashFa 0 0 0x1001), (4, stashFa 0 0 0x1002)] := by decide
-- R53: 2^24 and three ones, added by neighbours: (2^24 + 1) + (1 + 1); the scan runs upwards; `.sat` sums stop at the ends
theorem test_reduction_tree : gives 32 1 4 0 (vctx [(1, pack 32 [0x4B800000, 0x3F800000, 0x3F800000, 0x3F800000])]) (.vrsum (rd .f32)) = [0x4B800001] ∧
    gives 32 4 3 0 (vctx [(1, pack 32 [0x3F800000, 0xC0400000, 0x40000000])]) (.vscan (rd .f32)) = [0x3F800000, 0xC0000000, 0, 0] ∧
    gives 32 1 2 0 (vctx [(1, pack 32 [0x7FFFFFFF, 1])]) (.vrsum ⟨.i32, 3, 1, { sat := true }⟩) = [0x7FFFFFFF] ∧
    gives 32 1 2 0 (vctx [(1, pack 32 [0xFFFFFFFF, 1])]) (.vrsum ⟨.n32, 3, 1, { sat := true }⟩) = [0xFFFFFFFF] := by decide
-- an instruction that waits for its entry, which its guard then discards
theorem test_arbitration_waits : (let s := waiting (.decided false)
    next (exec .laneGroupArbitration (msg (.laneGroupArbitration 0) { s with ctxs := [(0, { vfl with flow := { waitOn := some 5, waitWords := 2 } })] })) (fun t =>
      t.cur.flow.waitOn == none && t.cur.pc == 0x1004 && t.queueOf ⟨0, 0, 0⟩ == [])) = true := by decide
theorem test_pipe_meets : loads.stations.all (fun e => e.2.vec.pipe == []) = true ∧ adds.cleanFor 0 here_.fa := by unfold State.cleanFor; decide

/-! ## Tasks -/

/-- A record image at 0x10080 of the first page: PC 0x2000, deadline 0, JOINCTR 0x500, arguments 0x11 and 0x22. -/
def template (kind : Nat) : List Byte :=
  bytesOf 8 (kind * 2 ^ 56 + 0x2000) ++ bytesOf 24 0 ++ bytesOf 8 0x500 ++ bytesOf 8 0 ++ bytesOf 8 0x11 ++ bytesOf 8 0x22
def spawner (kind : Nat) (g : Map Word) : State :=
  ({ withC { user g with csr := { deadln := 99 } } with stations := [(0, { tlb := tlb, kernel := { tvec := 0x8000 } })] }).setBytes (stashFa 0 0 0x80) (template kind)
def spawned (o : Out) (p : Msg → Bool) : Bool := next o (fun t => t.net.length == 1 && t.net.all p && t.cur.pc == 0x1002)
theorem test_spawn : (let s := spawner 0 [(2, 0x10080)]; let f := spawner 0 [(1, 0x20000), (2, 0x10080)]
    let child := fun (p : TaskPkt) => let r := Machine.TaskPkt.rec p; r.pc == 0x2000 && r.arg0 == 0x11 && r.arg1 == 0x22 && r.joinctr == 0x500 && r.deadline == 99 && r.frame == 0
    spawned (exec (.spawn 1 2 3) s) (fun m => match m with | .taskPacket 0 p => child p | _ => false) &&
    spawned (exec (.spawn 1 2 3) f) (fun m => match m with | .publicationComplete ⟨0, 0, 0, .task 0 1 p⟩ _ => child p && p.counter == 1 | _ => false) &&
    next (exec (.spawn 1 2 3) f) (fun t => t.cur.flow.c1 == 1) && next (exec (.spawn 1 2 3) (spawner 1 [(2, 0x10080)])) (fun t => t.net == [] && t.cur.pc == 0x1002) &&
    trapped causeALIGN 0x10088 (exec (.spawn 1 2 3) (spawner 0 [(2, 0x10088)]))) = true := by decide
theorem test_spawn_meets : (spawner 0 [(1, 0x20000), (2, 0x10080)]).ready [1, 2, 3] ∧ (spawner 0 []).allPerformed ∧
    (match Exec.readOwn 0x10080 64 (spawner 0 []) with | .ok bs _ => bs == template 0 | _ => false) = true ∧ recReservedOk (dwsOf 8 (template 0)) = true := by
  unfold State.ready State.allPerformed; decide
-- R112: the target is 2 times the offset from the instruction; a busy flag makes it a call
theorem test_fork : (let s := fun (f : Word) => withG [(1, f), (2, 0xA), (3, 0xB)]
    spawned (exec (.fork 1 2 16) (s 0)) (fun m => match m with | .taskPacket 0 p => let r := Machine.TaskPkt.rec p; r.pc == 0x1020 && r.arg0 == 0xA && r.arg1 == 0xB && r.joinctr == 0xB | _ => false) &&
    next (exec (.fork 1 2 16) (s 1)) (fun t => t.cur.pc == 0x1020 && t.cur.readG 1 == 0xA && t.cur.readG 2 == 0xB && t.cur.readG 63 == 0x1002 && t.net == [])) = true := by decide

theorem test_pins : (next (exec .pin base) (fun t => t.cur.task == some { task with body := { task.body with pin := true } }) &&
    next (exec .unpin base) (fun t => t.cur.task == some task) && next (exec .yield base) (fun t => t.cur.flow.susp == some .yield && t.cur.pc == 0x1002) &&
    trapped causeILL 0x1000 (exec .yield (withC { user [] with sup := true, task := none }))) = true := by decide
def framed (saved : Bool) (frame : Nat) : State := withC { user [(5, 0xABC)] with task := some { task with body := { task.body with frame := frame } }, csr := { budget := 4 }, flow := { susp := some .yield, saved := saved } }
def leave (s : State) : Out := exec .suspension (msg (.suspension ⟨0, 0, 0⟩) s)
theorem test_suspension : (next (leave (framed true (vaultFa 0 0x4000))) (fun t => !t.cur.busy && (t.stn 0).sched.ready.map (fun r => (r.tid, r.body.pc, r.body.budget)) == [(7, 0x1000, 4)]) &&
    next (leave (framed false (vaultFa 0 0x4000))) (fun t => t.cur.flow.saved && t.cur.busy) &&
    next (leave (framed false 0)) (fun t => t.cur.busy && !t.cur.flow.saved)) = true := by decide +kernel
theorem test_suspension_meets : (framed true 0).settled ⟨0, 0, 0⟩ = true ∧ (framed false (vaultFa 0 0x4000)).ownFa (vaultFa 0 0x4000) = true ∧ ((framed false 0).popArea 0).1 = none := by decide
def runnable (late : Bool) : State := { base with ctxs := [], datum := 5, stations := [(0, { boot := .released, sched := { ready := [{ task with body := { pc := 0x3000, arg0 := 8, arg1 := 9, deadline := 4, latedrop := late } }, { task with tid := 8, key := 9 }] } })] }
theorem test_selection : (let f := fun (late : Bool) (p : State → Bool) => next (exec .selection (msg (.selection ⟨0, 0, 0⟩) (runnable late))) p
    f false (fun t => t.cur.busy && t.cur.pc == 0x3000 && t.cur.readG 1 == 8 && t.cur.readG 2 == 9 && t.cur.csr.deadln == 4 && (t.stn 0).sched.ready.map (fun r => r.tid) == [8]) &&
    f true (fun t => !t.cur.busy && (t.stn 0).sched.ready.map (fun r => r.tid) == [8]) && (((runnable true).stn 0).canSelect) &&
    ((firstRec (((runnable true).stn 0).sched.ready.filter (fun r => r.heldFor.isNone))).map (fun r => r.tid) == some 7)) = true := by decide
-- R22: EXIT with a code that is not 0 has status 7; the status word holds the datum's low 48 bits above it
theorem test_exit : (let s := { withC { user [(4, 3)] with task := some { task with reply := stashFa 0 1 0x80 } } with datum := 0x12 }
    next (exec (.exit 4) s) (fun t => !t.cur.busy && t.cur.task == none && t.net.any (fun m => match m with | .write w => w.fa == stashFa 0 1 0x80 && natOf w.data == 0x120007 | _ => false)) &&
    (match s.reach ⟨0, false, false⟩ (stashFa 0 1 0x80) with | .ok _ => true | _ => false)) = true := by decide

/-! ## Stations -/

def dw0 (r : Rec) : List Word := (recDws r).map (BitVec.ofNat 64)
def packet (ptag : Word) (r : Rec) : TaskPkt := ⟨[BitVec.ofNat 64 (stashFa 0 0 0), 0x40, ptag, 0] ++ dw0 r, .task ⟨0, 0, 0⟩ 7, 1, none, 8⟩
def sender : State := withC { user [] with flow := { c1 := 2 } }
theorem test_task_packet : (let f := fun (p : TaskPkt) => exec .taskPacket (msg (.taskPacket 0 p) sender)
    next (f (packet 5 { pc := 0x2000 })) (fun t => (t.stn 0).sched.ready.map (fun r => (r.body.pc, r.reply, r.key)) == [(0x2000, 0x40, 10000000)] && t.cur.flow.c1 == 1) &&
    next (f { packet 6 { pc := 0x2000 } with dws := ((packet 6 { pc := 0x2000 }).dws.set 1 0) }) (fun t => (t.stn 0).sched.ready == [] && t.cur.flow.c1 == 1) && sender.canInsert 0 &&
    taskPktOk (packet 5 { pc := 0x2000 }) 5 && !taskPktOk (packet 6 {}) 5 && !taskPktOk (packet 5 { kind := 1 }) 5 && !taskPktOk (packet 5 { frame := 64 }) 5) = true := by decide
-- a record that a victim granted ends the thief's request; another one does not
theorem test_record_move : (let f := fun (g : Bool) => exec .recordMove (msg (.recordMove 0 { task with granted := g }) { base with stations := [(0, { steal := { waiting := true } })] })
    next (f true) (fun t => (t.stn 0).sched.ready.map (fun r => (r.tid, r.ptag)) == [(7, 5)] && !(t.stn 0).steal.waiting && (t.stn 0).steal.first == 1) &&
    next (f false) (fun t => (t.stn 0).sched.ready.length == 1 && (t.stn 0).steal.waiting && (t.stn 0).steal.first == 0)) = true := by decide
-- R232, R29: the bytes are stored, and the handler starts with their address and length
theorem test_data_arrival : (let d : DataArr := ⟨stashFa 0 0 0x44, 5, 0x2000, 0, [1, 2, 3, 4], none, .cube, 0⟩; let s := { base with ctxs := [] }
    next (exec .dataArrivalWithHandler (msg (.dataArrivalWithHandler 0 d) s)) (fun t => natOf (t.bytes (stashFa 0 0 0x44) 4) == 0x04030201 && t.cur.busy && t.cur.pc == 0x2000 &&
      t.cur.readG 1 == BitVec.ofNat 64 (stashFa 0 0 0x44) && t.cur.readG 2 == 4) && s.freeCtx 0 == some ⟨0, 0, 0⟩ && !(s.homeWord ⟨0, 0, true, stashFa 0 0 0x44, 5⟩ (stashFa 0 0 0x44)).2) = true := by decide
theorem test_data_arrival_home : base.homedAt (stashFa 0 0 0x44) ⟨0, 0, true, stashFa 0 0 0x44, 5⟩ := ⟨rfl, rfl⟩
theorem test_spill_refill : next (exec .spillRefill (msg (.spillRefill 0) { base with stations := [(0, { sched := { spilled := [task] } })] }))
    (fun t => (t.stn 0).sched.spilled == [] && (t.stn 0).sched.ready.map (fun r => r.tid) == [7]) = true := by decide

theorem test_arriving_traps : (let c := user []; let f := fun (k : Nat) (a : Word) (o : Out) => next o (fun t => t.cur.csr.tcause == k && t.cur.csr.taddr == a && t.cur.csr.tpc == 0x1000 && t.cur.sup && t.cur.pc == 0x8000)
    f causeBUDGET 0 (exec .budgetTrap (msg (.budgetTrap ⟨0, 0, 0⟩) (withC { c with flow := { bpend := true } }))) &&
    f causePOISON 0x44 (exec .poisonReport (msg (.poisonReport ⟨0, 0, 0⟩ 0x44) (withC { c with flow := { ppend := some 0x44 } }))) &&
    next (exec .preemptRaised (msg (.preemptRaised 0) { base with ctxs := [], stations := [(0, { kernel := { tvec := 0x8000, raise := some 0x77 }, sched := { preempted := true } })] }))
      (fun t => t.cur.csr.tcause == causePREEMPT && t.cur.csr.taddr == 0x77 && t.cur.sup && t.cur.pc == 0x8000)) = true := by decide

/-- A kernel message at stash 0x100, sent by supervisor code. -/
def ksender (typ : Nat) (b c : Word) : State := ((withC { user [] with sup := true, files := { g := [(16, b), (17, c)] } }).setBytes (stashFa 0 0 0x100) (bytesOf 8 (typ * 2 ^ 56 + 0x23) ++ bytesOf 8 0x55 ++ bytesOf 48 0))
theorem test_kmsg : (let a := BitVec.ofNat 64 (stashFa 0 0 0x100)
    next (exec (.kmsg 16 17) (ksender 4 1 a)) (fun t => t.cur.pc == 0x1002 && t.cur.flow.c1 == 1 && (match t.net with | [.config m] => m.stn == 1 && m.sstn == 0 && m.dws.getD 0 0 == 0x0400000000000023 && m.dws.getD 1 0 == 0x55 | _ => false)) &&
    next (exec (.kmsg 16 17) (ksender 0 0 a)) (fun t => t.cur.flow.c1 == 0 && (match t.net with | [.soft m] => m.stn == 0 | _ => false)) &&
    next (exec (.kmsg 16 17) (ksender 0 0x500000000 a)) (fun t => t.net == [] && Map.get 0 t.plat.errors 10 == 1 && t.cur.pc == 0x1002) &&
    trapped causeILL 0x1000 (exec (.kmsg 16 17) (ksender 0 64 a)) && trapped causeALIGN (a + 8) (exec (.kmsg 16 17) (ksender 0 0 (a + 8)))) = true := by decide
theorem test_kmsg_meets : (ksender 4 1 0).ready [16, 17] ∧ (match (ksender 4 1 0).reach ⟨0, true, true⟩ (stashFa 0 0 0x100) with | .ok _ => true | _ => false) = true := by unfold State.ready; decide
def kmsg (dws : List Word) : KMsg := ⟨0, dws, 0, 1, .cube, 0⟩
def kgot (i : Instr) (m : Msg) (s : State) (p : State → Bool) : Bool := next (exec i (msg m s)) (fun t => (t.stn 0).kernel.next == 1 && p t)
/-- Every context of station 0 is busy. -/
def crowded : State := { base with ctxs := (List.range 32).map (fun k => (k, user [])) }
theorem test_kernel_messages : (let fa := vaultFa 0 0xFFFFC000; let m := kmsg [0, 77, 64, 128, 256, 512, 1, 1024]
    kgot .soft (.soft m) base (fun t => (t.ctx ⟨0, 0, 1⟩).csr.tcause == causeKMSG && (t.ctx ⟨0, 0, 1⟩).csr.taddr == BitVec.ofNat 64 fa && (t.ctx ⟨0, 0, 1⟩).sup && (t.homeWord ⟨0, 0, false, fa, 5⟩ fa).1.toNat % 256 == 1) &&
    kgot .kernelMessageReserved (.kernelMessageReserved m) crowded (fun t => (t.stn 0).kernel.pending == [fa]) &&
    kgot .config (.config m) base (fun t => let c := (t.stn 0).sched; c.horizon == 77 && c.spill == 64 && c.spillSz == 128 && c.msgq == 256 && c.msgqSz == 512 && c.savepool == 1024 && (t.stn 0).steal.on) &&
    kgot .preempt (.preempt m) crowded (fun t => (t.stn 0).sched.preempted && (t.stn 0).kernel.raise == some fa) &&
    kgot .resume (.resume m) { base with stations := [(0, { sched := { preempted := true } })] } (fun t => !(t.stn 0).sched.preempted) &&
    kgot .move (.move m) base (fun t => (t.stn 0).sched == (base.stn 0).sched) && base.freeCtx 0 == some ⟨0, 0, 1⟩ && base.stealable 0 == none) = true := by decide
theorem test_kernel_queue_full : (let s := { base with stations := [(0, { kernel := { pending := List.replicate 256 0 } })] }
    next (exec .soft (msg (.soft (kmsg [])) s)) (fun t => t.net == [.soft (kmsg [])])) = true := by decide

/-- Stations 0 and 1 steal; station 1 has two records. -/
def thieves : State := { base with ctxs := [], stations := [(0, { boot := .released, steal := { on := true } }), (1, { boot := .released, steal := { on := true }, sched := { ready := [task, { task with tid := 8, key := 4 }] } })] }
theorem test_stealing : (let e := fun (i : Instr) (m : Msg) (s : State) (p : State → Bool) => next (exec i (msg m s)) p
    e .stealRound (.stealRound 0) thieves (fun t => t.net == [.stealRequest 1 0] && (t.stn 0).steal.waiting && (t.stn 0).steal.asked == 1) &&
    e .stealRound (.stealRound 0) { thieves with stations := [(0, { boot := .released, steal := { on := true, asked := 99 } })] } (fun t => t.net == [] && (t.stn 0).steal.until_ == 1000 && (t.stn 0).steal.asked == 0) &&
    e .stealRequest (.stealRequest 1 0) thieves (fun t => (t.stn 1).sched.ready.map (fun r => r.tid) == [7] && (match t.net with | [.publicationComplete ⟨0, 1, 0, .record 0 0 r⟩ _] => r.tid == 8 && r.granted | _ => false)) &&
    e .stealRequest (.stealRequest 0 1) thieves (fun t => t.net == [.stealRefusal 1]) && e .stealRefusal (.stealRefusal 0) thieves (fun t => !(t.stn 0).steal.waiting) &&
    e .stealBackoffExpiry (.stealBackoffExpiry 0) thieves (fun t => (t.stn 0).steal.until_ == 0) && e .loadBalancing (.loadBalancing 0) thieves (fun t => t.timers.contains (10000, .loadBalancing 0)) &&
    thieves.idle 0 && (thieves.neighbours 0 0)[0]? == some 1 && (thieves.stealable 1).map (fun r => r.tid) == some 8) = true := by decide

/-! ## Commands and results -/

/-- A command at stash 0x200: opcode 3, parcel 5, TAG 9. -/
def cmdBytes : List Byte := bytesOf 8 (5 * 2 ^ 16 + 3) ++ bytesOf 48 0 ++ bytesOf 8 9
def cmd3 : Cmd := ⟨0, false, 5, 3, [0, 0, 0, 0, 0], 0, 9⟩
def pusher (sel va : Word) (slot : Slot) : State :=
  (withC { user [] with files := { g := [(1, sel), (2, va)], slots := [.yes, slot, .yes, .yes, .yes, .yes, .yes, .yes] } }).setBytes (stashFa 0 0 0x200) cmdBytes
theorem test_push : (let g : Option Guard := some ⟨1, true⟩; let me : CmdMsg := ⟨cmd3, 1, 0, 0, .task ⟨0, 0, 0⟩ 7, 7, none⟩
    next (exec (.push 1 2 0 g) (pusher 0x100000000000000 0x10200 .yes)) (fun t => t.net == [.engineCommand me] && t.c3of 7 == 1 && t.cur.flow.fifopend == 1 && t.cur.pc == 0x1002) &&
    next (exec (.push 1 2 0 g) (pusher 0x100000000000001 0x10200 .yes)) (fun t => t.net == [.publicationComplete ⟨0, 0, 0, .command { me with stn := 1 }⟩ 0]) &&
    next (exec (.push 1 2 0 g) (pusher 0x100000000000000 0x10200 (.pending 3))) (fun t => t.here.eng.heldCmds.map (fun h => (h.msg, h.bind)) == [(me, .pending 3 true)] && t.net == [] && t.c3of 7 == 1) &&
    next (exec (.push 1 2 0 g) (pusher 0 0 .no)) (fun t => t.net == [] && t.cur.pc == 0x1002) && trapped causeALIGN 0x10208 (exec (.push 1 2 0 g) (pusher 0 0x10208 .yes)) &&
    trapped causePROT 0x400000000000000 (exec (.push 1 2 0 g) (pusher 0x400000000000000 0x10200 .yes)) && (pusher 0 0 .yes).inboxRoom 0 1 5 &&
    next (exec (.push 1 2 0 g) { pusher 0x100000000000000 0x10200 .yes with stations := [(0, { tlb := tlb, eng := { copy := { inbox := List.replicate 32 command } } })] }) (fun t =>
      t.cur.flow.waitOn == some 0 && t.cur.pc == 0x1000 && t.net == [] && t.c3of 7 == 0)) = true := by decide
theorem test_push_meets : (pusher 0 0 .yes).mayIssue [1, 2] 0 ∧ (pusher 0 0 .yes).wayFree 0 0 1 cmd3 ∧ (pusher 0 0 .yes).selector 0 0x100000000000001 false = some (0, 1, 1) ∧
    (pusher 0 0 .yes).selector 0 0x400000000000000 false = none ∧ (match Exec.readOwn 0x10200 64 (pusher 0 0 .yes) with | .ok bs _ => bs == cmdBytes | _ => false) = true := by
  have e : (pusher 0 0 .yes).here.eng.heldCmds = [] := by decide
  refine ⟨?_, ⟨(by intro h m; rw [e] at m; cases m), by decide, (by intro _ _; decide)⟩, ?_, ?_, ?_⟩
  · unfold State.mayIssue State.ready State.allPerformed; decide
  all_goals decide
def cmdTo (inbox : Nat) (k : Cmd) : CmdMsg := ⟨k, inbox, 0, 0, .task ⟨0, 0, 0⟩ 7, 7, none⟩
def full (n : Nat) : State := { base with stations := [(0, { eng := { matrix := { inbox := List.replicate n command }, copy := { inbox := List.replicate n command }, coll := { inbox := List.replicate n command } } })] }
/-- A command of each inbox. -/
def good (inbox : Nat) : Cmd := ⟨0, false, 5, 256 * inbox, [0, 0, 0, 0, 0], 0, 9⟩
theorem test_command_checks : (let e := fun (c : CmdMsg) (s : State) (p : State → Bool) => next (exec .engineCommand (msg (.engineCommand c) s)) p
    let faults := fun (v : Word) (t : State) => t.net == [.resultOrStatus ⟨7, BitVec.ofNat 64 (3 * 2 ^ 32 + 9), v, true, true, true⟩]
    e (cmdTo 1 { good 1 with resv := true }) base (faults (faultValue causeILL 0)) && e (cmdTo 1 { good 1 with ptag := 6 }) base (faults (faultValue causePROT 0)) &&
    e (cmdTo 1 (good 1)) base (fun t => (t.stn 0).eng.copy.inbox == [cmdTo 1 (good 1)] && t.net == [.cpchainCommand 0]) &&
    e (cmdTo 0 (good 0)) base (fun t => (t.stn 0).eng.matrix.inbox == [cmdTo 0 (good 0)]) && e (cmdTo 3 (good 3)) base (fun t => (t.stn 0).eng.coll.inbox == [cmdTo 3 (good 3)]) &&
    e (cmdTo 2 (good 2)) base (fun t => Map.get [] (t.vault 0).queues 5 == [cmdTo 2 (good 2)] && t.net == [.bkrunCommand 0]) &&
    e (cmdTo 1 (good 1)) (full 32) (fun t => t.net == [.engineCommand (cmdTo 1 (good 1))]) && !cmdMalformed 1 (good 1) && base.cmdParcelOk 0 1 5) = true := by decide

def result (toFifo : Bool) : ResultMsg := ⟨7, 0x300000009, 5, toFifo, true, true⟩
theorem test_results : (let f := fun (r : ResultMsg) (fl : Flow) (p : State → Bool) => next (exec .resultOrStatus (msg (.resultOrStatus r) { withC { user [] with flow := fl } with c3 := [(7, 2)] })) p
    f (result true) { fifopend := 1, susp := some (.park .pop false) } (fun t => t.cur.flow.fifo == [(0x300000009, 5)] && t.cur.flow.fifopend == 0 && t.c3of 7 == 1 && t.cur.flow.susp == some (.park .pop true)) &&
    f (result true) { saved := true } (fun t => t.net == [.resultOrStatus (result true)]) && f (result false) {} (fun t => t.c3of 7 == 1 && t.cur.flow.fifo == []) &&
    base.whereIs 7 == some ⟨0, 0, 0⟩) = true := by decide
theorem test_push_release : next (exec .pushStallRelease (msg (.pushStallRelease 0 1) (withC { user [] with flow := { waitOn := some 0 } }))) (fun t => t.cur.flow.waitOn == none) = true := by decide
theorem test_pops : (let s := withC { user [] with flow := { fifo := [(0x9, 5), (0xA, 6)], fifopend := 3 } }
    [Instr.pop 4 0, .trypop 4 0, .rfcnt 4 0].map (fun i => (reg 4 (exec i s), reg 5 (exec i s))) == [(0x9, 5), (0x9, 5), (0x30002, 0)] &&
    [Instr.pop 4 0, .trypop 4 0].map (fun i => reg 4 (exec i base)) == [0xFF00000000, 0xFF00000000] &&
    next (exec (.pop 4 0) (withC { user [] with flow := { fifopend := 1 } })) (fun t => t.cur.flow.susp == some (.park .pop false) && t.cur.pc == 0x1000)) = true := by decide

/-! ## Handles and tensors -/

/-- Handle 1: 4 slots of 64 bytes; FILL 3, and a task parked on filled slots. -/
def handled (h : Handle) (ws : List HWaiter) (g : Map Word) : State :=
  { withG g with stations := [(0, { tlb := tlb, kernel := { tvec := 0x8000 }, handles := [(1, h)], hwaiters := ws })] }
def h3 : Handle := { valid := true, base := 0x1000, slotsz := 64, nslot := 4, pix := 1, cix := 2, fill := 3 }
def ho (n : Int) : HOps := ⟨1, .imm n, 0, none⟩
theorem test_handle_waits : (let s := handled h3 [] []
    [Instr.hwaitf (ho 3), .hwaite (ho 1)].all (fun i => next (exec i s) (fun t => t.cur.pc == 0x1002)) &&
    next (exec (.hwaitf (ho 4)) s) (fun t => t.here.hwaiters == [⟨1, true, 4, 7⟩] && t.cur.flow.susp == some (.park .again false) && t.cur.pc == 0x1000) &&
    next (exec (.hwaite (ho 2)) s) (fun t => t.here.hwaiters == [⟨1, false, 2, 7⟩]) && [Instr.hwaitf (ho 5), .hwaite (ho 5)].all (fun i => trapped causeHANDLE 1 (exec i s))) = true := by decide
def parked2 : State := { handled h3 [⟨1, true, 4, 8⟩] [] with ctxs := [(0, user []), (1, { user [] with task := some { task with tid := 8 }, flow := { susp := some (.park .again false) } })] }
theorem test_handle_moves : (next (exec (.hadvp (ho 1)) (handled h3 [] [])) (fun t => t.handle 0 1 == { h3 with pix := 2, fill := 4 } && t.cur.pc == 0x1002) &&
    next (exec (.hadvc (ho 3)) (handled h3 [] [])) (fun t => t.handle 0 1 == { h3 with cix := 1, fill := 0 }) &&
    next (exec (.hadvp (ho 1)) parked2) (fun t => t.here.hwaiters == [] && (t.ctx ⟨0, 0, 1⟩).flow.susp == some (.park .again true)) &&
    trapped causeHANDLE 1 (exec (.hadvp (ho 2)) (handled h3 [] [])) && trapped causeHANDLE 1 (exec (.hadvc (ho 4)) (handled h3 [] []))) = true := by decide
def handleImage (d0 d1 : Nat) : State := (handled h3 [] [(2, 0x10300)]).setBytes (stashFa 0 0 0x300) (bytesOf 8 d0 ++ bytesOf 8 d1)
-- R78: NSLOT at 39, SLOTSZ at 22, BASE; MODE at 62, FILL at 24, CIX at 12, PIX
theorem test_hset : (let d0 := 4 * 2 ^ 39 + 64 * 2 ^ 22 + 0x2000; let x := exec (.hset 1 2 0 none)
    next (x (handleImage d0 0)) (fun t => t.handle 0 1 == ⟨true, 0x2000, 64, 4, 0, 0, 0, 0⟩) &&
    next (x (handleImage d0 (2 ^ 62 + 3 * 2 ^ 24 + 2 * 2 ^ 12 + 1))) (fun t => t.handle 0 1 == ⟨true, 0x2000, 64, 4, 1, 2, 3, 1⟩) &&
    trapped causeHANDLE 0x10300 (x (handleImage d0 (2 ^ 63))) && trapped causeHANDLE 0x10300 (x (handleImage (d0 + 32) 0)) &&
    trapped causeALIGN 0x10308 (x (handled h3 [] [(2, 0x10308)])) && next (x (handled h3 [] [])) (fun t => !(t.handle 0 1).valid)) = true := by decide
theorem test_hset_meets : (handleImage 1 2).ready [2] ∧ (match Exec.readOwn 0x10300 16 (handleImage 1 2) with | .ok bs _ => bs == bytesOf 8 1 ++ bytesOf 8 2 | _ => false) = true := by
  unfold State.ready; decide
theorem test_hget : ((List.range 8).map (fun n => reg 4 (exec (.hget 4 1 (.imm (n : Nat)) 0) (handled h3 [] []))) ==
      [3, 1, 1, 2, BitVec.ofNat 64 (stashFa 0 0 0x1080), BitVec.ofNat 64 (stashFa 0 0 0x1040), 0x8000020010001000, 256] &&
    trapped causeILL 0x1000 (exec (.hget 4 1 (.imm 8) 0) (handled h3 [] []))) = true := by decide

/-! ## More of the same -/

-- log entry 93: an anchor homed at the parent's own station; R22: EXIT in supervisor mode has the status that it names, with TCAUSE
theorem test_spawn_own_anchor : spawned (exec (.spawn 1 2 3) (spawner 0 [(1, 0x10000), (2, 0x10080)])) (fun m => match m with | .taskPacket 0 p => p.counter == 0 | _ => false) = true := by
  decide
theorem test_exit_supervisor : (let s := fun (v : Word) => { withC { user [(16, v)] with sup := true, csr := { tcause := 4 }, task := some { task with reply := stashFa 0 1 0x80 } } with datum := 1 }
    next (exec (.exit 16) (s 3)) (fun t => !t.cur.busy && t.net.any (fun m => match m with | .write w => natOf w.data == 0x10403 | _ => false)) &&
    trapped causeILL 0x1000 (exec (.exit 16) (s 8))) = true := by decide
-- R241: MOVE of one record to station 1, with the number moved in the stored message
theorem test_move : (let m := kmsg [3 * 2 ^ 56, 2 ^ 48 + 1]; let s := { base with stations := [(0, { boot := .released, sched := { ready := [task] } }), (1, { boot := .released })] }
    kgot .move (.move m) s (fun t => (t.stn 0).sched.ready == [] && t.net.any (fun m => m == .publicationComplete ⟨0, 0, 0, .record 0 1 task⟩ 0)) &&
    s.stealable 0 == some task && s.tenantHoldsStn (s.tenantAt 0) 0 1) = true := by decide
-- R243, R244: PREEMPT of a running station, RESUME of a pre-empted one, while a message waits already
theorem test_modes : (kgot .preempt (.preempt (kmsg [2 ^ 56])) base (fun t => (t.stn 0).sched.preempted) &&
    kgot .resume (.resume (kmsg [2 * 2 ^ 56])) { crowded with stations := [(0, { kernel := { pending := [7] }, sched := { preempted := true } })] } (fun t => !(t.stn 0).sched.preempted &&
      (t.stn 0).kernel.pending.length == 2)) = true := by decide
-- R109: to another cube that a route reaches
theorem test_kmsg_away : next (exec (.kmsg 16 17) { ksender 0 0x500000001 (BitVec.ofNat 64 (stashFa 0 0 0x100)) with router := { routes := [(5, [0])] } }) (fun t =>
    t.cur.flow.c2 == 1 && t.cur.pc == 0x1002 && Map.get 0 t.plat.errors 10 == 0) = true := by decide

/-- A descriptor image at 0x10400 for identifier 3: rank 2, BF16, base 0x10800, extents 4 and 6, strides 1 and 4. -/
def descImage (fmt : Nat) : List Byte :=
  bytesOf 8 (3 * 2 ^ 54 + 2 * 2 ^ 49 + fmt * 2 ^ 45 + 0x10800 / 64) ++ bytesOf 8 (6 * 2 ^ 32 + 4) ++ bytesOf 8 0 ++ bytesOf 8 (4 * 2 ^ 32 + 1) ++ bytesOf 32 0
def d3 : Desc := ⟨2, 1, false, 0x10800, [4, 6], [1, 4], 0, 0, 0, 0⟩
def eo : EngOps := ⟨1, 2, 3, 0, none⟩
/-- The image, and a shape record of 2 segments of 2 and 3 rows at 0x10500; entry 3 holds `d`. -/
def tabled (fmt : Nat) (d : Option Desc) (g : Map Word) : State :=
  { ((withG g).setBytes (stashFa 0 0 0x400) (descImage fmt)).setBytes (stashFa 0 0 0x500) (bytesOf 8 (5 * 2 ^ 16 + 2) ++ bytesOf 2 2 ++ bytesOf 2 3) with
    tables := { parcels := parcels, tensors := match d with | some x => [(3 + 1024 * 5, some x)] | none => [] } }
def held (id : Nat) (o : Out) : Option Desc := match o with | .next t => t.tensor 5 id | _ => none
theorem test_tdef : (held 3 (exec (.tdef eo) (tabled 1 none [(2, 0x10400), (3, 3)])) = some d3 ∧ held 3 (exec (.tdef eo) (tabled 1 (some d3) [(3, 3)])) = none) ∧
    (trapped causeFMT 0x10400 (exec (.tdef eo) (tabled 14 none [(2, 0x10400), (3, 3)])) && trapped causeFMT 0x10400 (exec (.tdef eo) (tabled 1 none [(2, 0x10400), (3, 4)])) &&
    trapped causeALIGN 0x10408 (exec (.tdef eo) (tabled 1 none [(2, 0x10408), (3, 3)])) && trapped causeILL 0x1000 (exec (.tdef eo) (tabled 1 none [(2, 0x10400), (3, 1024)]))) = true := by decide
theorem test_tshp : (held 3 (exec (.tshp eo) (tabled 1 (some d3) [(2, 3), (3, 0x10500)])) = some { d3 with shape := 0x10500, segs := 2 } ∧
      held 3 (exec (.tshp eo) (tabled 1 (some { d3 with shape := 64, segs := 2 }) [(2, 3)])) = some d3) ∧
    (trapped causeFMT 3 (exec (.tshp eo) (tabled 1 none [(2, 3)])) && trapped causeFMT 0x10600 (exec (.tshp eo) (tabled 1 (some d3) [(2, 3), (3, 0x10600)])) &&
    trapped causeALIGN 0x10501 (exec (.tshp eo) (tabled 1 (some d3) [(2, 3), (3, 0x10501)])) && trapped causeILL 0x1000 (exec (.tshp eo) (tabled 1 none [(2, 1024)]))) = true := by decide
theorem test_tensor_reads : (let s := tabled 1 (some d3) []
    (match Exec.readIn .va 0x10400 64 s with | .ok bs _ => bs == descImage 1 | _ => false) && (match Exec.readShape false 0x10500 6 s with | .ok l _ => l == some [2, 3] | _ => false) &&
    descOk 3 (dwsOf 8 (descImage 1)) [] && (match Exec.readShape false 0x10600 6 s with | .ok none _ => true | _ => false)) = true := by decide
theorem test_tensor_meets : (tabled 1 none []).ready [2, 3] ∧ descOf (dwsOf 8 (descImage 1)) [] = d3 := by unfold State.ready; decide

/-! ## Engines -/

/-- A: 2 × 1, elements 1.0, 2.0. B: 1 × 2, elements 3.0, 0.5. C: one F32 element. -/
def dA : Desc := ⟨2, 1, false, 0x10400, [2, 1], [1, 2], 0, 0, 0, 0⟩
def dB : Desc := ⟨2, 1, false, 0x10440, [1, 2], [1, 1], 0, 0, 0, 0⟩
def dC : Desc := ⟨2, 0, false, 0x10480, [1, 1], [1, 1], 0, 0, 0, 0⟩
def tensors : Map (Option Desc) := [(1 + 1024 * 5, some dA), (2 + 1024 * 5, some dB), (3 + 1024 * 5, some dC)]
def withTensors (s : State) : State :=
  { ((s.setBytes (stashFa 0 0 0x400) (bytesOf 4 0x40003F80)).setBytes (stashFa 0 0 0x440) (bytesOf 4 0x3F004040)).setBytes (stashFa 0 0 0x480) (bytesOf 4 0x40A00000) with
    tables := { parcels := parcels, tensors := tensors } }
def issuer (g : Map Word) : State := withTensors (withG g)
/-- The inbox, opcode, flags and operands of the command that an instruction sent to its own station. -/
def sent (o : Out) : Option (Nat × Nat × Nat × List Word) := match o with
  | .next t => (match t.net with | [.engineCommand m] => if m.stn == 0 && m.cmd.ptag == 5 && t.c3of 7 == 1 then some (m.inbox, m.cmd.opcode, m.cmd.flags, m.cmd.opnd) else none | _ => none)
  | _ => none
theorem test_engine_issue : ([(Instr.mma eo, issuer [(2, 0x20001), (4, 0x100000000)]), (.mmasd eo, { issuer [(2, 0x20001), (4, 0x100000000)] with tables := { parcels := parcels, tensors := (1 + 1024 * 5, some { dA with shape := 0x10500, segs := 1 }) :: tensors.drop 1 } }),
      (.mst eo, issuer [(2, 3), (3, 0x200000001)]), (.mld eo, issuer [(2, 3)]), (.mzero eo, issuer [(2, 7)]), (.cpchain eo, issuer [(2, 0x100)]), (.bkrun eo, issuer [(1, 0x8000000000000000), (2, 0x40), (3, 3)]),
      (.clred eo, issuer [(1, 0x0100000000010002), (2, 4), (3, 8)]), (.clmcast eo, issuer [(1, 0x0110000000010002), (2, 2)])].map (fun x => sent (exec x.1 x.2))) =
    [some (0, 0, 1, [0x100020001, 0, 0x100000000, 0, 0]), some (0, 5, 1, [0x100020001, 0, 0x100000000, 0, 0]), some (0, 3, 0, [0x100000003, 0x200000001, 0, 0, 0]),
     some (0, 4, 1, [0x100000003, 0, 0, 0, 0]), some (0, 2, 1, [0x100000000, 7, 0, 0, 0]), some (1, 0x100, 0, [0x100, 0, 0, 0, 0]), some (2, 0x200, 0, [0x40, 3, 0, 0, 0]),
     some (3, 0x300, 0, [0x0100000000010002, 4, 8, 0, 0]), some (3, 0x301, 0, [0x0110000000010002, 2, 0, 0, 0])] := by decide
def traversing (m : Matrix) (s : State) : State := { s with stations := [(0, { tlb := tlb, kernel := { tvec := 0x8000 }, eng := { matrix := m } })] }
theorem test_mtrav_issue : sent (exec (.mtrav eo) (traversing { en := true } (issuer [(2, 0x20001), (4, 0x10100000000)]))) = some (0, 1, 1, [0x100020001, 0, 0x10100000000, 0, 0]) := by decide
theorem test_engine_issue_meets : (issuer []).mayIssue [1, 2, 3, 4] 0 ∧ bindRuns (bindOf (issuer []).cur none) = some true := by
  unfold State.mayIssue State.ready State.allPerformed; decide
theorem test_engine_way : (issuer []).wayFree 0 0 0 (good 0) := by
  have e : (issuer []).here.eng.heldCmds = [] := by decide
  exact ⟨(by intro h m; rw [e] at m; cases m), by decide, (by intro _ _; decide)⟩
-- no step; no such tensor; a pair that is no combination names B, an A of no combination itself; the step's origin; MMASD of a tensor that is not ragged
theorem test_engine_issue_traps : (let m := exec (.mma eo)
    trapped causeILL 0x1000 (m (issuer [(2, 0x20001)])) && trapped causeFMT 9 (m (issuer [(2, 0x20009), (4, 0x100000000)])) && trapped causeFMT 3 (m (issuer [(2, 0x30001), (4, 0x100000000)])) &&
    trapped causeFMT 3 (m (issuer [(2, 0x20003), (4, 0x100000000)])) && trapped causeILL 0x1000 (m (issuer [(2, 0x20001), (3, 0x100000000), (4, 0x100000000)])) &&
    trapped causeFMT 1 (exec (.mmasd eo) (issuer [(2, 0x20001), (4, 0x100000000)])) && trapped causeILL 0x1000 (exec (.mtrav eo) (issuer [(2, 0x20001), (4, 0x10100000000)])) &&
    trapped causeILL 0x1000 (exec (.mst eo) (issuer [(2, 1024)])) && trapped causeFMT 4 (exec (.mld eo) (issuer [(2, 4)])) && trapped causeILL 0x1000 (exec (.mzero eo) (issuer [(2, 0x100000000)])) &&
    trapped causeALIGN 0x80 (exec (.cpchain eo) (issuer [(2, 0x80)])) && trapped causeALIGN 2 (exec (.bkrun eo) (issuer [(1, 0x8000000000000000), (2, 2)])) &&
    trapped causeILL 0x1000 (exec (.bkrun eo) (issuer [(1, 0x8000000000000000), (3, 0x400)])) && trapped causePROT 4 (exec (.bkrun eo) (issuer [(1, 4)])) &&
    trapped causeILL 0x1000 (exec (.clred eo) (issuer [])) && trapped causeFMT 0x0104000000000000 (exec (.clred eo) (issuer [(1, 0x0104000000000000)])) &&
    trapped causeALIGN 2 (exec (.clred eo) (issuer [(1, 0x0100000000000000), (2, 2)])) && trapped causeALIGN 1 (exec (.clmcast eo) (issuer [(1, 0x0110000000000000), (3, 1)]))) = true := by decide
theorem test_cpwait : (next (exec (.cpwait { eo with b := 5 }) (withG [(3, 6), (5, 0x20040)])) (fun t => match t.net with
      | [.waitArm w] => w.cond == .cpwait && w.fa == there.fa && w.val == 6 && w.dest == 1 && t.cur.flow.waitOn == some 1 | _ => false)) = true ∧
    trapped causeILL 0x1000 (exec (.cpwait { eo with b := 5 }) (withG [(3, 0x8000000000000000), (5, 0x20040)])) = true := by decide
-- 8 bytes to station 1, with a handler at 0x2000; the length, the destination and the handler's address are checked
theorem test_sendh : (let s := fun (a c e : Word) => withG [(1, a), (2, 0x10040), (3, c), (4, e)]; let d := BitVec.ofNat 64 (stashFa 0 1 0x40)
    next (exec (.sendh eo) (s d 8 0x2000)) (fun t => t.cur.flow.c1 == 1 && t.cur.pc == 0x1002 && (match t.net with
      | [.publicationComplete ⟨0, 0, 0, .data 0 1 x⟩ 0] => x.addr == d.toNat && x.pc == 0x2000 && x.data.length == 8 | _ => false)) &&
    [0, 4, 248].all (fun n => trapped causeILL 0x1000 (exec (.sendh eo) (s d n 0x2000))) && trapped causePROT 0x40 (exec (.sendh eo) (s 0x40 8 0x2000)) &&
    trapped causePROT 0x1000000000000 (exec (.sendh eo) (s d 8 0x1000000000000)) && trapped causeALIGN (d + 4) (exec (.sendh eo) (s (d + 4) 8 0x2000)) && trapped causeALIGN 3 (exec (.sendh eo) (s d 8 3))) =
    true := by decide

/-! ## The matrix engine -/

def mcmd (opcode : Nat) (ops : List Word) : CmdMsg := ⟨⟨if opcode == 3 then 0 else 1, false, 5, opcode, ops, 0, 9⟩, 0, 0, 0, .task ⟨0, 0, 0⟩ 7, 7, none⟩
def mstate (opcode : Nat) (ops : List Word) (f : Matrix → Matrix) : State := traversing (f { inbox := [mcmd opcode ops], en := true }) (issuer [])
def mgoes (i : Instr) (m : Msg) (s : State) (p : State → Bool) : Bool := next (exec i (msg m s)) p
def acc00 (q : Nat) (t : State) : BitVec 32 := Map.get 0 (Map.get ({} : Accum) (t.matrix 0).accs q).vals 0
def finished (status : Nat) (v : Word) (t : State) : Bool :=
  (t.matrix 0).inbox == [] && t.net.contains (.resultOrStatus ⟨7, BitVec.ofNat 64 (status * 2 ^ 32 + 9), v, false, false, true⟩)
def ops1 : List Word := [0x100020001, 0, 0x100000000, 0, 0]
theorem test_mma_start : mgoes .mmaCommand (.mmaCommand 0) (mstate 0 ops1 id) (fun t => (t.matrix 0).started && (t.matrix 0).descs == [dA, dB] && t.net == [.mmaCommand 0]) = true := by decide
-- the step adds 1.0 × 3.0 + 2.0 × 0.5 to 0.5 in element (0, 0)
theorem test_mma_step : mgoes .mmaCommand (.mmaCommand 0) (mstate 0 ops1 (fun m => { m with started := true, descs := [dA, dB], accs := [(1, { vals := [(0, 0x3F000000), (1, 0x40000000)] })] }))
    (fun t => acc00 1 t == 0x40900000 && (t.matrix 0).steps == 1 && Map.get 0 (Map.get ({} : Accum) (t.matrix 0).accs 1).vals 1 == (0x40000000 : BitVec 32)) = true := by decide +kernel
theorem test_mma_end : mgoes .mmaCommand (.mmaCommand 0) (mstate 0 ops1 (fun m => { m with started := true, descs := [dA, dB], steps := 1 })) (finished 0 1) = true ∧
    mgoes .mmaCommand (.mmaCommand 0) (mstate 0 [0x100020009, 0, 0x100000000, 0, 0] id) (fun t => finished 3 (faultValue causeFMT 9) t && (Map.get ({} : Accum) (t.matrix 0).accs 1).astat == 3) = true := by decide
theorem test_mmasd : mgoes .mmasdCommand (.mmasdCommand 0) (mstate 5 ops1 id) (finished 3 (faultValue causeFMT 1)) = true ∧
    mgoes .mmasdCommand (.mmasdCommand 0) (mstate 5 ops1 (fun m => { m with started := true, descs := [dA, dB], steps := 1 })) (finished 0 1) = true := by decide
def trav (p : Nat) : Trav := ⟨0, p, 50, 0, 0⟩
def opsT : List Word := [0x100020001, 0, 0x10100000000, 0, 0]
theorem test_mtrav : (mgoes .mtravCommand (.mtravCommand 0) (mstate 1 opsT id) (fun t => (t.matrix 0).trav == some ⟨0, travLoad, 1000000, 0, 0⟩ && t.timers == [(1000001, .latchTimeout 0)]) &&
    mgoes .mtravCommand (.mtravCommand 0) (mstate 1 opsT (fun m => { m with started := true, descs := [dA, dB], trav := some (trav travTake) })) (fun t => t.net == [.mtravCommand 0]) &&
    mgoes .mtravCommand (.mtravCommand 0) (mstate 1 opsT (fun m => { m with started := true, descs := [dA, dB], trav := some (trav travTake), latch := [⟨2, 3, 0, 0, []⟩] })) (finished 3 (faultValue causeFMT 2))) = true := by decide
theorem test_mtrav_load : mgoes .mtravCommand (.mtravCommand 0) (mstate 1 opsT (fun m => { m with started := true, descs := [dA, dB], trav := some (trav travLoad) }))
    (fun t => (t.matrix 0).latch.map (fun z => (z.tensor, z.fmt, z.elems.length, z.elems.getD 0 (0, 0, 0))) == [(2, 1, 4096, (0x4040, 0x60, 0x3F80))] && (t.matrix 0).trav.map (fun x => x.phase) == some travTake) = true := by
  decide +kernel
def z0 : Tile := ⟨2, 1, 0, 0, List.replicate 4096 (0x4040, 0x60, 0x3F80)⟩
-- every element of the tile is 3.0; A's row is 1.0, 2.0
theorem test_mtrav_apply : mgoes .mtravCommand (.mtravCommand 0) (mstate 1 opsT (fun m => { m with started := true, descs := [dA, dB], trav := some (trav travTake), latch := [z0] }))
    (fun t => acc00 1 t == 0x41100000 && (t.matrix 0).trav.map (fun x => x.phase) == some travMove && t.net == [.traverseTile 0]) = true := by decide +kernel
theorem test_traverse : (let f := fun (n : Nat) => { mstate 1 opsT (fun m => { m with started := true, descs := [dA, dB], trav := some (trav travMove), latch := [z0], next := 1 }) with
        stations := [(0, { eng := { matrix := { inbox := [mcmd 1 opsT], started := true, descs := [dA, dB], trav := some (trav travMove), latch := [z0], next := 1, steps := 1 } } }), (1, { eng := { matrix := { latch := List.replicate n z0 } } })] }
    mgoes .traverseTile (.traverseTile 0) (f 2) (fun t => t.net == [.traverseTile 0]) &&
    mgoes .traverseTile (.traverseTile 0) (f 1) (fun t => (t.matrix 1).latch.length == 2 && (t.matrix 0).latch == [] && finished 0 1 t)) = true := by decide
theorem test_latch_timeout : mgoes .latchTimeout (.latchTimeout 0) { mstate 1 opsT (fun m => { m with started := true, descs := [dA, dB], trav := some (trav travTake) }) with datum := 51 }
    (fun t => finished 5 0 t && (Map.get ({} : Accum) (t.matrix 0).accs 1).astat == 5) = true := by decide
theorem test_mzero : mgoes .mzeroCommand (.mzeroCommand 0) (mstate 2 [0x100000000, 0x3F800000, 0, 0, 0] (fun m => { m with accs := [(1, { astat := 3 })] }))
    (fun t => finished 0 4096 t && acc00 1 t == 0x3F800000 && Map.get 0 (Map.get ({} : Accum) (t.matrix 0).accs 1).vals 4095 == (0x3F800000 : BitVec 32) && (Map.get ({} : Accum) (t.matrix 0).accs 1).astat == 0) = true := by decide +kernel
theorem test_mld : (mgoes .mldCommand (.mldCommand 0) (mstate 4 [0x100000003, 0, 0, 0, 0] (fun m => { m with accs := [(1, { vals := [(1, 7)] })] }))
      (fun t => finished 0 1 t && (Map.get ({} : Accum) (t.matrix 0).accs 1).vals == [(0, 0x40A00000)]) &&
    mgoes .mldCommand (.mldCommand 0) (mstate 4 [0x100000009, 0, 0, 0, 0] id) (finished 3 (faultValue causeFMT 9))) = true := by decide +kernel
def mstDone (f : Matrix → Matrix) : State := mstate 3 [0x100000003, 0, 0, 0, 0] (fun m => f { m with started := true, waits := [4], accs := [(1, { astat := 3, aflg := 1, value := 8 })] })
theorem test_mst : (mgoes .mstCommand (.mstCommand 0) (mstate 3 [0x100000003, 0, 0, 0, 0] (fun m => { m with accs := [(1, { vals := [(0, 0x40000000)] })] }))
      (fun t => (t.matrix 0).started && t.net.any (fun m => match m with | .write w => w.fa == stashFa 0 0 0x480 && natOf w.data == 0x40000000 && (t.matrix 0).waits == [w.id] | _ => false)) &&
    mgoes .mstCommand (.mstCommand 0) (mstDone id) (fun t => t.net.contains (.resultOrStatus ⟨7, BitVec.ofNat 64 (2 ^ 40 + 3 * 2 ^ 32 + 9), 8, true, true, true⟩) && (Map.get ({} : Accum) (t.matrix 0).accs 1).astat == 0) &&
    mgoes .mstCommand (.mstCommand 0) { mstDone id with stations := [(0, { (mstDone id).stn 0 with eng := { ((mstDone id).stn 0).eng with writesOut := [4] } })] } (fun t => t.net == [.mstCommand 0])) = true := by decide +kernel
theorem test_matrix_meets : ((mstate 0 ops1 id).matrix 0).lent (mcmd 0 ops1) = false ∧ combo 1 1 = some (64, 16) ∧ (mstate 3 [0x100000003] id).accTensor (mcmd 3 [0x100000003]) = .ok dC ∧
    (mstate 1 opsT (fun m => { m with started := true })).travReady 0 (trav travTake) = false ∧ (issuer []).engShape ⟨0, 0, 5⟩ dA = .ok [] := ⟨rfl, rfl, rfl, rfl, rfl⟩
theorem test_trvcfg : (let s := fun (b c : Word) (p : Bool) => { (withC { user [] with sup := p, files := { g := [(16, b), (17, c)] } }) with stations := [(0, { kernel := { tvec := 0x8000 }, eng := { matrix := { latch := [z0] } } })] }
    let o : EngOps := ⟨0, 16, 17, 0, none⟩
    next (exec (.trvcfg o) (s 0x9003000000000001 77 true)) (fun t => let m := t.matrix 0; m.en && m.size == 1 && m.dmask == 3 && m.next == 1 && m.timeout == 77 && m.latch == [] && t.cur.pc == 0x1002) &&
    trapped causeILL 0x1000 (exec (.trvcfg o) (s 0x4000000000000000 0 true)) && trapped causePROT 0x8000000000000004 (exec (.trvcfg o) (s 0x8000000000000004 0 true)) &&
    trapped causePRIV 0 (exec (.trvcfg o) (s 0 0 false)) && trapped causeILL 0x1000 (exec (.trvcfg o) (s 0x4000000000000000 0 false))) = true := by decide

-- the last step of an MTRAV that stops (bit 41): it completes in the step that takes the tile, and the tile is gone
def opsL : List Word := [0x100020001, 0, 0x30100000000, 0, 0]
theorem test_mtrav_last : mgoes .mtravCommand (.mtravCommand 0) (mstate 1 opsL (fun m => { m with started := true, descs := [dA, dB], trav := some (trav travTake), latch := [z0] }))
    (fun t => finished 0 1 t && acc00 1 t == 0x41100000 && (t.matrix 0).latch == []) = true := by decide +kernel
/-- C's shape record at 0x10600 has no segments. -/
def badShape : State := { mstate 4 [0x100000003, 0, 0, 0, 0] id with tables := { parcels := parcels, tensors := [(3 + 1024 * 5, some { dC with shape := 0x10600, segs := 1 })] } }
theorem test_mld_shape : mgoes .mldCommand (.mldCommand 0) badShape (finished 3 (faultValue causeFMT (stashFa 0 0 0x600))) = true := by decide
-- R225: a full bank queue takes a further command
theorem test_bank_queue : next (exec .engineCommand (msg (.engineCommand (cmdTo 2 (good 2))) { base with vaults := [(0, { queues := [(5, List.replicate 64 command)] })] }))
    (fun t => (Map.get [] (t.vault 0).queues 5).length == 65) = true := by decide

/-! ## Copies -/

/-- A transfer record of 4 elements of 4 bytes from 0x10040 to 0x10900, the next at 0x10300. -/
def xrec (own esize : Nat) : List Byte :=
  bytesOf 8 (2 ^ 56 + esize * 2 ^ 52 + own * 2 ^ 48 + 0x10300) ++ bytesOf 8 0 ++ bytesOf 8 0x10040 ++ bytesOf 8 0x10900 ++ bytesOf 64 4 ++ bytesOf 80 4 ++ bytesOf 80 4
def ccmd : CmdMsg := ⟨⟨0, false, 5, 0x100, [0x10A00, 0, 0, 0, 0], 0, 9⟩, 1, 0, 0, .task ⟨0, 0, 0⟩ 7, 7, none⟩
def chained (c : Option Chain) (img : List Byte) : State :=
  { filled.setBytes (stashFa 0 0 0xA00) img with stations := [(0, { tlb := tlb, eng := { copy := { inbox := [ccmd], chain := c } } })] }
def chain0 : Chain := ⟨0x10A00, 0, none, none, false, []⟩
def cgoes (c : Option Chain) (img : List Byte) (p : Option Chain → State → Bool) : Bool :=
  next (exec .cpchainCommand (msg (.cpchainCommand 0) (chained c img))) (fun t => p (t.copyEng 0).chain t)
theorem test_chain_walk : (cgoes none [] (fun c t => c == some chain0 && t.net == [.cpchainCommand 0]) && cgoes (some { chain0 with rec_ := 0 }) [] (fun c _ => c.map (fun x => x.ended) == some true) &&
    cgoes (some { chain0 with rec_ := 0x80 }) [] (fun c _ => c.map (fun x => (x.ended, x.fail)) == some (true, some (3, faultValue causeALIGN 0x80))) &&
    cgoes (some chain0) (xrec 0 2) (fun c _ => c.map (fun x => (x.ended, x.fail)) == some (true, none)) &&
    cgoes (some chain0) (xrec 1 9) (fun c _ => c.map (fun x => (x.ended, x.fail)) == some (true, some (3, faultValue causeILL (stashFa 0 0 0xA00)))) &&
    cgoes (some chain0) (xrec 1 2) (fun c _ => c.map (fun x => (x.rec_, x.active.map (fun y => (y.rec_, y.next, y.phase)))) == some (0x10300, [(0x10A00, 0, 0)]))) = true := by decide +kernel
def xfer (phase : Nat) : Xfer := ⟨0x10A00, stashFa 0 0 0xA00, xrec 1 2, 0, 0, [], [], [], phase⟩
theorem test_chain_moves : cgoes (some { chain0 with rec_ := 0x10300, ended := true, active := [xfer 0] }) (xrec 1 2) (fun c t =>
    c.map (fun x => x.active.map (fun y => y.next)) == some [4] && t.net.any (fun m => match m with
      | .write w => w.fa == stashFa 0 0 0x900 && natOf w.data == 0x908F8E8D8C8B8A898887868584838281 | _ => false)) = true := by decide +kernel
theorem test_chain_ends : cgoes (some { chain0 with rec_ := 0x10300, consumed := 2, ended := true, active := [xfer 4] }) [] (fun c t => c == none && (t.copyEng 0).inbox == [] &&
    t.net.contains (.resultOrStatus ⟨7, 9, 0x2000000010300, true, true, true⟩)) = true := by decide
theorem test_record_complete : next (exec .transferRecordComplete (msg (.transferRecordComplete 0 (stashFa 0 0 0xA00)) (chained (some { chain0 with active := [xfer 1] }) (xrec 1 2)))) (fun t =>
    (t.copyEng 0).chain.map (fun c => c.active.map (fun x => x.phase)) == some [2] && t.net.any (fun m => match m with
      | .write w => w.fa == stashFa 0 0 0xA00 && w.order == 1 && w.scope == 3 && natOf w.data == 2 ^ 56 + 2 * 2 ^ 52 + 0x10300 | _ => false)) = true := by decide
theorem test_copy_meets : (chained none []).overlaps ⟨0, 1, 5⟩ [xrec 1 2] = .ok [] ∧ xferOk (xrec 1 2) = true ∧ xferOk (xrec 1 9) = false ∧ (nextRun (xrec 1 2) 0).length = 4 ∧
    (match (chained none (xrec 1 2)).engClean ⟨0, 1, 5⟩ false 0x10A00 256 with | .ok bs => bs == xrec 1 2 | _ => false) = true := by decide +kernel
/-- A gather record: 1 row of 2 elements of 4 bytes, from a table of 2 rows at 0x10040. -/
def grec : List Byte := bytesOf 8 (2 * 2 ^ 56 + 2 * 2 ^ 52 + 2 ^ 49 + 2 ^ 48) ++ bytesOf 8 0 ++ bytesOf 8 0x10040 ++ bytesOf 8 0x10900 ++ bytesOf 8 (2 ^ 32 + 2) ++ bytesOf 8 2 ++ bytesOf 8 0x10B00 ++
  bytesOf 40 0 ++ bytesOf 5 4 ++ bytesOf 75 8 ++ bytesOf 5 4 ++ bytesOf 75 8
theorem test_gather : next (exec .gatherSublist (msg (.gatherSublist 0 (stashFa 0 0 0xA00) 0) (chained (some { chain0 with active := [{ xfer 0 with image := grec, rows := [(0, 1)] }] }) grec))) (fun t =>
    (t.copyEng 0).chain.map (fun c => c.active.map (fun x => (x.next, x.rows))) == some [(2, [])] && t.net.any (fun m => match m with
      | .write w => w.fa == stashFa 0 0 0x900 && natOf w.data == 0x908F8E8D8C8B8A89 | _ => false)) = true := by decide +kernel

/-! ## Tile tasks -/

/-- A tile-task record at 0x10B00: accumulator 1, tensors 1, 2 and 3, one step; its dependence counter and completion counter. -/
def tileDws (dep done : Nat) : List Nat := [2 ^ 56 + 2 ^ 50, 3 * 2 ^ 32 + 2 * 2 ^ 16 + 1, 0, 2 ^ 32, dep, 4, done, 0]
def ttasker (dws : List Nat) (n : Nat) : State :=
  let s := (issuer [(2, 0x10B00)]).setBytes (stashFa 0 0 0xB00) (dws.flatMap (bytesOf 8))
  { s with tables := { s.tables with tileCount := n } }
theorem test_ttask : (let s := ttasker (tileDws 0 0) 0
    next (exec (.ttask eo) s) (fun t => t.net == [.tileTaskRecord 5 ((tileDws 0 0).map (BitVec.ofNat 64)) (.task ⟨0, 0, 0⟩ 7)] && t.cur.flow.c1 == 1 && t.cur.pc == 0x1002) &&
    trapped causeFMT 0x10B00 (exec (.ttask eo) (ttasker ((tileDws 0 0).set 0 0) 0)) && trapped causeFMT 0x10B00 (exec (.ttask eo) (ttasker ((tileDws 0 0).set 1 0x0000000300020009) 0)) &&
    trapped causeALIGN 0x10B20 (exec (.ttask eo) (issuer [(2, 0x10B20)]))) = true := by decide
def tmsg (dws : List Nat) (s : State) : State := msg (.tileTaskRecord 5 (dws.map (BitVec.ofNat 64)) (.task ⟨0, 0, 0⟩ 7)) { s with ctxs := [(0, { user [] with flow := { c1 := 1 } })] }
theorem test_tile_record : (next (exec .tileTaskRecord (tmsg (tileDws 0 0) (issuer []))) (fun t => t.tables.tiles.map (fun x => (x.ptag, x.key, x.ready)) == [(5, 10000000, true)] && t.cur.flow.c1 == 0 &&
      t.net == [.tileTaskDispatch 5]) &&
    next (exec .tileTaskRecord (tmsg (tileDws (stashFa 0 1 0x40) 0) (issuer []))) (fun t => t.tables.tiles.map (fun x => x.ready) == [false] &&
      (match t.net with | [.waitArm w] => w.cond == .tile && w.fa == stashFa 0 1 0x40 && w.val == 4 | _ => false)) && (issuer []).dispatcher 5 == some 0) = true := by decide
def tiled (broken : Bool) (dmask : Nat) : State :=
  let s := issuer []
  { s with tables := { s.tables with tiles := [⟨1, 5, (tileDws 0 0).map (BitVec.ofNat 64), .task ⟨0, 0, 0⟩ 7, 0, true, broken⟩] }
           stations := [(0, { tlb := tlb, eng := { matrix := { dmask := dmask } } })] }
theorem test_tile_dispatch : (let f := fun (s : State) (p : State → Bool) => next (exec .tileTaskDispatch (msg (.tileTaskDispatch 5) s)) p
    f (tiled true 2) (fun t => t.tables.tiles == []) && f (tiled false 0) (fun t => t.tables.tiles.length == 1 && t.net == [.tileTaskDispatch 5]) &&
    f (tiled false 2) (fun t => t.tables.tiles == [] && t.net.any (fun m => match m with
      | .engineCommand c => c.stn == 0 && c.inbox == 0 && c.cmd.ptag == 5 && c.cmd.opnd.length == 5 | _ => false)) && (tiled false 2).tileStations 5 1 == [0]) = true := by decide

/-! ## Banks -/

/-- Slots: 0 N64 of 256 elements, piece 0, 1 F32 of 16 from piece 1, 2 N32 of 4 from piece 2, 3 a table of 2 rows of 4 BF16. -/
def slots : List (Option Desc) :=
  [some ⟨1, 13, true, 0, [256], [1], 0, 0, 0, 0⟩, some ⟨1, 0, true, 0x800, [16], [1], 0, 0, 0, 0⟩, some ⟨1, 11, true, 0x1000, [4], [1], 0, 0, 0, 0⟩,
   some ⟨2, 1, true, 0x1800, [4, 2], [1, 4], 0, 0, 0, 0⟩]
def bcmd : CmdMsg := ⟨⟨0, false, 5, 0x200, [0x0003000000010C00, 0, 0, 0, 0x0000000200000001], 0, 9⟩, 2, 0, 0, .task ⟨0, 0, 0⟩ 7, 7, none⟩
def run (b : Bank) : BankRun := ⟨bcmd, [0, 0, 0, 0], [0x40, 0x44, 0x48, 0x4C], slots, [(0, b)], 0, 0, [], [], [], none⟩
/-- Bank 0 of vault 0 at a move from a source port; index 1 in slot 2, and 1.0, 2.0 in the second row of slot 3. -/
def moving (dst src imm : Nat) (b : Bank) : State :=
  { (((base.setBytes (vaultFa 0 0x1000) (bytesOf 4 1)).setBytes (vaultFa 0 0x1808) (bytesOf 4 0x40003F80)).setBytes (vaultFa 0 0) (bytesOf 2 0x4040)) with
    vaults := [(0, { serving := some 5, runs := [(5, run b)], queues := [(5, [bcmd])] })]
    hand := { base.hand with vault := 0, bank := 0, move := dst * 2 ^ 26 + src * 2 ^ 20 + imm } }
def ports (ps : List (Nat × Nat)) : Map (BitVec 32) := ps.map (fun p => (p.1, BitVec.ofNat 32 p.2))
/-- The bank after a move. -/
def bank0 (o : Out) (p : Bank → State → Bool) : Bool := next o (fun t => match (t.vault 0).running with | some r => p (Map.get {} r.banks 0) t | none => false)
def failed (cause : Nat) (o : Out) : Bool := next o (fun t => (t.vault 0).running.isNone && (t.vault 0).runs.any (fun e => e.2.fail == some (3, faultValue cause 0x40)) && t.net.contains (.bkrunCommand 0))
theorem test_bank_fetches : (bank0 (exec .rbfetch (moving 7 0 0 {})) (fun b _ => b.row.length == 256 && b.row.getD 0 (0, 0, 0) == (0x4040, 0x60, 0x3F80) && b.port 6 == 1 && b.port 7 == 0 && b.pc == 1) &&
    bank0 (exec .rbfetch (moving 7 0 0 { ports := ports [(6, 1)] })) (fun b _ => b.halted) &&
    bank0 (exec .ivload (moving 11 1 3 {})) (fun b _ => b.ivb.map (fun e => e.1) == [0, 0, 0, 0, 0x3F80, 0x4000, 0, 0] && b.ivSlot == 3) &&
    bank0 (exec .idxfetch (moving 25 0 0 { ports := ports [(23, 2)] })) (fun b _ => b.port 25 == 1 && b.port 24 == 1) &&
    bank0 (exec .rowget (moving 26 1 3 { ports := ports [(25, 1)] })) (fun b _ => b.row.map (fun e => e.1) == [0x3F80, 0x4000, 0, 0] && b.port 7 == 4) &&
    failed causeILL (exec .ivload (moving 11 2 1 {})) && failed causePROT (exec .rowget (moving 26 1 3 { ports := ports [(25, 2)] })) && failed causeFMT (exec .idxfetch (moving 25 0 0 {})) &&
    failed causePROT (exec .idxfetch (moving 25 0 0 { ports := ports [(23, 2), (24, 4)] }))) = true := by decide +kernel
def oct (c : Nat) : List (Nat × Nat × Nat) := List.replicate 8 (c, 0x60, 0x3F80)
theorem test_bank_mac : (bank0 (exec .mac (moving 13 0 0 { row := oct 0x4040, ivb := oct 0x4000, rowSlot := 3, ivSlot := 3, acc := [(8, 0x3F800000)], ports := ports [(12, 1)] }))
      (fun b _ => b.lane 1 0 == 0x40E00000 && b.lane 1 7 == 0x40C00000 && b.lane 0 0 == 0 && b.port 9 == 8 && b.port 10 == 8) &&
    failed causePROT (exec .mac (moving 13 0 0 { row := oct 0, ivb := [], rowSlot := 3 })) && failed causeFMT (exec .mac (moving 13 0 0 { row := oct 0, ivb := oct 0, rowSlot := 3, ivSlot := 1 }))) = true := by decide
theorem test_bank_numbers : (bank0 (exec .iadd (moving 15 1 7 { ports := ports [(14, 0xFFFFFFFF)] })) (fun b _ => b.port 15 == 6) && bank0 (exec .ishr (moving 16 1 36 { ports := ports [(14, 0xF0)] })) (fun b _ => b.port 15 == 0xF) &&
    bank0 (exec .loop (moving 18 1 2 { pc := 0, ports := ports [(17, 2)] })) (fun b _ => b.port 17 == 1 && b.pc == 2) && bank0 (exec .loop (moving 18 1 2 {})) (fun b _ => b.pc == 1) &&
    bank0 (exec .jump (moving 19 1 3 {})) (fun b _ => b.pc == 3) && bank0 (exec .halt (moving 27 0 0 {})) (fun b _ => b.halted) &&
    bank0 (exec .bankAccWrite (moving 33 2 0 { acc := [(9, 5)] })) (fun b _ => b.lane 1 0 == 1 && b.lane 1 1 == 0) && bank0 (exec .bankPortWrite (moving 6 3 0 {})) (fun b _ => b.port 6 == 2) &&
    bank0 (exec .bankPortWrite (moving 0 3 0 {})) (fun b _ => b.ports == []) && bank0 (exec .iadd { moving 15 1 1 {} with hand := { base.hand with move := 15 * 2 ^ 26 + 2 ^ 20 + 3 * 2 ^ 8 + 1 } }) (fun b _ => b.pc == 0 && b.rep == some 2) &&
    failed causeILL (exec .jump (moving 19 1 4 {})) && failed causeILL (exec .loop (moving 18 1 4 { ports := ports [(17, 1)] })) && failed causeILL (exec .bankPortWrite (moving 5 1 4 {})) &&
    failed causeILL (exec .bankPortWrite (moving 12 1 8 {})) && failed causeILL (exec .bankPortWrite (moving 4 0 0 {})) && failed causeILL (exec .iadd (moving 15 0 1 {}))) = true := by decide
-- a binary32 number to element 15 of slot 1, past its end, and to a format that OUT does not write
theorem test_bank_out : (let o := fun (sel pos : Nat) => moving 22 2 0 { ports := ports [(20, sel), (21, pos)] }
    bank0 (exec .out (o 1 15)) (fun b t => b.port 21 == 16 && t.net.any (fun m => match m with | .write w => w.fa == vaultFa 0 0x83C && natOf w.data == 1 && w.data.length == 4 | _ => false)) &&
    failed causePROT (exec .out (o 1 16)) && failed causeFMT (exec .out (o 2 0))) = true := by decide
theorem test_bank_meets : (moving 7 0 0 {}).vault 0 = { serving := some 5, runs := [(5, run {})], queues := [(5, [bcmd])] } ∧ ((moving 7 0 0 {}).vault 0).running = some (run {}) ∧
    (match bankSlot 0 (run {}) 0 with | .ok d => d.share 0 == (0, 1) | _ => false) = true := ⟨rfl, by decide, by decide⟩
def vaulted (v : Vault) : State := { moving 0 0 0 {} with vaults := [(0, v)] }
theorem test_bank_service : (let f := fun (v : Vault) (p : State → Bool) => next (exec .bkrunCommand (msg (.bkrunCommand 0) (vaulted v))) p
    f { queues := [(5, [bcmd])], weights := [(5, 3)] } (fun t => (t.vault 0).serving == some 5 && (t.vault 0).quantum == 60000 && t.timers == [(60000, .bankQuantumExpiry 0)]) &&
    f { queues := [(5, [bcmd])], serving := some 5 } (fun t => match (t.vault 0).running with | some r => r.prog.length == 4 && r.banks == [] && r.outs == 0 | none => false) &&
    f { queues := [(5, [bcmd])], serving := some 5, runs := [(5, { run {} with fail := some (3, 77), outs := 2, flags := 1 })] } (fun t => Map.get [] (t.vault 0).queues 5 == [] && (t.vault 0).runs == [] &&
      t.net.contains (.resultOrStatus ⟨7, BitVec.ofNat 64 (2 ^ 40 + 3 * 2 ^ 32 + 9), 77, true, true, true⟩)) &&
    f { queues := [(5, [bcmd])], serving := some 5, runs := [(5, run {})] } (fun t => t.net == [])) = true := by decide
theorem test_bank_quantum : (let f := fun (q : Nat) => next (exec .bankQuantumExpiry (msg (.bankQuantumExpiry 0) { vaulted { queues := [(5, [bcmd]), (6, [bcmd])], serving := some 5, quantum := q } with datum := 9 }))
    f 10 (fun t => (t.vault 0).serving == some 5 && t.net == []) && f 9 (fun t => (t.vault 0).serving == some 6 && (t.vault 0).quantum == 20009)) = true := by decide

-- R229: poison met before a fault is what the chain's entry reports; a fault alone is a FAULT
theorem test_chain_poison : (let c := fun (p : Option Word) => some { chain0 with rec_ := 0x10300, ended := true, fail := some (3, 7), poison := p }
    cgoes (c (some 8)) [] (fun c t => c == none && t.net.contains (.resultOrStatus ⟨7, 4 * 2 ^ 32 + 9, 8, true, true, true⟩)) &&
    cgoes (c none) [] (fun c t => c == none && t.net.contains (.resultOrStatus ⟨7, 3 * 2 ^ 32 + 9, 7, true, true, true⟩))) = true := by decide
-- a tile task dispatched to another station goes after a publication
theorem test_tile_dispatch_away : (let s := tiled false 0
    let u := { s with stations := [(0, { tlb := tlb }), (1, { eng := { matrix := { dmask := 2 } } })] }
    next (exec .tileTaskDispatch (msg (.tileTaskDispatch 5) u)) (fun t => t.tables.tiles == [] && t.net.any (fun m => match m with
      | .publicationComplete d _ => (match d.pubFor with | .command c => c.stn == 1 && c.cmd.ptag == 5 | _ => false) | _ => false)) && u.tileStations 5 1 == [1]) = true := by decide

/-! ## Collectives -/

/-- A tree of two inputs at this cube's root; element 1.0 at 0x10040 and 2 at 0x10044. -/
def coll (r : Router) (s : State) : State := { s with router := r }
def treed : Router := { trees := [⟨2, none, [0, 1], 0⟩] }
def part (v : Nat) : Partial := ⟨2, 1, 0, 0, 1, 0, [v], 0, false, false, false, true, 5, 3⟩
def slot1 : RedSlot := ⟨2, 1, 0, 0, 1, 5, [(0, part 0x3F800000)], false, 40⟩
def ckmd (opcode : Nat) (d src dst : Word) : CmdMsg := ⟨⟨0, false, 5, opcode, [d, src, dst, 0, 0], 0, 9⟩, 3, 0, 0, .task ⟨0, 0, 0⟩ 7, 7, none⟩
def collAt (k : CmdMsg) : State := { base.setBytes (stashFa 0 0 0x40) (bytesOf 4 0xBF800000) with stations := [(0, { tlb := tlb, eng := { coll := { inbox := [k] } } })] }
def gave (o : Out) : Option (List Nat × Bool × Bool) := match o with
  | .next t => (match (t.stn 0).eng.coll.waits, t.net with
    | [w], [.collectiveContribution 0 p] => if p.group == 2 && p.seq == 1 && p.ref == w.num && (t.stn 0).eng.coll.inbox == [] then some (p.vals, p.mcast, p.hasData) else none
    | _, _ => none)
  | _ => none
def answered (status : Nat) (v : Word) (o : Out) : Bool := next o (fun t => t.net.contains (.resultOrStatus ⟨7, BitVec.ofNat 64 (status * 2 ^ 32 + 9), v, true, true, true⟩))
-- sum and absolute maximum of -1.0; a multicast without data; what a descriptor and addresses may not be
theorem test_collective_commands : (let red := fun d s t => exec .clredCommand (msg (.clredCommand 0) (collAt (ckmd 0x300 d s t))); let cast := fun d s => exec .clmcastCommand (msg (.clmcastCommand 0) (collAt (ckmd 0x301 d s 0)))
    [gave (red 0x0100000000010002 0x10040 0), gave (red 0x0103000000010002 0x10040 0), gave (cast 0x0100000000010002 0), gave (cast 0x0100000000010002 0x10040)] ==
      [some ([0xBF800000], false, true), some ([0x3F800000], false, true), some ([], true, false), some ([0xBF800000], true, true)] &&
    answered 3 (faultValue causeILL 0) (red 0 0 0) && answered 3 (faultValue causeFMT 0) (red 0x0104000000010002 0x10040 0) &&
    answered 3 (faultValue causeALIGN 0x10042) (red 0x0100000000010002 0x10042 0) && answered 3 (faultValue causeALIGN 2) (red 0x0100000000010002 0x10040 2)) = true := by decide
def contributed (r : Router) (n : Nat) (p : Partial) (q : State → Bool) : Bool := next (exec .collectiveContribution (msg (.collectiveContribution n p) (coll r base))) q
def collSays (n status : Nat) (vals : List Nat) (t : State) : Bool := t.net.any (fun m => match m with | .collectiveResult c => c.input == n && c.status == status && c.vals == vals && c.group == 2 | _ => false)
theorem test_contributions : (contributed treed 0 (part 0x3F800000) (fun t => t.router.slots.map (fun x => (x.expiry, x.parts.map (fun e => e.1))) == [(50000, [0])] && t.timers == [(50000, .slotTimerExpiry 2 1)]) &&
    contributed { treed with slots := [slot1] } 1 (part 0x40000000) (fun t => t.router.slots == [] && collSays 0 0 [0x40400000] t && collSays 1 0 [0x40400000] t) &&
    contributed { treed with slots := [slot1] } 1 { part 0 with op := 1 } (fun t => collSays 1 3 [] t && t.router.slots.length == 1) &&
    contributed { treed with slots := [slot1] } 0 (part 0) (collSays 0 3 []) && contributed treed 2 (part 0) (collSays 2 3 []) && contributed {} 0 (part 0) (collSays 0 3 []) &&
    contributed { treed with freed := [(2, 1, [0, 1], 9)] } 0 (part 0) (collSays 0 1 []) &&
    contributed { treed with slots := List.replicate 256 { slot1 with seq := 7 } } 0 (part 0) (fun t => t.router.waiting == [(0, part 0)]) &&
    contributed { trees := [⟨2, none, [0, 1, 2], 0⟩], slots := [slot1] } 1 (part 0) (fun t => t.router.slots.map (fun x => x.parts.length) == [2])) = true := by decide
theorem test_slot_timer : (let f := fun (d : Nat) => next (exec .slotTimerExpiry (msg (.slotTimerExpiry 2 1) { coll { treed with slots := [slot1] } base with datum := d }))
    f 39 (fun t => t.router.slots == [slot1]) && f 40 (fun t => t.router.slots == [] && t.net.any (fun m => match m with | .collectiveResult c => c.input == 0 && c.status == 5 && c.missing == 1 && c.incomplete | _ => false)) &&
    next (exec .rememberedKeyExpiry (msg (.rememberedKeyExpiry 2 1) { coll { freed := [(2, 1, [], 9), (2, 1, [], 10), (3, 1, [], 1)] } base with datum := 9 })) (fun t => t.router.freed == [(2, 1, [], 10), (3, 1, [], 1)])) = true := by decide
def cres (status : Nat) : CollRes := ⟨0, 2, 1, status, 3, false, false, 0, 0, 1, 0, [0x40400000], 5, 3⟩
def collWaits (out : Option (Nat × Word)) (dst : Word) : State := { base with stations := [(0, { tlb := tlb, eng := { coll := { waits := [⟨3, ckmd 0x300 0x0100000000010002 0x10040 dst, 0, [], out⟩] } } })] }
theorem test_collective_results : (let f := fun (r : CollRes) (s : State) => exec .collectiveResult (msg (.collectiveResult r) s)
    answered 3 (faultValue causeFMT 0) (f (cres 3) (collWaits none 0)) && answered 1 3 (f (cres 1) (collWaits none 0)) && answered 0 3 (f (cres 0) (collWaits none 0)) && answered 5 8 (f (cres 0) (collWaits (some (5, 8)) 0x10080)) &&
    next (f (cres 0) (collWaits none 0x10080)) (fun t => t.net.any (fun m => match m with | .write w => w.fa == stashFa 0 0 0x80 && natOf w.data == 0x40400000 | _ => false) && (t.stn 0).eng.coll.waits.map (fun w => w.out) == [some (0, 3)]) &&
    next (f { cres 0 with input := 64 } base) (fun t => (t.port 0).out.length == 1) &&
    next (f { cres 0 with input := 72 } (coll { treed with freed := [(2, 1, [0, 1], 9)] } base)) (fun t => t.net == [.collectiveResult { cres 0 with input := 0 }, .collectiveResult { cres 0 with input := 1 }])) = true := by decide

/-! ## The fabric -/

/-- A read of 16 bytes at the stash of station 0, from cube 3's station 2, number 1. -/
def rhdr (dnode : Nat) : Hdr := { typ := 0, cls := 0, dnode := dnode, snode := 3, dstn := 0, sstn := 2, len := 8, seq := 1, onode := dnode, ostn := 0, addr := stashFa 0 0 0x40, ptag := 5 }
def rpkt (dnode : Nat) : Packet := mkPacket (rhdr dnode) (.raw (bytesOf 8 16))
def routed (r : Router) (p : Packet) (q : State → Bool) : Bool := next (exec .packetRouting (msg (.packetRouting p) (coll { r with live := true, routes := [(9, [4])] } base))) q
theorem test_packet_routing : (routed {} { rpkt 0 with hdr := { (rpkt 0).hdr with ecrc := 0 } } (fun t => Map.get 0 t.plat.errors 6 == 1 && t.net == []) &&
    routed {} (rpkt 9) (fun t => (t.port 4).out == [{ rpkt 9 with hdr := { (rpkt 9).hdr with hops := 1 } }]) && routed {} { rpkt 9 with hdr := { (rpkt 9).hdr with hops := 31 } } (fun t => Map.get 0 t.plat.errors 6 == 1) &&
    routed {} (rpkt 8) (fun t => t.net == [] && t.router.ports == [])) = true := by decide
/-- A command packet with an old number, and with a new one. -/
def cpkt (seq : Nat) : Packet := mkPacket { rhdr 0 with typ := 0x07, cls := 3, seq := seq, addr := 0, len := 65 } (.signed cmdBytes none 1 7)
def filtered : Filter := ⟨3, 2, 0, 0, 3, 5, [(5, true)], 6, [], [(5, true)], []⟩
theorem test_packet_accepted : (let f := fun (n : Nat) (q : State → Bool) => next (exec .packetRouting (msg (.packetRouting (cpkt n)) { coll { live := true } base with e2e := { filters := [filtered] } })) q
    f 5 (fun t => Map.get 0 t.plat.errors 7 == 1 && t.net.any (fun m => match m with | .packetRouting q => q.hdr.typ == 0x0E && q.hdr.seq == 5 && q.hdr.dnode == 3 | _ => false)) &&
    f 6 (fun t => match t.net with | [.engineCommand c] => c.cmd == cmd3 && c.inbox == 1 && !(t.filterOf (cpkt 6).hdr).accepts 6 | _ => false) && packetOk (cpkt 6)) = true := by decide
/-- A region of 2 MiB from 2 MiB: stripes of 4 KiB, its guard and state, cubes from set entry `c` on, 2 of them, vault 0; the retired entry it came from. -/
def entry (guard state c old : Nat) : List Word :=
  [0x8000000000200000, 0x200000, BitVec.ofNat 64 (12 * 2 ^ 43 + guard * 2 ^ 41 + state * 2 ^ 39 + c * 2 ^ 25 + 2 * 2 ^ 12), 1, 0, 0, BitVec.ofNat 64 old, 0]
/-- A write of 16 bytes, number 2, of class O, to an address of this cube's stash and to one of cube 9's. -/
def wpkt (seq fa ptag : Nat) : Packet := mkPacket { rhdr 0 with typ := 0x02, seq := seq, qual := qualOf true 1 0, addr := fa, ptag := ptag } (.raw (bytesOf 16 7))
def answers (typ seq : Nat) (t : State) : Bool := match t.net with | [.packetRouting q] => q.hdr.typ == typ && q.hdr.seq == seq | _ => false
theorem test_packet_owner : (let f := fun (p : Packet) (q : State → Bool) => next (exec .packetRouting (msg (.packetRouting p) (coll { live := true } base))) q
    f (wpkt 2 (stashFa 0 0 0x40) 5) (fun t => t.net == [] && (t.filterOf (wpkt 2 0 5).hdr).queue.length == 1) &&
    f (wpkt 1 (stashFa 0 0 0x40) 5) (fun t => match t.net with | [.write w] => w.fa == stashFa 0 0 0x40 && w.data == bytesOf 16 7 | _ => false) &&
    f (wpkt 1 (stashFa 0 0 0x40) 6) (answers 0x0D 1)) = true := by decide
theorem test_packet_forwarded : (let s := fun (n : Nat) => { coll { live := true } base with tables := { parcels := parcels, regions := [(0, entry 0 0 2 0)], cubes := [(2, 4), (3, 5)], retired := n, peers := [(4, ⟨5, 1, 0, 15, 15, 0, .steady, [0, 1, 2, 3], 0, 0⟩)] } }
    let f := fun (n : Nat) (q : State → Bool) => next (exec .packetRouting (msg (.packetRouting (wpkt 1 0x200000 5)) (s n))) q
    f 0 (fun t => t.e2e.forwarded.length == 1 && (match t.net with | [.packetRouting q] => q.hdr.dnode == 4 && q.hdr.fwd && q.hdr.seq == 1 | _ => false)) &&
    f 1 (answers 0x0D 1)) = true := by decide
def sentRead : Sent := ⟨1, mkPacket { rhdr 0 with dnode := 3, snode := 0, dstn := 2, sstn := 0, onode := 3, ostn := 2 } (.raw (bytesOf 8 16)), .readRequest (rdReq 0x40 16), false, false⟩
/-- Station 0 has sent a read to cube 3's station 2. -/
def awaiting (u : Sent) : State := { coll { live := true } (withC { user [] with flow := { flights := [⟨.load (.reg 4 8 false), [⟨9, 0x40, 0, 8, [], false⟩], false, false, [4], [], 0⟩] } }) with e2e := { pairs := [⟨0, 0, 3, 2, 0, 1, [u], [], false⟩] } }
def rreply : Packet := mkPacket { rhdr 0 with typ := 1, snode := 3, sstn := 2, onode := 3, ostn := 2, addr := 0 } (.raw (bytesOf 16 0 ++ bytesOf 16 0x77))
theorem test_read_answered : next (exec .packetRouting (msg (.packetRouting rreply) (awaiting sentRead))) (fun t => t.net.any (fun m => match m with
      | .readReply r => natOf r.data == 0x77 && r.req.id == 9 | _ => false) && t.net.any (fun m => match m with | .packetRouting q => q.hdr.typ == 0x0E | _ => false)) = true := by decide
def unackedOf (t : State) : List (Bool × Nat) := t.e2e.pairs.flatMap (fun p => p.unacked.map (fun u => (u.acked, u.pkt.hdr.retry)))
theorem test_end_to_end : (let g := fun (i : Instr) (m : Msg) (s : State) (q : State → Bool) => next (exec i (msg m s)) q
    let poisoned := fun (t : State) => unackedOf t == [] && t.net.any (fun m => match m with | .readReply r => r.poison == [4, 5, 6] | _ => false)
    g .endToEndAcknowledgement (.endToEndAcknowledgement 0 0 0 3 2 1) (awaiting sentRead) (fun t => unackedOf t == [(true, 0)]) &&
    g .endToEndAcknowledgement (.endToEndAcknowledgement 0 0 0 3 2 1) (awaiting { sentRead with answered := true }) (fun t => unackedOf t == []) &&
    g .retryTimeout (.retryTimeout 0 0 0 3 2 1) (awaiting sentRead) (fun t => unackedOf t == [(false, 1)] && t.timers == [(20000, .retryTimeout 0 0 0 3 2 1)]) &&
    g .retryTimeout (.retryTimeout 0 0 0 3 2 1) (awaiting { sentRead with pkt := { sentRead.pkt with hdr := { sentRead.pkt.hdr with retry := 15 } } }) (fun t => t.plat.reports == [(2, 3)]) &&
    g .moved (.moved 0 0 0 3 2 1) (awaiting sentRead) (fun t => t.e2e.pairs.flatMap (fun p => p.unacked.map (fun u => (u.pkt.hdr.dnode, u.pkt.hdr.dstn))) == [(0, 0)]) &&
    g .refused (.refused 0 0 0 3 2 1) (awaiting sentRead) poisoned && g .destinationLost (.destinationLost 3) (awaiting sentRead) (fun t => poisoned t && t.e2e.lost.has 3)) = true := by decide
def aflit : Flit := sealFlit ⟨0, 0, 0, 0, true, false, List.replicate 56 0, 0, none, false⟩
def ported (p : Port) : State := { coll { ports := [(2, p)] } base with datum := 500 }
theorem test_ports : (let g := fun (i : Instr) (m : Msg) (p : Port) (q : Port → State → Bool) => next (exec i (msg m (ported p))) (fun t => q (t.port 2) t)
    let up : Port := { st := .up, lanes := 8 }
    g .portEnable (.portEnable 2) {} (fun p _ => p.st == .train) && g .trainingComplete (.trainingComplete 2 8 3) { st := .train } (fun p _ => p.st == .up && p.lanes == 8 && p.far == 3) &&
    g .trainingComplete (.trainingComplete 2 5 3) { st := .train } (fun p _ => p.st == .half && p.lanes == 4) && g .trainingComplete (.trainingComplete 2 3 3) { st := .train } (fun p _ => p.st == .down) &&
    g .linkDown (.linkDown 2) up (fun p t => p.st == .train && t.plat.reports == [(1, 2)]) && g .linkAdaptation (.linkAdaptation 2) up (fun p t => p.st == .up && t.timers == [(100000500, .linkAdaptation 2)]) &&
    g .replayTimeout (.replayTimeout 2) { up with replay := [(aflit, 0)] } (fun p _ => p.replay == [(aflit, 1)] && p.progress == 500) &&
    g .replayTimeout (.replayTimeout 2) { up with replay := [(aflit, 3)] } (fun p _ => p.st == .train) && g .replayTimeout (.replayTimeout 2) { up with replay := [(aflit, 0)], progress := 400 } (fun p t => p.replay == [(aflit, 0)] && t.timers == [(564, .replayTimeout 2)]) &&
    g .flit (.flit 2 { aflit with lcrc := 0 }) up (fun p t => p.discard && Map.get 0 t.plat.errors 5 == 1) && g .flit (.flit 2 aflit) up (fun p _ => p.expect == 1 && Map.get [] p.rx 0 == [aflit]) &&
    g .flit (.flit 2 aflit) { up with expect := 1 } (fun p _ => p == { up with expect := 1 })) = true := by decide
-- CRC-32 of "123456789" is CBF43926
theorem test_crc : crc32 (([0x31, 0x32, 0x33, 0x34, 0x35, 0x36, 0x37, 0x38, 0x39] : List Nat).map (BitVec.ofNat 8)) = 0xCBF43926 := by decide

/-! ## Tables -/

def wrote (c : TableCmd) (q : State → Bool) : Bool := next (exec .tableWrite (msg (.tableWrite 7 c) (coll { manager := some 7 } base))) q
def regionE : List Word := [0x8000000000000000, 0, 0, 0, 0, 0, 0, 0]
theorem test_tables : (wrote (.route 3 [1, 2, 3, 4, 5]) (fun t => Map.get [] t.router.routes 3 == [1, 2, 3, 4]) && wrote (.tree ⟨2, none, [0], 0⟩) (fun t => t.tree 2 == some ⟨2, none, [0], 50000⟩) &&
    wrote (.tree ⟨2, none, [0], 999⟩) (fun t => t.tree 2 == none) && wrote (.bankWeight 1 5 0) (fun t => Map.get 1 (t.vault 1).weights 5 == 1) && wrote (.retryTime 5000) (fun t => t.router.retry == 5000) &&
    wrote (.retryTime 999) (fun t => t.router.retry == 20000) && wrote (.endpoint 4096 0 1 5) (fun t => t.endpoint 4096 0 == some ⟨4096, 0, 1, 5, [], [], 0, 0, []⟩) &&
    wrote (.latency 7 9) (fun t => t.tables.copyLease == 7 && t.tables.repLease == 9) && wrote (.peers 1 [5, 6]) (fun t => t.tables.parcelPeers == [(1, [5, 6])]) &&
    wrote (.peerParcel 4 (parcels.getD 0 ⟨0, 0, 0, 0, 0, 0, .steady, [], 0, 0⟩)) (fun t => t.tables.peers.length == 1) &&
    next (exec .tableWrite (msg (.tableWrite 8 (.latency 7 9)) (coll { manager := some 7 } base))) (fun t => t.tables == base.tables) &&
    next (exec .platGenerationInstall (msg (.platGenerationInstall 0 4 [(1, regionE)] [(2, 6)]) base)) (fun t => t.tables.gen == 4 && Map.get [] t.tables.regions 1 == regionE && Map.get 0 t.tables.cubes 2 == 6)) = true := by decide
def hosted : State := { base with hosts := { endpoints := [⟨4096, 0, 1, 5, [], [], 0, 0, []⟩] } }
theorem test_images_written : (wrote (.routerImage [1, 2]) (fun t => t.router.imageBy == some 7) && wrote .retired (fun t => t.plat.reports == [(4, 0)]) && wrote (.endpoint 4096 256 1 5) (fun t => t.hosts.endpoints == []) &&
    next (exec .platGenerationInstall (msg (.platGenerationInstall 0 4 [(1, entry 0 0 2 0)] [(2, 0), (3, 0)]) { base with vaults := [(0, { failed := true })] })) (fun t => t.tables.gen == 4 && t.tables.regions == [])) = true := by decide
theorem test_window : next (exec .tableWrite (msg (.tableWrite 7 (.window 4096 0 2 100 64 0x40 true false)) { hosted with router := { manager := some 7 } })) (fun t =>
    (t.endpoint 4096 0).map (fun e => e.windows.find? (fun w => w.1 == 2)) == some (some (2, 100, 64, 0x40, true, false))) = true := by decide
def newMap : Parcel := ⟨5, 1, 0, 7, 7, 1, .steady, [0, 1, 2], 0, 0⟩
def resizing (r : Resize) (ms : List Parcel) : State := { base with tables := { parcels := [{ newMap with bgen := 0, resize := r }], newMaps := ms }, ctxs := [] }
/-- Stations 0 to 2 have been released. -/
def three : State := { base with stations := base.stations ++ [(2, { boot := .released })] }
theorem test_parcels : (let f := fun (p : Parcel) (s : State) (q : State → Bool) => next (exec .parcelMapWrite (msg (.parcelMapWrite 0 p) s)) q
    f newMap three (fun t => (t.parcelOf 5).map (fun p => p.resize) == some .announced && t.net == [.resizeHandover 5]) &&
    f { newMap with bgen := 2 } three (fun t => t.tables.parcels == parcels) && f newMap base (fun t => t.tables.parcels == parcels) &&
    f newMap { three with router := { manager := some 9 } } (fun t => t.tables.parcels == parcels) &&
    f { newMap with ptag := 8 } three (fun t => (t.parcelOf 8).map (fun p => (p.smask, p.resize)) == some (0, .announced) && t.tables.newMaps.length == 1)) = true := by decide
theorem test_resize : (let f := fun (s : State) (q : State → Bool) => next (exec .resizeHandover (msg (.resizeHandover 5) s)) q
    let r := fun (t : State) => (t.parcelOf 5).map (fun p => p.resize)
    let atStage := fun (x : Resize) => { three with tables := { parcels := parcels.map (fun p => { p with resize := x }), newMaps := [newMap] } }
    f (atStage .announced) (fun t => r t == some .draining && t.net.contains (.resizeHandover 5) && t.plat.reports == [(6, 5)]) &&
    f (resizing .rehomed []) (fun t => r t == some .steady) &&
    f (resizing .draining [newMap]) (fun t => t.parcelOf 5 == some { newMap with resize := .rehomed }) &&
    f (atStage .draining) (fun t => r t == some .draining && t.timers == [(1000, .resizeHandover 5)])) = true := by decide
/-- The parcel of a lender and a child that comes with its stations 0. -/
theorem test_lending : (let f := fun (x : Resize) (q : State → Bool) => next (exec .parcelMapWrite (msg (.parcelMapWrite 0 ⟨8, 1, 5, 1, 1, 0, .steady, [], 0, 0⟩)
      { three with tables := { parcels := parcels.map (fun p => { p with resize := x }) } })) q
    f .steady (fun t => (t.parcelOf 8).map (fun p => p.resize) == some .announced && (t.parcelOf 5).map (fun p => p.resize) == some .announced && t.tables.newMaps.map (fun p => (p.ptag, p.bgen)) == [(8, 0), (5, 1)]) &&
    f .draining (fun t => t.parcelOf 8 == none)) = true := by decide
theorem test_tenant_reset_by_another : next (exec .tenantReset (msg (.tenantReset 3 1) { base with router := { manager := some 4 } })) (fun t => t.cur.task == some task) = true := by decide
theorem test_tenant_reset : next (exec .tenantReset (msg (.tenantReset 0 1) base)) (fun t => t.cur.task == none && t.tables.parcels == parcels) = true ∧ base.tenantAt 0 = some 1 := by decide
/-- Mirrored over cubes 0 and 1; this cube holds what cube 2 held, and its copy of the mirror's word 7 has come. -/
def rebuilding (buf : List (Nat × BlockWord × Bool)) (rebuilt : NSet) : State :=
  { base with tables := { parcels := parcels, cubes := [(1, 1)], regions := [(0, entry 3 2 0 0)], taken := [(0, true)], buf := buf, rebuilt := rebuilt } }
theorem test_rebuild : (let f := fun (s : State) (q : State → Bool) => next (exec .backgroundRebuild (msg (.backgroundRebuild 0x200000) s)) q
    f (rebuilding [] []) (fun t => t.net.contains (.backgroundRebuild 0x200000) && t.mem == []) &&
    f (rebuilding [((vaultFa 1 0x1000) / 16, 7, false)] []) (fun t => !t.unbuilt 0x200000 (vaultFa 0 0) && t.net.contains (.backgroundRebuild 0x200010)) &&
    f (rebuilding [] [((vaultFa 0 0) / 16, true)]) (fun t => t.net.contains (.backgroundRebuild 0x200010)) && (rebuilding [] []).unbuilt 0x200000 (vaultFa 0 0) &&
    (rebuilding [] []).rebuildNeeds 0x200000 (vaultFa 0 0) == [vaultFa 1 0x1000] && next (exec .backgroundRebuild (msg (.backgroundRebuild 0x200000)
      { base with tables := { parcels := parcels, cubes := [(1, 1)], regions := [(0, entry 0 0 0 0)] } })) (fun t => t.net == [])) = true := by decide
/-- A region that moves from cubes 0 and 1 to cubes 4 and 5. -/
def handing : State := { base with
  tables := { parcels := parcels, cubes := [(1, 1), (2, 4), (3, 5)], regions := [(0, entry 0 1 2 0x101), (1, entry 0 3 0 0)], peers := [(4, ⟨5, 1, 0, 15, 15, 0, .steady, [0, 1, 2, 3], 0, 0⟩)] }
  stations := [(0, { home := { leasemax := [(0x200000 / 64, 50)] } })] }
theorem test_handover : (let f := fun (n : Nat) (q : State → Bool) => next (exec .stripeHandover (msg (.stripeHandover 0x200000 n) handing)) q
    f 64 (fun t => t.tables.copying == [(0x200000, 64)] && t.tables.moved == [] && (t.stn 0).home.leasemax == [(0x200000 / 64, 50)] &&
      next (exec .endToEndAcknowledgement (msg (.endToEndAcknowledgement 0 0 3 4 0 1) t)) (fun u =>
        u.tables.moved == [(0x200000, 64)] && u.tables.copying == [] && (u.stn 0).home.leasemax == [])) &&
    f 0 (fun t => t.tables.copying == [])) = true := by decide
theorem test_handover_places : handing.place 0x200000 = .ok ⟨0, 0, false, vaultFa 0 0, 5⟩ ∧
    State.place { handing with tables := { handing.tables with moved := [(0x200000, 4096)] } } 0x200000 = .ok ⟨4, 0, false, vaultFa 4 0, 5⟩ := ⟨rfl, rfl⟩
theorem test_platform_writes : (let g := fun (i : Instr) (m : Msg) (s : State) (q : State → Bool) => next (exec i (msg m s)) q
    g .pcapWrite (.pcapWrite 700) base (fun t => t.plat.pcap == 700) && g .pcapWrite (.pcapWrite 599) base (fun t => t.plat.pcap == 1800) &&
    g .monitorControlWrite (.monitorControlWrite 3 0xFFFFFFFFFFFFFFFF) base (fun t => (Map.get {} t.plat.monitors 3).control == 0x80FF00FF00000000) &&
    g .errorCounterClear .errorCounterClear { base with plat := { errors := [(1, 4)] } } (fun t => t.plat.errors == []) && g .datumSet (.datumSet 77) base (fun t => t.datum == 0) &&
    g .datumSet (.datumSet 77) { base with plat := { phase := 3 } } (fun t => t.datum == 77 && t.plat.phase == 4) && g .datumSet (.datumSet 77) { base with plat := { phase := 4 } } (fun t => t.datum == 0) && g .survey (.survey 7 1 0x1000) base (fun t => t.net == []) &&
    g .survey (.survey 7 1 (stashFa 0 0 0x1000)) { base with plat := { phase := 5 } } (fun t => t.net.length == 1)) = true := by decide

/-! ## Hosts and upkeep -/

def host (ws : List (Nat × Nat × Nat × Nat × Bool × Bool)) (ring : List (List Word)) : State := { base with hosts := { endpoints := [⟨4096, 0, 1, 5, ring, ws, 0, 0, []⟩] } }
def subm : List Word := (packet 5 { pc := 0x2000 }).dws
theorem test_survey_of_boot : next (exec .survey (msg (.survey 7 1 0x1000) { base with plat := { phase := 5 } })) (fun t => match t.net with | [.hostWrite 0 w] => w.fa == 0x1000 | _ => false) = true := by decide
theorem test_doorbell : (next (exec .doorbell (msg (.doorbell 4096 0 [subm]) (host [] []))) (fun t => (t.endpoint 4096 0).map (fun e => e.ring) == some [subm] && t.net == [.doorbell 4096 0 []]) &&
    next (exec .doorbell (msg (.doorbell 4096 0 []) (host [] [subm]))) (fun t => (t.endpoint 4096 0).map (fun e => e.ring) == some [] && t.net.any (fun m => match m with
      | .packetRouting q => q.hdr.typ == 6 && q.hdr.dnode == 0 && q.body == .signed (dwBytes (subm.map (fun w => w.toNat))) (some 0) 0 0 | _ => false))) = true := by decide
def win (r w : Bool) : State := host [(2, 100, 64, stashFa 0 0 0x40, r, w)] []
theorem test_dma_windows : (let f := fun (s : State) (slot off : Nat) (wr : Bool) (n : Nat) (q : State → Bool) => next (exec .dmaWindowAccess (msg (.dmaWindowAccess 4096 0 slot off wr (bytesOf n 0x55)) s)) q
    let refused := fun (t : State) => (t.endpoint 4096 0).map (fun e => e.refused) == some 1
    f (win true true) 3 0 true 16 refused && f (win true true) 2 60 true 16 refused && f (win true false) 2 0 true 16 refused && f (win false true) 2 0 false 8 refused &&
    f (win true true) 2 16 true 16 (fun t => (t.hostCache 4096).dirtyWords.map (fun w => (w.1, w.2.2.data)) == [(stashFa 0 0 0x50, 0x55)] && t.net.any (fun m => match m with | .packetRouting q => q.hdr.typ == 0x12 && q.body == .mgmt 4 4096 (chunkOf (stashFa 0 0 0x50)) | _ => false)) &&
    f (win true true) 2 16 false 8 (fun t => t.net.any (fun m => match m with | .packetRouting q => q.hdr.typ == 0 && q.hdr.addr == stashFa 0 0 0x50 | _ => false))) = true := by decide
/-- The cache holds the word at +0x50. -/
def cached (bad : Bool) : State := (win true true).hostPut 4096 5 (stashFa 0 0 0x50) ⟨5, 0x99, false, bad, 100, false⟩
theorem test_host_cache : (let f := fun (s : State) (off : Nat) (wr : Bool) (n : Nat) (q : State → Bool) => next (exec .dmaWindowAccess (msg (.dmaWindowAccess 4096 0 2 off wr (bytesOf n 0x55)) s)) q
    let host := fun (t : State) => (t.endpoint 4096 0).map (fun e => e.host)
    let one := fun (typ : Nat) (t : State) => match t.net with | [.packetRouting q] => q.hdr.typ == typ && q.hdr.addr == stashFa 0 0 0x50 | _ => false
    f (win true true) 16 true 4 (one 0x02) && f (win true true) 16 false 16 (one 0x00) && f (cached false) 16 false 4 (fun t => t.net == [] && host t == some [(stashFa 0 0 0x50, bytesOf 4 0x99)]) &&
    f (cached true) 16 false 4 (fun t => host t == some [(stashFa 0 0 0x50 + 2 ^ 58, bytesOf 4 0x99)]) && f (win true false) 0 true 16 (fun t => host t == some []) &&
    f (win false true) 0 false 8 (fun t => host t == some [(2 ^ 57 + stashFa 0 0 0x40, [])])) = true := by decide
def holding (d : Nat) : State := { base with datum := d, hosts := { table := [(4096, chunkOf (stashFa 0 0 0x40), 0)], beats := [(4096, 5)] } }
theorem test_host_table : (let c := chunkOf (stashFa 0 0 0x40); let g := fun (i : Instr) (m : Msg) (s : State) (q : State → Bool) => next (exec i (msg m s)) q
    g .hold (.hold 4096 c) base (fun t => t.hosts.table == [(4096, c, 0)] && t.timers.contains (100000000, .hostTimeout 4096)) && g .heartbeatSend (.heartbeatSend 4096) (holding 5) (fun t => t.net.any (fun m => match m with | .packetRouting q => q.hdr.typ == 0x12 && q.hdr.cls == 3 && q.body == .mgmt 5 4096 0 | _ => false)) &&
    g .heartbeatSend (.heartbeatSend 4096) base (fun t => t.net == []) && g .heartbeat (.heartbeat 4096) (holding 9) (fun t => Map.get 0 t.hosts.beats 4096 == 9) &&
    g .hostDeadDeclaration (.hostDeadDeclaration 4096) (holding 5) (fun t => t.hosts.table == [] && t.hosts.dead.has 4096 && t.poison.has (stashFa 0 0 0x40 / 16)) &&
    g .hostTimeout (.hostTimeout 4096) (holding 100000004) (fun t => t.hosts.table.length == 1) && g .hostTimeout (.hostTimeout 4096) (holding 100000005) (fun t => t.hosts.table == [] && t.hosts.dead.has 4096 && t.poison.has (stashFa 0 0 0x40 / 16))) = true := by decide
theorem test_power_good : next (exec .powerGood (msg (.powerGood [3] [4] [] false) { base with datum := 6, mem := [(1, 1)] })) (fun t => t.plat.phase == 3 && t.mem == [] && t.ctxs == [] && t.datum == 6 && (t.stn 3).boot == .failed &&
    (t.stn 2).boot == .off && (t.vault 4).failed && (t.port 7).st == .train && t.timers.contains (32000006, .refresh 0)) = true := by decide
/-- An image; whether it is accepted is a free value. -/
def image : Image := ⟨[], [], [], 0, [], [], 0x8000, 0⟩
def accepting : State := { base with plat := { phase := 4 }, router := { imageBy := some 7 } }
theorem test_images (h : imageOk image = true) :
    next (exec .routerImageVerify (msg (.routerImageVerify image) accepting)) (fun t => t.router.live && t.router.manager == some 7) = true ∧
    next (exec .stationBoot (msg (.stationBoot 2 image) accepting)) (fun t => (t.stn 2).boot == .released && t.ctx ⟨2, 0, 0⟩ == { busy := true, sup := true, pc := 0x8000 }) = true := by
  have r : ∀ s, exec .routerImageVerify s = execRouterImageVerify s := fun _ => rfl
  have b : ∀ s, exec .stationBoot s = execStationBoot s := fun _ => rfl
  simp only [r, b, execRouterImageVerify, execStationBoot, msg, h]; decide
theorem test_images_refused (h : imageOk image = false) :
    next (exec .routerImageVerify (msg (.routerImageVerify image) accepting)) (fun t => !t.router.live) = true ∧
    next (exec .stationBoot (msg (.stationBoot 2 image) accepting)) (fun t => (t.stn 2).boot == .locked) = true := by
  have r : ∀ s, exec .routerImageVerify s = execRouterImageVerify s := fun _ => rfl
  have b : ∀ s, exec .stationBoot s = execStationBoot s := fun _ => rfl
  simp only [r, b, execRouterImageVerify, execStationBoot, msg, h]; decide
theorem test_sram_errors : (let f := fun (fa : Nat) (c : Bool) (s : State) (q : State → Bool) => next (exec .patrolScrub (msg (.sramError 0 fa c) s)) q
    f 0x200000 true base (fun t => Map.get 0 t.plat.errors 2 == 1) && f (stashFa 0 0 0x40) false base (fun t => Map.get 0 t.plat.errors 3 == 1 && t.poison.has (stashFa 0 0 0x40 / 16))) = true := by decide
theorem test_upkeep : (let g := fun (i : Instr) (m : Msg) (s : State) (q : State → Bool) => next (exec i (msg m s)) q
    g .thermalReading (.thermalReading 9 681) base (fun t => (t.vault 4).hot && !t.plat.throttled) && g .thermalReading (.thermalReading 0 800) base (fun t => t.plat.throttled) &&
    g .thermalReading (.thermalReading 160 800) base (fun t => t.plat == base.plat) &&
    g .governorMeasurement (.governorMeasurement 2000) { base with plat := { samples := List.replicate 9 2000 } } (fun t => t.plat.mean == 2000 && t.plat.samples == []) &&
    g .refresh (.refresh 1) { base with vaults := [(1, { hot := true })] } (fun t => Map.get 0 t.plat.refreshes 1 == 1 && t.timers == [(16000000, .refresh 1)]) &&
    g .targetedRefresh (.rowActivations 1 2 0 4000) base (fun t => t.plat.rowRefreshes == []) && g .targetedRefresh (.rowActivations 1 2 0 96) { base with plat := { activations := [(rowNo 1 2 0, 4000)] } } (fun t => t.plat.rowRefreshes == [(rowNo 1 2 1, 1)]) &&
    g .patrolScrub (.patrolScrub (vaultFa 0 64) 1) base (fun t => Map.get 0 t.plat.errors 0 == 1) && g .patrolScrub (.patrolScrub (vaultFa 0 64) 2) base (fun t => Map.get 0 t.plat.errors 1 == 1 && t.poison.has (vaultFa 0 64 / 16)) &&
    g .datumSynchronisation (.datumSynchronisation 200) base (fun t => t.plat.rate == 100)) = true := by decide
-- a running monitor of sensor 9's temperature, 680: bin 10
theorem test_monitor : next (exec .monitorSample (msg (.monitorSample 0) { base with plat := { monitors := [(0, { control := 0x8006000900000000 })], temps := [(9, 680)] } })) (fun t =>
    let m := Map.get {} t.plat.monitors 0; m.total == 1 && m.bins == [(10, 1)] && m.min == 680 && m.max == 680) = true := by decide

/-! ## Steps -/

/-- ADDI g3, 5 at 0x1000, in the station's stash. -/
def stepping : State := { (withG [(3, 4)]).setBytes (stashFa 0 0 0x40) (bytesOf 2 0x1305) with
  ctxs := [(0, { user [(3, 4)] with pc := 0x10040 })], turns := [⟨.ctx ⟨0, 0, 0⟩, 3⟩] }
theorem test_step : (match step stepping with | .next t => t.cur.readG 3 == 9 && t.cur.pc == 0x10042 && t.datum == 3 && t.turns == [] | _ => false) = true := by decide
theorem test_datum_wraps : (match step { stepping with datum := 2 ^ 64 - 2, timers := [(2 ^ 64 + 5, .refresh 1)] } with | .next t => t.datum == 1 && t.timers == [(5, .refresh 1)] | _ => false) = true := by decide
-- a PFXP, then a word that no page maps
theorem test_fetch_trap : (match step { (stepping.setBytes (stashFa 0 0 0xFFFE) (bytesOf 2 0xF200)) with ctxs := [(0, { user [] with pc := 0x1FFFE })], stations := [(0, { boot := .released, tlb := tlb.take 1, kernel := { tvec := 0x8000 } })] } with
    | .next t => t.cur.csr.tcause == 12 && t.cur.csr.iwords == 2 && t.cur.csr.taddr == 0x20000 | _ => false) = true := by decide
theorem test_step_illegal : (match step { stepping with ctxs := [(0, { user [] with pc := 0x10050 })], mem := [(stashFa 0 0 0x51, 1)] } with
    | .next t => t.cur.csr.tcause == causeILL && t.cur.csr.taddr == 0x10050 | _ => false) = true := by decide
theorem test_step_message : (match step { base with turns := [⟨.ext, 2⟩], ext := [.pcapWrite 700] } with | .next t => t.plat.pcap == 700 && t.ext == [] | _ => false) = true := by decide
theorem test_step_timer : (match step { base with turns := [⟨.timer, 2⟩], timers := [(50, .refresh 1)] } with | .next t => t.datum == 50 && Map.get 0 t.plat.refreshes 1 == 1 | _ => false) = true := by decide
theorem test_step_bank : (match step (State.reset.withFetchWord 32 (6 * 2 ^ 26 + 2 ^ 20 + 9)) with
    | .next t => (match (t.vault 0).running with | some r => (Map.get {} r.banks 0).port 6 == 9 | none => false) | _ => false) = true := by decide
theorem test_step_from_reset : (match step (State.reset.withFetchWord 16 0x1305) with | .next t => t.cur.readG 3 == 5 && t.cur.sup | _ => false) = true := by decide
theorem test_step_impossible : step { base with turns := [⟨.bank 64 0, 0⟩] } = .fault .noSuchUnit := rfl
theorem test_encodes : (let i : Instr := .vmul { fmt := .bf16, bc := true, a := 3, b := 4, c := 9, q := { pred := 2, rm := .ru, guard := some ⟨1, true⟩ } }
    i.wf && i.fits && encodeWords i == [0xFCC0, 0xF683, 0xF460, 0xF201, 0x8386]) = true := by decide
theorem test_canonical : stepping.canonical := by unfold State.canonical; decide
theorem test_reset_canonical : State.reset.canonical := by unfold State.canonical; decide

end Sys2Proof.Tests
end

section
/-! SUPPORT. Every step keeps the canonical form of storage (O60). One lemma per function of the model that gives a state, in the order
of the model's files: an equivalence where the function leaves storage alone, an implication where it writes it. -/

namespace Sys2Proof.Machine

/-! ## States -/

section
variable {s t : State}

/-- Of a state written out only the three parts of storage matter; a state updated in other fields therefore simplifies to the state it
was, with `State.canonical_fold`. -/
@[simp] theorem State.canonical_mk {cube datum mem poison full ctxs stations vaults c3 away tables router e2e hosts plat net timers
    after ext turns hand counts} :
    (State.mk cube datum mem poison full ctxs stations vaults c3 away tables router e2e hosts plat net timers after ext turns hand
      counts).canonical ↔ Memory.wf mem = true ∧ Map.wf false poison = true ∧ Map.wf false full = true := Iff.rfl
@[simp] theorem State.canonical_fold :
    (Memory.wf s.mem = true ∧ Map.wf false s.poison = true ∧ Map.wf false s.full = true) ↔ s.canonical := Iff.rfl

@[simp] theorem State.canonical_ite {c : Prop} [Decidable c] :
    (if c then s else t).canonical ↔ if c then s.canonical else t.canonical := by
  split <;> rfl
/-- The storage of a state that is one of two, both with the storage of a third. `exact` sees through the name of a function that is such
a choice, so that this closes the goals about packets that are numbered and kept (R262). -/
theorem State.canonical_of_ite {c : Prop} {_ : Decidable c} {a b : State} (ha : a.canonical) (hb : b.canonical) :
    (if c then a else b).canonical := by
  split <;> assumption
theorem State.canonical_ite_iff {c : Prop} {_ : Decidable c} {a b : State} (ha : a.canonical ↔ s.canonical)
    (hb : b.canonical ↔ s.canonical) : (if c then a else b).canonical ↔ s.canonical := by
  split <;> assumption
@[simp] theorem State.canonical_ite_fst {α : Type} {c : Prop} [Decidable c] {p q : State × α} :
    (if c then p else q).1.canonical ↔ if c then p.1.canonical else q.1.canonical := by
  split <;> rfl
@[simp] theorem State.canonical_ite_snd {α : Type} {c : Prop} [Decidable c] {p q : α × State} :
    (if c then p else q).2.canonical ↔ if c then p.2.canonical else q.2.canonical := by
  split <;> rfl
@[simp] theorem State.canonical_getD_ite {c : Prop} [Decidable c] {o p : Option State} :
    ((if c then o else p).getD s).canonical ↔ if c then (o.getD s).canonical else (p.getD s).canonical := by
  split <;> rfl

theorem State.canonical_snd {α : Type} {p : α × State} {a : α} (e : p = (a, t)) (h : p.2.canonical) : t.canonical := by
  rwa [e] at h

end

/-! ## Folds -/

section
variable {α β : Type}

@[simp] theorem State.canonical_foldl_iff {f : State → α → State} (hf : ∀ t a, (f t a).canonical ↔ t.canonical) (xs : List α) :
    ∀ s, (xs.foldl f s).canonical ↔ s.canonical := by
  induction xs with
  | nil => exact fun _ => Iff.rfl
  | cons x xs ih => exact fun s => (ih _).trans (hf s x)
@[simp] theorem State.canonical_foldl_fst_iff {f : State × β → α → State × β} (hf : ∀ r a, (f r a).1.canonical ↔ r.1.canonical)
    (xs : List α) : ∀ r, (xs.foldl f r).1.canonical ↔ r.1.canonical := by
  induction xs with
  | nil => exact fun _ => Iff.rfl
  | cons x xs ih => exact fun r => (ih _).trans (hf r x)
@[simp] theorem State.canonical_foldl_snd_iff {f : β × State → α → β × State} (hf : ∀ r a, (f r a).2.canonical ↔ r.2.canonical)
    (xs : List α) : ∀ r, (xs.foldl f r).2.canonical ↔ r.2.canonical := by
  induction xs with
  | nil => exact fun _ => Iff.rfl
  | cons x xs ih => exact fun r => (ih _).trans (hf r x)

theorem State.canonical_foldl {s : State} {f : State → α → State} {xs : List α} (h : s.canonical)
    (hf : ∀ t a, t.canonical → (f t a).canonical) : (xs.foldl f s).canonical :=
  foldl_keeps (p := State.canonical) hf xs h
theorem State.canonical_foldl_fst {r : State × β} {f : State × β → α → State × β} {xs : List α} (h : r.1.canonical)
    (hf : ∀ r a, r.1.canonical → (f r a).1.canonical) : (xs.foldl f r).1.canonical :=
  foldl_keeps (p := fun r : State × β => r.1.canonical) hf xs h

end

/-! ## What writes storage

The rules of the memory laws as `simp` rules. -/

section
variable {s : State} {fa n : Nat}

@[simp] theorem State.setBytes_canonical {bs : List Byte} (h : s.canonical) : (s.setBytes fa bs).canonical :=
  State.canonical_setBytes _ _ h
@[simp] theorem State.setRaw_canonical {w : BlockWord} {p : Bool} (h : s.canonical) : (s.setRaw fa w p).canonical :=
  State.canonical_setRaw _ _ _ h
@[simp] theorem State.putDram_canonical {canon : Nat} {w : BlockWord} {p : Bool} (h : s.canonical) :
    (s.putDram fa canon w p).canonical :=
  State.canonical_putDram _ _ _ _ h
@[simp] theorem State.rebuild_canonical {canon : Nat} (h : s.canonical) : (s.rebuild fa canon).canonical :=
  State.canonical_rebuild _ _ h
@[simp] theorem State.homeToDram_canonical {r p : Nat} {w : Line} (h : s.canonical) : (s.homeToDram n r p w).canonical :=
  State.canonical_homeToDram _ _ _ _ h
@[simp] theorem State.spillBlock_canonical {b : Block} (h : s.canonical) : (s.spillBlock n b).canonical :=
  State.canonical_spillBlock _ _ h
@[simp] theorem State.fillSlice_canonical {home : Bool} {r p : Nat} {ws : List Line} (h : s.canonical) :
    (s.fillSlice n home r p ws).canonical :=
  State.canonical_fillSlice _ _ _ _ _ h
@[simp] theorem State.putHome_canonical {pl : Place} {bs : List Byte} (h : s.canonical) : (s.putHome pl fa bs).1.canonical :=
  State.canonical_putHome _ _ _ h
@[simp] theorem State.performWrite_canonical {pl : Place} {bs : List Byte} {poison : List Nat} (h : s.canonical) :
    (s.performWrite pl fa bs poison).1.canonical :=
  State.canonical_performWrite _ _ _ _ h
@[simp] theorem State.poisonStripe_canonical (h : s.canonical) : (s.poisonStripe fa n).canonical :=
  State.canonical_poisonStripe _ _ h

end

/-! ## Outcomes -/

/-- An outcome's state, where it has one, holds storage in canonical form. -/
def Out.canonical : Out → Prop
  | .next t => t.canonical
  | _ => True

section
variable {t : State}

@[simp] theorem Out.canonical_next : Out.canonical (.next t) ↔ t.canonical := Iff.rfl
@[simp] theorem Out.canonical_ite {c : Prop} [Decidable c] {a b : Out} :
    Out.canonical (if c then a else b) ↔ if c then Out.canonical a else Out.canonical b := by
  split <;> rfl

end

/-! ## Steps with traps and stalls -/

namespace Exec

/-- The state after steps, whether they end, trap or stall. -/
def after {α : Type} (m : Exec α) (s : State) : State := match m s with | .ok _ t => t | .error _ t => t

/-- Steps that keep the canonical form of storage. -/
def Keeps {α : Type} (m : Exec α) : Prop := ∀ s, s.canonical → (m.after s).canonical

section
variable {α β : Type} {m : Exec α}

theorem Keeps.of_ok {s t : State} {a : α} (hm : m.Keeps) (e : m s = .ok a t) (h : s.canonical) : t.canonical := by
  simpa [after, e] using hm s h
theorem Keeps.of_error {s t : State} {x : Stop} (hm : m.Keeps) (e : m s = .error x t) (h : s.canonical) : t.canonical := by
  simpa [after, e] using hm s h

theorem Keeps.pure {a : α} : Keeps (Pure.pure a : Exec α) := fun _ h => h
theorem Keeps.throw {e : Stop} : Keeps (throw e : Exec α) := fun _ h => h
theorem Keeps.trap {c a : Nat} : Keeps (trap c a : Exec α) := Keeps.throw
theorem Keeps.stall : Keeps (stall : Exec α) := Keeps.throw
theorem Keeps.set {t : State} (h : t.canonical) : Keeps (set t : Exec PUnit) := fun _ _ => h
theorem Keeps.modify {f : State → State} (hf : ∀ s, s.canonical → (f s).canonical) : Keeps (modify f : Exec PUnit) := hf

theorem Keeps.bind {f : α → Exec β} (hm : Keeps m) (hf : ∀ a, Keeps (f a)) : Keeps (m >>= f) := by
  intro s h
  change State.canonical (Exec.after (EStateM.bind m f) s)
  unfold Exec.after EStateM.bind
  cases e : m s with
  | ok a t => exact hf a t (hm.of_ok e h)
  | error x t => exact hm.of_error e h
/-- What follows a read of the state may rely on that state's canonical form. -/
theorem Keeps.get_bind {f : State → Exec β} (hf : ∀ s, s.canonical → Keeps (f s)) : Keeps (get >>= f) := fun s h => hf s h s h
theorem Keeps.ite {c : Prop} [Decidable c] {n : Exec α} (hm : Keeps m) (hn : Keeps n) : Keeps (if c then m else n) := by
  split <;> assumption
/-- Steps taken on a condition before what comes in either case. -/
theorem Keeps.when {c : Prop} [Decidable c] {n : Exec Unit} {f : Unit → Exec α} (hn : Keeps n) (hf : ∀ u, Keeps (f u)) :
    Keeps (if c then n >>= f else f ()) := .ite (.bind hn hf) (hf ())
theorem Keeps.forIn {xs : List α} {b : β} {f : α → β → Exec (ForInStep β)} (hf : ∀ x b, Keeps (f x b)) : Keeps (forIn xs b f) := by
  induction xs generalizing b with
  | nil => exact Keeps.pure
  | cons x xs ih =>
    rw [List.forIn_cons]
    refine Keeps.bind (hf x b) fun r => ?_
    cases r with
    | done b => exact Keeps.pure
    | yield b => exact ih
theorem Keeps.mapM {f : α → Exec β} {xs : List α} (hf : ∀ a, (f a).Keeps) : (xs.mapM f).Keeps := by
  induction xs with
  | nil => exact .pure
  | cons x xs ih =>
    rw [List.mapM_cons]
    exact .bind (hf x) fun _ => .bind ih fun _ => .pure

end

end Exec

/-! ### Running steps -/

section
variable {s : State}

theorem Out.canonical_runSeq {m : Exec Unit} (hm : m.Keeps) (h : s.canonical) : Out.canonical (runSeq m s) := by
  unfold runSeq
  split <;> rename_i e
  · exact (hm.of_ok e h :)
  · exact (hm.of_error e h :)
  · exact (hm.of_error e h :)
theorem Out.canonical_runSelf {m : Exec Unit} (hm : m.Keeps) (h : s.canonical) : Out.canonical (runSelf m s) := by
  unfold runSelf
  split <;> rename_i e
  · exact (hm.of_ok e h :)
  · exact (hm.of_error e h :)
  · exact (hm.of_error e h :)

@[simp] theorem Out.canonical_privileged {k : State → Out} (h : s.canonical) (hk : Out.canonical (k s)) :
    Out.canonical (privileged k s) := by
  unfold privileged
  split
  · exact hk
  · exact h
@[simp] theorem Out.canonical_privilegedBy {srcs : List Nat} {ok : Ctx → Bool} {k : State → Out} (h : s.canonical)
    (hk : Out.canonical (k s)) : Out.canonical (privilegedBy srcs ok k s) := by
  unfold privilegedBy
  split
  · exact hk
  · split <;> exact h

end

/-! ## An engine's reads -/

/-- What a read gives satisfies a predicate, where it gives something. -/
def Got.Holds {α : Type} (p : α → Prop) : Got α → Prop
  | .ok a => p a
  | _ => True

section
variable {α β : Type} {p : α → Prop} {q : β → Prop}

@[simp] theorem Got.holds_ok {a : α} : (Got.ok a).Holds p ↔ p a := Iff.rfl
@[simp] theorem Got.holds_bad {c a : Nat} : (Got.bad c a : Got α).Holds p := trivial
theorem Got.holds_ite {c : Prop} [Decidable c] {x y : Got α} (hx : x.Holds p) (hy : y.Holds p) : (if c then x else y).Holds p := by
  split <;> assumption
theorem Got.holds_of_forall (x : Got α) (h : ∀ a, p a) : x.Holds p := by
  cases x with
  | ok a => exact h a
  | _ => trivial
theorem Got.Holds.of_eq {x : Got α} {a : α} (h : x.Holds p) (e : x = .ok a) : p a := by
  rwa [e] at h
theorem Got.Holds.bind {x : Got α} {f : α → Got β} (hx : x.Holds p) (hf : ∀ a, p a → (f a).Holds q) : (x.bind f).Holds q := by
  cases x with
  | ok a => exact hf a hx
  | _ => trivial
theorem Got.holds_bind {x : Got α} {f : α → Got β} (hf : ∀ a, (f a).Holds q) : (x.bind f).Holds q := by
  cases x with
  | ok a => exact hf a
  | _ => trivial

end

/-! ## Operations over registers, contexts and messages -/

section
variable {s : State}

@[simp] theorem State.canonical_setCtx_iff {l : Loc} {c : Ctx} : (s.setCtx l c).canonical ↔ s.canonical := Iff.rfl
@[simp] theorem State.canonical_modCtx_iff {l : Loc} {f : Ctx → Ctx} : (s.modCtx l f).canonical ↔ s.canonical := Iff.rfl
@[simp] theorem State.canonical_modCur_iff {f : Ctx → Ctx} : (s.modCur f).canonical ↔ s.canonical := Iff.rfl
@[simp] theorem State.canonical_setStn_iff {n : Nat} {t : Station} : (s.setStn n t).canonical ↔ s.canonical := Iff.rfl
@[simp] theorem State.canonical_modStn_iff {n : Nat} {f : Station → Station} : (s.modStn n f).canonical ↔ s.canonical := Iff.rfl
@[simp] theorem State.canonical_modVault_iff {n : Nat} {f : Vault → Vault} : (s.modVault n f).canonical ↔ s.canonical := Iff.rfl
@[simp] theorem State.canonical_modSlice_iff {n : Nat} {f : Slice → Slice} : (s.modSlice n f).canonical ↔ s.canonical := Iff.rfl
@[simp] theorem State.canonical_modHome_iff {n : Nat} {f : Home → Home} : (s.modHome n f).canonical ↔ s.canonical := Iff.rfl
@[simp] theorem State.canonical_modSched_iff {n : Nat} {f : Sched → Sched} : (s.modSched n f).canonical ↔ s.canonical := Iff.rfl
@[simp] theorem State.canonical_modEng_iff {n : Nat} {f : Engines → Engines} : (s.modEng n f).canonical ↔ s.canonical := Iff.rfl
@[simp] theorem State.canonical_modVec_iff {n : Nat} {f : Vec → Vec} : (s.modVec n f).canonical ↔ s.canonical := Iff.rfl
@[simp] theorem State.canonical_send_iff {m : Msg} : (s.send m).canonical ↔ s.canonical := Iff.rfl
@[simp] theorem State.canonical_sendAll_iff {ms : List Msg} : (s.sendAll ms).canonical ↔ s.canonical := Iff.rfl

@[simp] theorem State.canonical_requeue_iff {m : Msg} : (s.requeue m).canonical ↔ s.canonical := by
  unfold State.requeue
  split <;> simp

@[simp] theorem State.canonical_schedule_iff {due : Nat} {m : Msg} : (s.schedule due m).canonical ↔ s.canonical := Iff.rfl
@[simp] theorem State.canonical_freshChoice_iff : s.freshChoice.2.canonical ↔ s.canonical := Iff.rfl
@[simp] theorem State.canonical_retire_iff : s.retire.canonical ↔ s.canonical := Iff.rfl
@[simp] theorem State.canonical_enterTrap_iff {l : Loc} {cause : Nat} {addr : Word} {tpc iwords : Nat} :
    (s.enterTrap l cause addr tpc iwords).canonical ↔ s.canonical :=
  Iff.rfl
@[simp] theorem State.canonical_trapOf_iff {l : Loc} {cause : Nat} {addr : Word} {n : Nat} :
    (s.trapOf l cause addr n).canonical ↔ s.canonical :=
  Iff.rfl
@[simp] theorem State.canonical_trap_iff {cause : Nat} {addr : Word} : (s.trap cause addr).canonical ↔ s.canonical := Iff.rfl
theorem Exec.Keeps.check {ok : Bool} {cause addr : Nat} : (Exec.check ok cause addr).Keeps := .ite .pure .trap
theorem Exec.Keeps.wait {ok : Bool} : (Exec.wait ok).Keeps := .ite .pure .stall
theorem Exec.Keeps.ctx : (Exec.ctx).Keeps := .get_bind fun _ _ => .pure
theorem Exec.Keeps.modCtx {f : Ctx → Ctx} : (Exec.modCtx f).Keeps := .modify fun _ h => by simp [h]
theorem Exec.Keeps.need {rs : List Nat} : (Exec.need rs).Keeps := .bind .ctx fun _ => .wait
theorem Exec.Keeps.setReg {r : Nat} {v : Word} : (Exec.setReg r v).Keeps := .modCtx
theorem Exec.Keeps.setPair {r : Nat} {v w : Word} : (Exec.setPair r v w).Keeps := .bind .setReg fun _ => .setReg

@[simp] theorem Out.canonical_scalar {srcs : List Nat} {f : Ctx → Ctx} (h : s.canonical) : Out.canonical (scalar srcs f s) := by
  simp [scalar, h]

@[simp] theorem Out.canonical_scalarTo {srcs : List Nat} {f : Ctx → Ctx} {pc : Ctx → Nat} (h : s.canonical) :
    Out.canonical (scalarTo srcs f pc s) := by
  simp [scalarTo, h]

@[simp] theorem State.canonical_countError_iff {i n : Nat} : (s.countError i n).canonical ↔ s.canonical := Iff.rfl
@[simp] theorem State.canonical_observe_iff {src unit x : Nat} : (s.observe src unit x).canonical ↔ s.canonical := Iff.rfl
@[simp] theorem State.canonical_setC3_iff {tid n : Nat} : (s.setC3 tid n).canonical ↔ s.canonical := Iff.rfl

end

/-! ## Operands -/

section
variable {s : State}

theorem Exec.Keeps.ill {α : Type} : (Exec.ill : Exec α).Keeps := .get_bind fun _ _ => .trap

end

/-! ## Control registers -/

section
variable {s : State}

@[simp] theorem State.canonical_writeVweight_iff {stn : Nat} {v : Word} : (s.writeVweight stn v).canonical ↔ s.canonical :=
  Iff.rfl
@[simp] theorem State.canonical_writeTvec_iff {stn : Nat} {v : Word} : (s.writeTvec stn v).canonical ↔ s.canonical := Iff.rfl

@[simp] theorem State.canonical_writeCsr_iff {l : Loc} {num : Nat} {v : Word} : (s.writeCsr l num v).canonical ↔ s.canonical := by
  unfold State.writeCsr
  split <;> simp

theorem Out.canonical_csrAccess {num : Nat} {srcs : List Nat} {k : Loc → State → State} (h : s.canonical)
    (hk : ∀ l t, t.canonical → (k l t).canonical) : Out.canonical (csrAccess num srcs k s) := by
  simp [csrAccess, h, hk]

@[simp] theorem Out.canonical_execCsrr {num a : Nat} (h : s.canonical) : Out.canonical (execCsrr num a s) :=
  Out.canonical_csrAccess h fun _ _ ht => by simp [ht]
@[simp] theorem Out.canonical_execCsrw {num a : Nat} (h : s.canonical) : Out.canonical (execCsrw num a s) :=
  Out.canonical_csrAccess h fun _ _ ht => by simp [ht]
@[simp] theorem Out.canonical_execCsrs {num a : Nat} (h : s.canonical) : Out.canonical (execCsrs num a s) :=
  Out.canonical_csrAccess h fun _ _ ht => by simp [ht]
@[simp] theorem Out.canonical_execCsrc {num a : Nat} (h : s.canonical) : Out.canonical (execCsrc num a s) :=
  Out.canonical_csrAccess h fun _ _ ht => by simp [ht]

@[simp] theorem Out.canonical_csrStep {num : Nat} (h : s.canonical) : Out.canonical (csrStep num s) := by
  unfold csrStep
  split <;> simp [h]

@[simp] theorem Out.canonical_csrStepFloat {num : Nat} (h : s.canonical) : Out.canonical (csrStepFloat num s) := by
  simp [csrStepFloat, h]

@[simp] theorem Out.canonical_execVweight (h : s.canonical) : Out.canonical (execVweight s) := by simp [execVweight, h]
@[simp] theorem Out.canonical_execTpc (h : s.canonical) : Out.canonical (execTpc s) := by simp [execTpc, h]

end

/-! ## Block words, slices and homes -/

section
variable {s : State}

@[simp] theorem State.canonical_putWin {stn : Nat} {w : Window} {x : Line} (h : s.canonical) : (s.putWin stn w x).canonical := by
  simp [State.putWin, h]

@[simp] theorem State.canonical_useStn_iff {stn fa : Nat} : (s.useStn stn fa).canonical ↔ s.canonical := Iff.rfl

@[simp] theorem State.canonical_useHome_iff {pl : Place} {fa n : Nat} : (s.useHome pl fa n).canonical ↔ s.canonical := by
  simp [State.useHome]

@[simp] theorem State.canonical_sendSeq_iff {ms : List Msg} : (s.sendSeq ms).canonical ↔ s.canonical := by
  unfold State.sendSeq
  split <;> simp

@[simp] theorem State.canonical_logError_iff {ptag typ fa count : Nat} :
    (s.logError ptag typ fa count).canonical ↔ s.canonical := by
  unfold State.logError
  split
  · simp
  · split <;> simp

@[simp] theorem State.canonical_chargeBad_iff {stn fa ptag : Nat} {w : Line} :
    (s.chargeBad stn fa ptag w).canonical ↔ s.canonical := by
  simp [State.chargeBad]

@[simp] theorem State.canonical_voidFills_iff {stn : Nat} {pick : Nat → Bool} : (s.voidFills stn pick).canonical ↔ s.canonical :=
  Iff.rfl

@[simp] theorem State.canonical_writeBack_iff {stn region ptag : Nat} {w : Line} :
    (s.writeBack stn region ptag w).canonical ↔ s.canonical := by
  simp [State.writeBack]

@[simp] theorem State.canonical_trimSlice {stn : Nat} {gone : Block → Line → Bool} (h : s.canonical) :
    (s.trimSlice stn gone).canonical := by
  unfold State.trimSlice
  dsimp only
  exact State.canonical_foldl (by simp [h]) fun _ _ ht => by simp [ht]

end

/-! ## Reads before an instruction acts, and translation -/

section
variable {s : State}

@[simp] theorem State.canonical_installTlb_iff {stn ptag va : Nat} {l : Leaf} :
    (s.installTlb stn ptag va l).canonical ↔ s.canonical :=
  Iff.rfl
theorem Exec.Keeps.tag : (Exec.tag).Keeps := .get_bind fun _ _ => .pure

theorem Exec.Keeps.got {α : Type} {x : Got α} : (Exec.got x).Keeps := by
  unfold Exec.got
  split
  · exact .pure
  · exact .stall
  · exact .trap
  · exact .bind (.forIn fun _ _ => .get_bind fun _ h => .ite (.bind (.set (by simp [h])) fun _ =>
      .bind (.modify fun _ ht => by simp [ht]) fun _ => .pure) .pure) fun _ => .stall

theorem Exec.Keeps.translate {va : Nat} {need : Need} : (Exec.translate va need).Keeps :=
  .get_bind fun _ _ => .bind .tag fun _ => .bind .got fun _ => .when (.modify fun _ ht => by simp [ht]) fun _ => .pure

theorem Exec.Keeps.faOf {win : Win} {ea : Nat} {need : Need} : (Exec.faOf win ea need).Keeps := by
  unfold Exec.faOf
  split
  · exact .translate
  · exact .bind .check fun _ => .get_bind fun _ _ => .pure
  · exact .bind .check fun _ => .pure

theorem Exec.Keeps.home {win : Win} {fa ea : Nat} : (Exec.home win fa ea).Keeps := by
  unfold Exec.home
  refine .get_bind fun _ _ => ?_
  split
  · exact .pure
  · exact .trap

theorem Exec.Keeps.parts {win : Win} {need : Need} {k n j : Nat} : (Exec.parts win need k n j).Keeps := by
  induction k generalizing win need n j with
  | zero => exact .pure
  | succ _ ih => exact .ite .pure (.bind .faOf fun _ => .bind .home fun _ => .bind ih fun _ => .pure)

theorem Exec.Keeps.winPriv {win : Win} : (Exec.winPriv win).Keeps := .bind .ctx fun _ => .check
theorem Exec.Keeps.access {win : Win} {need : Need} {aligned : Bool} {ea n : Nat} : (Exec.access win need aligned ea n).Keeps :=
  .bind .check fun _ => .parts
theorem Exec.Keeps.readNow {need : Need} {ea n : Nat} : (Exec.readNow need ea n).Keeps :=
  .bind .parts fun _ => .get_bind fun _ _ => .bind (.forIn fun _ _ => .bind (.modify fun _ ht => by simp [ht]) fun _ =>
    .bind .got fun _ => .pure) fun _ => .pure

end

/-! ## Packets -/

section
variable {s : State}

@[simp] theorem State.canonical_tellManager_iff {what about : Nat} : (s.tellManager what about).canonical ↔ s.canonical := by
  unfold State.tellManager
  split
  · exact State.canonical_ite_iff Iff.rfl Iff.rfl
  · exact Iff.rfl

@[simp] theorem State.canonical_emit_iff {hd : Hdr} {b : Body} : (s.emit hd b).canonical ↔ s.canonical := Iff.rfl
@[simp] theorem State.canonical_modFilter_iff {p : PktSrc} {f : Filter → Filter} : (s.modFilter p f).canonical ↔ s.canonical :=
  Iff.rfl
@[simp] theorem State.canonical_ackWait_iff {p : PktSrc} {armed : Bool} : (s.ackWait p armed).canonical ↔ s.canonical := Iff.rfl
@[simp] theorem State.canonical_ackPkt_iff {p : PktSrc} : (s.ackPkt p).canonical ↔ s.canonical := Iff.rfl
@[simp] theorem State.canonical_replyPkt_iff {p : PktSrc} {typ pmask : Nat} {b : Body} :
    (s.replyPkt p typ pmask b).canonical ↔ s.canonical :=
  Iff.rfl
@[simp] theorem State.canonical_nackPkt_iff {p : PktSrc} {moved : Bool} : (s.nackPkt p moved).canonical ↔ s.canonical := Iff.rfl

end

/-! ## The home side of memory -/

section
variable {s : State}

@[simp] theorem State.canonical_grant_iff {stn fa n expiry : Nat} : (s.grant stn fa n expiry).canonical ↔ s.canonical := Iff.rfl
@[simp] theorem State.canonical_demand_iff {w : Witness} {p : PubFor} : (s.demand w p).canonical ↔ s.canonical := Iff.rfl
@[simp] theorem State.canonical_record_iff {home fa n cube stn seq : Nat} {sig : Sig} :
    (s.record home fa n cube stn seq sig).canonical ↔ s.canonical :=
  Iff.rfl

@[simp] theorem State.canonical_retireOldest_iff {home : Nat} : (s.retireOldest home).canonical ↔ s.canonical := by
  unfold State.retireOldest
  split <;> simp

@[simp] theorem State.canonical_flushPubs_iff {stn k : Nat} : (s.flushPubs stn k).canonical ↔ s.canonical := by
  induction k generalizing s stn with
  | zero =>
    unfold State.flushPubs
    simp
  | succ _ ih =>
    unfold State.flushPubs
    split
    · simp [ih]
    · simp

@[simp] theorem State.canonical_beginPublication_iff {d : Demand} : (s.beginPublication d).canonical ↔ s.canonical := by
  simp [State.beginPublication]

@[simp] theorem State.canonical_wbDone_iff {stn id : Nat} : (s.wbDone stn id).canonical ↔ s.canonical := by simp [State.wbDone]

@[simp] theorem State.canonical_answerWait_iff {home : Nat} {w : WaitReg} {m : Nat} {poisoned : Bool} :
    (s.answerWait home w m poisoned).canonical ↔ s.canonical := by
  unfold State.answerWait
  split
  · simp
  · split <;> simp

@[simp] theorem State.canonical_wakeWaiters_iff {before : State} {pl : Place} {fa n : Nat} {all : Bool} :
    (s.wakeWaiters before pl fa n all).canonical ↔ s.canonical := by
  simp [State.wakeWaiters]

@[simp] theorem State.canonical_holdOp_iff {stn fa n : Nat} {m : Msg} : (s.holdOp stn fa n m).canonical ↔ s.canonical := Iff.rfl

@[simp] theorem State.canonical_answerRead_iff {r : ReadRep} : (s.answerRead r).canonical ↔ s.canonical := by
  unfold State.answerRead
  split <;> simp

@[simp] theorem State.canonical_answerWrite_iff {w : WriteReq} {poison : List Nat} :
    (s.answerWrite w poison).canonical ↔ s.canonical := by
  unfold State.answerWrite
  split <;> simp

@[simp] theorem State.canonical_answerAtomic_iff {r : AtomRep} : (s.answerAtomic r).canonical ↔ s.canonical := by
  unfold State.answerAtomic
  split <;> simp

@[simp] theorem State.canonical_serveRead_iff {pl : Place} {r : ReadReq} : (s.serveRead pl r).canonical ↔ s.canonical := by
  simp [State.serveRead]

@[simp] theorem State.canonical_rebuildRange {pl : Place} {fa n : Nat} (h : s.canonical) : (s.rebuildRange pl fa n).canonical :=
  State.canonical_foldl (by simp [h]) fun _ _ ht => by simp [ht]

@[simp] theorem State.canonical_askWords_iff {ptag : Nat} {fas : List Nat} : (s.askWords ptag fas).canonical ↔ s.canonical := by
  simp [State.askWords]

@[simp] theorem State.canonical_askMembers_iff {fas : List Nat} {m : Msg} : (s.askMembers fas m).canonical ↔ s.canonical := by
  simp [State.askMembers]

@[simp] theorem State.canonical_homeRead {pl : Place} {r : ReadReq} {done : Option Demand} (h : s.canonical) :
    (s.homeRead pl r done).canonical := by
  unfold State.homeRead
  split
  · simp [h]
  · split
    · simp [h]
    · split
      · dsimp only
        split <;> simp [h]
      · simp [h]

@[simp] theorem State.canonical_evictHomes {pick : Nat → Bool} {drop : Bool} (h : s.canonical) :
    (s.evictHomes pick drop).canonical := by
  unfold State.evictHomes
  refine State.canonical_foldl h fun t n ht => State.canonical_foldl ht fun u b hu => ?_
  split
  · exact hu
  · exact State.canonical_foldl hu fun v w hv => by simp [hv]

@[simp] theorem State.canonical_emptyHomes (h : s.canonical) : s.emptyHomes.canonical := by
  unfold State.emptyHomes
  refine State.canonical_foldl (by simp [h]) fun _ _ ht => State.canonical_foldl (by simp [ht]) fun _ _ ht => ?_
  split
  · exact State.canonical_foldl (by simp [ht]) fun _ _ ht => by simp [ht]
  · simp [ht]

@[simp] theorem State.canonical_dramWrite {pl : Place} {fa : Nat} {bs : List Byte} (h : s.canonical) :
    (s.dramWrite pl fa bs).1.canonical := by
  refine State.canonical_wakeWaiters _ _ _ _ _ (State.canonical_foldl_fst h fun r p hr => ?_)
  dsimp only
  split <;> simp [hr]

@[simp] theorem State.canonical_serveWrite {pl : Place} {w : WriteReq} (h : s.canonical) : (s.serveWrite pl w).canonical := by
  simp [State.serveWrite, h]

@[simp] theorem State.canonical_homeWrite {pl : Place} {w : WriteReq} (h : s.canonical) : (s.homeWrite pl w).canonical := by
  simp [State.homeWrite, h]

@[simp] theorem State.canonical_hostWrote_iff {node fa : Nat} : (s.hostWrote node fa).canonical ↔ s.canonical := Iff.rfl

@[simp] theorem State.canonical_serveWriteBack {pl : Place} {w : WbMsg} (h : s.canonical) :
    (s.serveWriteBack pl w).canonical := by
  unfold State.serveWriteBack
  split
  · split <;> simp [h]
  · simp [h]

@[simp] theorem State.canonical_homeWriteBack {pl : Place} {w : WbMsg} (h : s.canonical) : (s.homeWriteBack pl w).canonical := by
  simp [State.homeWriteBack, h]

@[simp] theorem State.canonical_logged_iff {a : AtomReq} : (s.logged a).canonical ↔ s.canonical := by simp [State.logged]

@[simp] theorem State.canonical_serveAtomic {pl : Place} {a : AtomReq} (h : s.canonical) : (s.serveAtomic pl a).canonical := by
  unfold State.serveAtomic
  extract_lets n s0 d m r cube foreign sig s1 s2
  have hs0 : s0.canonical := by simp [s0, h]
  have hs1 : s1.canonical := by simp [s1, hs0]
  have hs2 : s2.canonical := by
    unfold s2
    split <;> simp [hs1]
  simp [hs0, hs2]

@[simp] theorem State.canonical_setFull {k : Nat} {f : Bool} (h : s.canonical) :
    ({ s with full := Map.set false s.full k f } : State).canonical :=
  ⟨h.1, h.2.1, Map.wf_set k f h.2.2⟩

@[simp] theorem State.canonical_feAct {pl : Place} {a : AtomReq} (h : s.canonical) : (s.feAct pl a).canonical := by
  unfold State.feAct
  extract_lets k d cube s1 s2 f s3
  have h1 : s1.canonical := by simp [s1, h]
  have h2 : s2.canonical := by
    simp only [s2]
    split <;> simp [h1]
  have h3 : s3.canonical := State.canonical_setFull h2
  split
  · simp [h]
  · split <;> simp [h3]

@[simp] theorem State.canonical_feServe {pl : Place} {fa k : Nat} (h : s.canonical) : (s.feServe pl fa k).canonical := by
  induction k generalizing s pl fa with
  | zero =>
    unfold State.feServe
    simp [h]
  | succ _ ih =>
    unfold State.feServe
    split
    · simp [h, ih]
    · simp [h]

@[simp] theorem State.canonical_homeFe {pl : Place} {a : AtomReq} (h : s.canonical) : (s.homeFe pl a).canonical := by
  simp [State.homeFe, h]

@[simp] theorem State.canonical_homeAtomic {pl : Place} {a : AtomReq} {done : Option Demand} (h : s.canonical) :
    (s.homeAtomic pl a done).canonical := by
  unfold State.homeAtomic
  extract_lets n s1
  have hs1 : s1.canonical := by simp [s1, h]
  clear_value n s1
  split
  · simp [h]
  · split
    · simp [h]
    · split
      · simp [h]
      · split <;> simp [hs1]

@[simp] theorem State.canonical_homeWait_iff {pl : Place} {w : WaitReg} : (s.homeWait pl w).1.canonical ↔ s.canonical := by
  simp [State.homeWait]

end

/-! ## Continuation records and ready stores -/

section
variable {s : State}

@[simp] theorem State.canonical_putImage {stn : Nat} {r : RecEntry} (h : s.canonical) : (s.putImage stn r).canonical := by
  simp [State.putImage, h]

@[simp] theorem State.canonical_addReady {stn : Nat} {r : RecEntry} (h : s.canonical) : (s.addReady stn r).canonical := by
  simp [State.addReady, h]

@[simp] theorem State.canonical_addSpill_iff {stn : Nat} {r : RecEntry} : (s.addSpill stn r).canonical ↔ s.canonical := Iff.rfl
@[simp] theorem State.canonical_dropRecord_iff {stn : Nat} {r : RecEntry} : (s.dropRecord stn r).canonical ↔ s.canonical :=
  Iff.rfl

@[simp] theorem State.canonical_insertAs {stn : Nat} {r : RecEntry} (h : s.canonical) : (s.insertAs stn r).canonical := by
  unfold State.insertAs
  split
  · dsimp only
    split <;> simp [h]
  · dsimp only
    split <;> simp [h]

@[simp] theorem State.canonical_insertReady {stn : Nat} {r : RecEntry} (h : s.canonical) : (s.insertReady stn r).canonical := by
  simp [State.insertReady, h]

@[simp] theorem State.canonical_releaseSlot_iff {stn slot : Nat} : (s.releaseSlot stn slot).canonical ↔ s.canonical := Iff.rfl

@[simp] theorem State.canonical_sendRecord_iff {stn cube dst : Nat} {r : RecEntry} :
    (s.sendRecord stn cube dst r).canonical ↔ s.canonical := by
  simp [State.sendRecord]

@[simp] theorem State.canonical_sendAway {stn : Nat} {r : RecEntry} (h : s.canonical) : (s.sendAway stn r).canonical := by
  unfold State.sendAway
  extract_lets ds c r1
  clear_value r1
  split <;> simp [h]

@[simp] theorem State.canonical_makeReady {stn : Nat} {r : RecEntry} (h : s.canonical) : (s.makeReady stn r).canonical := by
  simp [State.makeReady, h]

@[simp] theorem State.canonical_unpark {stn : Nat} {r : RecEntry} {next : Resume} (h : s.canonical) :
    (s.unpark stn r next).canonical := by
  simp [State.unpark, h]

@[simp] theorem State.canonical_proceed_iff {id : Nat} : (s.proceed id).canonical ↔ s.canonical := by
  unfold State.proceed
  split <;> simp

@[simp] theorem State.canonical_nextRel_iff {stn : Nat} : (s.nextRel stn).2.canonical ↔ s.canonical := Iff.rfl
@[simp] theorem State.canonical_counterMsg_iff {stn fa ptag : Nat} {broken : Bool} :
    (s.counterMsg stn fa ptag broken).2.canonical ↔ s.canonical :=
  Iff.rfl
@[simp] theorem State.canonical_storeMsg_iff {stn fa ptag : Nat} {bs : List Byte} :
    (s.storeMsg stn fa ptag bs).2.canonical ↔ s.canonical :=
  Iff.rfl

@[simp] theorem State.canonical_counterStep_iff {stn ptag va : Nat} {fa : Option Nat} {broken : Bool} :
    (s.counterStep stn ptag va fa broken).2.canonical ↔ s.canonical := by
  unfold State.counterStep
  split
  · simp
  · split <;> simp

@[simp] theorem State.canonical_retireWith_iff {stn : Nat} {r : RecEntry} {status cause : Nat} {join obit : Option Nat} :
    (s.retireWith stn r status cause join obit).canonical ↔ s.canonical := by
  unfold State.retireWith
  split
  · simp
  · split <;> simp

@[simp] theorem State.canonical_forgetRead_iff : s.forgetRead.canonical ↔ s.canonical := by simp [State.forgetRead]

theorem State.canonical_of_retire? {t : State} {stn : Nat} {r : RecEntry} {status cause : Nat}
    (e : s.retire? stn r status cause = some t) (h : s.canonical) : t.canonical := by
  unfold State.retire? at e
  split at e
  · obtain rfl := Option.some.inj e
    simp [h]
  · simp at e

@[simp] theorem State.canonical_askRetire {stn : Nat} {r : RecEntry} (h : s.canonical) : (s.askRetire stn r).canonical := by
  simp [State.askRetire, h]

@[simp] theorem State.canonical_refuseRecord_iff {stn reply : Nat} : (s.refuseRecord stn reply).canonical ↔ s.canonical := by
  simp [State.refuseRecord]

end

/-! ## The requester's side of memory -/

section
variable {s : State}

@[simp] theorem State.canonical_acquireSig {stn : Nat} {g : Sig} (h : s.canonical) : (s.acquireSig stn g).canonical := by
  simp [State.acquireSig, h]

@[simp] theorem State.canonical_installCopies {stn : Nat} {f : Fill} (h : s.canonical) : (s.installCopies stn f).canonical := by
  unfold State.installCopies
  dsimp only
  refine State.canonical_foldl ?_ fun _ _ ht => ?_
  · refine State.canonical_foldl ?_ fun _ _ ht => ?_
    · dsimp only
      refine State.canonical_foldl (by simp [h]) fun _ _ ht => ?_
      split <;> simp [ht]
    · simp [ht]
  · simp [ht]

@[simp] theorem State.canonical_takeCopies {r : ReadRep} (h : s.canonical) : (s.takeCopies r).canonical := by
  unfold State.takeCopies
  dsimp only
  split <;> simp [h]

@[simp] theorem State.canonical_dropFill_iff {stn id : Nat} : (s.dropFill stn id).canonical ↔ s.canonical := Iff.rfl

@[simp] theorem State.canonical_expireChunk {stn chunk : Nat} (h : s.canonical) : (s.expireChunk stn chunk).canonical := by
  simp [State.expireChunk, h]

@[simp] theorem State.canonical_latency_iff {asked : Nat} : (s.latency asked).2.canonical ↔ s.canonical := Iff.rfl

@[simp] theorem State.canonical_sampleLoad_iff {stn : Nat} {ordered : Bool} {asked : Nat} :
    (s.sampleLoad stn ordered asked).canonical ↔ s.canonical := by
  simp [State.sampleLoad]

@[simp] theorem State.canonical_finishFlight_iff {l : Loc} {f : Flight} : (s.finishFlight l f).canonical ↔ s.canonical := by
  unfold State.finishFlight
  split
  · dsimp only
    split <;> split <;> simp
  · dsimp only
    split <;> split <;> simp

@[simp] theorem State.canonical_arrive_iff {l : Loc} {id fa : Nat} {data : List Byte} {poison : List Nat} :
    (s.arrive l id fa data poison).canonical ↔ s.canonical := by
  unfold State.arrive
  dsimp only
  split <;> simp

@[simp] theorem State.canonical_takeRead {r : ReadRep} (h : s.canonical) : (s.takeRead r).canonical := by
  unfold State.takeRead
  extract_lets s1 s2 ws
  have hs1 : s1.canonical := by
    unfold s1
    split <;> simp [h]
  have hs2 : s2.canonical := by simp [s2, hs1]
  clear_value s2
  split
  · split
    · exact hs2
    · split <;> simp [hs2]
  · simp [hs2]
  · simp [hs2]
  · exact hs2

@[simp] theorem State.canonical_completeWaiting_iff {l : Loc} {dest : Nat} {v : Word} {poison : Option Nat} :
    (s.completeWaiting l dest v poison).canonical ↔ s.canonical := by
  unfold State.completeWaiting
  split <;> simp

@[simp] theorem State.canonical_takeWriteAck_iff {w : WriteReq} : (s.takeWriteAck w).canonical ↔ s.canonical := by
  unfold State.takeWriteAck
  split <;> simp

@[simp] theorem State.canonical_takeAtomic {r : AtomRep} (h : s.canonical) : (s.takeAtomic r).canonical := by
  unfold State.takeAtomic
  extract_lets a s1
  have hs1 : s1.canonical := by
    unfold s1
    split <;> simp [h]
  clear_value s1
  split <;> simp [hs1]

@[simp] theorem State.canonical_takeWake {m : WakeMsg} (h : s.canonical) : (s.takeWake m).canonical := by
  unfold State.takeWake
  split <;> split <;> split <;> simp [h]

@[simp] theorem State.canonical_parkWaiting_iff {l : Loc} : (s.parkWaiting l).canonical ↔ s.canonical := Iff.rfl

end

/-! ## The order of accesses -/

section
variable {s : State}

theorem Exec.Keeps.waitWC {wc : Nat} : (Exec.waitWC wc).Keeps := .get_bind fun _ _ => .wait
theorem Exec.Keeps.afterAcquire : (Exec.afterAcquire).Keeps := .bind .ctx fun _ => .wait
theorem Exec.Keeps.afterSame {bws : List Nat} : (Exec.afterSame bws).Keeps := .get_bind fun _ _ => .wait
theorem Exec.Keeps.afterLocal {ps : List Exec.Part} : (Exec.afterLocal ps).Keeps := .get_bind fun _ _ => .wait
theorem Exec.Keeps.readOwn {ea n : Nat} : (Exec.readOwn ea n).Keeps :=
  .bind .afterAcquire fun _ => .bind .parts fun _ => .bind .afterSame fun _ => .bind .afterLocal fun _ => .readNow
theorem Exec.Keeps.afterStrong : (Exec.afterStrong).Keeps := .bind .ctx fun _ => .wait
theorem Exec.Keeps.drained : (Exec.drained).Keeps := .get_bind fun _ _ => .wait

theorem Exec.Keeps.beforeRelease {scope : Scope} : (Exec.beforeRelease scope).Keeps := by
  unfold Exec.beforeRelease
  refine .bind .drained fun _ => .bind .ctx fun _ => ?_
  split <;> exact .wait

theorem Exec.Keeps.launch {f : Flight} : (Exec.launch f).Keeps :=
  .get_bind fun _ h => .ite (.set (by simp [h])) (.set (by simp [h]))

@[simp] theorem State.canonical_flushWords {stn : Nat} {homes : Bool} {pick : Nat → Bool} (h : s.canonical) :
    (s.flushWords stn homes pick).canonical := by
  unfold State.flushWords
  dsimp only
  refine State.canonical_foldl ?_ fun _ _ ht => ?_
  · refine State.canonical_foldl (by simp [h]) fun _ _ ht => ?_
    split
    · exact State.canonical_foldl (by simp [ht]) fun _ _ ht => by simp [ht]
    · simp [ht]
  · simp [ht]

@[simp] theorem State.canonical_dropWords {stn : Nat} {homes : Bool} {pick : Nat → Bool} (h : s.canonical) :
    (s.dropWords stn homes pick).canonical := by
  simp [State.dropWords, h]

theorem Exec.Keeps.cleanChunk {fa : Nat} : (Exec.cleanChunk fa).Keeps :=
  .get_bind fun _ h => .when (.set (by simp [h])) fun _ => .get_bind fun _ ht => .bind .wait fun _ => .set (by simp [ht])

@[simp] theorem State.canonical_fillHome {pl : Place} {region lo hi : Nat} {span : Bool} (h : s.canonical) :
    (s.fillHome pl region lo hi span).canonical := by
  simp [State.fillHome, h]

@[simp] theorem State.canonical_askFill_iff {id : Nat} {src : Src} {stn : Nat} {dest : Dest} {pl : Place} {fa va n : Nat}
    {hd : Hint} : (s.askFill id src stn dest pl fa va n hd).canonical ↔ s.canonical := by
  simp [State.askFill]

@[simp] theorem State.canonical_markSig_iff {stn fa : Nat} : (s.markSig stn fa).canonical ↔ s.canonical := Iff.rfl

@[simp] theorem State.canonical_dropReplicas {stn fa : Nat} (h : s.canonical) : (s.dropReplicas stn fa).canonical := by
  simp [State.dropReplicas, h]

@[simp] theorem State.canonical_putCopy {stn : Nat} {pl : Place} {fa : Nat} {old : BlockWord} {bs : List Byte} (h : s.canonical) :
    (s.putCopy stn pl fa old bs).canonical := by
  unfold State.putCopy
  split
  · simp [h]
  · split <;> simp [h]

end

/-! ## Scalar floating point -/

section
variable {s : State}

@[simp] theorem Out.canonical_withFlags {c : Ctx} {fl : Nat} {done : Ctx} (h : s.canonical) :
    Out.canonical (withFlags c fl done s) := by
  simp [withFlags, h]

@[simp] theorem Out.canonical_scalarF {srcs : List Nat} {a : Nat} {rm : Rm} {f : Ctx → Nat → Word × Nat} (h : s.canonical) :
    Out.canonical (scalarF srcs a rm f s) := by
  simp [scalarF, h]

@[simp] theorem Out.canonical_float2 {o : FOps} {op : FV → FV → Exact × Nat} (h : s.canonical) :
    Out.canonical (float2 o op s) := by
  simp [float2, h]

@[simp] theorem Out.canonical_execFsqrt {o : F1Ops} (h : s.canonical) : Out.canonical (execFsqrt o s) := by simp [execFsqrt, h]
@[simp] theorem Out.canonical_execFma {o : FOps} (h : s.canonical) : Out.canonical (execFma o s) := by simp [execFma, h]

@[simp] theorem Out.canonical_floatMinMax {o : FOps} {isMax numPref : Bool} (h : s.canonical) :
    Out.canonical (floatMinMax o isMax numPref s) := by
  simp [floatMinMax, h]

@[simp] theorem Out.canonical_execFneg {o : F1Ops} (h : s.canonical) : Out.canonical (execFneg o s) := by simp [execFneg, h]
@[simp] theorem Out.canonical_execFabs {o : F1Ops} (h : s.canonical) : Out.canonical (execFabs o s) := by simp [execFabs, h]
@[simp] theorem Out.canonical_execFsgn {o : FOps} (h : s.canonical) : Out.canonical (execFsgn o s) := by simp [execFsgn, h]

@[simp] theorem Out.canonical_floatCmp {o : FOps} {op : Nat} (h : s.canonical) : Out.canonical (floatCmp o op s) := by
  simp [floatCmp, h]

end

/-! ## Issue of vector instructions -/

section
variable {s : State}

theorem Exec.Keeps.waitSpace {α : Type} : (Exec.waitSpace : Exec α).Keeps := .bind .modCtx fun _ => .stall

theorem Exec.Keeps.guarded {g : Option Guard} : (Exec.guarded g).Keeps := by
  unfold Exec.guarded
  refine .bind .ctx fun _ => ?_
  split
  · exact .stall
  · exact .pure

theorem Exec.Keeps.enqueue {e : VEntry} : (Exec.enqueue e).Keeps := .get_bind fun _ h => .ite (.set (by simp [h])) .waitSpace

@[simp] theorem Out.canonical_execVectorQueueStallRelease (h : s.canonical) : Out.canonical (execVectorQueueStallRelease s) := by
  unfold execVectorQueueStallRelease
  split <;> simp [h]

@[simp] theorem Out.canonical_issueVec {i : Instr} {srcs : List Nat} {val : Ctx → Word} {g : Option Guard} {fp : Bool}
    (h : s.canonical) : Out.canonical (issueVec i srcs val g fp s) :=
  Out.canonical_runSelf (.bind .need fun _ => .get_bind fun _ ht => .ite (.modify fun _ hu => by simp [hu]) (.bind (.set
    (by simp [ht])) fun _ => .bind .enqueue fun _ => .ite .modCtx (.modify fun _ hu => by simp [hu]))) h

@[simp] theorem Out.canonical_issueVF {i : Instr} {o : VFOps} (h : s.canonical) : Out.canonical (issueVF i o s) := by
  simp [issueVF, h]

@[simp] theorem Out.canonical_issueVI {i : Instr} {o : VIOps} (h : s.canonical) : Out.canonical (issueVI i o s) := by
  simp [issueVI, h]

@[simp] theorem Out.canonical_issueVL {i : Instr} {o : VLOps} (h : s.canonical) : Out.canonical (issueVL i o s) := by
  simp [issueVL, h]

@[simp] theorem Out.canonical_issueVC {i : Instr} {o : VCOps} (h : s.canonical) : Out.canonical (issueVC i o s) := by
  simp [issueVC, h]

@[simp] theorem Out.canonical_issueVR {i : Instr} {o : VROps} (h : s.canonical) : Out.canonical (issueVR i o s) := by
  simp [issueVR, h]

@[simp] theorem Out.canonical_issueVQ {i : Instr} {o : VROps} (h : s.canonical) : Out.canonical (issueVQ i o s) := by
  simp [issueVQ, h]

@[simp] theorem Out.canonical_issueVRed {i : Instr} {o : VRedOps} (h : s.canonical) : Out.canonical (issueVRed i o s) := by
  simp [issueVRed, h]

@[simp] theorem Out.canonical_issueVX {i : Instr} {o : VXOps} (h : s.canonical) : Out.canonical (issueVX i o s) := by
  simp [issueVX, h]

@[simp] theorem Out.canonical_execKpopc {o : VROps} (h : s.canonical) : Out.canonical (execKpopc o s) :=
  Out.canonical_runSeq (.bind .drained fun _ => .modCtx) h
@[simp] theorem Out.canonical_execKfirst {o : VROps} (h : s.canonical) : Out.canonical (execKfirst o s) :=
  Out.canonical_runSeq (.bind .drained fun _ => .modCtx) h
@[simp] theorem Out.canonical_execVextr {o : VXOps} (h : s.canonical) : Out.canonical (execVextr o s) :=
  Out.canonical_runSeq (.bind .need fun _ => .bind .drained fun _ => .modCtx) h

end

/-! ## Stream handles -/

section
variable {s : State}

@[simp] theorem State.canonical_setHandle_iff {stn hd : Nat} {x : Handle} : (s.setHandle stn hd x).canonical ↔ s.canonical :=
  Iff.rfl

@[simp] theorem State.canonical_wakeParked {stn tid : Nat} {k : Resume} (h : s.canonical) :
    (s.wakeParked stn tid k).canonical := by
  unfold State.wakeParked
  split
  · simp [h]
  · split <;> simp [h]

@[simp] theorem State.canonical_wakeHandle {stn hd : Nat} (h : s.canonical) : (s.wakeHandle stn hd).canonical := by
  unfold State.wakeHandle
  split
  · simp [h]
  · dsimp only
    exact State.canonical_foldl (by simp [h]) fun _ _ ht => by simp [ht]

@[simp] theorem State.canonical_wakeHandles {stn : Nat} (h : s.canonical) : (s.wakeHandles stn).canonical :=
  State.canonical_foldl (by simp [h]) fun _ _ ht => by simp [ht]
theorem Exec.Keeps.park {k : Resume} : (Exec.park k).Keeps := .get_bind fun _ _ => .modCtx
theorem Out.canonical_handleOp {g : Option Guard} {wc : Nat} {srcs : List Nat} {m : Exec Unit} (hm : m.Keeps) (h : s.canonical) :
    Out.canonical (handleOp g wc srcs m s) :=
  Out.canonical_runSeq (.bind .guarded fun _ => .ite (.bind .need fun _ => .bind .waitWC fun _ => hm) .pure) h

@[simp] theorem Out.canonical_handleWait {o : HOps} {filled : Bool} (h : s.canonical) :
    Out.canonical (handleWait o filled s) := by
  unfold handleWait
  dsimp only
  split
  · simp [h]
  · simp [h]
  · split
    · simp [h]
    · split
      · simp [h]
      · split
        · simp [h]
        · split
          · simp [h]
          · exact Out.canonical_runSelf (.bind .park fun _ => .modify fun _ ht => by simp [ht]) h

@[simp] theorem Out.canonical_execHadvp {o : HOps} (h : s.canonical) : Out.canonical (execHadvp o s) :=
  Out.canonical_handleOp (.bind .beforeRelease fun _ => .get_bind fun _ ht => .bind .check fun _ => .set (by simp [ht])) h
@[simp] theorem Out.canonical_execHadvc {o : HOps} (h : s.canonical) : Out.canonical (execHadvc o s) :=
  Out.canonical_handleOp (.bind .drained fun _ => .get_bind fun _ ht => .bind .wait fun _ => .bind .check fun _ =>
    .set (by simp [ht])) h

@[simp] theorem Out.canonical_execHset {hd b wc : Nat} {g : Option Guard} (h : s.canonical) :
    Out.canonical (execHset hd b wc g s) := by
  unfold execHset
  refine Out.canonical_handleOp ?_ h
  refine .bind .ctx fun _ => .ite (.modify fun _ ht => by simp [ht]) <| .bind .check fun _ => .bind .readOwn fun _ => ?_
  dsimp only
  split
  · exact .trap
  · exact .modify fun _ ht => by simp [ht]

@[simp] theorem Out.canonical_execHget {a hd : Nat} {x : XOp} {wc : Nat} (h : s.canonical) :
    Out.canonical (execHget a hd x wc s) :=
  Out.canonical_runSeq (.bind .need fun _ => .bind .waitWC fun _ => .get_bind fun _ _ => .ite .ill .setReg) h

end

/-! ## The memory system's events -/

section
variable {s : State}

@[simp] theorem Out.canonical_onMsg {f : Msg → Option State} : Out.canonical (onMsg f s) ↔ ((f s.hand.msg).getD s).canonical :=
  Iff.rfl

@[simp] theorem Out.canonical_execReadRequest (h : s.canonical) : Out.canonical (execReadRequest s) := by
  unfold execReadRequest
  rw [Out.canonical_onMsg]
  split
  · split
    · split
      · simp [h]
      · exact State.canonical_of_ite h h
    · simp [h]
  · exact h

@[simp] theorem Out.canonical_execReadReply (h : s.canonical) : Out.canonical (execReadReply s) := by
  unfold execReadReply
  rw [Out.canonical_onMsg]
  split <;> simp [h]

@[simp] theorem State.canonical_engineMayWrite {w : WriteReq} (h : s.canonical) : (s.engineMayWrite w).1.canonical := by
  unfold State.engineMayWrite
  split <;> simp [h]

@[simp] theorem Out.canonical_execWrite (h : s.canonical) : Out.canonical (execWrite s) := by
  unfold execWrite
  rw [Out.canonical_onMsg]
  split
  · extract_lets t s1
    have ht : t.1.canonical := State.canonical_engineMayWrite h
    have hs1 : s1.canonical := ht
    clear_value s1
    split
    · exact ht
    · split
      · split
        · simp [hs1]
        · exact State.canonical_of_ite hs1 hs1
      · simp [hs1]
  · exact State.canonical_of_ite h h
  · exact h

@[simp] theorem Out.canonical_execWriteAcknowledgement (h : s.canonical) : Out.canonical (execWriteAcknowledgement s) := by
  unfold execWriteAcknowledgement
  rw [Out.canonical_onMsg]
  split <;> simp [h]

@[simp] theorem Out.canonical_execAtomic (h : s.canonical) : Out.canonical (execAtomic s) := by
  unfold execAtomic
  rw [Out.canonical_onMsg]
  split
  · split
    · split
      · simp [h]
      · exact State.canonical_of_ite h h
    · simp [h]
  · exact h

@[simp] theorem Out.canonical_execAtomicReply (h : s.canonical) : Out.canonical (execAtomicReply s) := by
  unfold execAtomicReply
  rw [Out.canonical_onMsg]
  split <;> simp [h]

@[simp] theorem State.canonical_armHere_iff {pl : Place} {w : WaitReg} : (s.armHere pl w).canonical ↔ s.canonical := by
  unfold State.armHere
  split <;> simp

@[simp] theorem Out.canonical_execWaitArm (h : s.canonical) : Out.canonical (execWaitArm s) := by
  unfold execWaitArm
  rw [Out.canonical_onMsg]
  split
  · split
    · split
      · simp [h]
      · exact State.canonical_of_ite h h
    · simp [h]
  · exact h

@[simp] theorem State.canonical_tileWoken {m : WakeMsg} (h : s.canonical) : (s.tileWoken m).canonical := by
  unfold State.tileWoken
  split <;> simp [h]

@[simp] theorem Out.canonical_execWake (h : s.canonical) : Out.canonical (execWake s) := by
  unfold execWake
  rw [Out.canonical_onMsg]
  split
  · split
    · exact State.canonical_of_ite h h
    · simp [h]
  · exact h

@[simp] theorem State.canonical_emptyForAlias {d : Demand} (h : s.canonical) : (s.emptyForAlias d).canonical := by
  simp [State.emptyForAlias, h]

@[simp] theorem State.canonical_aliasDone_iff {stn id : Nat} : (s.aliasDone stn id).canonical ↔ s.canonical := by
  simp [State.aliasDone]

@[simp] theorem Out.canonical_execPublicationDemand (h : s.canonical) : Out.canonical (execPublicationDemand s) := by
  unfold execPublicationDemand
  rw [Out.canonical_onMsg]
  split
  · split
    · split <;> simp [h]
    · exact State.canonical_of_ite h h
  · exact h

@[simp] theorem State.canonical_serveHeld {pl : Place} {m : Msg} (h : s.canonical) : (s.serveHeld pl m).canonical := by
  unfold State.serveHeld
  split <;> simp [h]

@[simp] theorem State.canonical_unhold_iff {stn chunk : Nat} {p : Msg → Bool} :
    (s.unhold stn chunk p).canonical ↔ s.canonical := by
  unfold State.unhold
  dsimp only
  split <;> simp

@[simp] theorem State.canonical_releaseHeld {stn chunk : Nat} {done : Option Demand} {k : Nat} (h : s.canonical) :
    (s.releaseHeld stn chunk done k).canonical := by
  induction k generalizing s stn chunk done with
  | zero =>
    unfold State.releaseHeld
    simp [h]
  | succ _ ih =>
    unfold State.releaseHeld
    split
    · simp [h]
    · simp [h]
    · split
      · simp [h]
      · split
        · simp [h]
        · split
          · dsimp only
            split
            · simp [h]
            · split
              · simp [h]
              · exact State.canonical_foldl (by simp [h]) fun _ _ ht => by simp [ht, ih]
          · simp [h]

@[simp] theorem State.canonical_releaseAll {stn : Nat} (h : s.canonical) : (s.releaseAll stn).canonical :=
  State.canonical_foldl (by simp [h]) fun _ _ ht => by simp [ht]

@[simp] theorem Out.canonical_execHeldWriteRelease (h : s.canonical) : Out.canonical (execHeldWriteRelease s) := by
  unfold execHeldWriteRelease
  rw [Out.canonical_onMsg]
  split
  · split <;> simp [h]
  · simp [h]

@[simp] theorem State.canonical_learnSig_iff {stn : Nat} {d : Demand} {sig : Sig} :
    (s.learnSig stn d sig).canonical ↔ s.canonical := by
  simp [State.learnSig]

@[simp] theorem State.canonical_afterPublication {pl : Place} {d : Demand} (h : s.canonical) :
    (s.afterPublication pl d).canonical := by
  unfold State.afterPublication
  extract_lets held back s1
  have hs1 : s1.canonical := by
    unfold s1
    clear_value back
    split <;> simp [h]
  clear_value held s1
  split
  · simp [hs1]
  · split <;> simp [h]

@[simp] theorem Out.canonical_execPublicationComplete (h : s.canonical) : Out.canonical (execPublicationComplete s) := by
  unfold execPublicationComplete
  rw [Out.canonical_onMsg]
  split
  · split
    case h_5 =>
      split
      · simp [h]
      · split
        · exact h
        · exact State.canonical_of_ite h h
    case h_6 =>
      split
      · exact h
      · split
        · split
          · simp [h]
          · exact State.canonical_of_ite h h
        · exact h
    all_goals
      dsimp only
      split
      · exact h
      · exact State.canonical_of_ite h h
  · exact h

@[simp] theorem Out.canonical_execWriteBack (h : s.canonical) : Out.canonical (execWriteBack s) := by
  unfold execWriteBack
  rw [Out.canonical_onMsg]
  split
  · split
    · split
      · simp [h]
      · exact State.canonical_of_ite h h
    · simp [h]
  · exact h

@[simp] theorem Out.canonical_execLeaseExpiry (h : s.canonical) : Out.canonical (execLeaseExpiry s) := by
  unfold execLeaseExpiry
  rw [Out.canonical_onMsg]
  split <;> simp [h]

@[simp] theorem Out.canonical_execSigrcvExpiry (h : s.canonical) : Out.canonical (execSigrcvExpiry s) := by
  unfold execSigrcvExpiry
  rw [Out.canonical_onMsg]
  split <;> simp [h]

@[simp] theorem State.canonical_cancelAway_iff {id : Nat} {m : Msg} : (s.cancelAway id m).canonical ↔ s.canonical := by
  unfold State.cancelAway
  split
  · split
    · exact State.canonical_ite_iff Iff.rfl Iff.rfl
    · rfl
  · rfl

@[simp] theorem State.canonical_getD_cancelHere {a : AtomReq} (h : s.canonical) : ((s.cancelHere a).getD s).canonical := by
  unfold State.cancelHere
  dsimp only
  split
  · split <;> simp [h]
  · exact h

@[simp] theorem Out.canonical_execFullEmptyCancel (h : s.canonical) : Out.canonical (execFullEmptyCancel s) := by
  unfold execFullEmptyCancel
  rw [Out.canonical_onMsg]
  split
  · split
    · simp [h]
    · split
      · dsimp only
        split <;> simp [h]
      · dsimp only
        split <;> simp [h]
  · simp [h]
  · simp [h]

@[simp] theorem Out.canonical_execGuardUpdate (h : s.canonical) : Out.canonical (execGuardUpdate s) := by
  unfold execGuardUpdate
  rw [Out.canonical_onMsg]
  split
  · dsimp only
    split
    · simp [h]
    · exact State.canonical_of_ite h h
  · exact h

@[simp] theorem Out.canonical_execPageWalk (h : s.canonical) : Out.canonical (execPageWalk s) := by
  unfold execPageWalk
  rw [Out.canonical_onMsg]
  split
  · split <;> simp [h]
  · simp [h]

end

/-! ## Suspension -/

section
variable {s : State}

@[simp] theorem State.canonical_ownWrite {fa : Nat} {bs : List Byte} (h : s.canonical) : (s.ownWrite fa bs).canonical := by
  unfold State.ownWrite
  split <;> simp [h]

@[simp] theorem State.canonical_farRead_iff {ptag fa : Nat} : (s.farRead ptag fa).2.canonical ↔ s.canonical := by
  unfold State.farRead
  split
  · simp
  · split <;> simp

@[simp] theorem State.canonical_popArea {stn : Nat} (h : s.canonical) : (s.popArea stn).2.canonical := by
  unfold State.popArea
  dsimp only
  split
  · exact h
  · split
    · exact h
    · split
      · split <;> simp [h]
      · split <;> rename_i e <;> have ht := State.canonical_snd e (by simp [h]) <;> simp [ht]

@[simp] theorem State.canonical_pushArea {stn a : Nat} (h : s.canonical) : (s.pushArea stn a).canonical := by
  unfold State.pushArea
  split
  · simp [h]
  · split
    · dsimp only
      split <;> simp [h]
    · dsimp only
      split <;> simp [h]

@[simp] theorem State.canonical_deliverKmsgs_iff {stn k : Nat} : (s.deliverKmsgs stn k).canonical ↔ s.canonical := by
  induction k generalizing s stn with
  | zero =>
    unfold State.deliverKmsgs
    simp
  | succ _ ih =>
    unfold State.deliverKmsgs
    split
    · simp [ih]
    · simp

@[simp] theorem State.canonical_sendAll_ {stn k : Nat} (h : s.canonical) : (s.sendAll_ stn k).canonical := by
  induction k generalizing s stn with
  | zero =>
    unfold State.sendAll_
    simp [h]
  | succ _ ih =>
    unfold State.sendAll_
    split
    · simp [h]
    · simp [h, ih]

@[simp] theorem State.canonical_preemptStep {stn : Nat} (h : s.canonical) : (s.preemptStep stn).canonical := by
  unfold State.preemptStep
  split
  · dsimp only
    split <;> simp [h]
  · simp [h]

@[simp] theorem State.canonical_wantRefill_iff {stn : Nat} : (s.wantRefill stn).canonical ↔ s.canonical := by
  simp [State.wantRefill]

@[simp] theorem State.canonical_seekWork_iff {n : Nat} : (s.seekWork n).canonical ↔ s.canonical := by simp [State.seekWork]

@[simp] theorem State.canonical_freeContext {l : Loc} (h : s.canonical) : (s.freeContext l).canonical := by
  simp [State.freeContext, h]

@[simp] theorem State.canonical_saveArea {l : Loc} {frame : Nat} (h : s.canonical) : (s.saveArea l frame).canonical := by
  unfold State.saveArea
  split
  · dsimp only
    exact State.canonical_foldl (by simp [h]) fun _ _ ht => by simp [ht]
  · simp [h]

@[simp] theorem State.canonical_placeSuspended {stn : Nat} {k : SuspKind} {r : RecEntry} (h : s.canonical) :
    (s.placeSuspended stn k r).canonical := by
  unfold State.placeSuspended
  split <;> simp [h]

@[simp] theorem State.canonical_suspend {l : Loc} (h : s.canonical) : (s.suspend l).canonical := by
  unfold State.suspend
  dsimp only
  split
  · simp [h]
  · split
    · simp [h]
    · split
      · simp [h]
      · split <;> rename_i e <;> have ht := State.canonical_snd e (by split <;> simp [h]) <;> simp [ht]

@[simp] theorem Out.canonical_execSuspension (h : s.canonical) : Out.canonical (execSuspension s) := by
  unfold execSuspension
  split <;> simp [h]

@[simp] theorem State.canonical_refill {stn k : Nat} (h : s.canonical) : (s.refill stn k).canonical := by
  induction k generalizing s stn with
  | zero =>
    unfold State.refill
    simp [h]
  | succ _ ih =>
    unfold State.refill
    dsimp only
    split
    · simp [h, ih]
    · simp [h]

@[simp] theorem Out.canonical_execBudgetTrap (h : s.canonical) : Out.canonical (execBudgetTrap s) := by
  unfold execBudgetTrap
  split <;> simp [h]

@[simp] theorem Out.canonical_execPoisonReport (h : s.canonical) : Out.canonical (execPoisonReport s) := by
  unfold execPoisonReport
  split <;> simp [h]

end

/-! ## Engine commands -/

section
variable {s : State}

@[simp] theorem State.canonical_answerTask_iff {c : CmdMsg} {r : ResultMsg} : (s.answerTask c r).2.canonical ↔ s.canonical := by
  unfold State.answerTask
  split <;> simp

@[simp] theorem State.canonical_finishCmd_iff {stn : Nat} {c : CmdMsg} {pre : List Msg} {status flags : Nat} {value : Word} :
    (s.finishCmd stn c pre status flags value).canonical ↔ s.canonical := by
  simp [State.finishCmd]

theorem State.canonical_of_putEntry {t : State} {ptag frame d16 d24 : Nat} {r : ResultMsg}
    (e : s.putEntry ptag frame d16 d24 r = some t) (h : s.canonical) : t.canonical := by
  unfold State.putEntry at e
  dsimp only at e
  split at e
  · simp at e
  · split at e <;> obtain rfl := Option.some.inj e <;> simp [h]

@[simp] theorem State.canonical_appendImage {ptag frame : Nat} {r : ResultMsg} (h : s.canonical) :
    (s.appendImage ptag frame r).2.canonical := by
  have put : ∀ (t : State) (d16 d24 : Nat), t.canonical →
      (match t.putEntry ptag frame d16 d24 r with | some u => (true, u) | none => (false, t)).2.canonical := by
    intro t d16 d24 ht
    split
    · rename_i e
      exact State.canonical_of_putEntry e ht
    · exact ht
  unfold State.appendImage
  dsimp only
  split
  · split
    · exact put _ _ _ h
    · exact h
  · split
    · exact h
    · split
      · exact put _ _ _ (by simp [h])
      · simp [h]

@[simp] theorem State.canonical_deliverResult {r : ResultMsg} (h : s.canonical) : (s.deliverResult r).2.canonical := by
  unfold State.deliverResult
  split
  · simp [h]
  · split
    · simp [h]
    · split <;> simp [h]

@[simp] theorem Out.canonical_execResultOrStatus (h : s.canonical) : Out.canonical (execResultOrStatus s) := by
  unfold execResultOrStatus
  split
  · dsimp only
    split
    · exact State.canonical_of_ite h h
    · split
      · exact State.canonical_of_ite h h
      · simp [h]
  · exact h

@[simp] theorem Out.canonical_execPop {a wc : Nat} (h : s.canonical) : Out.canonical (execPop a wc s) := by
  unfold execPop
  refine Out.canonical_runSelf ?_ h
  refine .bind .waitWC fun _ => .bind .ctx fun _ => ?_
  split
  · exact .bind .modCtx fun _ => .bind .setPair fun _ => .modify fun _ ht => by simp [ht]
  · exact .ite (.bind .setPair fun _ => .modify fun _ ht => by simp [ht]) (.ite .stall .park)

@[simp] theorem Out.canonical_execTrypop {a wc : Nat} (h : s.canonical) : Out.canonical (execTrypop a wc s) := by
  unfold execTrypop
  refine Out.canonical_runSeq ?_ h
  refine .bind .waitWC fun _ => .bind .ctx fun _ => ?_
  split
  · exact .bind .modCtx fun _ => .setPair
  · exact .setPair

@[simp] theorem Out.canonical_execRfcnt {a wc : Nat} (h : s.canonical) : Out.canonical (execRfcnt a wc s) :=
  Out.canonical_runSeq (.bind .waitWC fun _ => .modCtx) h

@[simp] theorem State.canonical_bitmapMsgs_iff {stn : Nat} {bank : Bool} {ptag base : Nat} {masks : List (Nat × Nat)} :
    (s.bitmapMsgs stn bank ptag base masks).2.canonical ↔ s.canonical := by
  simp [State.bitmapMsgs]

@[simp] theorem State.canonical_enterInbox_iff {c : CmdMsg} : (s.enterInbox c).canonical ↔ s.canonical := by
  unfold State.enterInbox
  split
  · split
    · dsimp only
      split <;> simp
    · dsimp only
      split <;> simp
  · simp
  · simp
  · simp

@[simp] theorem State.canonical_inboxFreed_iff {stn inbox before : Nat} :
    (s.inboxFreed stn inbox before).canonical ↔ s.canonical := by
  simp [State.inboxFreed]

@[simp] theorem Out.canonical_execPushStallRelease (h : s.canonical) : Out.canonical (execPushStallRelease s) := by
  unfold execPushStallRelease
  split <;> simp [h]

@[simp] theorem State.canonical_modAcc_iff {stn ix : Nat} {f : Accum → Accum} : (s.modAcc stn ix f).canonical ↔ s.canonical :=
  Iff.rfl

@[simp] theorem Out.canonical_execEngineCommand (h : s.canonical) : Out.canonical (execEngineCommand s) := by
  unfold execEngineCommand
  split
  · split
    · split
      · simp [h]
      · split <;> simp [h]
    · split
      · simp [h]
      · split <;> simp [h]
  · simp [h]

@[simp] theorem State.canonical_dispatchCmd_iff {stn : Nat} {c : CmdMsg} : (s.dispatchCmd stn c).canonical ↔ s.canonical := by
  simp [State.dispatchCmd]

theorem Exec.Keeps.issueCmd {cube stn inbox : Nat} {k : Cmd} {g : Option Guard} : (Exec.issueCmd cube stn inbox k g).Keeps := by
  unfold Exec.issueCmd
  refine .get_bind fun s _ => .ite .pure ?_
  extract_lets hold go
  have hgo : ∀ u, (go u).Keeps := fun _ => .bind (.modify fun _ ht => by simp [ht]) fun _ =>
    .ite (.modify fun _ ht => by simp [ht]) (.modify fun _ ht => by simp [ht])
  exact .ite (.bind .wait fun _ => .when .waitSpace hgo) (hgo ())

theorem Exec.Keeps.beforeCommand : (Exec.beforeCommand).Keeps := .beforeRelease

theorem Out.canonical_runCmd {g : Option Guard} {m : Exec Unit} (hm : m.Keeps) (h : s.canonical) :
    Out.canonical (runCmd g m s) := by
  unfold runCmd
  split
  · exact h
  · exact Out.canonical_runSeq hm h
  · split
    · exact h
    · exact Out.canonical_runSeq hm h

@[simp] theorem Out.canonical_execPush {a b wc : Nat} {g : Option Guard} (h : s.canonical) :
    Out.canonical (execPush a b wc g s) := by
  unfold execPush
  refine Out.canonical_runCmd ?_ h
  refine .bind .need fun _ => .bind .waitWC fun _ => .bind .beforeCommand fun _ => .bind .afterAcquire fun _ =>
    .bind .ctx fun _ => .bind .check fun _ => .bind .readOwn fun _ => .get_bind fun _ _ => ?_
  split
  · exact .trap
  · exact .issueCmd

@[simp] theorem State.canonical_releaseCmds_iff {stn : Nat} {xs ys : List HeldCmd} :
    (s.releaseCmds stn xs ys).canonical ↔ s.canonical := by
  induction ys generalizing s stn xs with
  | nil =>
    unfold State.releaseCmds
    simp
  | cons _ _ ih =>
    unfold State.releaseCmds
    split
    · simp [ih]
    · split <;> simp [ih]

@[simp] theorem Out.canonical_execGuardSlotResolution (h : s.canonical) : Out.canonical (execGuardSlotResolution s) := by
  unfold execGuardSlotResolution
  split <;> simp [h]

end

/-! ## Waits, fences, ranges and windows -/

section
variable {s : State}

theorem Exec.Keeps.armWait {cond : WaitCond} {win : Win} {ea : Nat} {v : Word} {dest order scope : Nat} :
    (Exec.armWait cond win ea v dest order scope).Keeps := by
  unfold Exec.armWait
  refine .bind .afterAcquire fun _ => .bind .access fun _ => ?_
  split
  · exact .bind .afterSame fun _ => .bind .afterLocal fun _ => .bind .cleanChunk fun _ => .get_bind fun _ h => .set (by simp [h])
  · exact .pure

@[simp] theorem Out.canonical_waitOp {o : WaitOps} {cond : WaitCond} (h : s.canonical) : Out.canonical (waitOp o cond s) :=
  Out.canonical_runSelf (.bind .need fun _ => .bind .winPriv fun _ => .bind .waitWC fun _ => .bind .ctx fun _ => .armWait) h
theorem Exec.Keeps.fenced : (Exec.fenced).Keeps := .bind .drained fun _ => .bind .ctx fun _ => .wait
@[simp] theorem Out.canonical_execFence (h : s.canonical) : Out.canonical (execFence s) := Out.canonical_runSeq .fenced h
@[simp] theorem State.canonical_askAlias_iff {l : Loc} {cube : Nat} : (s.askAlias l cube).canonical ↔ s.canonical := Iff.rfl

@[simp] theorem Out.canonical_execFenceAlias (h : s.canonical) : Out.canonical (execFenceAlias s) := by
  unfold execFenceAlias
  refine Out.canonical_runSeq ?_ h
  dsimp only
  split
  · exact .bind .fenced fun _ => .bind (.set (by simp [h])) fun _ => .get_bind fun _ ht => .bind (.set (by simp [ht])) fun _ =>
      .stall
  · exact .bind .wait fun _ => .bind (.set (by simp [h])) fun _ => .stall
  · exact .bind .wait fun _ => .modCtx

theorem Exec.Keeps.ranges {win : Win} {start len : Nat} : (Exec.ranges win start len).Keeps := by
  unfold Exec.ranges
  refine .bind .check fun _ => .get_bind fun _ _ => .bind ?_ fun _ => ?_
  · split
    · exact .bind .tag fun _ => .got
    · exact .pure
    · exact .pure
  · exact .bind (.forIn fun _ _ => .bind .home fun _ => .pure) fun _ => .pure

@[simp] theorem Out.canonical_rangeOp {o : RangeOps} {drop : Bool} (h : s.canonical) : Out.canonical (rangeOp o drop s) :=
  Out.canonical_runSeq (.bind .need fun _ => .bind .winPriv fun _ => .bind .waitWC fun _ => .bind .ctx fun _ =>
    .ite (.bind .ranges fun _ => .bind .afterAcquire fun _ => .get_bind fun _ ht => .bind (.set (by simp [ht])) fun _ =>
    .bind .wait fun _ => .set (by simp [ht])) .pure) h

@[simp] theorem State.canonical_takeOver {stn : Nat} {w : Window} (h : s.canonical) : (s.takeOver stn w).canonical := by
  unfold State.takeOver
  dsimp only
  exact State.canonical_foldl (by simp [h]) fun _ _ ht => by simp [ht]

@[simp] theorem Out.canonical_execSmap {a b c wc : Nat} (h : s.canonical) : Out.canonical (execSmap a b c wc s) :=
  Out.canonical_runSeq (.bind .need fun _ => .bind .waitWC fun _ => .bind .ctx fun _ => .bind .check fun _ =>
    .bind .check fun _ => .bind .check fun _ => .get_bind fun _ ht => .bind .check fun _ => .bind .tag fun _ =>
    .bind .got fun _ => .set (by simp [ht])) h

@[simp] theorem Out.canonical_execSunmap {b wc : Nat} (h : s.canonical) : Out.canonical (execSunmap b wc s) := by
  unfold execSunmap
  refine Out.canonical_runSeq ?_ h
  refine .bind .need fun _ => .bind .waitWC fun _ => .bind .ctx fun _ => .get_bind fun _ ht => ?_
  dsimp only
  split
  · exact .pure
  · exact .bind (.set (by simp [ht])) fun _ => .bind .wait fun _ => .set (by simp [ht])

@[simp] theorem Out.canonical_execCwait {mask wc : Nat} (h : s.canonical) : Out.canonical (execCwait mask wc s) :=
  Out.canonical_runSeq (.when .ill fun _ => .bind .waitWC fun _ => .get_bind fun _ _ => .wait) h

end

/-! ## Tensor descriptors and engine reads -/

section
variable {s : State}

@[simp] theorem State.canonical_setTensor_iff {ptag id : Nat} {d : Option Desc} :
    (s.setTensor ptag id d).canonical ↔ s.canonical :=
  Iff.rfl
theorem Exec.Keeps.readIn {win : Win} {ea n : Nat} : (Exec.readIn win ea n).Keeps :=
  .bind .parts fun _ => .get_bind fun _ _ => .bind .afterSame fun _ => .bind (.forIn fun _ _ => .bind .got fun _ =>
    .pure) fun _ => .pure
theorem Exec.Keeps.readShape {lin : Bool} {a ext1 : Nat} : (Exec.readShape lin a ext1).Keeps :=
  .bind .readIn fun _ => .ite .pure (.bind .readIn fun _ => .pure)
theorem Exec.Keeps.underGuard {g : Option Guard} {wc : Nat} {srcs : List Nat} {m : Exec Unit} (hm : m.Keeps) :
    (Exec.underGuard g wc srcs m).Keeps :=
  .bind .guarded fun _ => .ite (.bind .need fun _ => .bind .waitWC fun _ => hm) .pure

@[simp] theorem Out.canonical_execTdef {o : EngOps} (h : s.canonical) : Out.canonical (execTdef o s) := by
  unfold execTdef
  refine Out.canonical_runSeq (.underGuard (.bind .ctx fun _ => .when .ill fun _ => .get_bind fun _ _ =>
    .ite (.modify fun _ ht => by simp [ht]) (.bind .check fun _ => .bind .afterAcquire fun _ => .bind .readIn fun bs => ?_))) h
  extract_lets d go
  have hgo : ∀ x, (go x).Keeps := fun x => .bind .check fun _ => by
    extract_lets fin
    have hfin : ∀ u, (fin u).Keeps := fun _ => .modify fun t ht => by simp [ht]
    refine .ite (.bind .readShape fun r => ?_) (hfin ())
    split
    · exact .bind .trap hfin
    · exact .bind .check hfin
  exact .ite (.bind .readIn hgo) (.bind .pure hgo)

@[simp] theorem Out.canonical_execTshp {o : EngOps} (h : s.canonical) : Out.canonical (execTshp o s) := by
  unfold execTshp
  refine Out.canonical_runSeq (.underGuard (.bind .ctx fun _ => .when .ill fun _ => .get_bind fun _ _ => ?_)) h
  dsimp only
  split
  · exact .trap
  · refine .ite (.modify fun _ ht => by simp [ht]) (.bind .check fun _ => .bind .afterAcquire fun _ => .bind .readShape fun _ =>
      ?_)
    split
    · exact .trap
    · exact .modify fun _ ht => by simp [ht]

theorem Exec.Keeps.buildCmd {cube stn inbox opcode flags : Nat} {ops : List Nat} {g : Option Guard} :
    (Exec.buildCmd cube stn inbox opcode flags ops g).Keeps :=
  .get_bind fun _ _ => .issueCmd
theorem Exec.Keeps.ownCmd {inbox opcode flags : Nat} {ops : List Nat} {g : Option Guard} :
    (Exec.ownCmd inbox opcode flags ops g).Keeps :=
  .get_bind fun _ _ => .buildCmd
theorem Exec.Keeps.cmdReady {srcs : List Nat} {wc : Nat} : (Exec.cmdReady srcs wc).Keeps :=
  .bind .need fun _ => .bind .waitWC fun _ => .bind .beforeCommand fun _ => .afterAcquire
theorem Exec.Keeps.limit {ok : Bool} : (Exec.limit ok).Keeps := .ite .pure .ill

@[simp] theorem Out.canonical_mmaInstr {o : EngOps} {opcode : Nat} {trav seg : Bool} (h : s.canonical) :
    Out.canonical (mmaInstr o opcode trav seg s) := by
  unfold mmaInstr
  refine Out.canonical_runCmd ?_ h
  refine .bind .cmdReady fun _ => .bind .ctx fun _ => .get_bind fun _ _ => .bind .limit fun _ => ?_
  dsimp only
  split
  · exact .trap
  · exact .bind .limit fun _ => .ownCmd

@[simp] theorem Out.canonical_execMzero {o : EngOps} (h : s.canonical) : Out.canonical (execMzero o s) :=
  Out.canonical_runCmd (.bind .cmdReady fun _ => .bind .ctx fun _ => .bind .limit fun _ => .ownCmd) h

@[simp] theorem Out.canonical_accInstr {o : EngOps} {opcode flags : Nat} (h : s.canonical) :
    Out.canonical (accInstr o opcode flags s) := by
  unfold accInstr
  refine Out.canonical_runCmd ?_ h
  refine .bind .cmdReady fun _ => .bind .ctx fun _ => .get_bind fun _ _ => .bind .limit fun _ => ?_
  split
  · exact .trap
  · exact .bind .check fun _ => .ownCmd

@[simp] theorem Out.canonical_execCpchain {o : EngOps} (h : s.canonical) : Out.canonical (execCpchain o s) :=
  Out.canonical_runCmd (.bind .cmdReady fun _ => .bind .ctx fun _ => .bind .check fun _ => .ownCmd) h
@[simp] theorem Out.canonical_execCpwait {o : EngOps} (h : s.canonical) : Out.canonical (execCpwait o s) :=
  Out.canonical_runSelf (.bind .need fun _ => .bind .waitWC fun _ => .bind .ctx fun _ => .bind .limit fun _ => .armWait) h

@[simp] theorem Out.canonical_execBkrun {o : EngOps} (h : s.canonical) : Out.canonical (execBkrun o s) := by
  unfold execBkrun
  refine Out.canonical_runCmd ?_ h
  refine .bind .cmdReady fun _ => .bind .ctx fun _ => .get_bind fun _ _ => .bind .limit fun _ => ?_
  split
  · exact .trap
  · exact .bind .check fun _ => .buildCmd

@[simp] theorem Out.canonical_collInstr {o : EngOps} {opcode : Nat} {mcast : Bool} (h : s.canonical) :
    Out.canonical (collInstr o opcode mcast s) :=
  Out.canonical_runCmd (.bind .cmdReady fun _ => .bind .ctx fun _ => .bind .limit fun _ => .bind .check fun _ =>
    .bind .check fun _ => .bind .check fun _ => .ownCmd) h

@[simp] theorem Out.canonical_execSendh {o : EngOps} (h : s.canonical) : Out.canonical (execSendh o s) :=
  Out.canonical_runSeq (.underGuard (.bind .ctx fun _ => .get_bind fun _ _ => .bind .limit fun _ => .bind .check fun _ =>
    .bind .check fun _ => .bind .check fun _ => .bind .check fun _ => .bind .beforeCommand fun _ => .bind .afterAcquire fun _ =>
    .bind .readIn fun _ => .modify fun _ hu => by simp [hu])) h

@[simp] theorem State.canonical_engDone_iff {stn eng : Nat} : (s.engDone stn eng).canonical ↔ s.canonical := Iff.rfl

@[simp] theorem State.canonical_engineAsk_iff {y : Eye} {fas : List Nat} : (s.engineAsk y fas).canonical ↔ s.canonical := by
  refine State.canonical_foldl_iff (fun t fa => ?_) fas s
  split
  · rfl
  · split <;> simp

theorem State.canonical_engineGot_of {α : Type} {y : Eye} {m : Msg} {x : Got α} {k : α → State} {bad : Nat → Nat → State}
    (h : s.canonical) (hk : x.Holds fun a => (k a).canonical) (hbad : ∀ c a, (bad c a).canonical) :
    (s.engineGot y m x k bad).canonical := by
  unfold State.engineGot
  cases x with
  | ok a => simpa using hk
  | need _ => simp [h]
  | hold => simp [h]
  | bad c a => simp [hbad]

@[simp] theorem State.canonical_engineGot {α : Type} {y : Eye} {m : Msg} {x : Got α} {k : α → State} {bad : Nat → Nat → State}
    (h : s.canonical) (hk : ∀ a, (k a).canonical) (hbad : ∀ c a, (bad c a).canonical) : (s.engineGot y m x k bad).canonical :=
  State.canonical_engineGot_of h (x.holds_of_forall hk) hbad

end

/-! ## The matrix engine -/

section
variable {s : State}

@[simp] theorem State.canonical_modMatrix_iff {stn : Nat} {f : Matrix → Matrix} : (s.modMatrix stn f).canonical ↔ s.canonical :=
  Iff.rfl
@[simp] theorem State.canonical_scramble_iff {stn q : Nat} : (s.scramble stn q).canonical ↔ s.canonical := Iff.rfl
@[simp] theorem State.canonical_clearMatrix_iff {stn : Nat} : (s.clearMatrix stn).canonical ↔ s.canonical := Iff.rfl

@[simp] theorem State.canonical_endMatrix_iff {stn : Nat} {pre : List Msg} {status flags : Nat} {value : Word} :
    (s.endMatrix stn pre status flags value).canonical ↔ s.canonical := by
  unfold State.endMatrix
  dsimp only
  split
  · simp
  · split <;> simp

@[simp] theorem State.canonical_failMatrix_iff {stn cause detail : Nat} :
    (s.failMatrix stn cause detail).canonical ↔ s.canonical := by
  simp [State.failMatrix]

@[simp] theorem State.canonical_onHead {opcode stn : Nat} {f : CmdMsg → State} (h : s.canonical) (hf : ∀ c, (f c).canonical) :
    (onHead opcode stn s f).canonical := by
  unfold onHead
  split
  · split
    · exact hf _
    · exact h
  · exact h

@[simp] theorem State.canonical_startMatrix_iff {stn : Nat} {c : CmdMsg} {descs : List Desc} {segs : List Nat} :
    (s.startMatrix stn c descs segs).canonical ↔ s.canonical := by
  simp [State.startMatrix]

@[simp] theorem State.canonical_startMma {stn : Nat} {c : CmdMsg} {trav seg : Bool} {msg : Msg} {go : State → State}
    (h : s.canonical) (hgo : ∀ t, t.canonical → (go t).canonical) : (s.startMma stn c trav seg msg go).canonical := by
  unfold State.startMma
  dsimp only
  split
  · simp [h]
  · split
    · simp [h]
    · exact State.canonical_engineGot h (fun _ => hgo _ (by simp [h])) (by simp [h])

@[simp] theorem State.canonical_storeStep_iff {stn q : Nat} {r : List Nat × Nat} :
    (s.storeStep stn q r).canonical ↔ s.canonical :=
  Iff.rfl

@[simp] theorem State.canonical_mmaStep {stn : Nat} {c : CmdMsg} {seg : Bool} {msg : Msg} (h : s.canonical) :
    (s.mmaStep stn c seg msg).canonical := by
  unfold State.mmaStep
  split
  · dsimp only
    split
    · split <;> simp [h]
    · simp [h]
  · dsimp only
    split
    · split <;> simp [h]
    · simp [h]

@[simp] theorem Out.canonical_execMmaCommand (h : s.canonical) : Out.canonical (execMmaCommand s) := by
  unfold execMmaCommand
  split <;> simp [h]

@[simp] theorem Out.canonical_execMmasdCommand (h : s.canonical) : Out.canonical (execMmasdCommand s) := by
  unfold execMmasdCommand
  split <;> simp [h]

@[simp] theorem State.canonical_travPhase_iff {stn phase : Nat} : (s.travPhase stn phase).canonical ↔ s.canonical := Iff.rfl

@[simp] theorem State.canonical_travNext_iff {stn : Nat} {c : CmdMsg} : (s.travNext stn c).canonical ↔ s.canonical := by
  unfold State.travNext
  dsimp only
  split <;> simp

@[simp] theorem State.canonical_travApply {stn : Nat} {c : CmdMsg} {t : Trav} {x : Tile} (h : s.canonical) :
    (s.travApply stn c t x).canonical := by
  unfold State.travApply
  dsimp only
  split
  · split
    · simp [h]
    · split <;> simp [h]
  · simp [h]

@[simp] theorem State.canonical_travOwn {stn : Nat} {c : CmdMsg} (h : s.canonical) : (s.travOwn stn c).canonical := by
  unfold State.travOwn
  dsimp only
  split
  · split <;> simp [h]
  · simp [h]

@[simp] theorem Out.canonical_execMtravCommand (h : s.canonical) : Out.canonical (execMtravCommand s) := by
  unfold execMtravCommand
  split
  · dsimp only
    split
    · split
      · simp [h]
      · split
        · simp [h]
        · split <;> simp [h]
    · simp [h]
  · simp [h]

@[simp] theorem Out.canonical_execTraverseTile (h : s.canonical) : Out.canonical (execTraverseTile s) := by
  unfold execTraverseTile
  split
  · dsimp only
    split <;> simp [h]
  · simp [h]

@[simp] theorem Out.canonical_execLatchTimeout (h : s.canonical) : Out.canonical (execLatchTimeout s) := by
  unfold execLatchTimeout
  split
  · dsimp only
    split <;> simp [h]
  · simp [h]

@[simp] theorem Out.canonical_execTrvcfg {o : EngOps} (h : s.canonical) : Out.canonical (execTrvcfg o s) :=
  Out.canonical_privilegedBy h (Out.canonical_runSeq (.underGuard (.bind .ctx fun _ => .get_bind fun _ ht =>
    .bind .limit fun _ => .bind .check fun _ => .set (by simp [ht]))) h)

@[simp] theorem Out.canonical_execMzeroCommand (h : s.canonical) : Out.canonical (execMzeroCommand s) := by
  unfold execMzeroCommand
  split <;> simp [h]

@[simp] theorem Out.canonical_execMldCommand (h : s.canonical) : Out.canonical (execMldCommand s) := by
  unfold execMldCommand
  split
  · refine State.canonical_onHead h fun c => ?_
    dsimp only
    split <;> simp [h]
  · exact h

@[simp] theorem State.canonical_engWrite_iff {y : Eye} {fa va : Nat} {bs : List Byte} {poison : List Nat} :
    (s.engWrite y fa va bs poison).2.canonical ↔ s.canonical :=
  Iff.rfl

@[simp] theorem State.canonical_engWrites_iff {y : Eye} {ws : List (Nat × Nat × List Byte)} :
    (s.engWrites y ws).2.canonical ↔ s.canonical := by
  simp [State.engWrites]

@[simp] theorem State.canonical_endMst_iff {stn : Nat} {c : CmdMsg} {d : Option Desc} {own flags : Nat} {fault : Option Word}
    {written : Nat} {chunks : List Nat} : (s.endMst stn c d own flags fault written chunks).canonical ↔ s.canonical := by
  simp [State.endMst]

@[simp] theorem Out.canonical_execMstCommand (h : s.canonical) : Out.canonical (execMstCommand s) := by
  unfold execMstCommand
  split
  · refine State.canonical_onHead h fun c => ?_
    dsimp only
    split
    · split <;> simp [h]
    · split <;> simp [h]
  · exact h

end

/-! ## Bank engines -/

section
variable {s : State}

@[simp] theorem State.canonical_setRun_iff {v : Nat} {r : BankRun} : (s.setRun v r).canonical ↔ s.canonical := Iff.rfl

@[simp] theorem State.canonical_moveDone_iff {m : MoveCtx} {rep flags : Nat} {r : BankRun} {b : Bank} {jump : Option Nat} :
    (s.moveDone m rep flags r b jump).canonical ↔ s.canonical := by
  simp [State.moveDone]

theorem Out.canonical_bankMove {f : MoveCtx → State → Nat → MoveRes} (h : s.canonical)
    (hf : ∀ m x, (f m s x).Holds fun q => q.1.canonical) : Out.canonical (bankMove f s) := by
  unfold bankMove
  dsimp only
  split
  · exact h
  · split
    · rename_i q e
      have hq : q.1.canonical := by
        refine Got.Holds.of_eq (p := fun q => q.1.canonical) ?_ e
        exact Got.holds_ite Got.holds_bad (Got.holds_bind fun x => (hf _ x.1).bind fun _ hq => hq)
      simp [hq]
    · simp [h]
    · exact h

theorem Out.canonical_bankMove_bankOnly {f : MoveCtx → Nat → Got Bank} (h : s.canonical) :
    Out.canonical (bankMove (bankOnly f) s) :=
  Out.canonical_bankMove h fun _ _ => Got.holds_bind fun _ => h
@[simp] theorem Out.canonical_execRbfetch (h : s.canonical) : Out.canonical (execRbfetch s) :=
  Out.canonical_bankMove h fun _ _ => Got.holds_bind fun _ => Got.holds_ite h (Got.holds_bind fun _ => h)
@[simp] theorem Out.canonical_execIvload (h : s.canonical) : Out.canonical (execIvload s) :=
  Out.canonical_bankMove h fun _ _ => Got.holds_ite Got.holds_bad (Got.holds_bind fun _ => Got.holds_bind fun _ => h)

@[simp] theorem Out.canonical_execMac (h : s.canonical) : Out.canonical (execMac s) := by
  refine Out.canonical_bankMove h fun _ _ => Got.holds_ite Got.holds_bad (Got.holds_bind fun _ => Got.holds_bind fun _ =>
    Got.holds_ite Got.holds_bad ?_)
  dsimp only
  split
  · trivial
  · exact h

@[simp] theorem Out.canonical_execIadd (h : s.canonical) : Out.canonical (execIadd s) := Out.canonical_bankMove_bankOnly h
@[simp] theorem Out.canonical_execIshr (h : s.canonical) : Out.canonical (execIshr s) := Out.canonical_bankMove_bankOnly h
@[simp] theorem Out.canonical_execLoop (h : s.canonical) : Out.canonical (execLoop s) :=
  Out.canonical_bankMove h fun _ _ => Got.holds_ite h (Got.holds_bind fun _ => h)
@[simp] theorem Out.canonical_execJump (h : s.canonical) : Out.canonical (execJump s) :=
  Out.canonical_bankMove h fun _ _ => Got.holds_bind fun _ => h
@[simp] theorem Out.canonical_execHalt (h : s.canonical) : Out.canonical (execHalt s) := Out.canonical_bankMove_bankOnly h
@[simp] theorem Out.canonical_execOut (h : s.canonical) : Out.canonical (execOut s) :=
  Out.canonical_bankMove h fun _ _ => Got.holds_bind fun _ => Got.holds_ite Got.holds_bad (Got.holds_ite Got.holds_bad
    (Got.holds_bind fun _ => by simp [h]))
@[simp] theorem Out.canonical_execIdxfetch (h : s.canonical) : Out.canonical (execIdxfetch s) :=
  Out.canonical_bankMove h fun _ _ => Got.holds_bind fun _ => Got.holds_ite Got.holds_bad (Got.holds_ite Got.holds_bad
    (Got.holds_bind fun _ => h))
@[simp] theorem Out.canonical_execRowget (h : s.canonical) : Out.canonical (execRowget s) :=
  Out.canonical_bankMove h fun _ _ => Got.holds_ite Got.holds_bad (Got.holds_bind fun _ =>
    Got.holds_ite Got.holds_bad (Got.holds_bind fun _ => h))
@[simp] theorem Out.canonical_execBankAccWrite (h : s.canonical) : Out.canonical (execBankAccWrite s) :=
  Out.canonical_bankMove_bankOnly h
@[simp] theorem Out.canonical_execBankPortWrite (h : s.canonical) : Out.canonical (execBankPortWrite s) :=
  Out.canonical_bankMove_bankOnly h
@[simp] theorem State.canonical_turnTo_iff {v p : Nat} : (s.turnTo v p).canonical ↔ s.canonical := Iff.rfl

@[simp] theorem State.canonical_endBank_iff {v p : Nat} {r : BankRun} : (s.endBank v p r).canonical ↔ s.canonical := by
  simp [State.endBank]

@[simp] theorem State.canonical_startBank {v p : Nat} {c : CmdMsg} (h : s.canonical) : (s.startBank v p c).canonical := by
  simp [State.startBank, h]

@[simp] theorem Out.canonical_execBkrunCommand (h : s.canonical) : Out.canonical (execBkrunCommand s) := by
  unfold execBkrunCommand
  split
  · dsimp only
    split
    · split <;> simp [h]
    · split <;> split <;> simp [h]
  · simp [h]

@[simp] theorem Out.canonical_execBankQuantumExpiry (h : s.canonical) : Out.canonical (execBankQuantumExpiry s) := by
  unfold execBankQuantumExpiry
  split
  · dsimp only
    split
    · simp [h]
    · split
      · simp [h]
      · split <;> simp [h]
  · simp [h]

end

/-! ## Atomics -/

section
variable {s : State}

theorem Exec.Keeps.noteArrival {fa : Nat} : (Exec.noteArrival fa).Keeps := by
  unfold Exec.noteArrival
  refine .get_bind fun _ _ => ?_
  dsimp only
  split
  · exact .pure
  · refine .ite ?_ .pure
    split
    · exact .ite .modCtx .pure
    · exact .got
    · exact .stall
    · exact .pure

@[simp] theorem Out.canonical_atomicOp {o : AtomOps} {op : Nat} {more : List Nat} {extra : Ctx → Word} (h : s.canonical) :
    Out.canonical (atomicOp o op more extra s) := by
  unfold atomicOp
  refine Out.canonical_runSelf (.bind .need fun _ => .bind .winPriv fun _ => .bind .waitWC fun _ => .bind .afterAcquire fun _ =>
    .bind .ctx fun _ => .bind .access fun ps => ?_) h
  split
  · exact .bind .afterSame fun _ => .bind .afterLocal fun _ => .bind .afterStrong fun _ => .when .beforeRelease fun _ =>
      .bind .cleanChunk fun _ => .when .noteArrival fun _ => .get_bind fun t ht => .ite (.set (by simp [ht]))
        (.bind (.set (by simp [ht])) fun _ => .bind .launch fun _ => .modify fun _ hu => by simp [hu])
  · exact .modify fun _ ht => by simp [ht]

end

/-! ## Branches and jumps -/

section
variable {s : State}

@[simp] theorem Out.canonical_branch {o : BrOps} {f : Word → Word → Bool} (h : s.canonical) : Out.canonical (branch o f s) := by
  simp [branch, h]

@[simp] theorem Out.canonical_jumpReg {r : Nat} {link : Bool} (h : s.canonical) : Out.canonical (jumpReg r link s) := by
  simp [jumpReg, h]

end

/-! ## The copy engine -/

section
variable {s : State}

@[simp] theorem State.canonical_modCopy_iff {stn : Nat} {f : Copy → Copy} : (s.modCopy stn f).canonical ↔ s.canonical := Iff.rfl
@[simp] theorem State.canonical_modChain_iff {stn : Nat} {f : Chain → Chain} : (s.modChain stn f).canonical ↔ s.canonical :=
  Iff.rfl
@[simp] theorem State.canonical_modXfer_iff {stn addr : Nat} {f : Xfer → Xfer} : (s.modXfer stn addr f).canonical ↔ s.canonical :=
  Iff.rfl
@[simp] theorem State.canonical_chainFail_iff {stn status : Nat} {v : Word} :
    (s.chainFail stn status v).canonical ↔ s.canonical :=
  Iff.rfl
@[simp] theorem State.canonical_xferFail_iff {stn addr status : Nat} {v : Word} :
    (s.xferFail stn addr status v).canonical ↔ s.canonical :=
  Iff.rfl
@[simp] theorem State.canonical_chainPoison_iff {stn a : Nat} : (s.chainPoison stn a).canonical ↔ s.canonical := Iff.rfl
@[simp] theorem State.canonical_freeBytes_iff {n : Nat} : (s.freeBytes n).2.canonical ↔ s.canonical := Iff.rfl

@[simp] theorem State.canonical_writePart_iff {y : Eye} {addr : Nat} {open_ : List Nat} {p : Nat × Nat × List (Byte × Bool)} :
    (s.writePart y addr open_ p).canonical ↔ s.canonical := by
  simp [State.writePart]

@[simp] theorem State.canonical_sourcePoison {y : Eye} {img : List Byte} {src : Nat} {bs : List (Byte × Bool)} (h : s.canonical) :
    (s.sourcePoison y img src bs).canonical := by
  unfold State.sourcePoison
  split
  · split <;> simp [h]
  · simp [h]

theorem State.holds_moveRun {y : Eye} {addr : Nat} {img : List Byte} {open_ : List Nat} {run : List (Nat × Nat)}
    (h : s.canonical) : (s.moveRun y addr img open_ run).Holds State.canonical :=
  Got.holds_bind fun _ => Got.holds_bind fun _ =>
    State.canonical_foldl (State.canonical_foldl h fun _ _ ht => by simp [ht]) fun _ _ ht => by simp [ht]

theorem State.holds_virtMasks {y : Eye} {addr base : Nat} {ms : List (Nat × Nat)} (h : s.canonical) :
    (s.virtMasks y addr base ms).Holds State.canonical := by
  induction ms generalizing s with
  | nil => exact h
  | cons m ms ih =>
    unfold State.virtMasks
    split
    · exact h
    · split
      · exact ih (by simp [h])
      · split
        · exact ih (by simp [h])
        · exact ih (by simp [h])
        · trivial
        · trivial

@[simp] theorem State.canonical_takeBad_iff {stn : Nat} {ids : List Nat} : (s.takeBad stn ids).canonical ↔ s.canonical := by
  unfold State.takeBad
  dsimp only
  split <;> simp

theorem State.holds_setBits {y : Eye} {x : Xfer} (h : s.canonical) : (s.setBits y x).Holds State.canonical :=
  State.holds_virtMasks (by simp [h])
theorem State.canonical_copyGot {y : Eye} {m : Msg} {x : Got State} {bad : Nat → Nat → State} (h : s.canonical)
    (hx : x.Holds State.canonical) (hbad : ∀ c a, (bad c a).canonical) : (s.copyGot y m x bad).canonical :=
  State.canonical_engineGot_of h (by simpa using hx) hbad

@[simp] theorem State.canonical_xferStep {y : Eye} {c : Chain} {x : Xfer} {msg : Msg} (h : s.canonical) :
    (s.xferStep y c x msg).canonical := by
  unfold State.xferStep
  extract_lets stn img fail again
  have hfail : ∀ cause d, (fail cause d).canonical := by simp [fail, h]
  have hagain : ∀ t, (again t).canonical ↔ t.canonical := by simp [again]
  split
  · split
    · simp [h]
    · exact State.canonical_copyGot h ((State.holds_virtMasks (by simp [h])).bind fun t ht => by simp [hagain, ht]) hfail
  · split
    · split <;> simp [hagain, h]
    · split
      · split <;> simp [hagain, h]
      · split
        · simp [h]
        · split
          · split <;> simp [hagain, h]
          · split
            · split
              · simp [h]
              · exact State.canonical_copyGot h ((State.holds_setBits h).bind fun t ht => by simp [hagain, ht]) hfail
            · split
              · exact State.canonical_copyGot h
                  (Got.holds_bind fun _ => (State.holds_moveRun h).bind fun t ht => by simp [hagain, ht]) hfail
              · split
                · refine State.canonical_copyGot h (Got.holds_bind fun rows => ?_) hfail
                  split
                  · exact Got.holds_bind fun _ => by simp [hagain, h]
                  · simp [hagain, h]
                · simp [h]

theorem State.holds_moveRuns {y : Eye} {addr : Nat} {img : List Byte} {open_ : List Nat} {runs : List (List (Nat × Nat))}
    {g : Got State} (hg : g.Holds State.canonical) :
    (runs.foldl (fun g run => g.bind fun t => t.moveRun y addr img open_ run) g).Holds State.canonical :=
  foldl_keeps (p := Got.Holds State.canonical) (fun _ _ hg => hg.bind fun _ ht => State.holds_moveRun ht) runs hg

@[simp] theorem Out.canonical_execGatherSublist (h : s.canonical) : Out.canonical (execGatherSublist s) := by
  unfold execGatherSublist
  split
  · split
    · split
      · exact h
      · dsimp only
        split
        · exact h
        · refine State.canonical_copyGot h ((Got.holds_bind fun _ => State.holds_moveRuns (g := .ok s) h).bind
            (p := State.canonical) fun t ht => ?_) (by simp [h])
          simp only [Got.holds_ok]
          split <;> simp [ht]
    · exact h
  · exact h

@[simp] theorem Out.canonical_execTransferRecordComplete (h : s.canonical) : Out.canonical (execTransferRecordComplete s) := by
  unfold execTransferRecordComplete
  split
  · split
    · split
      · exact h
      · exact State.canonical_copyGot h ((State.holds_setBits h).bind fun t ht =>
          Got.holds_bind fun _ => by simp [ht]) (by simp [h])
    · exact h
  · exact h

@[simp] theorem State.canonical_endChain_iff {stn : Nat} {c : Chain} : (s.endChain stn c).canonical ↔ s.canonical := by
  unfold State.endChain
  split <;> simp

@[simp] theorem State.canonical_walkStep {y : Eye} {c : Chain} {moving : List Xfer} {msg : Msg} (h : s.canonical) :
    (s.walkStep y c moving msg).canonical := by
  unfold State.walkStep
  split
  · simp [h]
  · split
    · simp [h]
    · refine State.canonical_copyGot h (Got.holds_bind fun _ => Got.holds_bind fun _ => Got.holds_ite ?_ (Got.holds_ite ?_
        (Got.holds_ite ?_ (Got.holds_bind fun _ => Got.holds_bind fun _ => ?_)))) (by simp [h])
      · simp [h]
      · simp [h]
      · simp only [Got.holds_ok]
        split <;> simp [h]
      · simp [h]

@[simp] theorem Out.canonical_execCpchainCommand (h : s.canonical) : Out.canonical (execCpchainCommand s) := by
  unfold execCpchainCommand
  split
  · split
    · simp [h]
    · split
      · simp [h]
      · dsimp only
        split
        · simp [h]
        · split <;> simp [h]
  · simp [h]

end

/-! ## The Otpin ports -/

section
variable {s : State}

@[simp] theorem State.canonical_modPort_iff {n : Nat} {f : Port → Port} : (s.modPort n f).canonical ↔ s.canonical := Iff.rfl

@[simp] theorem State.canonical_pump_iff {n k : Nat} : (s.pump n k).canonical ↔ s.canonical := by
  induction k generalizing s n with
  | zero =>
    unfold State.pump
    simp
  | succ _ ih =>
    unfold State.pump
    dsimp only
    split
    · simp
    · simp [ih]

@[simp] theorem State.canonical_egress_iff {n : Nat} {p : Packet} : (s.egress n p).canonical ↔ s.canonical := by
  simp [State.egress]

@[simp] theorem State.canonical_portFor_iff {hd : Hdr} : (s.portFor hd).2.canonical ↔ s.canonical := by
  unfold State.portFor
  split
  · simp
  · split
    · simp
    · dsimp only
      split <;> simp

@[simp] theorem State.canonical_retrain_iff {n : Nat} : (s.retrain n).canonical ↔ s.canonical := by simp [State.retrain]

@[simp] theorem State.canonical_leaveBuffer_iff {k : Packet} : (s.leaveBuffer k).canonical ↔ s.canonical := by
  unfold State.leaveBuffer
  split <;> simp

@[simp] theorem Out.canonical_execReplayTimeout (h : s.canonical) : Out.canonical (execReplayTimeout s) := by
  unfold execReplayTimeout
  split <;> simp [h]

@[simp] theorem Out.canonical_execPortEnable (h : s.canonical) : Out.canonical (execPortEnable s) := by
  unfold execPortEnable
  split <;> simp [h]

@[simp] theorem Out.canonical_execTrainingComplete (h : s.canonical) : Out.canonical (execTrainingComplete s) := by
  unfold execTrainingComplete
  split
  · split
    · simp [h]
    · split
      · dsimp only
        split <;> simp [h]
      · split
        · dsimp only
          split <;> simp [h]
        · simp [h]
  · simp [h]

@[simp] theorem Out.canonical_execLinkDown (h : s.canonical) : Out.canonical (execLinkDown s) := by
  unfold execLinkDown
  split <;> simp [h]

@[simp] theorem Out.canonical_execLinkAdaptation (h : s.canonical) : Out.canonical (execLinkAdaptation s) := by
  unfold execLinkAdaptation
  split <;> simp [h]

end

/-! ## Collectives -/

section
variable {s : State}

@[simp] theorem State.canonical_sendColl_iff {port typ ptag : Nat} {ps : List (List Byte)} :
    (s.sendColl port typ ptag ps).canonical ↔ s.canonical := by
  simp [State.sendColl]

@[simp] theorem State.canonical_modRouter_iff {f : Router → Router} : (s.modRouter f).canonical ↔ s.canonical := Iff.rfl
@[simp] theorem State.canonical_answerPart_iff {input : Nat} {p : Partial} {status : Nat} :
    (s.answerPart input p status).canonical ↔ s.canonical :=
  Iff.rfl

@[simp] theorem State.canonical_collFlags_iff {x : RedSlot} {fl : Nat} : (s.collFlags x fl).canonical ↔ s.canonical := by
  simp [State.collFlags]

@[simp] theorem State.canonical_finishSlot_iff {o : RedSlot} {timed : Bool} : (s.finishSlot o timed).canonical ↔ s.canonical := by
  unfold State.finishSlot
  dsimp only
  split <;> simp

@[simp] theorem State.canonical_gather_iff {input : Nat} {p : Partial} : (s.gather input p).2.canonical ↔ s.canonical := by
  simp [State.gather]

@[simp] theorem State.canonical_refusePart_iff {input : Nat} {p : Partial} {status : Nat} :
    (s.refusePart input p status).canonical ↔ s.canonical := by
  simp [State.refusePart]

@[simp] theorem State.canonical_joinSlot_iff {tree : Tree} {x : RedSlot} {input : Nat} {p0 : Partial} :
    (s.joinSlot tree x input p0).canonical ↔ s.canonical := by
  simp [State.joinSlot]

@[simp] theorem State.canonical_contribute_iff {input : Nat} {p : Partial} : (s.contribute input p).canonical ↔ s.canonical := by
  unfold State.contribute
  split
  · simp
  · split
    · simp
    · extract_lets slot wrong timer x s1 g
      have hg : g.2.canonical ↔ s.canonical := by simp [g, s1]
      clear_value g
      split
      · simp
      · split
        · simp
        · split <;> simp [hg]

@[simp] theorem Out.canonical_execCollectiveContribution (h : s.canonical) : Out.canonical (execCollectiveContribution s) := by
  unfold execCollectiveContribution
  split <;> simp [h]

@[simp] theorem Out.canonical_execSlotTimerExpiry (h : s.canonical) : Out.canonical (execSlotTimerExpiry s) := by
  unfold execSlotTimerExpiry
  split
  · split <;> simp [h]
  · simp [h]

@[simp] theorem Out.canonical_execRememberedKeyExpiry (h : s.canonical) : Out.canonical (execRememberedKeyExpiry s) := by
  unfold execRememberedKeyExpiry
  split <;> simp [h]

@[simp] theorem State.canonical_modColl_iff {stn : Nat} {f : Coll → Coll} : (s.modColl stn f).canonical ↔ s.canonical := Iff.rfl

@[simp] theorem State.canonical_collNext_iff {stn : Nat} : (s.collNext stn).canonical ↔ s.canonical := by
  unfold State.collNext
  dsimp only
  split <;> simp

@[simp] theorem State.canonical_sendPart_iff {stn : Nat} {k : CmdMsg} {mcast : Bool} {codes : List Nat} :
    (s.sendPart stn k mcast codes).canonical ↔ s.canonical := by
  simp [State.sendPart]

@[simp] theorem State.canonical_runColl {stn opcode : Nat} {msg : Msg} (h : s.canonical) :
    (s.runColl stn opcode msg).canonical := by
  unfold State.runColl
  split <;> simp [h]

@[simp] theorem Out.canonical_execClredCommand (h : s.canonical) : Out.canonical (execClredCommand s) := by
  unfold execClredCommand
  split <;> simp [h]

@[simp] theorem Out.canonical_execClmcastCommand (h : s.canonical) : Out.canonical (execClmcastCommand s) := by
  unfold execClmcastCommand
  split <;> simp [h]

@[simp] theorem State.canonical_endColl_iff {stn : Nat} {w : CollWait} {status : Nat} {value : Word} :
    (s.endColl stn w status value).canonical ↔ s.canonical := by
  simp [State.endColl]

@[simp] theorem State.canonical_deliverColl {stn : Nat} {r : CollRes} (h : s.canonical) : (s.deliverColl stn r).canonical := by
  unfold State.deliverColl
  split
  · exact h
  · extract_lets y dst size value bad s1 as
    have hs1 : s1.canonical := by simp [s1, h]
    clear_value bad s1
    split
    · split
      · simp [h]
      · split <;> simp [hs1]
    · split
      · simp [h]
      · split
        · simp [h]
        · split
          · simp [h]
          · refine State.canonical_engineGot h (fun p => ?_) (by simp [h])
            split <;> simp [h]

@[simp] theorem State.canonical_gatherRes_iff {r : CollRes} : (s.gatherRes r).2.canonical ↔ s.canonical := by
  simp [State.gatherRes]

@[simp] theorem Out.canonical_execCollectiveResult (h : s.canonical) : Out.canonical (execCollectiveResult s) := by
  unfold execCollectiveResult
  split
  · split
    · simp [h]
    · split
      · simp [h]
      · dsimp only
        split <;> simp [h]
  · simp [h]

end

/-! ## Host adapter endpoints -/

section
variable {s : State}

@[simp] theorem State.canonical_modEndpoint_iff {node ix : Nat} {f : Endpoint → Endpoint} :
    (s.modEndpoint node ix f).canonical ↔ s.canonical :=
  Iff.rfl
@[simp] theorem State.canonical_modTagged_iff {node ptag : Nat} {f : Endpoint → Endpoint} :
    (s.modTagged node ptag f).canonical ↔ s.canonical :=
  Iff.rfl
@[simp] theorem State.canonical_tellHost_iff {node ptag fa : Nat} {bs : List Byte} :
    (s.tellHost node ptag fa bs).canonical ↔ s.canonical :=
  Iff.rfl
@[simp] theorem State.canonical_modCache_iff {node : Nat} {f : Slice → Slice} : (s.modCache node f).canonical ↔ s.canonical :=
  Iff.rfl

@[simp] theorem State.canonical_hostWriteBack_iff {node ptag fa : Nat} {w : Line} :
    (s.hostWriteBack node ptag fa w).canonical ↔ s.canonical := by
  unfold State.hostWriteBack
  split
  · rfl
  · exact State.canonical_ite_iff Iff.rfl Iff.rfl

@[simp] theorem State.canonical_hostSpill_iff {node : Nat} {b : Block} : (s.hostSpill node b).canonical ↔ s.canonical := by
  simp [State.hostSpill]

@[simp] theorem State.canonical_hostPut_iff {node ptag fa : Nat} {w : Line} :
    (s.hostPut node ptag fa w).canonical ↔ s.canonical := by
  simp [State.hostPut]

@[simp] theorem State.canonical_hostDrop_iff {node ptag fa : Nat} : (s.hostDrop node ptag fa).canonical ↔ s.canonical := by
  unfold State.hostDrop
  split <;> simp

@[simp] theorem State.canonical_hostPublished_iff {node : Nat} {d : Demand} {sig : Sig} :
    (s.hostPublished node d sig).canonical ↔ s.canonical := by
  unfold State.hostPublished
  split
  · exact State.canonical_ite_iff Iff.rfl Iff.rfl
  · split
    · exact State.canonical_ite_iff Iff.rfl Iff.rfl
    · rfl

@[simp] theorem State.canonical_flushHostPubs_iff {node k : Nat} : (s.flushHostPubs node k).canonical ↔ s.canonical := by
  induction k generalizing s node with
  | zero =>
    unfold State.flushHostPubs
    simp
  | succ _ ih =>
    unfold State.flushHostPubs
    split
    · simp [ih]
    · simp

@[simp] theorem State.canonical_hostPublish_iff {node : Nat} {d : Demand} : (s.hostPublish node d).canonical ↔ s.canonical := by
  simp [State.hostPublish]

@[simp] theorem State.canonical_hostWbDone_iff {node id : Nat} : (s.hostWbDone node id).canonical ↔ s.canonical := by
  simp [State.hostWbDone]

@[simp] theorem State.canonical_hostAcquire_iff {node ptag : Nat} {g : Sig} :
    (s.hostAcquire node ptag g).canonical ↔ s.canonical :=
  Iff.rfl

@[simp] theorem State.canonical_hostRead_iff {node ptag : Nat} {r : ReadRep} :
    (s.hostRead node ptag r).canonical ↔ s.canonical := by
  unfold State.hostRead
  split <;> simp

@[simp] theorem State.canonical_hostTake_iff {p : Packet} : (s.hostTake p).canonical ↔ s.canonical := by
  unfold State.hostTake
  split <;> simp

end

/-! ## System instructions and guard slots -/

section
variable {s : State}

@[simp] theorem Out.canonical_execNop (h : s.canonical) : Out.canonical (execNop s) := by simp [execNop, h]
@[simp] theorem Out.canonical_execBrk {code : Nat} (h : s.canonical) : Out.canonical (execBrk code s) := by simp [execBrk, h]
@[simp] theorem Out.canonical_execTrap {code : Nat} (h : s.canonical) : Out.canonical (execTrap code s) := by simp [execTrap, h]

@[simp] theorem Out.canonical_execKcall {code : Nat} (h : s.canonical) : Out.canonical (execKcall code s) := by
  simp [execKcall, h]

@[simp] theorem Out.canonical_execTlbinv {b c : Nat} (h : s.canonical) : Out.canonical (execTlbinv b c s) := by
  simp [execTlbinv, h]

@[simp] theorem State.canonical_sendKmsg_iff {cube : Nat} {m : KMsg} : (s.sendKmsg cube m).canonical ↔ s.canonical := by
  unfold State.sendKmsg
  split
  · rfl
  · split
    · simp
    · exact State.canonical_ite_iff Iff.rfl Iff.rfl

@[simp] theorem Out.canonical_execKmsg {b c : Nat} (h : s.canonical) : Out.canonical (execKmsg b c s) :=
  Out.canonical_privilegedBy h (Out.canonical_runSeq (.bind .need fun _ => .bind .ctx fun _ => .when .ill fun _ =>
    .bind .check fun _ =>
    .bind .faOf fun _ => .bind .home fun _ => .get_bind fun _ _ => .bind .got fun _ => .bind .modCtx fun _ =>
    .modify fun _ hu => by simp [hu]) h)

@[simp] theorem Out.canonical_gset {j b : Nat} {zero : Bool} (h : s.canonical) : Out.canonical (gset j b zero s) := by
  simp [gset, h]

@[simp] theorem Out.canonical_execGwait {a j : Nat} (h : s.canonical) : Out.canonical (execGwait a j s) := by
  unfold execGwait
  split <;> simp [h]

theorem Exec.Keeps.query {b : Nat} {x : XOp} : (Exec.query b x).Keeps :=
  .bind .need fun _ => .bind .ctx fun _ => .bind .faOf fun _ => .pure
@[simp] theorem Out.canonical_execFaddr {a b : Nat} {x : XOp} (h : s.canonical) : Out.canonical (execFaddr a b x s) :=
  Out.canonical_runSeq (.bind .query fun _ => .get_bind fun _ _ => .bind .check fun _ => .setReg) h

@[simp] theorem Out.canonical_execHomeof {a b : Nat} {x : XOp} (h : s.canonical) : Out.canonical (execHomeof a b x s) := by
  unfold execHomeof
  refine Out.canonical_runSeq ?_ h
  refine .bind .query fun _ => .get_bind fun _ _ => ?_
  split
  · exact .setReg
  · exact .trap

end

/-! ## Who acts next, and fetching -/

section
variable {s : State}

theorem Exec.Keeps.fetch {k n : Nat} : (Exec.fetch k n).Keeps := by
  induction k generalizing n with
  | zero =>
    unfold Exec.fetch
    exact .pure
  | succ _ ih =>
    unfold Exec.fetch
    exact .bind (.modify fun _ h => by simp [h]) fun _ => .bind .readNow fun _ => .ite (.bind ih fun _ => .pure) .pure

theorem State.canonical_of_fetch_ok {t : State} {i : Instr} (e : s.fetch = .ok (i, t)) (h : s.canonical) : t.canonical := by
  unfold State.fetch at e
  dsimp only at e
  split at e
  · cases e
  · cases e
  · rename_i e'
    split at e
    · obtain ⟨rfl, rfl⟩ := Prod.mk.inj (Except.ok.inj e)
      exact Exec.Keeps.fetch.of_ok e' h
    · cases e

theorem State.canonical_of_fetch_error {t : State} (e : s.fetch = .error t) (h : s.canonical) : t.canonical := by
  unfold State.fetch at e
  dsimp only at e
  split at e
  · rename_i e'
    obtain rfl := Except.error.inj e
    simp [Exec.Keeps.fetch.of_error e' h]
  · rename_i e'
    obtain rfl := Except.error.inj e
    exact Exec.Keeps.fetch.of_error e' h
  · rename_i e'
    split at e
    · cases e
    · obtain rfl := Except.error.inj e
      simp [Exec.Keeps.fetch.of_ok e' h]

theorem State.canonical_of_takeNet {t : State} {k : Nat} {m : Msg} (e : s.takeNet k = some (m, t)) (h : s.canonical) :
    t.canonical := by
  unfold State.takeNet at e
  split at e
  · cases e
  · split at e
    · cases e
      simp [h]
    · obtain ⟨x, -, hx⟩ := Option.map_eq_some_iff.mp e
      cases hx
      simp [h]

@[simp] theorem State.canonical_advanceTo_iff {d : Nat} : (s.advanceTo d).canonical ↔ s.canonical := by simp [State.advanceTo]

theorem State.canonical_of_takeTimer {t : State} {m : Msg} (e : s.takeTimer = some (m, t)) (h : s.canonical) : t.canonical := by
  unfold State.takeTimer at e
  split at e
  · cases e
  · cases e
    simp [h]

@[simp] theorem State.canonical_popKmsg_iff {n : Nat} : (s.popKmsg n).canonical ↔ s.canonical := Iff.rfl

end

/-! ## Task control and selection -/

section
variable {s : State}

theorem State.canonical_of_retireTask {t : State} {stn : Nat} {r : RecEntry} {status cause : Nat}
    (e : s.retireTask stn r status cause = some t) (h : s.canonical) : t.canonical := by
  obtain ⟨u, hu, rfl⟩ := Option.map_eq_some_iff.mp e
  simp [State.canonical_of_retire? hu h]

theorem State.canonical_retireThen {stn : Nat} {r : RecEntry} {status cause : Nat} {k : State → State} (h : s.canonical)
    (hk : ∀ t, t.canonical → (k t).canonical) : (s.retireThen stn r status cause k).2.canonical := by
  unfold State.retireThen
  split
  · rename_i e
    exact hk _ (State.canonical_of_retireTask e h)
  · simp [h]

@[simp] theorem State.canonical_senderDone_iff {src : Src} {counter : Nat} :
    (s.senderDone src counter).canonical ↔ s.canonical := by
  unfold State.senderDone
  split <;> simp

@[simp] theorem State.canonical_newRecord_iff {stn : Nat} {body : Rec} {reply : Nat} {sig : Option Sig} :
    (s.newRecord stn body reply sig).2.canonical ↔ s.canonical :=
  Iff.rfl

@[simp] theorem State.canonical_acceptPacket {stn : Nat} {p : TaskPkt} (h : s.canonical) :
    (s.acceptPacket stn p).2.canonical := by
  unfold State.acceptPacket
  split
  · simp [h]
  · dsimp only
    split
    · exact State.canonical_retireThen (by simp [h]) fun t ht => by simp [ht]
    · simp [h]

@[simp] theorem State.canonical_drainInbox {stn k : Nat} (h : s.canonical) : (s.drainInbox stn k).canonical := by
  induction k generalizing s stn with
  | zero =>
    unfold State.drainInbox
    simp [h]
  | succ _ ih =>
    unfold State.drainInbox
    split
    · simp [h]
    · simp [h, ih]

@[simp] theorem State.canonical_startHandler {stn : Nat} {d : DataArr} (h : s.canonical) : (s.startHandler stn d).canonical := by
  unfold State.startHandler
  split
  · simp [h]
  · split
    · dsimp only
      split <;> simp [h]
    · dsimp only
      split <;> simp [h]

@[simp] theorem State.canonical_deliverData {stn : Nat} {d : DataArr} (h : s.canonical) : (s.deliverData stn d).canonical := by
  unfold State.deliverData
  split <;> split <;> simp [h]

@[simp] theorem State.canonical_redeliver {stn k : Nat} (h : s.canonical) : (s.redeliver stn k).canonical := by
  induction k generalizing s stn with
  | zero =>
    unfold State.redeliver
    simp [h]
  | succ _ ih =>
    unfold State.redeliver
    split
    · simp [h]
    · simp [h, ih]
    · simp [h, ih]
    · simp [h, ih]

@[simp] theorem State.canonical_takeIn {stn : Nat} (h : s.canonical) : (s.takeIn stn).canonical := by simp [State.takeIn, h]
@[simp] theorem State.canonical_spillMessage_iff {stn : Nat} {m : Msg} : (s.spillMessage stn m).canonical ↔ s.canonical := Iff.rfl

@[simp] theorem Out.canonical_execSpillRefill (h : s.canonical) : Out.canonical (execSpillRefill s) := by
  unfold execSpillRefill
  split <;> simp [h]

@[simp] theorem State.canonical_retireCtx {l : Loc} {r : RecEntry} {status cause : Nat} (h : s.canonical) :
    (s.retireCtx l r status cause).2.canonical :=
  State.canonical_retireThen h fun t ht => by simp [ht]

@[simp] theorem Out.canonical_execTaskPacket (h : s.canonical) : Out.canonical (execTaskPacket s) := by
  unfold execTaskPacket
  split <;> simp [h]

theorem Exec.Keeps.readVectors {rd : Nat → Nat → Exec (List Byte)} {frame : Nat} {ns : List Nat} (hrd : ∀ fa n, (rd fa n).Keeps) :
    (Exec.readVectors rd frame ns).Keeps := by
  induction ns with
  | nil => exact .pure
  | cons n ns ih => exact .bind (hrd _ _) fun _ => .bind ih fun _ => .pure

theorem Exec.Keeps.readSaved {fa n : Nat} : (Exec.readSaved fa n).Keeps := by
  unfold Exec.readSaved
  refine .get_bind fun _ _ => ?_
  dsimp only
  split
  · exact .trap
  · exact .got

@[simp] theorem State.canonical_takeReady_iff {stn : Nat} {r : RecEntry} : (s.takeReady stn r).canonical ↔ s.canonical := by
  simp [State.takeReady]

theorem Exec.Keeps.runRecord {l : Loc} {r : RecEntry} : (Exec.runRecord l r).Keeps := by
  unfold Exec.runRecord
  refine .get_bind fun s h => .ite ?_ (.bind .readSaved fun _ => .ite ?_ (.bind (.readVectors fun _ _ => .readSaved) fun _ =>
    .get_bind fun t ht => ?_))
  · refine .bind (.set (by simp [h])) fun _ => ?_
    split
    · exact .bind (.modify fun _ ht => by simp [ht]) fun _ => .modify fun _ ht => by simp [ht]
    · exact .modify fun _ ht => by simp [ht]
  · refine .bind (.set (State.canonical_retireThen h fun t ht => by simp [ht])) fun _ => .bind .wait fun _ => ?_
    split
    · exact .bind (.modify fun _ ht => by simp [ht]) fun _ => .modify fun _ ht => by simp [ht]
    · exact .modify fun _ ht => by simp [ht]
  · refine .bind (.set (by simp [ht])) fun _ => ?_
    split
    · exact .bind (.modify fun _ ht => by simp [ht]) fun _ => .modify fun _ ht => by simp [ht]
    · exact .modify fun _ ht => by simp [ht]

@[simp] theorem Out.canonical_execSelection (h : s.canonical) : Out.canonical (execSelection s) := by
  unfold execSelection
  split
  · dsimp only
    split
    · split
      · exact h
      · split
        · exact State.canonical_retireThen h fun t ht => by simp [ht]
        · split <;> rename_i e
          · exact Exec.Keeps.runRecord.of_ok e h
          · exact Exec.Keeps.runRecord.of_error e h
          · exact State.canonical_retireThen (Exec.Keeps.runRecord.of_error e h) fun t ht => by simp [ht]
    · exact h
  · exact h

theorem Exec.Keeps.beforeChild : (Exec.beforeChild).Keeps := .beforeRelease
theorem Exec.Keeps.localChild {reply : Nat} {r : Rec} : (Exec.localChild reply r).Keeps :=
  .get_bind fun _ _ => .bind .wait fun _ => .modify fun _ ht => by simp [ht]
theorem Exec.Keeps.loadFa {va : Nat} : (Exec.loadFa va).Keeps := .ite .pure (.bind .faOf fun _ => .bind .home fun _ => .pure)

@[simp] theorem Out.canonical_execSpawn {a b c : Nat} (h : s.canonical) : Out.canonical (execSpawn a b c s) := by
  unfold execSpawn
  refine Out.canonical_runSeq ?_ h
  refine .bind .need fun _ => .bind .beforeChild fun _ => .bind .afterAcquire fun _ => .bind .ctx fun _ => .bind .check fun _ =>
    .bind .readOwn fun _ => .bind .loadFa fun _ => .bind .loadFa fun _ => .get_bind fun _ ht => .ite (.set (by simp [ht])) <| ?_
  dsimp only
  split
  · exact .localChild
  · exact .ite (.bind .wait fun _ => .set (by simp [ht])) (.set (by simp [ht]))

@[simp] theorem Out.canonical_execFork {a b : Nat} {off : Int} (h : s.canonical) : Out.canonical (execFork a b off s) := by
  unfold execFork
  dsimp only
  split
  · simp [h]
  · split
    · exact Out.canonical_runSeq (.bind .beforeChild fun _ => .localChild) h
    · simp [h]

@[simp] theorem Out.canonical_execJoin {a b : Nat} {x : XOp} (h : s.canonical) : Out.canonical (execJoin a b x s) :=
  Out.canonical_runSelf (.bind .need fun _ => .bind .ctx fun _ => .armWait) h
@[simp] theorem Out.canonical_execYield (h : s.canonical) : Out.canonical (execYield s) := by simp [execYield, h]

@[simp] theorem Out.canonical_execExit {a : Nat} (h : s.canonical) : Out.canonical (execExit a s) := by
  unfold execExit
  dsimp only
  split
  · simp [h]
  · split
    · simp [h]
    · split <;> simp [h]

@[simp] theorem Out.canonical_setPin {on : Bool} (h : s.canonical) : Out.canonical (setPin on s) := by simp [setPin, h]
@[simp] theorem State.canonical_resumed {n : Nat} (h : s.canonical) : (s.resumed n).canonical := by simp [State.resumed, h]

@[simp] theorem State.canonical_stealAnswered_iff {stn : Nat} {r : RecEntry} :
    (s.stealAnswered stn r).canonical ↔ s.canonical := by
  simp [State.stealAnswered]

@[simp] theorem State.canonical_recordArrives {stn : Nat} {r : RecEntry} (h : s.canonical) :
    (s.recordArrives stn r).canonical := by
  simp [State.recordArrives, h]

@[simp] theorem Out.canonical_execRecordMove (h : s.canonical) : Out.canonical (execRecordMove s) := by
  unfold execRecordMove
  split
  · dsimp only
    split
    · split <;> simp [h]
    · split
      · simp [h]
      · split
        · simp [h]
        · split <;> simp [h]
  · simp [h]

@[simp] theorem Out.canonical_execDataArrivalWithHandler (h : s.canonical) : Out.canonical (execDataArrivalWithHandler s) := by
  unfold execDataArrivalWithHandler
  split <;> simp [h]

end

/-! ## End-to-end delivery -/

section
variable {s : State}

@[simp] theorem State.canonical_takeHandover {fa len : Nat} {words : List (BlockWord × Bool)} {leases : Map Nat}
    {wits : List (Nat × Nat × Nat × Nat × Sig)} {waits : List WaitReg} (h : s.canonical) :
    (s.takeHandover fa len words leases wits waits).canonical := by
  unfold State.takeHandover
  dsimp only
  refine State.canonical_foldl ?_ fun _ _ ht => ?_
  · refine State.canonical_foldl ?_ fun _ _ ht => ?_
    · refine State.canonical_foldl ?_ fun _ _ ht => ?_
      · refine State.canonical_foldl (by simp [h]) fun _ _ ht => ?_
        split <;> simp [ht]
      · simp [ht]
    · simp [ht]
  · simp [ht]

@[simp] theorem State.canonical_setFilter_iff {f : Filter} : (s.setFilter f).canonical ↔ s.canonical := Iff.rfl
@[simp] theorem State.canonical_forward_iff {p : Packet} {cube stn : Nat} : (s.forward p cube stn).canonical ↔ s.canonical :=
  Iff.rfl

@[simp] theorem State.canonical_performHere {p : Packet} {stn : Nat} (h : s.canonical) : (s.performHere p stn).canonical := by
  unfold State.performHere
  split
  · simp [h]
  · split <;> simp [h]

@[simp] theorem State.canonical_performPkt {p : Packet} (h : s.canonical) : (s.performPkt p).canonical := by
  unfold State.performPkt
  dsimp only
  split
  · simp [h]
  · split <;> simp [h]

@[simp] theorem State.canonical_performQueued {hd : Hdr} {k : Nat} (h : s.canonical) : (s.performQueued hd k).canonical := by
  induction k generalizing s hd with
  | zero =>
    unfold State.performQueued
    simp [h]
  | succ _ ih =>
    unfold State.performQueued
    dsimp only
    split
    · simp [h]
    · simp [h, ih]

@[simp] theorem State.canonical_acceptPkt {p : Packet} (h : s.canonical) : (s.acceptPkt p).canonical := by
  unfold State.acceptPkt
  dsimp only
  split
  · split <;> simp [h]
  · simp [h]

@[simp] theorem State.canonical_modSent_iff {snode sstn cls dnode dstn seq : Nat} {f : Sent → Sent} :
    (s.modSent snode sstn cls dnode dstn seq f).canonical ↔ s.canonical :=
  Iff.rfl
@[simp] theorem State.canonical_resendPkt_iff {snode sstn cls dnode dstn seq : Nat} {p : Packet} :
    (s.resendPkt snode sstn cls dnode dstn seq p).canonical ↔ s.canonical :=
  Iff.rfl

@[simp] theorem State.canonical_slidePair_iff {snode sstn cls dnode dstn k : Nat} :
    (s.slidePair snode sstn cls dnode dstn k).canonical ↔ s.canonical := by
  induction k generalizing s snode sstn cls dnode dstn with
  | zero =>
    unfold State.slidePair
    simp
  | succ _ ih =>
    unfold State.slidePair
    split
    · simp
    · dsimp only
      split
      · simp [ih]
      · simp

@[simp] theorem State.canonical_answerTo_iff {hd : Hdr} {b : Body} {m : Msg} : (s.answerTo hd b m).canonical ↔ s.canonical := by
  unfold State.answerTo
  split
  · split <;> simp
  · split
    · split <;> simp
    · simp
  · simp

@[simp] theorem State.canonical_takeAnswer_iff {p : Packet} : (s.takeAnswer p).canonical ↔ s.canonical := by
  unfold State.takeAnswer
  dsimp only
  split <;> simp

@[simp] theorem State.canonical_dropHomeState_iff {pick : Nat → Bool} : (s.dropHomeState pick).canonical ↔ s.canonical := by
  simp [State.dropHomeState]

@[simp] theorem State.canonical_evictStripe {fa len : Nat} (h : s.canonical) : (s.evictStripe fa len).canonical := by
  unfold State.evictStripe
  split <;> simp [h]

@[simp] theorem State.canonical_endHandover {fa len : Nat} (h : s.canonical) : (s.endHandover fa len).canonical := by
  simp [State.endHandover, h]

@[simp] theorem State.canonical_abandonHandover {fa len : Nat} (h : s.canonical) : (s.abandonHandover fa len).canonical := by
  unfold State.abandonHandover
  dsimp only
  exact State.canonical_foldl (by simp [h]) fun _ _ ht => by simp [ht]

@[simp] theorem State.canonical_acceptedSent {u : Sent} (h : s.canonical) : (s.acceptedSent u).canonical := by
  unfold State.acceptedSent
  split
  case h_11 => split <;> simp [h]
  all_goals simp [h]

@[simp] theorem State.canonical_dropForwarded_iff {p : Packet × Packet → Bool} : (s.dropForwarded p).canonical ↔ s.canonical :=
  Iff.rfl

@[simp] theorem Out.canonical_execEndToEndAcknowledgement (h : s.canonical) : Out.canonical (execEndToEndAcknowledgement s) := by
  unfold execEndToEndAcknowledgement
  split
  · split
    · simp [h]
    · dsimp only
      split <;> simp [h]
  · simp [h]

@[simp] theorem State.canonical_refusePacket_iff {p : TaskPkt} : (s.refusePacket p).canonical ↔ s.canonical := by
  unfold State.refusePacket
  split
  · simp
  · dsimp only
    split <;> simp

@[simp] theorem State.canonical_failHost_iff {u : Sent} {lost : Bool} : (s.failHost u lost).canonical ↔ s.canonical := by
  unfold State.failHost
  split <;> split <;> simp

@[simp] theorem State.canonical_failSent {u : Sent} {lost : Bool} (h : s.canonical) : (s.failSent u lost).canonical := by
  unfold State.failSent
  extract_lets hdr no s0 gone f
  have hs0 : s0.canonical := by simp [s0, h]
  have hgone : ∀ m, (gone s0 m).canonical := by simp [gone, hs0]
  have hf : f.2.canonical := by simp [f, hs0]
  clear_value s0 gone f
  split
  · simp [hs0]
  · split
    case h_7 =>
      split
      · simp [hs0]
      · dsimp only
        split
        · exact State.canonical_retireThen hs0 fun _ ht => ht
        · simp [h]
    all_goals simp [hs0, hgone, hf]

@[simp] theorem State.canonical_readdress {u : Sent} (h : s.canonical) : (s.readdress u).canonical := by
  unfold State.readdress
  dsimp only
  split
  · simp [h]
  · split <;> simp [h]

@[simp] theorem State.canonical_nackForwarded_iff {snode sstn cls onode ostn seq : Nat} {moved : Bool} :
    (s.nackForwarded snode sstn cls onode ostn seq moved).canonical ↔ s.canonical := by
  unfold State.nackForwarded
  dsimp only
  split <;> simp

@[simp] theorem Out.canonical_execMoved (h : s.canonical) : Out.canonical (execMoved s) := by
  unfold execMoved
  split
  · split
    · simp [h]
    · dsimp only
      split
      · exact State.canonical_foldl (by simp [h]) fun _ _ ht => by simp [ht]
      · simp [h]
  · simp [h]

@[simp] theorem Out.canonical_execRefused (h : s.canonical) : Out.canonical (execRefused s) := by
  unfold execRefused
  split
  · split <;> simp [h]
  · simp [h]

@[simp] theorem Out.canonical_execRetryTimeout (h : s.canonical) : Out.canonical (execRetryTimeout s) := by
  unfold execRetryTimeout
  split
  · split
    · simp [h]
    · dsimp only
      split <;> simp [h]
  · simp [h]

@[simp] theorem Out.canonical_execDestinationLost (h : s.canonical) : Out.canonical (execDestinationLost s) := by
  unfold execDestinationLost
  split
  · dsimp only
    exact State.canonical_foldl (by simp [h]) fun _ _ ht => by simp [ht]
  · simp [h]

@[simp] theorem State.canonical_hostAccept_iff {p : Packet} : (s.hostAccept p).canonical ↔ s.canonical := by
  simp [State.hostAccept]

@[simp] theorem State.canonical_arrivePkt {p : Packet} (h : s.canonical) : (s.arrivePkt p).canonical := by
  unfold State.arrivePkt
  split
  · split <;> split <;> simp [h]
  · split <;> simp [h]

@[simp] theorem Out.canonical_execPacketRouting (h : s.canonical) : Out.canonical (execPacketRouting s) := by
  unfold execPacketRouting
  split
  · split
    · simp [h]
    · dsimp only
      split
      · simp [h]
      · split
        · simp [h]
        · split <;> simp [h]
  · simp [h]

@[simp] theorem Out.canonical_execFlit (h : s.canonical) : Out.canonical (execFlit s) := by
  unfold execFlit
  split
  · extract_lets s0 p kept got s1 s2 q
    have hs0 : s0.canonical := by simp [s0, h]
    have hs2 : s2.canonical := by simp [s2, s1, hs0]
    clear_value s0 s2
    split
    · exact hs0
    · split
      · simp [hs0]
      · split
        · simp [hs0]
        · split
          · exact hs2
          · split
            · split <;> simp [hs2]
            · simp [hs2]
  · exact h

end

/-! ## Kernel messages, stealing and pre-emption -/

section
variable {s : State}

theorem State.canonical_takeKmsg {m : KMsg} {op : State → Nat → State} (h : s.canonical)
    (hop : ∀ t fa, t.canonical → (op t fa).canonical) : (s.takeKmsg m op).canonical := by
  unfold State.takeKmsg
  dsimp only
  split
  · simp [h]
  · simp [hop _ _ (State.canonical_ownWrite h)]

@[simp] theorem State.canonical_kernelSend_iff {stn cube dst : Nat} {dws : List Nat} :
    (s.kernelSend stn cube dst dws).canonical ↔ s.canonical := by
  simp [State.kernelSend]

@[simp] theorem Out.canonical_execStealRound (h : s.canonical) : Out.canonical (execStealRound s) := by
  unfold execStealRound
  split
  · dsimp only
    split
    · simp [h]
    · split <;> simp [h]
  · simp [h]

@[simp] theorem State.canonical_takeOut {n : Nat} {r : RecEntry} (h : s.canonical) : (s.takeOut n r).canonical := by
  simp [State.takeOut, h]

@[simp] theorem Out.canonical_execStealRequest (h : s.canonical) : Out.canonical (execStealRequest s) := by
  unfold execStealRequest
  split
  · dsimp only
    split <;> simp [h]
  · simp [h]

@[simp] theorem Out.canonical_execStealRefusal (h : s.canonical) : Out.canonical (execStealRefusal s) := by
  unfold execStealRefusal
  split <;> simp [h]

@[simp] theorem Out.canonical_execStealBackoffExpiry (h : s.canonical) : Out.canonical (execStealBackoffExpiry s) := by
  unfold execStealBackoffExpiry
  split <;> simp [h]

@[simp] theorem State.canonical_noteLoad_iff {m : KMsg} : (s.noteLoad m).canonical ↔ s.canonical := Iff.rfl

@[simp] theorem Out.canonical_execSoft (h : s.canonical) : Out.canonical (execSoft s) := by
  unfold execSoft
  split
  · exact State.canonical_takeKmsg h fun _ _ ht => by simp [ht]
  · exact h

@[simp] theorem Out.canonical_execKernelMessageReserved (h : s.canonical) : Out.canonical (execKernelMessageReserved s) := by
  unfold execKernelMessageReserved
  split
  · exact State.canonical_takeKmsg h fun _ _ ht => ht
  · exact h

@[simp] theorem Out.canonical_execConfig (h : s.canonical) : Out.canonical (execConfig s) := by
  unfold execConfig
  split
  · exact State.canonical_takeKmsg h fun _ _ ht => by simp [ht]
  · exact h

@[simp] theorem State.canonical_moveRecords {n cube dst k : Nat} (h : s.canonical) :
    (s.moveRecords n cube dst k).1.canonical := by
  induction k generalizing s n cube dst with
  | zero =>
    unfold State.moveRecords
    simp [h]
  | succ _ ih =>
    unfold State.moveRecords
    split
    · simp [h]
    · simp [h, ih]

@[simp] theorem Out.canonical_execMove (h : s.canonical) : Out.canonical (execMove s) := by
  unfold execMove
  split
  · exact State.canonical_takeKmsg h fun _ _ ht => by simp [ht]
  · exact h

@[simp] theorem State.canonical_preemptStn {n : Nat} {raise : Option Nat} (h : s.canonical) :
    (s.preemptStn n raise).canonical := by
  unfold State.preemptStn
  split
  · exact h
  · refine State.canonical_preemptStep (State.canonical_foldl ?_ fun t l ht => ?_)
    · exact h
    · split <;> simp [ht]

@[simp] theorem Out.canonical_execPreempt (h : s.canonical) : Out.canonical (execPreempt s) := by
  unfold execPreempt
  split
  · exact State.canonical_takeKmsg h fun _ _ ht => by simp [ht]
  · exact h

@[simp] theorem Out.canonical_execPreemptRaised (h : s.canonical) : Out.canonical (execPreemptRaised s) := by
  unfold execPreemptRaised
  split
  · dsimp only
    split <;> simp [h]
  · simp [h]

@[simp] theorem State.canonical_returnHeld {n : Nat} (h : s.canonical) : (s.returnHeld n).canonical :=
  State.canonical_foldl (by simp [h]) fun _ _ ht => State.canonical_foldl (by simp [ht]) fun _ _ ht => by simp [ht]

@[simp] theorem Out.canonical_execResume (h : s.canonical) : Out.canonical (execResume s) := by
  unfold execResume
  split
  · refine State.canonical_takeKmsg h fun t _ ht => ?_
    split
    · exact ht
    · exact State.canonical_wantRefill_iff.2 (State.canonical_wakeHandles (State.canonical_resumed (by simp [ht])))
  · exact h

@[simp] theorem State.canonical_balance_iff {n mine age : Nat} {ps : List (Nat × Nat)} :
    (s.balance n mine age ps).canonical ↔ s.canonical := by
  simp [State.balance]

@[simp] theorem Out.canonical_execLoadBalancing (h : s.canonical) : Out.canonical (execLoadBalancing s) := by
  unfold execLoadBalancing
  split
  · split <;> simp [h]
  · simp [h]

@[simp] theorem Out.canonical_execEret (h : s.canonical) : Out.canonical (execEret s) := by simp [execEret, h]

end

/-! ## What the fabric manager installs -/

section
variable {s : State}

@[simp] theorem State.canonical_resumeReported (h : s.canonical) : s.resumeReported.canonical := by
  unfold State.resumeReported
  dsimp only
  exact State.canonical_foldl (by simp [h]) fun _ _ ht => State.canonical_foldl (by simp [ht]) fun _ _ ht => by simp [ht]

@[simp] theorem State.canonical_renumber_iff {cube mask : Nat} : (s.renumber cube mask).canonical ↔ s.canonical := Iff.rfl
@[simp] theorem State.canonical_retireOld_iff : s.retireOld.canonical ↔ s.canonical := by simp [State.retireOld]

@[simp] theorem State.canonical_install {e : Nat} {t : TableCmd} (h : s.canonical) : (s.install e t).canonical := by
  unfold State.install
  split
  case h_2 => split <;> simp [h]
  all_goals simp [h]

@[simp] theorem Out.canonical_execTableWrite (h : s.canonical) : Out.canonical (execTableWrite s) := by
  unfold execTableWrite
  split <;> simp [h]

@[simp] theorem State.canonical_standIn {old : Tables} {ix : Nat} (h : s.canonical) : (s.standIn old ix).canonical := by
  unfold State.standIn
  dsimp only
  split
  · simp [h]
  · split
    · split
      · simp [h]
      · exact State.canonical_foldl (by simp [h]) fun _ _ ht => by simp [ht]
    · simp [h]

@[simp] theorem Out.canonical_execPlatGenerationInstall (h : s.canonical) : Out.canonical (execPlatGenerationInstall s) := by
  unfold execPlatGenerationInstall
  split
  · split
    · exact h
    · extract_lets old cs rs t1 t2 t3 s2 s3 due ready src s4
      have hs3 : s3.canonical := State.canonical_foldl (s := s2) h fun t e ht => by simp [ht]
      have hs4 : s4.canonical := hs3
      clear_value s4
      simp [hs4]
  · exact h

@[simp] theorem State.canonical_buildGuard {fa : Nat} (h : s.canonical) : (s.buildGuard fa).canonical := by
  unfold State.buildGuard
  split <;> simp [h]

@[simp] theorem Out.canonical_execBackgroundRebuild (h : s.canonical) : Out.canonical (execBackgroundRebuild s) := by
  unfold execBackgroundRebuild
  split
  · split
    · simp [h]
    · split
      · simp [h]
      · split <;> simp [h]
  · simp [h]

@[simp] theorem Out.canonical_execStripeHandover (h : s.canonical) : Out.canonical (execStripeHandover s) := by
  unfold execStripeHandover
  split
  · split
    · exact h
    · split
      · exact h
      · extract_lets s1 words x wits src s2
        have hs1 : s1.canonical := by simp [s1, h]
        clear_value s1 x
        split
        · simp [hs1]
        · split
          · exact h
          · split
            · simp [hs1]
            · exact State.canonical_of_ite hs1 hs1
  · exact h

@[simp] theorem State.canonical_setResize_iff {ptag : Nat} {r : Resize} : (s.setResize ptag r).canonical ↔ s.canonical := Iff.rfl

@[simp] theorem State.canonical_mapRecords {f : RecEntry → RecEntry} (h : s.canonical) : (s.mapRecords f).canonical := by
  unfold State.mapRecords
  dsimp only
  exact State.canonical_foldl (by simp [h]) fun _ _ ht => State.canonical_foldl (by simp [ht]) fun _ _ ht => by simp [ht]

@[simp] theorem State.canonical_moveOut {n : Nat} (h : s.canonical) : (s.moveOut n).canonical := by
  unfold State.moveOut
  dsimp only
  split
  · simp [h]
  · exact State.canonical_foldl (by simp [h]) fun _ _ ht => by simp [ht]

@[simp] theorem State.canonical_cleanStn {n : Nat} (h : s.canonical) : (s.cleanStn n).canonical := by
  unfold State.cleanStn
  extract_lets s1 s2 lo out s3
  have hs2 : s2.canonical := State.canonical_foldl (s := s) h fun t w ht => State.canonical_writeBack _ _ _ _ ht
  obtain ⟨hm, hp, hf⟩ := hs2
  have hs3 : s3.canonical := ⟨Map.wf_filter _ hm, Map.wf_filter _ hp, Map.wf_filter _ hf⟩
  simp [hs3]

@[simp] theorem State.canonical_takeHomes_iff {x : HomeState} : (s.takeHomes x).canonical ↔ s.canonical := by
  simp [State.takeHomes]

@[simp] theorem State.canonical_emptyRegions {pick : Nat → Bool} (h : s.canonical) : (s.emptyRegions pick).canonical := by
  refine State.canonical_foldl h fun t n ht => State.canonical_foldl ht fun u b hu => ?_
  split
  · refine State.canonical_foldl hu fun v w hv => ?_
    split
    · exact State.canonical_homeToDram _ _ _ _ hv
    · exact hv
  · exact hu

theorem State.canonical_changeHomes {f : State → State} (h : s.canonical) (hf : ∀ t, t.canonical → (f t).canonical) :
    (s.changeHomes f).canonical := by
  unfold State.changeHomes
  simp [hf, h]

@[simp] theorem State.canonical_rehome {ptag : Nat} (h : s.canonical) : (s.rehome ptag).canonical := by
  refine State.canonical_foldl (State.canonical_changeHomes (State.canonical_foldl h fun t n ht => ?_) fun _ ht =>
    ht) fun t n ht => ?_
  · split
    · simp [ht]
    · exact ht
  · simp [ht]

@[simp] theorem Out.canonical_execParcelMapWrite (h : s.canonical) : Out.canonical (execParcelMapWrite s) := by
  unfold execParcelMapWrite
  split <;> simp [h]

@[simp] theorem State.canonical_beginDrain {ptag : Nat} (h : s.canonical) : (s.beginDrain ptag).canonical := by
  unfold State.beginDrain
  dsimp only
  exact State.canonical_foldl (State.canonical_foldl (by simp [h]) fun _ _ ht => by simp [ht]) fun _ _ ht => by simp [ht]

@[simp] theorem State.canonical_drainStep {ptag : Nat} (h : s.canonical) : (s.drainStep ptag).canonical :=
  State.canonical_foldl (by simp [h]) fun _ _ ht => by simp [ht]

@[simp] theorem Out.canonical_execResizeHandover (h : s.canonical) : Out.canonical (execResizeHandover s) := by
  unfold execResizeHandover
  split
  · split
    · simp [h]
    · split <;> simp [h]
  · simp [h]

end

/-! ## The host adapter towards this cube -/

section
variable {s : State}

@[simp] theorem State.canonical_submit_iff {e : Endpoint} {dws : List Word} : (s.submit e dws).canonical ↔ s.canonical := by
  unfold State.submit
  split <;> simp

@[simp] theorem Out.canonical_execDoorbell (h : s.canonical) : Out.canonical (execDoorbell s) := by
  unfold execDoorbell
  split
  · split <;> simp [h]
  · simp [h]

@[simp] theorem State.canonical_sendHold_iff {node ptag fa : Nat} : (s.sendHold node ptag fa).canonical ↔ s.canonical := by
  unfold State.sendHold
  split
  · rfl
  · extract_lets s1
    have hs1 : s1.canonical ↔ s.canonical := by simp [s1]
    exact State.canonical_ite_iff hs1 hs1

@[simp] theorem State.canonical_hostStore_iff {e : Endpoint} {fa : Nat} {bs : List Byte} :
    (s.hostStore e fa bs).canonical ↔ s.canonical := by
  unfold State.hostStore
  extract_lets s1 w first s2
  have hs1 : s1.canonical ↔ s.canonical := by simp [s1]
  clear_value s1
  split
  · split
    · exact State.canonical_ite_iff hs1 hs1
    · exact hs1
  · simp [s2]

@[simp] theorem State.canonical_hostLoadWord_iff {e : Endpoint} {fa n : Nat} :
    (s.hostLoadWord e fa n).canonical ↔ s.canonical := by
  unfold State.hostLoadWord
  split
  · simp
  · exact State.canonical_ite_iff Iff.rfl Iff.rfl
  · rfl

@[simp] theorem State.canonical_refuseHost_iff {e : Endpoint} {fa : Nat} {isWrite : Bool} :
    (s.refuseHost e fa isWrite).canonical ↔ s.canonical := by
  simp [State.refuseHost]

@[simp] theorem Out.canonical_execDmaWindowAccess (h : s.canonical) : Out.canonical (execDmaWindowAccess s) := by
  unfold execDmaWindowAccess
  split
  · split
    · simp [h]
    · split <;> simp [h]
  · simp [h]

@[simp] theorem Out.canonical_execHold (h : s.canonical) : Out.canonical (execHold s) := by
  unfold execHold
  split
  · split <;> simp [h]
  · simp [h]

@[simp] theorem Out.canonical_execHeartbeatSend (h : s.canonical) : Out.canonical (execHeartbeatSend s) := by
  unfold execHeartbeatSend
  split
  · dsimp only
    split
    · exact h
    · exact State.canonical_foldl h fun _ _ ht => State.canonical_of_ite ht ht
  · exact h

@[simp] theorem Out.canonical_execHeartbeat (h : s.canonical) : Out.canonical (execHeartbeat s) := by
  unfold execHeartbeat
  split <;> simp [h]

@[simp] theorem State.canonical_loseChunk {chunk : Nat} (h : s.canonical) : (s.loseChunk chunk).canonical := by
  unfold State.loseChunk
  split
  · exact h
  · exact State.canonical_logError _ _ _ _ (State.canonical_wakeWaiters _ _ _ _ _
      (State.canonical_foldl h fun t k ht => State.canonical_poisonHome _ _ ht))

@[simp] theorem State.canonical_hostDead {node : Nat} (h : s.canonical) : (s.hostDead node).canonical := by
  unfold State.hostDead
  dsimp only
  exact State.canonical_foldl (by simp [h]) fun _ _ ht => by simp [ht]

@[simp] theorem Out.canonical_execHostDeadDeclaration (h : s.canonical) : Out.canonical (execHostDeadDeclaration s) := by
  unfold execHostDeadDeclaration
  split <;> simp [h]

@[simp] theorem Out.canonical_execHostTimeout (h : s.canonical) : Out.canonical (execHostTimeout s) := by
  unfold execHostTimeout
  split <;> simp [h]

end

/-! ## Scalar loads and stores -/

section
variable {s : State}

theorem Exec.Keeps.foundWord {hd : Hint} {pl : Place} {fa : Nat} : (Exec.foundWord hd pl fa).Keeps :=
  .get_bind fun _ h => .ite (.set (by simp [h])) (.ite (.set (by simp [h])) .pure)
theorem Exec.Keeps.askWord {hd : Hint} {p : Exec.Part} : (Exec.askWord hd p).Keeps :=
  .get_bind fun _ h => .ite (.set (by simp [h])) .pure

theorem Exec.Keeps.loadPart {hd : Hint} {dest : Dest} {last : Bool} {p : Exec.Part} : (Exec.loadPart hd dest last p).Keeps := by
  unfold Exec.loadPart
  refine .get_bind fun _ h => ?_
  dsimp only
  split
  · exact .pure
  · split
    · exact .stall
    · exact .bind .foundWord fun _ => .pure
    · exact .ite (.bind (.set (by simp [h])) fun _ => .pure) (.bind .askWord fun _ => .stall)

@[simp] theorem Out.canonical_load {o : LdOps} {n scale : Nat} {dest : Ctx → Dest} {regs : List Nat} (h : s.canonical) :
    Out.canonical (load o n scale dest regs s) := by
  unfold load
  refine Out.canonical_runSeq ?_ h
  refine .bind .need fun _ => .bind .winPriv fun _ => .bind .waitWC fun _ => .bind .afterAcquire fun _ => .bind .ctx fun _ =>
    .bind .access fun _ => .bind .afterSame fun _ => .bind .afterLocal fun _ => .ite ?_ (.bind (.forIn fun _ _ =>
    .bind .loadPart fun _ => .pure) fun _ => .get_bind fun _ _ => .launch)
  dsimp only
  split
  · exact .bind .cleanChunk fun _ => .get_bind fun _ ht => .bind (.set (by simp [ht])) fun _ => .launch
  · exact .pure

@[simp] theorem Out.canonical_loadReg {o : LdOps} {n : Nat} {sg : Bool} (h : s.canonical) : Out.canonical (loadReg o n sg s) := by
  simp [loadReg, h]

theorem Exec.Keeps.storeReq {p : Exec.Part} {bs : List Byte} {order scope relseq : Nat} :
    (Exec.storeReq p bs order scope relseq).Keeps :=
  .get_bind fun _ h => .bind (.set (by simp [h])) fun _ => .pure

theorem Exec.Keeps.sendStores {wait : Bool} {ws : List (WriteReq × Flight)} : (Exec.sendStores wait ws).Keeps := by
  unfold Exec.sendStores
  refine .get_bind fun _ h => ?_
  dsimp only
  split <;> exact .set (by simp [h])

theorem Exec.Keeps.fetchForStore {p : Exec.Part} {hd : Hint} : (Exec.fetchForStore p hd).Keeps :=
  .bind .ctx fun _ => .ite .pure (.bind .askWord fun _ => .stall)

theorem Exec.Keeps.storeWhere {hd : Hint} {sent : Bool} {p : Exec.Part} : (Exec.storeWhere hd sent p).Keeps := by
  unfold Exec.storeWhere
  refine .get_bind fun s h => .when .stall fun _ => .ite (.ite .pure (.bind (.set (by simp [h])) fun _ =>
    .ite .pure (.ite .pure .pure)))
    (.ite (.bind .cleanChunk fun _ => .pure) (.bind (.set (by simp [h])) fun _ => ?_))
  dsimp only
  split
  · exact .ite (.ite .pure .pure) (.ite .pure (.bind .fetchForStore fun _ => .ite .pure .pure))
  · exact .ite .pure (.bind .fetchForStore fun _ => .ite .pure .pure)

theorem Exec.Keeps.storePart {p : Exec.Part} {dst : StoreTo} {bs : List Byte} : (Exec.storePart p dst bs).Keeps := by
  unfold Exec.storePart
  refine .get_bind fun _ h => ?_
  dsimp only
  split
  · exact .bind (.set (by simp [h])) fun _ => .pure
  · exact .bind (.set (by simp [h])) fun _ => .pure
  · exact .bind (.set (by simp [h])) fun _ => .pure
  · exact .bind .storeReq fun _ => .pure
  · exact .pure
  · exact .bind .modCtx fun _ => .pure

@[simp] theorem Out.canonical_store {o : LdOps} {n : Nat} {srcs : List Nat} {data : Ctx → List Byte} (h : s.canonical) :
    Out.canonical (store o n srcs data s) := by
  unfold store
  refine Out.canonical_runSelf (.bind .need fun _ => .bind .winPriv fun _ => .bind .waitWC fun _ => .bind .afterAcquire fun _ =>
    .bind .ctx fun _ => .bind .access fun ps => .bind .afterSame fun _ => .bind .afterLocal fun _ =>
    .ite (.bind .afterStrong fun _ => .when .beforeRelease fun _ => ?_) ?_) h
  · split
    · exact .bind .cleanChunk fun _ => .get_bind fun t ht => .when (.set (by simp [ht])) fun _ =>
        .bind .storeReq fun _ => .bind .sendStores fun _ => .ite (.modify fun _ hu => by simp [hu]) .pure
    · exact .modify fun _ ht => by simp [ht]
  · exact .bind (.forIn fun _ _ => .bind .storeWhere fun _ => .bind .check fun _ => .pure) fun _ =>
      .bind (.forIn fun _ _ => .bind .storePart fun _ => .pure) fun _ => .bind .sendStores fun _ =>
      .ite (.modify fun _ ht => by simp [ht]) .pure

@[simp] theorem Out.canonical_storeReg {o : LdOps} {n : Nat} (h : s.canonical) : Out.canonical (storeReg o n s) := by
  simp [storeReg, h]

@[simp] theorem Out.canonical_fullEmpty {o : LdOps} {op : Nat} {srcs : List Nat} {dest : Nat} (h : s.canonical) :
    Out.canonical (fullEmpty o op srcs dest s) := by
  unfold fullEmpty
  refine Out.canonical_runSelf (.bind .need fun _ => .bind .winPriv fun _ => .bind .waitWC fun _ => .bind .afterAcquire fun _ =>
    .bind .ctx fun _ => .bind .access fun ps => ?_) h
  split
  · exact .bind .check fun _ => .bind .afterSame fun _ => .bind .afterLocal fun _ => .bind .afterStrong fun _ =>
      .when .beforeRelease fun _ => .get_bind fun _ ht => .set (by simp [ht])
  · exact .pure

end

/-! ## Integer instructions -/

section
variable {s : State}

@[simp] theorem Out.canonical_alu {o : AluOps} {f : Word → Word → Word} (h : s.canonical) : Out.canonical (alu o f s) := by
  simp [alu, h]

@[simp] theorem Out.canonical_alu1 {o : Alu1Ops} {f : Word → Word} (h : s.canonical) : Out.canonical (alu1 o f s) := by
  simp [alu1, h]

@[simp] theorem Out.canonical_aluImm {o : ImmOps} {f : Word → Word → Word} (h : s.canonical) : Out.canonical (aluImm o f s) := by
  simp [aluImm, h]

@[simp] theorem Out.canonical_compare3 {a b : Nat} {x : XOp} {f : Word → Word → Bool} (h : s.canonical) :
    Out.canonical (compare3 a b x f s) := by
  simp [compare3, h]

end

/-! ## TENANT_RESET -/

section
variable {s : State}

@[simp] theorem State.canonical_resetStn_iff {n : Nat} : (s.resetStn n).canonical ↔ s.canonical := by simp [State.resetStn]

@[simp] theorem State.canonical_resetVault_iff {t v : Nat} : (s.resetVault t v).canonical ↔ s.canonical := by
  simp [State.resetVault]

@[simp] theorem State.canonical_freed_iff {m : Msg} : (s.freed m).canonical ↔ s.canonical := by
  unfold State.freed
  split
  · simp
  · simp
  · split <;> simp
  · simp

@[simp] theorem State.canonical_sweep_iff {t : Nat} : (s.sweep t).canonical ↔ s.canonical := Iff.rfl

@[simp] theorem Out.canonical_execTenantReset (h : s.canonical) : Out.canonical (execTenantReset s) := by
  unfold execTenantReset
  split
  · split
    · exact h
    · extract_lets mine gone ns s0 s1 s2 s3
      have hs0 : s0.canonical := State.canonical_foldl h fun t n ht => State.canonical_foldl ht fun u l hu => by
        split
        · simp [hu]
        · exact hu
      have hs1 : s1.canonical := State.canonical_foldl hs0 fun t n ht => by simp [ht]
      have hs2 : s2.canonical := State.canonical_foldl hs1 fun t v ht => by simp [ht]
      have hs3 : s3.canonical := State.canonical_foldl hs2 fun t n ht => by simp [ht]
      clear_value s3
      simp [hs3]
  · exact h

end

/-! ## Tile tasks -/

section
variable {s : State}

@[simp] theorem Out.canonical_execTtask {o : EngOps} (h : s.canonical) : Out.canonical (execTtask o s) :=
  Out.canonical_runSeq (.underGuard (.bind .afterAcquire fun _ => .bind .ctx fun _ => .bind .check fun _ =>
    .bind .readIn fun _ => .get_bind fun _ ht => .bind .check fun _ => .bind .wait fun _ => .set (by simp [ht]))) h

@[simp] theorem State.canonical_wantDispatch_iff {ptag : Nat} : (s.wantDispatch ptag).canonical ↔ s.canonical := by
  simp [State.wantDispatch]

@[simp] theorem Out.canonical_execTileTaskRecord (h : s.canonical) : Out.canonical (execTileTaskRecord s) := by
  unfold execTileTaskRecord
  split
  · split <;> simp [h]
  · simp [h]

@[simp] theorem State.canonical_dropTile_iff {t : TileTask} : (s.dropTile t).canonical ↔ s.canonical := Iff.rfl

@[simp] theorem State.canonical_tileDone_iff {stn : Nat} {t : TileTask} {broken : Bool} :
    (s.tileDone stn t broken).canonical ↔ s.canonical := by
  simp [State.tileDone]

@[simp] theorem Out.canonical_execTileTaskDispatch (h : s.canonical) : Out.canonical (execTileTaskDispatch s) := by
  unfold execTileTaskDispatch
  split
  · split
    · simp [h]
    · dsimp only
      split <;> simp [h]
  · simp [h]

end

/-! ## Power, start-up and background work -/

section
variable {s : State}

@[simp] theorem State.canonical_modPlat_iff {f : Platform → Platform} : (s.modPlat f).canonical ↔ s.canonical := Iff.rfl

@[simp] theorem Out.canonical_execPcapWrite (h : s.canonical) : Out.canonical (execPcapWrite s) := by
  unfold execPcapWrite
  split <;> simp [h]

@[simp] theorem Out.canonical_execMonitorControlWrite (h : s.canonical) : Out.canonical (execMonitorControlWrite s) := by
  unfold execMonitorControlWrite
  split <;> simp [h]

@[simp] theorem Out.canonical_execErrorCounterClear (h : s.canonical) : Out.canonical (execErrorCounterClear s) := by
  unfold execErrorCounterClear
  split <;> simp [h]

@[simp] theorem Out.canonical_execMonitorSample (h : s.canonical) : Out.canonical (execMonitorSample s) := by
  unfold execMonitorSample
  split
  · dsimp only
    split <;> simp [h]
  · simp [h]

@[simp] theorem Out.canonical_execThermalReading (h : s.canonical) : Out.canonical (execThermalReading s) := by
  unfold execThermalReading
  split
  · split
    · exact h
    · extract_lets s1 hot s2
      have hs1 : s1.canonical := h
      have hs2 : s2.canonical := h
      clear_value s1 s2
      simp [hs1, hs2]
  · exact h

@[simp] theorem Out.canonical_execGovernorMeasurement (h : s.canonical) : Out.canonical (execGovernorMeasurement s) := by
  unfold execGovernorMeasurement
  split <;> simp [h]

@[simp] theorem Out.canonical_execPowerGood (h : s.canonical) : Out.canonical (execPowerGood s) := by
  unfold execPowerGood
  split
  · extract_lets src s1 s2 s3 s4 s5
    have hs1 : s1.canonical := State.canonical_reset
    clear_value s1
    have hs2 : s2.canonical := State.canonical_foldl hs1 fun t n ht => by simp [ht]
    clear_value s2
    have hs3 : s3.canonical := State.canonical_foldl hs2 fun t v ht => by simp [ht]
    clear_value s3
    have hs4 : s4.canonical := State.canonical_foldl hs3 fun t n ht => by simp [ht]
    clear_value s4
    have hs5 : s5.canonical := State.canonical_foldl hs4 fun t v ht => by
      split <;> simp [ht]
    clear_value s5
    simp [hs5]
  · exact h

@[simp] theorem Out.canonical_execDatumSet (h : s.canonical) : Out.canonical (execDatumSet s) := by
  unfold execDatumSet
  split <;> simp [h]

@[simp] theorem Out.canonical_execRouterImageVerify (h : s.canonical) : Out.canonical (execRouterImageVerify s) := by
  unfold execRouterImageVerify
  split <;> simp [h]

@[simp] theorem State.canonical_release {n : Nat} {img : Image} (h : s.canonical) : (s.release n img).canonical := by
  simp [State.release, h]

@[simp] theorem Out.canonical_execStationBoot (h : s.canonical) : Out.canonical (execStationBoot s) := by
  unfold execStationBoot
  split <;> simp [h]

@[simp] theorem Out.canonical_execRefresh (h : s.canonical) : Out.canonical (execRefresh s) := by
  unfold execRefresh
  split <;> simp [h]

@[simp] theorem State.canonical_refreshRow_iff {v b row : Nat} : (s.refreshRow v b row).canonical ↔ s.canonical := Iff.rfl

@[simp] theorem Out.canonical_execTargetedRefresh (h : s.canonical) : Out.canonical (execTargetedRefresh s) := by
  unfold execTargetedRefresh
  split <;> simp [h]

@[simp] theorem State.canonical_scrub {fa verdict : Nat} (h : s.canonical) : (s.scrub fa verdict).canonical := by
  unfold State.scrub
  split
  · exact h
  · split
    · exact h
    · split
      · simp [h]
      · split
        · obtain ⟨hm, hp, hf⟩ := h
          simp [hm, NSet.add_wf _ hp, hf]
        · exact h

@[simp] theorem State.canonical_sramBad {stn fa : Nat} {corrected : Bool} (h : s.canonical) :
    (s.sramBad stn fa corrected).canonical := by
  unfold State.sramBad
  split
  · simp [h]
  · split
    · obtain ⟨hm, hp, hf⟩ := h
      simp [hm, NSet.add_wf _ hp, hf]
    · split <;> simp [h]

@[simp] theorem Out.canonical_execPatrolScrub (h : s.canonical) : Out.canonical (execPatrolScrub s) := by
  unfold execPatrolScrub
  split <;> simp [h]

@[simp] theorem State.canonical_setRate_iff {ppm : Int} : (s.setRate ppm).canonical ↔ s.canonical := Iff.rfl

@[simp] theorem Out.canonical_execDatumSynchronisation (h : s.canonical) : Out.canonical (execDatumSynchronisation s) := by
  unfold execDatumSynchronisation
  split
  · simp [h]
  · exact State.canonical_foldl h fun _ _ ht => State.canonical_of_ite ht ht
  · exact h

@[simp] theorem State.canonical_surveyWrite_iff {node ptag tenant fa : Nat} {bs : List Byte} :
    (s.surveyWrite node ptag tenant fa bs).2.canonical ↔ s.canonical :=
  Iff.rfl

@[simp] theorem Out.canonical_execSurvey (h : s.canonical) : Out.canonical (execSurvey s) := by
  unfold execSurvey
  split <;> simp [h]

end

/-! ## Vector loads, stores, gathers and scatters -/

section
variable {s : State}

theorem Exec.Keeps.attempt {α : Type} {m : Exec α} (hm : m.Keeps) : (Exec.attempt m).Keeps := by
  intro s h
  have hs := hm s h
  unfold Exec.after at hs
  unfold Exec.after Exec.attempt
  revert hs
  cases m s with
  | ok a t => exact id
  | error e t => cases e <;> exact id

theorem Exec.Keeps.formElems {parts : Nat} {ea : Nat → Nat → Nat} {check : Nat → Exec Nat} {ps : List Nat}
    (hc : ∀ a, (check a).Keeps) : (Exec.formElems parts ea check ps).Keeps := by
  induction ps with
  | nil => exact .pure
  | cons p ps ih =>
    refine .bind (.attempt (.mapM fun j => .bind (hc _) fun _ => .pure)) fun r => ?_
    split
    · exact .bind ih fun _ => .pure
    · exact .pure
    · exact .stall

theorem Exec.Keeps.elemFa {win : Win} {need : Need} {bytes ea : Nat} : (Exec.elemFa win need bytes ea).Keeps :=
  .bind .check fun _ => .bind .faOf fun _ => .bind .home fun _ => .pure

theorem Out.canonical_issueMem {i : Instr} {q : VMQ} {w parts : Nat} {srcs : List Nat} {indexed : Bool}
    {ea : State → Nat → Nat → Nat} {check : Nat → Exec Nat} (hc : ∀ a, (check a).Keeps) (h : s.canonical) :
    Out.canonical (issueMem i q w parts srcs indexed ea check s) := by
  unfold issueMem
  refine Out.canonical_runSeq (.bind .need fun _ => .bind .waitWC fun _ => .bind .afterAcquire fun _ => .when .drained fun _ =>
    .get_bind fun s hs => .ite .pure (.bind (.formElems hc) fun r => .bind .ctx fun _ => .bind .wait fun _ =>
      .get_bind fun t ht =>
    .bind (.set (by simp [ht])) fun _ => ?_)) h
  dsimp only
  split
  · exact .enqueue
  · exact .bind .wait fun _ => .when .enqueue fun _ => .bind .modCtx fun _ => .trap

@[simp] theorem Out.canonical_issueHandle {i : Instr} {o : VMOps} {consumer : Bool} (h : s.canonical) :
    Out.canonical (issueHandle i o consumer s) := by
  unfold issueHandle
  extract_lets c b
  by_cases ho : (xRegs o.c).any c.owed
  · simp [ho, h]
  · rw [if_neg ho]
    by_cases hv : !(Map.get {} s.here.handles o.b).valid
    · rw [if_pos hv]
      split <;> exact h
    · rw [if_neg hv]
      exact Out.canonical_issueMem (fun _ => .bind .home fun _ => .pure) h

theorem Exec.Keeps.vecWord {hd : Hint} {fa ea : Nat} : (Exec.vecWord hd fa ea).Keeps := by
  unfold Exec.vecWord
  refine .get_bind fun _ h => .ite .pure <| ?_
  split
  · exact .pure
  · split
    · exact .pure
    · exact .bind .foundWord fun _ => .pure
    · split
      · exact .pure
      · exact .when (.set (by simp [h])) fun _ => .pure

theorem Exec.Keeps.vecWords {hd : Hint} {xs : List (Nat × Nat × Nat)} : (Exec.vecWords hd xs).Keeps := by
  induction xs generalizing hd with
  | nil => exact .pure
  | cons _ _ ih => exact .bind .vecWord fun _ => .bind ih fun _ => .pure

theorem Exec.Keeps.vecLoadDone {w a : Nat} {zero : Bool} {e : VEntry} {ws : List (Nat × BlockWord × Bool)} :
    (Exec.vecLoadDone w a zero e ws).Keeps :=
  .get_bind fun _ h => .set (by simp [h])

theorem Exec.Keeps.vecPut {num : Nat} {hd : Hint} {fa ea : Nat} {bs : List Byte} : (Exec.vecPut num hd fa ea bs).Keeps := by
  unfold Exec.vecPut
  refine .get_bind fun _ _ => .ite .pure <| ?_
  split
  · exact .pure
  · refine .bind (.attempt .storeWhere) fun _ => ?_
    dsimp only
    split
    · exact .pure
    · exact .bind .modCtx fun _ => .pure
    · exact .bind .modCtx fun _ => .pure
    · refine .bind .storePart fun _ => ?_
      split
      · exact .bind .sendStores fun _ => .bind .modCtx fun _ => .pure
      · exact .pure

theorem Exec.Keeps.vecPutAll {num : Nat} {hd : Hint} {w : Nat} {val : Nat → Nat} {xs : List (Nat × Nat × Nat)} :
    (Exec.vecPutAll num hd w val xs).Keeps := by
  induction xs generalizing num hd w with
  | nil => exact .pure
  | cons _ _ ih => exact .bind .vecPut fun _ => .ite ih .pure

theorem Exec.Keeps.vecStore {num : Nat} {hd : Hint} {w : Nat} {val : Nat → Nat} {elems : List (Nat × Nat × Nat)} {xs : List Nat} :
    (Exec.vecStore num hd w val elems xs).Keeps := by
  induction xs generalizing num hd w elems with
  | nil => exact .pure
  | cons _ _ ih => exact .bind (.ite (.bind .vecPut fun _ => .pure) .vecPutAll) fun _ => .bind ih fun _ => .pure

theorem Exec.Keeps.vecAdd {num : Nat} {val : Nat → Nat} {elems : List (Nat × Nat × Nat)} : (Exec.vecAdd num val elems).Keeps := by
  unfold Exec.vecAdd
  split
  · exact .pure
  · refine .get_bind fun _ _ => .ite .pure <| ?_
    split
    · exact .pure
    · refine .bind (.attempt .cleanChunk) fun _ => ?_
      split
      · exact .pure
      · exact .get_bind fun _ ht => .bind (.set (by simp [ht])) fun _ => .bind .launch fun _ => .pure

theorem Exec.Keeps.vecMemTurn {k : MemKind} {e : VEntry} : (Exec.vecMemTurn k e).Keeps := by
  unfold Exec.vecMemTurn
  split
  · exact .bind .vecWords fun _ => .ite .pure (.bind .vecLoadDone fun _ => .bind (.modify fun _ h => by simp [h]) fun _ => .pure)
  · exact .bind .ctx fun _ => .bind .vecStore fun _ => .pure
  · exact .bind .ctx fun _ => .bind .vecAdd fun _ => .pure

@[simp] theorem State.canonical_vecMem {k : MemKind} {e : VEntry} (h : s.canonical) : (s.vecMem k e).2.canonical := by
  unfold State.vecMem
  extract_lets old s1 src s0 back
  have hs0 : s0.canonical := h
  have hback : ∀ t, (back t).canonical ↔ t.canonical := fun _ => Iff.rfl
  clear_value s0 back
  split <;> rename_i e'
  · exact (hback _).2 (Exec.Keeps.vecMemTurn.of_ok e' hs0)
  · exact (hback _).2 (Exec.Keeps.vecMemTurn.of_ok e' hs0)
  · exact (hback _).2 (Exec.Keeps.vecMemTurn.of_error e' hs0)

@[simp] theorem State.canonical_dropHead_iff {stn core : Nat} : (s.dropHead stn core).canonical ↔ s.canonical := by
  simp [State.dropHead]

@[simp] theorem State.canonical_vecEffect_iff {e : VEntry} : (s.vecEffect e).canonical ↔ s.canonical := by
  unfold State.vecEffect
  split
  · dsimp only
    split <;> simp
  · simp

@[simp] theorem State.canonical_vecDiscard_iff {e : VEntry} : (s.vecDiscard e).canonical ↔ s.canonical := by
  simp [State.vecDiscard]

@[simp] theorem State.canonical_passHeads_iff {stn core k : Nat} : (s.passHeads stn core k).canonical ↔ s.canonical := by
  induction k generalizing s stn core with
  | zero =>
    unfold State.passHeads
    simp
  | succ _ ih =>
    unfold State.passHeads
    split
    · simp
    · split
      · simp
      · simp [ih]
      · simp [ih]

@[simp] theorem State.canonical_runPipe {stn : Nat} (h : s.canonical) : (s.runPipe stn).canonical := by
  refine State.canonical_foldl h fun t e0 ht => ?_
  split
  · exact ht
  · split
    · exact ht
    · split
      · exact ht
      · split <;> rename_i e <;> have hu := State.canonical_snd e (State.canonical_vecMem ht) <;> exact hu

@[simp] theorem State.canonical_bindPass_iff {stn free : Nat} {done : List Nat} {starved : Bool} {xs : List Nat} :
    (s.bindPass stn free done starved xs).1.canonical ↔ s.canonical := by
  induction xs generalizing s stn free done starved with
  | nil =>
    unfold State.bindPass
    simp
  | cons _ _ ih =>
    unfold State.bindPass
    split <;> simp [ih]

@[simp] theorem State.canonical_topUp_iff {stn : Nat} : (s.topUp stn).canonical ↔ s.canonical :=
  State.canonical_foldl_iff (fun t c => by split <;> simp) _ s

@[simp] theorem State.canonical_arbitrate {stn : Nat} (h : s.canonical) : (s.arbitrate stn).canonical := by
  simp [State.arbitrate, h]

@[simp] theorem Out.canonical_execLaneGroupArbitration (h : s.canonical) : Out.canonical (execLaneGroupArbitration s) := by
  unfold execLaneGroupArbitration
  split <;> simp [h]

end

/-! ## Every instruction and event -/

section
variable {s : State}

/-- The instructions: each of them is one of the `exec…` functions above, or answers an outcome with no state. -/
@[simp] theorem Out.canonical_exec {i : Instr} (h : s.canonical) : Out.canonical (exec i s) := by
  unfold exec
  cases i with
  | add | sub | and | or | xor | sll | srl | sra | mul | mulh | div | rem | min | max => exact Out.canonical_alu h
  | clz | ctz | popc | ext => exact Out.canonical_alu1 h
  | addi | andi | ori | xori | slli | srli | srai | muli => exact Out.canonical_aluImm h
  | movi | movh | sel | lea | adpc => exact Out.canonical_scalar h
  | beq | bne | blt | bge | bltN64 | bgeN64 => exact Out.canonical_branch h
  | jmp | call => exact Out.canonical_scalarTo h
  | jr | callr | ret => exact Out.canonical_jumpReg h
  | ldN8 | ldN16 | ldN32 | ld | ldI8 | ldI16 | ldI32 => exact Out.canonical_loadReg h
  | ldp => exact Out.canonical_load h
  | ldw | ldwe | stw | stf | feclr => exact Out.canonical_fullEmpty h
  | stN8 | stN16 | stN32 | st => exact Out.canonical_storeReg h
  | stp => exact Out.canonical_store h
  | aadd | aand | aor | axor | aminI | aminN | amaxI | amaxN | aswap | acas | aaddt | afaddF32 | afmaxnF32 => exact Out.canonical_atomicOp h
  | waitEq | waitNe | waitGe | waitLt => exact Out.canonical_waitOp h
  | flushr | invr => exact Out.canonical_rangeOp h
  | fadd | fsub | fmul | fdiv => exact Out.canonical_float2 h
  | fmin | fmax | fminn | fmaxn => exact Out.canonical_floatMinMax h
  | fcvt => exact Out.canonical_scalarF h
  | seq | sne | sltI | sltN | sleI | sleN => exact Out.canonical_compare3 h
  | gset | gsetz => exact Out.canonical_gset h
  | feq | flt | fle | fun_ => exact Out.canonical_floatCmp h
  | vadd | vsub | vmul | vdiv | vsqrt | vmin | vmax | vminn | vmaxn | vneg | vabs | vsgn | vfma | vfms | vfnma | vfnms | vfeq
  | vfne | vflt | vfle | vfun | vexp2 | vlog2 | vrcp | vrsqrt | vsin | vcos | vtanh | vsigm | verf | vexp => exact Out.canonical_issueVF h
  | viadd | visub | vimul | vimulh | vimin | vimax | viabs => exact Out.canonical_issueVI h
  | vand | vor | vxor | vandn | vsll | vsrl | vsra => exact Out.canonical_issueVL h
  | vieq | vine | vilt | vile => exact Out.canonical_issueVC h
  | kand | kor | kxor | kandn | knot | vsel | vperm | vcompr | vexpnd => exact Out.canonical_issueVR h
  | vcvt | vinsr => exact Out.canonical_issueVec h
  | vq8E4m3 | vq8E5m2 | vq4 | vdq4 => exact Out.canonical_issueVQ h
  | vrsum | vrmax | vrmin | vrmaxn | vrminn | vramax | vriand | vrior | vrixor | vscan => exact Out.canonical_issueVRed h
  | vrotl | vbcast => exact Out.canonical_issueVX h
  | vld | vlds | vst | vsts | vgth | vsct | vscadd => exact Out.canonical_issueMem (fun _ => .elemFa) h
  | vldConsumer | vldProducer | vstConsumer | vstProducer => exact Out.canonical_issueHandle h
  | hwaitf | hwaite => exact Out.canonical_handleWait h
  | mma | mtrav | mmasd => exact Out.canonical_mmaInstr h
  | mst | mld => exact Out.canonical_accInstr h
  | clred | clmcast => exact Out.canonical_collInstr h
  | pin | unpin => exact Out.canonical_setPin h
  | vl | budget | deadln | tflags => exact Out.canonical_csrStep h
  | fflags | ftrapen | rndseed => exact Out.canonical_csrStepFloat h
  | _ => simp [h]

end

/-! ## One step -/

section
variable {s : State}

@[simp] theorem Out.canonical_runMsg {m : Msg} (h : s.canonical) : Out.canonical (runMsg m s) := by
  unfold runMsg
  split <;> simp [h]

theorem Out.canonical_runTaken {r : Option (Msg × State)} (h : s.canonical) (hr : ∀ m t, r = some (m, t) → t.canonical) :
    Out.canonical (runTaken r s) := by
  unfold runTaken
  split
  · exact h
  · exact Out.canonical_runMsg (hr _ _ rfl)

@[simp] theorem Out.canonical_ctxTurn {l : Loc} (h : s.canonical) : Out.canonical (ctxTurn l s) := by
  unfold ctxTurn
  extract_lets src s0
  have hs0 : s0.canonical := h
  clear_value s0
  split
  · exact hs0
  · split
    · simp [hs0]
    · split
      · exact hs0
      · split
        · simp [hs0]
        · split <;> rename_i e
          · exact State.canonical_of_fetch_error e hs0
          · exact Out.canonical_exec (State.canonical_of_fetch_ok e hs0)

@[simp] theorem Out.canonical_bankTurn {v b : Nat} (h : s.canonical) : Out.canonical (bankTurn v b s) := by
  unfold bankTurn
  split <;> simp [h]

@[simp] theorem Out.canonical_takeTurn {w : Who} (h : s.canonical) : Out.canonical (takeTurn w s) := by
  unfold takeTurn
  split
  · trivial
  · split
    · exact Out.canonical_ctxTurn h
    · exact Out.canonical_runMsg h
    · exact Out.canonical_runTaken h fun _ _ e => State.canonical_of_takeNet e h
    · exact Out.canonical_runTaken h fun _ _ e => State.canonical_of_takeTimer e h
    · split
      · exact h
      · exact Out.canonical_runMsg h
    · exact Out.canonical_bankTurn h
    · exact Out.canonical_runMsg h

@[simp] theorem State.canonical_tick_iff {ticks : Nat} : (s.tick ticks).canonical ↔ s.canonical := by simp [State.tick]

/-- A step is a tick, which leaves storage alone, and then one participant's turn. -/
theorem Out.canonical_step (h : s.canonical) : Out.canonical (step s) := by
  unfold step
  split
  · exact Out.canonical_takeTurn (State.canonical_tick_iff.2 h)
  · exact Out.canonical_takeTurn (State.canonical_tick_iff.2 h)

end

/-- Settles O60: an outcome of a step that starts from canonical storage holds canonical storage, by the meaning of each instruction
and event. -/
theorem stepKeepsCanonical : Obligations.StepKeepsCanonical := by
  intro s t h e
  have hs := Out.canonical_step h
  rwa [e] at hs

end Sys2Proof.Machine
end

section
/-! SUPPORT. What stays the same while messages are sent, numbers drawn and stations change. -/

namespace Sys2Proof.Machine

/-- A state without its stations, its messages, and what is noted about them. -/
def State.frame (s : State) : State := { s with stations := [], net := [], after := [], plat := {}, counts := {} }

section
variable {s t : State} {l : Loc}

theorem State.ctxs_of_frame (h : t.frame = s.frame) : t.ctxs = s.ctxs := (congrArg State.ctxs h :)
theorem State.ctx_of_frame (h : t.frame = s.frame) (m : Loc) : t.ctx m = s.ctx m := by rw [State.ctx, State.ctxs_of_frame h]; rfl
theorem State.c3_of_frame (h : t.frame = s.frame) : t.c3 = s.c3 := (congrArg State.c3 h :)
theorem State.hand_of_frame (h : t.frame = s.frame) : t.hand = s.hand := (congrArg State.hand h :)
theorem State.cube_of_frame (h : t.frame = s.frame) : t.cube = s.cube := (congrArg State.cube h :)
theorem State.datum_of_frame (h : t.frame = s.frame) : t.datum = s.datum := (congrArg State.datum h :)
theorem State.mem_of_frame (h : t.frame = s.frame) : t.mem = s.mem := (congrArg State.mem h :)

theorem SameStorage.of_eq (hm : t.mem = s.mem) (hp : t.poison = s.poison) (hf : t.full = s.full) : SameStorage s t :=
  ⟨fun a => by rw [State.byte, hm]; rfl, hp, hf⟩

theorem SameContextsBut.modCtx (f : Ctx → Ctx) : SameContextsBut l s (s.modCtx l f) := fun _ h => State.ctx_modCtx_ne s f h
theorem SameContextsBut.trans {u : State} (h : SameContextsBut l s t) (h' : SameContextsBut l t u) : SameContextsBut l s u :=
  fun m hm => (h' m hm).trans (h m hm)

end

section
variable (s : State) (n k : Nat)

@[simp] theorem State.frame_modSlice (f : Slice → Slice) : (s.modSlice n f).frame = s.frame := rfl
@[simp] theorem State.frame_countError (i : Nat) : (s.countError i n).frame = s.frame := rfl
@[simp] theorem State.frame_sendSeq (ms : List Msg) : (s.sendSeq ms).frame = s.frame := by
  unfold State.sendSeq
  split
  · rfl
  · dsimp only
    split <;> rfl

@[simp] theorem State.stn_modSched_self (f : Sched → Sched) : (s.modSched n f).stn n = { s.stn n with sched := f (s.stn n).sched } := by
  simp [State.modSched]
@[simp] theorem State.stn_modSlice_self (f : Slice → Slice) : (s.modSlice n f).stn n = { s.stn n with slice := f (s.stn n).slice } := by
  simp [State.modSlice]
@[simp] theorem State.stn_modEng_self (f : Engines → Engines) : (s.modEng n f).stn n = { s.stn n with eng := f (s.stn n).eng } := by
  simp [State.modEng]
@[simp] theorem State.ctx_modSched (f : Sched → Sched) (l : Loc) : (s.modSched n f).ctx l = s.ctx l := rfl

theorem State.stn_modHome (f : Home → Home) : ∃ h, (s.modHome n f).stn k = { s.stn k with home := h } := by
  by_cases hk : k = n
  · subst hk
    exact ⟨_, by rw [State.modHome, State.stn_modStn_self]⟩
  · exact ⟨(s.stn k).home, by rw [State.modHome, State.stn_modStn_ne s _ hk]⟩

end

end Sys2Proof.Machine
end

section
/-! SUPPORT. Traps that arrive from outside an instruction (O40). -/

namespace Sys2Proof.Machine

section
variable {s t : State} {l : Loc}

@[simp] theorem State.ctx_enterTrap_self (s : State) (l : Loc) (cause : Nat) (addr : Word) (tpc iwords : Nat) :
    (s.enterTrap l cause addr tpc iwords).ctx l = (s.ctx l).enter cause addr tpc iwords (s.stn l.stn).kernel.tvec := by
  simp [State.enterTrap]

/-- A trap that arrives changes its context alone. -/
theorem SameContextsBut.enterTrap {cause : Nat} {addr : Word} {tpc iwords : Nat} (h : SameContextsBut l s t) :
    SameContextsBut l s (t.enterTrap l cause addr tpc iwords) := h.trans (.modCtx _)

theorem execBudgetTrap_user (hm : s.hand.msg = .budgetTrap l) (hu : (s.ctx l).sup = false) (hb : (s.ctx l).flow.bpend = true) :
    execBudgetTrap s = .next ((s.modCtx l (fun c => { c with flow := { c.flow with bpend := false } })).enterTrap l causeBUDGET 0
      (s.ctx l).pc 0) := by
  simp [execBudgetTrap, hm, hu, hb]

theorem execPoisonReport_user {a : Nat} {w : Word} (hm : s.hand.msg = .poisonReport l a) (hu : (s.ctx l).sup = false)
    (hp : (s.ctx l).flow.ppend = some w) :
    execPoisonReport s = .next ((s.modCtx l (fun c => { c with flow := { c.flow with ppend := none } })).enterTrap l causePOISON (w64 a)
      (s.ctx l).pc 0) := by
  simp [execPoisonReport, hm, hu, hp]

theorem execPreemptRaised_empty {n a : Nat} (hm : s.hand.msg = .preemptRaised n) (hk : (s.stn n).kernel.raise = some a)
    (hp : (s.stn n).sched.preempted = true) (ht : s.anyTask n = false) (hr : (s.stn n).sched.ready = [])
    (hb : (s.ctx ⟨n, 0, 0⟩).busy = false) :
    execPreemptRaised s = .next ((s.modStn n (fun t => { t with kernel := { t.kernel with raise := none } })).enterTrap ⟨n, 0, 0⟩
      causePREEMPT (w64 a) 0 0) := by
  simp [execPreemptRaised, hm, hk, hp, ht, hr, hb]

end

/-- Settles O40: each arm is a change of what was pending followed by the entry of a trap, which `Ctx.enter` describes. -/
theorem arrivingTraps : Obligations.ArrivingTraps := by
  intro l a m s c
  refine ⟨fun hm hu hb => ?_, fun hm hu hp => ?_, fun hm hk hp ht hr hb => ?_⟩
  · refine ⟨_, execBudgetTrap_user hm hu hb, (SameContextsBut.modCtx _).enterTrap, .of_eq rfl rfl rfl, ?_⟩
    simp [Ctx.enter, c]
  · refine ⟨_, execPoisonReport_user hm hu hp, (SameContextsBut.modCtx _).enterTrap, .of_eq rfl rfl rfl, ?_⟩
    simp [Ctx.enter, c, w64]
  · exact ⟨_, execPreemptRaised_empty hm hk hp ht hr hb, SameContextsBut.enterTrap fun _ _ => rfl, .of_eq rfl rfl rfl, by
      simp [Ctx.enter, w64]⟩

end Sys2Proof.Machine
end

section
/-! SUPPORT. Selection that waits (O38). -/

namespace Sys2Proof.Machine

/-- A selection leaves everything alone while the save area of the record that it would take is still being written. -/
theorem execSelection_of_storing {m l : Loc} {r : RecEntry} {s : State} (hm : s.hand.msg = .selection m)
    (hl : s.freeCtx m.stn = some l) (hr : firstRec ((s.stn m.stn).sched.ready.filter (fun r => r.heldFor.isNone)) = some r)
    (hf : r.body.frame ≠ 0) (hw : s.storing (r.body.frame + 16) = true) : execSelection s = .next s := by
  simp [execSelection, hm, hl, hr, hf, hw]

/-- A late record that discards late. Its save area lies on another cube. -/
def lateFarRecord : RecEntry :=
  { body := { pc := 0x1000, latedrop := true, deadline := 4, frame := vaultFa 1 0x4000 }, tid := 7, ptag := 5, reply := 0, key := 4
    arr := 0, slot := 0, sig := none, heldFor := none, resume := .again }

/-- The record in the ready store of a released station, while a result's entry is still on its way to the save area: the strong store
of the counts in its head (R27) has not been performed. -/
def lateWhileStoring : State :=
  { datum := 5
    stations := [(0, { boot := .released, sched := { ready := [lateFarRecord] } })]
    net := [.write ⟨1, .cube, 0, vaultFa 1 0x4010, vaultFa 1 0x4010, bytesOf 16 (2 ^ 16), [], 1, 3, 0, 0, 0, 5⟩]
    hand := { msg := .selection ⟨0, 0, 0⟩ } }

theorem execSelection_lateWhileStoring : execSelection lateWhileStoring = .next lateWhileStoring :=
  execSelection_of_storing (m := ⟨0, 0, 0⟩) (l := ⟨0, 0, 0⟩) (r := lateFarRecord) rfl (by decide) (by decide) (by decide) (by decide)

/-- Refutes O38: a late record with a save area, part of which a store of the cube's own still has to write, is not retired by a
selection but waits in the ready store. -/
theorem not_taskLife : ¬ Obligations.TaskLife := by
  intro h
  obtain ⟨-, -, hsel, -⟩ := h
  obtain ⟨-, hlate⟩ := hsel ⟨0, 0, 0⟩ ⟨0, 0, 0⟩ lateFarRecord lateWhileStoring rfl rfl (by decide) (by decide) (by decide) (by decide)
    (by decide) (by decide)
  obtain ⟨t, ht, -, hgone⟩ := hlate (by decide) rfl rfl rfl
  have hst : execSelection lateWhileStoring = .next t := ht
  rw [execSelection_lateWhileStoring, Host.Outcome.next.injEq] at hst
  subst hst
  exact hgone lateFarRecord (by decide) rfl

end Sys2Proof.Machine
end

section
/-! SUPPORT. What arrives at a station's scheduler (O39). -/

namespace Sys2Proof.Machine

/-! ## The ready store -/

/-- A station whose ready store and spill hold other records, in other slots. -/
def Station.stocked (t : Station) (ready spilled : List RecEntry) (slots : NSet) : Station :=
  { t with sched := { t.sched with ready := ready, spilled := spilled, slots := slots } }

section
variable (s : State) (n : Nat) (r : RecEntry) (l : Loc)

@[simp] theorem State.stn_putImage (k : Nat) : (s.putImage n r).stn k = s.stn k := by simp [State.putImage, State.stn]
@[simp] theorem State.putImage_ctxs : (s.putImage n r).ctxs = s.ctxs := by simp [State.putImage]
@[simp] theorem State.addReady_ctxs : (s.addReady n r).ctxs = s.ctxs := by simp [State.addReady]
@[simp] theorem State.addSpill_ctxs : (s.addSpill n r).ctxs = s.ctxs := by simp [State.addSpill]
@[simp] theorem State.dropRecord_ctxs : (s.dropRecord n r).ctxs = s.ctxs := by simp [State.dropRecord]

theorem State.stn_addReady : let c := (s.stn n).sched
    (s.addReady n r).stn n = (s.stn n).stocked (c.ready ++ [r]) c.spilled (c.slots.add r.slot) := by
  simp [State.addReady, Station.stocked]
theorem State.stn_addSpill : let c := (s.stn n).sched
    (s.addSpill n r).stn n = (s.stn n).stocked c.ready (c.spilled ++ [r]) c.slots := by
  simp [State.addSpill, Station.stocked]
theorem State.stn_dropRecord : let c := (s.stn n).sched
    (s.dropRecord n r).stn n = (s.stn n).stocked (c.ready.filter (fun x => x.tid != r.tid)) (c.spilled.filter (fun x => x.tid != r.tid))
      (if c.ready.any (fun x => x.tid == r.tid) then c.slots.del r.slot else c.slots) := by
  simp [State.dropRecord, Station.stocked]

/-- A record that enters a ready store is in it, under some slot, or in its spill; nothing else of the station changes (R234). -/
theorem State.stn_insertAs : ∃ ready spilled slots k, (s.insertAs n r).stn n = (s.stn n).stocked ready spilled slots ∧
    { r with slot := k } ∈ ready ++ spilled := by
  unfold State.insertAs
  dsimp only
  split
  · next k _ _ => exact ⟨_, _, _, k, State.stn_addReady .., by simp⟩
  · next k f _ _ =>
    split
    · exact ⟨_, _, _, k, State.stn_addReady .., by simp⟩
    · split
      · exact ⟨_, _, _, r.slot, State.stn_addSpill .., by simp⟩
      · exact ⟨_, _, _, r.slot, by rw [State.stn_addSpill, State.stn_addReady, State.stn_dropRecord]; rfl, by simp⟩
  · next x _ _ =>
    split
    · exact ⟨_, _, _, x.slot, by rw [State.stn_addReady, State.stn_addSpill, State.stn_dropRecord]; rfl, by simp [Station.stocked]⟩
    · exact ⟨_, _, _, r.slot, State.stn_addSpill .., by simp⟩
  · exact ⟨_, _, _, r.slot, State.stn_addSpill .., by simp⟩

@[simp] theorem State.ctxs_insertAs : (s.insertAs n r).ctxs = s.ctxs := by
  unfold State.insertAs
  dsimp only
  repeat' split
  all_goals simp
@[simp] theorem State.ctx_insertAs : (s.insertAs n r).ctx l = s.ctx l := by simp [State.ctx]
@[simp] theorem State.ctx_insertReady : (s.insertReady n r).ctx l = s.ctx l := by simp [State.insertReady]

/-- The same of one that enters with a new key and arrival order (R19, R235). -/
theorem State.stn_insertReady : ∃ c x, (s.insertReady n r).stn n = { s.stn n with sched := c } ∧ x ∈ c.ready ++ c.spilled ∧
    x = { r with key := s.keyOf n r.body, arr := x.arr, slot := x.slot } ∧ c.inbox = (s.stn n).sched.inbox ∧
    c.spilledMsgs = (s.stn n).sched.spilledMsgs := by
  unfold State.insertReady
  dsimp only
  obtain ⟨ready, spilled, slots, k, he, hx⟩ := State.stn_insertAs
    (s.modSched n (fun c => { c with arrivals := (s.stn n).sched.arrivals + 1 })) n
    { r with key := s.keyOf n r.body, arr := (s.stn n).sched.arrivals }
  refine ⟨_, _, he.trans (by rw [State.stn_modSched_self]; rfl), hx, by rfl, by rfl, by rfl⟩

end

/-! ## What waits at a station -/

section
variable {s u : State} {n : Nat} {p : TaskPkt}

/-- Where nothing waits, nothing is taken in. -/
theorem State.takeIn_nil (hi : (s.stn n).sched.inbox = []) (hm : (s.stn n).sched.spilledMsgs = []) : s.takeIn n = s := by
  simp [State.takeIn, hi, State.drainInbox, hm, State.redeliver]

/-- The one packet of an inbox is accepted and leaves it. -/
theorem State.takeIn_single (hp : (s.stn n).sched.preempted = false) (hi : (s.stn n).sched.inbox = [p]) (hc : s.canInsert n = true)
    (ha : s.acceptPacket n p = (true, u)) (hu : (u.stn n).sched.inbox = [p]) (hm : (u.stn n).sched.spilledMsgs = []) :
    s.takeIn n = u.modSched n (fun c => { c with inbox := c.inbox.drop 1 }) := by
  have hd : s.drainInbox n 1 = u.modSched n (fun c => { c with inbox := c.inbox.drop 1 }) := by
    simp [State.drainInbox, hi, hc, ha]
  have hl : (s.stn n).sched.inbox.length = 1 := by simp [hi]
  rw [State.takeIn, hl, hd]
  simp [hp, hu, hm, State.redeliver]

end

/-! ## Task packets (R25) -/

section
variable {s : State} {n : Nat} {p : TaskPkt} {l : Loc}

/-- A task that a packet names has its wait counter lowered. -/
theorem State.senderDone_task (k : Nat) : s.senderDone (.task l (s.ctx l).tid) k = s.modCtx l (fun c => c.addCount k false) := by
  simp [State.senderDone]

theorem Ctx.addCount_down (c : Ctx) (k : Nat) : let f := (c.addCount k false).flow
    f.c1 = c.flow.c1 - (if k = 1 then 1 else 0) ∧ f.c2 = c.flow.c2 - (if k = 2 then 1 else 0) := by
  unfold Ctx.addCount
  by_cases h1 : k = 1
  · simp [h1]
  · by_cases h2 : k = 2 <;> simp [h1, h2]

/-- A refused packet without a reply address leaves nothing behind. -/
theorem State.refuseRecord_zero : s.refuseRecord n 0 = s := by
  simp [State.refuseRecord, State.retireWith, State.counterStep, State.sendSeq]

theorem State.acceptPacket_refused (hk : taskPktOk p (s.ptagAt n) = false) (hr : bitsOf (p.dws.getD 1 0).toNat 55 0 = 0) :
    s.acceptPacket n p = (true, s.senderDone p.src p.counter) := by
  simp only [State.acceptPacket, hk, hr, State.refuseRecord_zero, Bool.not_false, if_true]

/-- An accepted packet's record enters the ready store, with its key (R19, R25). -/
theorem State.acceptPacket_taken (hk : taskPktOk p (s.ptagAt n) = true) (hl : s.lateDrop (TaskPkt.rec p) = false) :
    ∃ (v : State) (c : Sched) (x : RecEntry), s.acceptPacket n p = (true, v.senderDone p.src p.counter) ∧ (∀ m, v.ctx m = s.ctx m) ∧
      v.stn n = { s.stn n with sched := c } ∧ c.inbox = (s.stn n).sched.inbox ∧ c.spilledMsgs = (s.stn n).sched.spilledMsgs ∧
      x ∈ c.ready ++ c.spilled ∧ x.body = TaskPkt.rec p ∧ x.reply = bitsOf (p.dws.getD 1 0).toNat 55 0 ∧
      x.key = s.keyOf n (TaskPkt.rec p) := by
  let e := s.newRecord n (TaskPkt.rec p) (bitsOf (p.dws.getD 1 0).toNat 55 0) p.sig
  obtain ⟨c, x, hst, hx, hxe, hin, hsm⟩ := State.stn_insertReady e.2 n e.1
  have hb : ∀ reply, s.lateDrop (s.newRecord n (TaskPkt.rec p) reply p.sig).1.body = false := fun _ => hl
  refine ⟨e.2.insertReady n e.1, c, x, ?_, fun m => State.ctx_insertReady .., hst, hin, hsm, hx, ?_, ?_, ?_⟩
  · simp only [State.acceptPacket, hk, hb, Bool.not_true, if_false, Bool.false_eq_true]
    rfl
  all_goals rw [hxe]; rfl

/-- The inbox of a station holds one packet. -/
def State.inboxed (s : State) (n : Nat) (p : TaskPkt) : State := s.modSched n (fun c => { c with inbox := [p] })

@[simp] theorem State.stn_inboxed : (s.inboxed n p).stn n = { s.stn n with sched := { (s.stn n).sched with inbox := [p] } } := by
  simp [State.inboxed]
@[simp] theorem State.ctx_inboxed (m : Loc) : (s.inboxed n p).ctx m = s.ctx m := rfl

theorem execTaskPacket_idle (h : s.hand.msg = .taskPacket n p) (hp : (s.stn n).sched.preempted = false)
    (hr : (s.stn n).sched.resuming = false) (hm : (s.stn n).sched.spilledMsgs = []) (hi : (s.stn n).sched.inbox = []) :
    execTaskPacket s = .next ((s.inboxed n p).takeIn n) := by
  have he : (s.modSched n fun c => { c with inbox := c.inbox ++ [p] }) = s.inboxed n p := by
    simp [State.inboxed, State.modSched, State.modStn, hi]
  simp [execTaskPacket, h, Sched.spills, hp, hr, hm, hi, he]

/-- A packet that arrives where nothing waits is accepted at once, leaves the inbox, and lowers its sender's counter. -/
theorem execTaskPacket_accepts {v : State} (h : s.hand.msg = .taskPacket n p) (hp : (s.stn n).sched.preempted = false)
    (hr : (s.stn n).sched.resuming = false) (hm : (s.stn n).sched.spilledMsgs = []) (hi : (s.stn n).sched.inbox = [])
    (hc : s.canInsert n = true) (hs : p.src = .task l (v.ctx l).tid)
    (ha : (s.inboxed n p).acceptPacket n p = (true, v.senderDone p.src p.counter))
    (hvi : (v.stn n).sched.inbox = [p]) (hvm : (v.stn n).sched.spilledMsgs = []) :
    execTaskPacket s = .next ((v.modCtx l (fun c => c.addCount p.counter false)).modSched n (fun c => { c with inbox := c.inbox.drop 1 })) := by
  rw [hs, State.senderDone_task] at ha
  rw [execTaskPacket_idle h hp hr hm hi, State.takeIn_single (by simpa using hp) (by simp) ?_ ha hvi hvm]
  simpa [State.canInsert, State.spillRoom] using hc

/-- What lowering a sender's wait counter does to the contexts. -/
theorem Ctx.lowered_of_addCount {t : State} (h : ∀ m, t.ctx m = (s.modCtx l (fun c => c.addCount p.counter false)).ctx m) :
    (t.ctx l).flow.c1 = (s.ctx l).flow.c1 - (if p.counter = 1 then 1 else 0) ∧
    (t.ctx l).flow.c2 = (s.ctx l).flow.c2 - (if p.counter = 2 then 1 else 0) ∧ SameContextsBut l s t := by
  obtain ⟨h1, h2⟩ := (s.ctx l).addCount_down p.counter
  refine ⟨?_, ?_, fun m hm => (h m).trans (State.ctx_modCtx_ne s _ hm)⟩
  · rw [h, State.ctx_modCtx_self, h1]
  · rw [h, State.ctx_modCtx_self, h2]

end

/-! ## Records that arrive (R140) and come back (R234) -/

section
variable {s : State} {n : Nat} {r : RecEntry}

/-- A thief's request is answered where the record was granted to it. -/
theorem State.stn_stealAnswered : (s.stealAnswered n r).stn n = { s.stn n with steal := { (s.stn n).steal with
    waiting := (s.stn n).steal.waiting && !r.granted, asked := if r.granted then 0 else (s.stn n).steal.asked
    first := if r.granted then ((s.stn n).steal.first + 1) % 4 else (s.stn n).steal.first } } := by
  unfold State.stealAnswered
  cases r.granted <;> simp
@[simp] theorem State.ctx_stealAnswered (m : Loc) : (s.stealAnswered n r).ctx m = s.ctx m := by
  unfold State.stealAnswered
  split <;> rfl
@[simp] theorem State.tables_stealAnswered : (s.stealAnswered n r).tables = s.tables := by
  unfold State.stealAnswered
  split <;> rfl

/-- A record that may run anywhere enters the store of a station of its tenant. -/
theorem execRecordMove_free (h : s.hand.msg = .recordMove n r) (hp : (s.stn n).sched.preempted = false) (hc : s.canInsert n = true)
    (hf : r.heldFor = none) (ht : s.tenantAt n = s.tenantOf r.ptag) :
    execRecordMove s = .next ((s.stealAnswered n r).recordArrives n { r with granted := false }) := by
  have hsched : ((s.stealAnswered n r).stn n).sched = (s.stn n).sched := by rw [State.stn_stealAnswered]
  have hc' : (s.stealAnswered n r).canInsert n = true := by simpa [State.canInsert, State.spillRoom, hsched] using hc
  have ht' : (s.stealAnswered n r).tenantAt n = (s.stealAnswered n r).tenantOf r.ptag := by
    simpa [State.tenantAt, State.tenantOf, State.parcelAt] using ht
  simp [execRecordMove, h, hsched, hp, hf, hc', ht']

/-- The one spilled record of a station whose store has a free slot comes back. -/
theorem State.refill_single {k slot : Nat} (hr : (s.stn n).sched.spilled = [r]) (hs : freeSlot (s.stn n).sched.slots = some slot) :
    s.refill n (k + 1) = (s.dropRecord n r).addReady n { r with slot := slot } := by
  have hnone : ((((s.dropRecord n r).addReady n { r with slot := slot }).stn n).sched.spilled) = [] := by
    rw [State.stn_addReady, State.stn_dropRecord]
    simp [Station.stocked, hr]
  rw [State.refill]
  simp only [hr, hs, firstRec]
  cases k <;> simp [State.refill, hnone, firstRec]

theorem execSpillRefill_idle (h : s.hand.msg = .spillRefill n) (hp : (s.stn n).sched.preempted = false) :
    execSpillRefill s = .next ((s.refill n 64).takeIn n) := by
  simp [execSpillRefill, h, hp]

end

end Sys2Proof.Machine
end

section
/-! SUPPORT. Writes to a stash, and handlers (O39). -/

namespace Sys2Proof.Machine

/-! ## Bytes -/

theorem natOf_lt (bs : List Byte) : natOf bs < 256 ^ bs.length := by
  induction bs with
  | nil => simp [natOf]
  | cons b bs ih =>
    have hb := b.isLt
    rw [natOf, List.length_cons, Nat.pow_succ]
    omega

/-- The bytes of the number that bytes hold are those bytes. -/
theorem bytesOf_natOf (bs : List Byte) : bytesOf bs.length (natOf bs) = bs := by
  induction bs with
  | nil => rfl
  | cons b bs ih =>
    have hb := b.isLt
    have hlow : BitVec.ofNat 8 (b.toNat + 256 * natOf bs) = b := by
      apply BitVec.eq_of_toNat_eq
      rw [BitVec.toNat_ofNat]
      omega
    have hrest : (b.toNat + 256 * natOf bs) / 256 = natOf bs := by omega
    rw [natOf, List.length_cons, bytesOf, hlow, hrest, ih]

/-- A byte of a block word with bytes put in from `off`. -/
theorem getD_bytesOf_mergeWord (w : BlockWord) {off k : Nat} {bs : List Byte} (h : off + bs.length ≤ 16) (hk : k < bs.length) :
    (bytesOf 16 (mergeWord w off bs).toNat).getD (off + k) 0 = bs.getD k 0 := by
  have hlen : ((bytesOf 16 w.toNat).take off ++ bs ++ (bytesOf 16 w.toNat).drop (off + bs.length)).length = 16 := by
    simp
    omega
  have hbytes : bytesOf 16 (mergeWord w off bs).toNat =
      (bytesOf 16 w.toNat).take off ++ bs ++ (bytesOf 16 w.toNat).drop (off + bs.length) := by
    have hlt := natOf_lt ((bytesOf 16 w.toNat).take off ++ bs ++ (bytesOf 16 w.toNat).drop (off + bs.length))
    have hto := bytesOf_natOf ((bytesOf 16 w.toNat).take off ++ bs ++ (bytesOf 16 w.toNat).drop (off + bs.length))
    rw [hlen] at hlt hto
    have h128 : (256 : Nat) ^ 16 = 2 ^ 128 := by norm_num
    rw [mergeWord, BitVec.toNat_ofNat, ← h128, Nat.mod_eq_of_lt hlt, hto]
  rw [hbytes]
  have h1 : off ≤ 16 := by omega
  simp [List.getD, List.getElem?_append, hk, h1, List.length_take]

/-- Bytes that lie within a block word are one piece of a write. -/
theorem piecesOf_within {a : Nat} {bs : List Byte} (h1 : 1 ≤ bs.length) (h : a % 16 + bs.length ≤ 16) : piecesOf a bs = [(a, bs)] := by
  cases bs with
  | nil => simp at h1
  | cons b bs =>
    have hn : (b :: bs).length ≤ 16 - a % 16 := by omega
    simp [piecesOf, splitAtWords, List.take_of_length_le hn, List.drop_of_length_le hn]

/-! ## A write to a stash -/

section
variable (s : State) (canon : Nat) (w : BlockWord) (p : Bool)

theorem State.setRaw_eq : s.setRaw canon w p = { s with mem := storeBytes s.mem (canon / 16 * 16) (bytesOf 16 w.toNat),
                                                         poison := Map.set false s.poison (canon / 16) p } := by
  unfold State.setRaw
  generalize bytesOf 16 w.toNat = bs
  rfl
@[simp] theorem State.ctxs_setRaw : (s.setRaw canon w p).ctxs = s.ctxs := by rw [State.setRaw_eq]
@[simp] theorem State.stations_setRaw : (s.setRaw canon w p).stations = s.stations := by rw [State.setRaw_eq]
@[simp] theorem State.datum_setRaw : (s.setRaw canon w p).datum = s.datum := by rw [State.setRaw_eq]
theorem State.mem_setRaw : (s.setRaw canon w p).mem = storeBytes s.mem (canon / 16 * 16) (bytesOf 16 w.toNat) := by
  rw [State.setRaw_eq]
@[simp] theorem State.ctx_setRaw (l : Loc) : (s.setRaw canon w p).ctx l = s.ctx l := by simp [State.ctx]
@[simp] theorem State.stn_setRaw (k : Nat) : (s.setRaw canon w p).stn k = s.stn k := by simp [State.stn]

end

section
variable {s : State} {pl : Place} {fa : Nat} {bs : List Byte}

/-- The canonical address of a stash byte is its address. -/
theorem State.canon_of_placeIn_stash (h : s.placeIn fa = .ok pl) (hs : pl.stash = true) : pl.canon = fa := by
  unfold State.placeIn at h
  dsimp only at h
  by_cases hf : isStashFa fa = true
  · rw [if_pos hf] at h
    split at h <;> cases h
    rfl
  · rw [if_neg hf] at h
    repeat' split at h
    all_goals cases h <;> cases hs

theorem State.canon_of_place_stash (h : s.place fa = .ok pl) (hs : pl.stash = true) : pl.canon = fa := by
  unfold State.place at h
  split at h
  · next p hp =>
    split at h
    · exact State.canon_of_placeIn_stash h hs
    · cases h
      exact State.canon_of_placeIn_stash hp hs
  · cases h

/-- Bytes within a whole block word of a stash are put into its storage. -/
theorem State.putHome_stash (hs : pl.stash = true) (hw : (s.homeWord pl fa).2 = false) (h1 : 1 ≤ bs.length)
    (h : fa % 16 + bs.length ≤ 16) :
    s.putHome pl fa bs = (s.setRaw pl.canon (mergeWord (s.homeWord pl fa).1 (fa % 16) bs) false, []) := by
  have hword : s.putHomeWord pl fa bs = (s.setRaw pl.canon (mergeWord (s.homeWord pl fa).1 (fa % 16) bs) false, true) := by
    simp [State.putHomeWord, hw, hs]
  simp only [State.putHome, piecesOf_within h1 h, List.foldl_cons, List.foldl_nil, Nat.add_sub_cancel, hword, if_true]

end

/-! ## Waking waiters -/

section
variable (s b : State) (pl : Place) (fa n k : Nat) (all : Bool)

@[simp] theorem State.frame_answerWait (w : WaitReg) (m : Nat) (p : Bool) : (s.answerWait n w m p).frame = s.frame := by
  unfold State.answerWait
  dsimp only
  split
  · rfl
  · split <;> rfl
@[simp] theorem State.stn_answerWait (w : WaitReg) (m : Nat) (p : Bool) : (s.answerWait n w m p).stn k = s.stn k := by
  unfold State.answerWait
  dsimp only
  split
  · rfl
  · split <;> rfl

@[simp] theorem State.frame_wakeWaiters : (s.wakeWaiters b pl fa n all).frame = s.frame := by
  unfold State.wakeWaiters
  dsimp only
  split
  · rfl
  · exact foldl_keeps (p := fun t : State => t.frame = s.frame) (fun _ _ ht => by simpa using ht) _ rfl
/-- Waking waiters changes nothing of a station but what its home keeps. -/
theorem State.stn_wakeWaiters : ∃ h, (s.wakeWaiters b pl fa n all).stn k = { s.stn k with home := h } := by
  unfold State.wakeWaiters
  dsimp only
  split
  · exact ⟨_, rfl⟩
  · exact foldl_keeps (p := fun t : State => ∃ h, t.stn k = { s.stn k with home := h }) (fun _ _ ht => by simpa using ht) _
      (State.stn_modHome ..)

end

section
variable {s : State} {pl : Place} {fa : Nat} {bs : List Byte}

/-- A write within a block word of a stash that is not poisoned puts its bytes there and wakes waiters, which changes nothing else but
what homes keep. -/
theorem State.performWrite_stash (hs : pl.stash = true) (hw : (s.homeWord pl fa).2 = false) (h1 : 1 ≤ bs.length)
    (h : fa % 16 + bs.length ≤ 16) :
    (s.performWrite pl fa bs []).1.frame = (s.setRaw pl.canon (mergeWord (s.homeWord pl fa).1 (fa % 16) bs) false).frame ∧
      ∀ k, ∃ h, (s.performWrite pl fa bs []).1.stn k = { s.stn k with home := h } := by
  rw [State.performWrite, State.putHome_stash hs hw h1 h]
  refine ⟨State.frame_wakeWaiters .., fun k => ?_⟩
  rw [← State.stn_setRaw s pl.canon (mergeWord (s.homeWord pl fa).1 (fa % 16) bs) false k]
  exact State.stn_wakeWaiters ..

/-- The bytes that a merged block word puts in storage. -/
theorem State.byte_setRaw_mergeWord {canon k : Nat} {w : BlockWord} {p : Bool} (h : canon % 16 + bs.length ≤ 16) (hk : k < bs.length) :
    (s.setRaw canon (mergeWord w (canon % 16) bs) p).byte (canon + k) = bs.getD k 0 := by
  have hin : canon / 16 * 16 ≤ canon + k ∧ canon + k < canon / 16 * 16 + (bytesOf 16 (mergeWord w (canon % 16) bs).toNat).length := by
    rw [bytesOf_length]
    omega
  have hoff : canon + k - canon / 16 * 16 = canon % 16 + k := by omega
  rw [State.byte, State.mem_setRaw, get_storeBytes, if_pos hin, hoff, getD_bytesOf_mergeWord w h hk]

end

/-! ## Handlers (R29) -/

@[simp] theorem dwBytes_length (ds : List Nat) : (dwBytes ds).length = 8 * ds.length := by
  induction ds with
  | nil => rfl
  | cons d ds ih =>
    rw [dwBytes] at ih
    simp [dwBytes] at ih ⊢
    omega

theorem freeSlot_lt {used : NSet} {k : Nat} (h : freeSlot used = some k) : k < 4096 := by
  have := List.find?_some h
  simp at this
  exact this.2

/-- A byte below a stash's ready store is not one of a record's image. -/
theorem State.byte_putImage_below {s : State} {n x : Nat} {r : RecEntry} (hk : r.slot < 4096) (hx : x % 2 ^ 22 < readyStore) :
    (s.putImage n r).byte x = s.byte x := by
  have hout : ¬(s.slotFa n r.slot ≤ x ∧ x < s.slotFa n r.slot + (dwBytes (recDws r.body)).length) := by
    simp only [dwBytes_length, recDws, List.length, State.slotFa, stashFa, faHigh, slotByte, readyStore] at hx ⊢
    omega
  rw [State.putImage, State.byte_setBytes, if_neg hout]

/-- The registers of a task as it starts (R15). -/
theorem readG_startOf_load (bank : Map Word) (b : Rec) (r : RecEntry) (q : Nat) :
    ((startOf bank b).load r).readG q =
      if q = 0 then 0 else if q = 63 then Config.exitStub else if q = 2 then b.arg1 else if q = 1 then b.arg0 else 0 := by
  simp [startOf, Ctx.load, Ctx.readG, Ctx.banked, Map.get_set, Map.get]

end Sys2Proof.Machine
end

section
/-! SUPPORT. The obligation about arrivals at a scheduler (O39). -/

namespace Sys2Proof.Machine

section
variable {s : State} {n : Nat} {d : DataArr} {l : Loc}

/-- A handler that finds an idle context, no kernel message that waits for one and a free record slot starts there at once; the other
contexts and the bytes below the ready stores stay. -/
theorem State.startHandler_idle {k : Nat} (hk : (s.stn n).kernel.pending = []) (hl : s.freeCtx n = some l)
    (hs : freeSlot (s.stn n).sched.slots = some k) (hg : d.sig = none) :
    ∃ r : RecEntry, (s.startHandler n d).ctx l = (startOf (s.ctx l).files.bank (handlerRec d)).load r ∧ r.body = handlerRec d ∧
      r.key = s.datum + (s.stn n).sched.horizon ∧ SameContextsBut l s (s.startHandler n d) ∧
      ∀ a, a % 2 ^ 22 < readyStore → (s.startHandler n d).byte a = s.byte a := by
  let r : RecEntry := { (s.newRecord n (handlerRec d) 0 none).1 with slot := k, key := s.keyOf n (handlerRec d) }
  let u := (s.newRecord n (handlerRec d) 0 none).2.modSched n (fun c => { c with slots := c.slots.add k })
  have he : s.startHandler n d = (u.putImage n r).setCtx l ((startOf (s.ctx l).files.bank (handlerRec d)).load r) := by
    simp only [State.startHandler, hk, hl, hs, hg, List.isEmpty_nil, if_true]
    rfl
  have hctxs : (u.putImage n r).ctxs = s.ctxs := State.putImage_ctxs ..
  rw [he]
  refine ⟨r, State.ctx_setCtx_self .., rfl, rfl, fun m hm => ?_, fun a ha => ?_⟩
  · rw [State.ctx_setCtx, if_neg hm, State.ctx, hctxs, ← State.ctx]
  · rw [State.byte, State.setCtx_mem, ← State.byte, State.byte_putImage_below (freeSlot_lt hs) ha]
    rfl

/-- An arrival at a station that takes it in and has no window writes its bytes at their home and starts its handler. -/
theorem execDataArrival_idle {pl : Place} (h : s.hand.msg = .dataArrivalWithHandler n d) (hp : (s.stn n).sched.preempted = false)
    (hr : (s.stn n).sched.resuming = false) (hm : (s.stn n).sched.spilledMsgs = []) (hw : (s.stn n).slice.windows = [])
    (hc : s.canInsert n = true) (hpl : s.place d.addr = .ok pl) (hs : d.src = .cube) :
    execDataArrivalWithHandler s = .next ((s.performWrite pl d.addr d.data []).1.startHandler n d) := by
  simp [execDataArrivalWithHandler, h, Sched.spills, hp, hr, hm, hc, State.deliverData, hw, hpl, hs, State.senderDone]

end

/-- Settles O39: an accepted record enters the ready store with its key (`State.stn_insertReady`), a handler's bytes are put into their
stash below the ready store (`getD_bytesOf_mergeWord`), and a spilled record comes back by `State.refill_single`. -/
theorem schedulerArrivals : Obligations.SchedulerArrivals := by
  refine ⟨?_, ?_, ?_, ?_⟩
  · intro n p l s h hp hr hm hi hc hs r lowered
    refine ⟨fun hk hl => ?_, fun hk hz => ?_⟩
    · obtain ⟨v, c, x, ha, hctx, hst, hin, hsm, hx, hbody, hreply, hkey⟩ := State.acceptPacket_taken (s := s.inboxed n p) (n := n) hk hl
      refine ⟨_, x, execTaskPacket_accepts h hp hr hm hi hc (by rw [hs, hctx]; rfl) ha ?_ ?_, ?_, hbody, hreply, ?_, ?_,
        Ctx.lowered_of_addCount fun m => ?_⟩
      · rw [hst, hin, State.stn_inboxed]
      · rw [hst, hsm, State.stn_inboxed, hm]
      · simpa [hst] using hx
      · rw [hkey, State.keyOf, State.stn_inboxed]
        rfl
      · simp [hst, hin]
      · by_cases hml : locIx m = locIx l <;> simp [State.modCtx, State.ctx_setCtx, hml, hctx]
    · refine ⟨_, execTaskPacket_accepts (v := s.inboxed n p) h hp hr hm hi hc hs (State.acceptPacket_refused hk hz) (by simp)
        (by simpa using hm), ?_, SameStorage.of_eq rfl rfl rfl, Ctx.lowered_of_addCount fun _ => rfl⟩
      simp only [State.stn_modSched_self, State.stn_modCtx, State.stn_inboxed, List.drop_one, List.tail_cons]
      rw [← hi]
  · intro n r s h hp hc hf ht
    obtain ⟨c, x, hst, hx, hxe, -, -⟩ := State.stn_insertReady
      ((s.stealAnswered n r).setC3 r.tid ((s.stealAnswered n r).c3of r.tid + r.c3)) n
      { r with granted := false, ptag := (s.stealAnswered n r).ptagAt n, c3 := 0 }
    have hstn : ((s.stealAnswered n r).recordArrives n { r with granted := false }).stn n = { (s.stealAnswered n r).stn n with sched := c } :=
      hst
    refine ⟨_, x, execRecordMove_free h hp hc hf ht, ?_, ?_, ?_, ?_, fun m => ?_, ?_, ?_⟩
    · rw [hstn]
      exact hx
    · rw [hxe]
    · rw [hxe]
    · rw [hxe]
      simp [State.ptagAt, State.parcelAt]
    · exact (State.ctx_insertReady ..).trans (State.ctx_stealAnswered ..)
    · rw [hstn, State.stn_stealAnswered]
    · rw [hstn, State.stn_stealAnswered]
  · intro n d pl l s h hp hr hm hw ⟨hpl, _⟩ hst hoff h1 h16 hpo hg hsrc hfs hkp hfc
    obtain ⟨k, hk⟩ := Option.isSome_iff_exists.1 hfs
    have hcanon := State.canon_of_place_stash hpl hst
    have hins : s.canInsert n = true := by simp [State.canInsert, hfs]
    obtain ⟨hframe, hstns⟩ := State.performWrite_stash hst hpo h1 h16
    have hexec := execDataArrival_idle h hp hr hm hw hins hpl hsrc
    generalize (s.performWrite pl d.addr d.data []).1 = u at hframe hstns hexec
    obtain ⟨home, hstn⟩ := hstns n
    have hctx : ∀ m, u.ctx m = s.ctx m := fun m => by rw [State.ctx_of_frame hframe, State.ctx_setRaw]
    have hfree : u.freeCtx n = some l := by simpa [State.freeCtx, hctx] using hfc
    obtain ⟨x, hl, hbody, hkey, hothers, hbelow⟩ :=
      State.startHandler_idle (d := d) (by rw [hstn]; exact hkp) hfree (by rw [hstn]; exact hk) hg
    refine ⟨_, { x with sig := none, resume := .again }, hexec, by rw [hl]; rfl, ?_, by rw [hbody]; rfl, by rw [hbody]; rfl,
      fun i hi => ?_, fun m hm => (hothers m hm).trans (hctx m), ?_⟩
    · rw [hkey, hstn, State.datum_of_frame hframe, State.datum_setRaw]
    · have hlow : (pl.canon + i) % 2 ^ 22 < readyStore := by
        rw [hcanon, readyStore] at *
        omega
      rw [hbelow _ hlow, State.byte, State.mem_of_frame hframe, ← State.byte, hcanon]
      exact State.byte_setRaw_mergeWord h16 hi
    · rw [hl]
      refine ⟨rfl, rfl, by rw [Ctx.load, hbody]; rfl, ?_, ?_⟩ <;> rw [readG_startOf_load] <;> rfl
  · intro n r s h hp hi hm hne hsp hfs
    obtain ⟨k, hk⟩ := Option.isSome_iff_exists.1 hfs
    have hst : ((s.dropRecord n r).addReady n { r with slot := k }).stn n =
        (s.stn n).stocked ((s.stn n).sched.ready ++ [{ r with slot := k }]) [] ((s.stn n).sched.slots.add k) := by
      have hkept : (s.stn n).sched.ready.filter (fun y => y.tid != r.tid) = (s.stn n).sched.ready :=
        List.filter_eq_self.2 fun y hy => by simpa using hne y hy
      have hnot : (s.stn n).sched.ready.any (fun y => y.tid == r.tid) = false := by simpa using hne
      rw [State.stn_addReady, State.stn_dropRecord, hkept, hnot]
      simp [Station.stocked, hsp]
    refine ⟨(s.dropRecord n r).addReady n { r with slot := k }, { r with slot := k }, ?_, ?_, ?_, rfl, rfl, rfl, fun m => ?_⟩
    · refine (execSpillRefill_idle h hp).trans (congrArg _ ?_)
      rw [State.refill_single hsp hk]
      exact State.takeIn_nil (by rw [hst]; exact hi) (by rw [hst]; exact hm)
    · rw [hst]
      rfl
    · rw [hst]
      rfl
    · simp [State.ctx]

end Sys2Proof.Machine
end

section
/-! SUPPORT. Reads that an instruction makes before it acts keep the frame of the state (O43). -/

namespace Sys2Proof.Machine

namespace Exec

/-- Steps that, where they succeed, change nothing but stations, messages and numbers. -/
def KeepsFrame {α : Type} (m : Exec α) : Prop := ∀ s a u, m s = .ok a u → u.frame = s.frame

section
variable {α β : Type} {m : Exec α}

theorem KeepsFrame.of_run {f : State → α} (h : ∀ s, m s = .ok (f s) s) : m.KeepsFrame := fun s a u e => by
  rw [h] at e
  cases e
  rfl
theorem KeepsFrame.throw {e : Stop} : KeepsFrame (throw e : Exec α) := fun _ _ _ h => nomatch h
theorem KeepsFrame.pure {a : α} : KeepsFrame (Pure.pure a : Exec α) := .of_run fun _ => rfl
theorem KeepsFrame.get : KeepsFrame (get : Exec State) := .of_run fun _ => rfl
theorem KeepsFrame.ctx : KeepsFrame ctx := .of_run fun _ => rfl
theorem KeepsFrame.modify {f : State → State} (h : ∀ s, (f s).frame = s.frame) : KeepsFrame (modify f : Exec PUnit) := fun s a u e => by
  cases e
  exact h s
theorem KeepsFrame.bind {f : α → Exec β} (hm : KeepsFrame m) (hf : ∀ a, KeepsFrame (f a)) : KeepsFrame (m >>= f) := by
  intro s b u e
  change EStateM.bind m f s = .ok b u at e
  unfold EStateM.bind at e
  cases h : m s with
  | ok a t => rw [h] at e; exact (hf a t b u e).trans (hm s a t h)
  | error x t => rw [h] at e; cases e
theorem KeepsFrame.ite {c : Prop} [Decidable c] {n : Exec α} (hm : KeepsFrame m) (hn : KeepsFrame n) : KeepsFrame (if c then m else n) := by
  split <;> assumption
theorem KeepsFrame.when {c : Prop} [Decidable c] {n : Exec Unit} {f : Unit → Exec α} (hn : KeepsFrame n) (hf : ∀ u, KeepsFrame (f u)) :
    KeepsFrame (if c then n >>= f else f ()) := .ite (.bind hn hf) (hf ())
theorem KeepsFrame.forIn {xs : List α} {b : β} {f : α → β → Exec (ForInStep β)} (hf : ∀ x b, KeepsFrame (f x b)) :
    KeepsFrame (forIn xs b f) := by
  induction xs generalizing b with
  | nil => exact .pure
  | cons x xs ih =>
    rw [List.forIn_cons]
    refine .bind (hf x b) fun r => ?_
    cases r with
    | done b => exact .pure
    | yield b => exact ih

/-- Steps that end in a stall never succeed. -/
theorem KeepsFrame.stall_after : KeepsFrame (m >>= fun _ => (stall : Exec β)) := by
  intro s b u e
  change EStateM.bind m (fun _ => stall) s = .ok b u at e
  unfold EStateM.bind at e
  cases h : m s <;> rw [h] at e <;> cases e

theorem KeepsFrame.wait {ok : Bool} : KeepsFrame (wait ok) := .ite .pure .throw
theorem KeepsFrame.check {ok : Bool} {c a : Nat} : KeepsFrame (check ok c a) := .ite .pure .throw

/-- A value that must be at hand, where it is, changes nothing. -/
theorem KeepsFrame.got {x : Got α} : KeepsFrame (got x) := by
  unfold Exec.got
  split
  · exact .pure
  · exact .throw
  · exact .throw
  · exact .stall_after

end

theorem KeepsFrame.translate {va : Nat} {need : Need} : KeepsFrame (translate va need) :=
  .bind .get fun _ => .bind (.bind .get fun _ => .pure) fun _ => .bind .got fun _ => .when (.modify fun _ => rfl) fun _ => .pure
theorem KeepsFrame.faOf {win : Win} {ea : Nat} {need : Need} : KeepsFrame (faOf win ea need) := by
  unfold Exec.faOf
  split
  · exact .translate
  · exact .bind .check fun _ => .bind .get fun _ => .pure
  · exact .bind .check fun _ => .pure
theorem KeepsFrame.home {win : Win} {fa ea : Nat} : KeepsFrame (home win fa ea) := by
  refine .bind .get fun _ => ?_
  split
  · exact .pure
  · exact .throw
theorem KeepsFrame.parts {win : Win} {need : Need} {k ea n : Nat} : KeepsFrame (parts win need k ea n) := by
  induction k generalizing ea n with
  | zero => exact .pure
  | succ _ ih => exact .ite .pure (.bind .faOf fun _ => .bind .home fun _ => .bind ih fun _ => .pure)
theorem KeepsFrame.readNow {need : Need} {ea n : Nat} : KeepsFrame (readNow need ea n) :=
  .bind .parts fun _ => .bind .get fun _ => .bind (.forIn fun _ _ => .bind (.modify fun _ => rfl) fun _ =>
    .bind .got fun _ => .pure) fun _ => .pure
theorem KeepsFrame.readOwn {ea n : Nat} : KeepsFrame (readOwn ea n) :=
  .bind (.bind .ctx fun _ => .wait) fun _ => .bind .parts fun _ => .bind (.bind .get fun _ => .wait) fun _ =>
    .bind (.bind .get fun _ => .wait) fun _ => .readNow

end Exec

end Sys2Proof.Machine
end

section
/-! SUPPORT. Publication, and the issue of a command (R138, R163). -/

namespace Sys2Proof.Machine

/-! ## Publication -/

section
variable (s : State) (n : Nat)

@[simp] theorem State.frame_logError (p t fa k : Nat) : (s.logError p t fa k).frame = s.frame := by
  unfold State.logError
  split
  · rfl
  · split
    · rfl
    · split
      · rfl
      · dsimp only
        split
        · rfl
        · exact State.frame_sendSeq ..
@[simp] theorem State.frame_chargeBad (fa p : Nat) (w : Line) : (s.chargeBad n fa p w).frame = s.frame := by
  unfold State.chargeBad
  split
  · dsimp only
    split
    · rw [State.frame_countError, State.frame_logError, State.frame_modSlice]
    · rfl
  · rfl
@[simp] theorem State.frame_voidFills (pick : Nat → Bool) : (s.voidFills n pick).frame = s.frame := rfl

@[simp] theorem State.frame_flushPubs (k : Nat) : (s.flushPubs n k).frame = s.frame := by
  induction k generalizing s with
  | zero => rfl
  | succ k ih =>
    unfold State.flushPubs
    split
    · split
      · rw [ih]
        rfl
      · rfl
    · rfl

end

section
variable {s : State} {n : Nat}

/-- One turn of completing publications: the oldest one completes, where it waits for nothing, and the others stay. -/
theorem State.flushPubs_one {ps : List Pub} {p : Pub} (h : (s.stn n).slice.pubs = ps ++ [p]) :
    (∃ g, Msg.publicationComplete p.demand g ∈ (s.flushPubs n 1).net) ∨
      ∃ q ∈ ((s.flushPubs n 1).stn n).slice.pubs, q.demand = p.demand := by
  cases ps with
  | nil =>
    by_cases hw : p.waits.isEmpty = true
    · exact .inl ⟨p.sig, by simp [State.flushPubs, h, hw]⟩
    · exact .inr ⟨p, by simp [State.flushPubs, h, hw], rfl⟩
  | cons q qs =>
    by_cases hw : q.waits.isEmpty = true
    · exact .inr ⟨p, by simp [State.flushPubs, h, hw], rfl⟩
    · exact .inr ⟨p, by simp [State.flushPubs, h, hw], rfl⟩

/-- The oldest publication, where it is the only one and waits for nothing, completes. -/
theorem State.flushPubs_single {p : Pub} (h : (s.stn n).slice.pubs = [p]) (hw : p.waits = []) :
    (s.flushPubs n 1).net = s.net ++ [.publicationComplete p.demand p.sig] := by
  simp [State.flushPubs, h, hw]

/-- A publication begins behind those under way; where nothing is dirty it waits for the write-backs already on their way alone, and
sends nothing before it completes (R138). -/
theorem State.beginPublication_eq (d : Demand) : ∃ (u : State) (ps : List Pub) (p : Pub), s.beginPublication d = u.flushPubs d.stn 1 ∧
    u.frame = s.frame ∧ (u.stn d.stn).slice.pubs = ps ++ [p] ∧ p.demand = d ∧
    (s.dirtyWords d.stn = [] → u.net = s.net ∧ ps = (s.stn d.stn).slice.pubs ∧ p.waits = (s.stn d.stn).slice.wbOut.map (fun e => e.1) ∧
      p.sig = (s.stn d.stn).slice.sig) := by
  let v := (s.dirtyWords d.stn).foldl (fun st w => (st.chargeBad d.stn w.1 w.2.1 w.2.2).voidFills d.stn (fun c => c == chunkOf w.1)) s
  let l := (v.stn d.stn).slice
  refine ⟨_, l.pubs, ⟨d, l.wbOut.map (fun e => e.1) ++ (List.range (s.dirtyWords d.stn).length).map (fun k => v.counts.id + k), l.sig⟩,
    rfl, ?_, ?_, rfl, fun hd => ?_⟩
  · exact foldl_keeps (p := fun t : State => t.frame = s.frame) (fun _ _ ht => by simpa using ht) _ rfl
  · unfold State.stn State.sendAll State.modSlice State.modStn State.setStn
    dsimp only
    rw [Map.get_set_self]
  · simp [l, v, hd]

@[simp] theorem State.frame_beginPublication (d : Demand) : (s.beginPublication d).frame = s.frame := by
  obtain ⟨u, ps, p, he, hf, -⟩ := s.beginPublication_eq d
  rw [he, State.frame_flushPubs, hf]

/-- A publication that has begun is complete or stands among those under way. -/
theorem State.beginPublication_pending (d : Demand) :
    (∃ g, Msg.publicationComplete d g ∈ (s.beginPublication d).net) ∨ ∃ p ∈ ((s.beginPublication d).stn d.stn).slice.pubs, p.demand = d := by
  obtain ⟨u, ps, p, he, -, hps, hd, -⟩ := s.beginPublication_eq d
  rw [he, ← hd]
  exact State.flushPubs_one (hd.symm ▸ hps)

/-- Where nothing is dirty and nothing under way, a publication completes at once. -/
theorem State.beginPublication_clean {d : Demand} (hd : s.dirtyWords d.stn = []) (hp : (s.stn d.stn).slice.pubs = [])
    (hw : (s.stn d.stn).slice.wbOut = []) :
    (s.beginPublication d).net = s.net ++ [.publicationComplete d (s.stn d.stn).slice.sig] := by
  obtain ⟨u, ps, p, he, -, hps, hdem, hclean⟩ := s.beginPublication_eq d
  obtain ⟨hnet, hold, hwaits, hsig⟩ := hclean hd
  rw [he, State.flushPubs_single (p := p) (by rw [hps, hold, hp]; rfl) (by rw [hwaits, hw]; rfl), hnet, hdem, hsig]

end

end Sys2Proof.Machine
end

section
/-! SUPPORT. The issue of a command (R163). -/

namespace Sys2Proof.Machine

/-- C3 and, for a counted command, FIFOPEND rise for the acting context's task. -/
def State.countCmd (s : State) (k : Cmd) : State :=
  (s.setC3 s.cur.tid (s.c3of s.cur.tid + 1)).modCtx s.hand.at_ (fun c =>
    if countedCmd k then { c with flow := { c.flow with fifopend := c.flow.fifopend + 1 } } else c)
/-- A command of the acting context is held under a guard slot. -/
def State.holdCmd (s : State) (g : Option Guard) (m : CmdMsg) (k : Cmd) : State :=
  (s.countCmd k).modEng s.hand.at_.stn (fun e =>
    { e with heldCmds := e.heldCmds ++ [⟨m, s.hand.at_.core, s.hand.at_.ctx, bindOf s.cur g, countedCmd k⟩] })

section
variable {s : State} {g : Option Guard} {cube stn inbox : Nat} {k : Cmd}

theorem not_discarded (h : bindRuns (bindOf s.cur g) ≠ some false) : bindOf s.cur g ≠ .decided false := fun e => h (by rw [e]; rfl)

/-- A command whose way is free is counted and sent. -/
theorem Exec.issueCmd_sent (hb : bindRuns (bindOf s.cur g) = some true) (hw : s.wayFree cube stn inbox k) :
    Exec.issueCmd cube stn inbox k g s = .ok () ((s.countCmd k).dispatchCmd s.hand.at_.stn (s.cmdOf cube stn inbox k)) := by
  obtain ⟨hheld, hway, hroom⟩ := hw
  have hd := not_discarded (s := s) (g := g) (by simp [hb])
  have hany : (s.here.eng.heldCmds.any fun h => sameWay h.msg (s.cmdOf cube stn inbox k)) = false := by simpa using hheld
  have hspace : (decide (cube = s.cube) && decide (stn = s.hand.at_.stn) && !s.inboxRoom stn inbox k.ptag) = false := by
    simpa using hroom
  simp only [State.cmdOf, State.here] at hany hway
  unfold Exec.issueCmd
  rw [Exec.bind_ok s (Exec.get_run s)]
  simp only [if_neg hd, hb, hany, hway, hspace, Option.isNone_some, Bool.or_self, Bool.not_false, if_true, Bool.false_eq_true, if_false]
  rfl

/-- A command under an undecided guard slot, or behind one of its way that is held, is counted and held. -/
theorem Exec.issueCmd_held (hd : bindOf s.cur g ≠ .decided false)
    (hh : bindRuns (bindOf s.cur g) = none ∨ ∃ h ∈ s.here.eng.heldCmds, sameWay h.msg (s.cmdOf cube stn inbox k) = true) :
    Exec.issueCmd cube stn inbox k g s = .ok () (s.holdCmd g (s.cmdOf cube stn inbox k) k) := by
  have hhold : ((bindRuns (bindOf s.cur g)).isNone ||
      s.here.eng.heldCmds.any fun h => sameWay h.msg (s.cmdOf cube stn inbox k)) = true := by
    simpa using hh
  simp only [State.cmdOf, State.here] at hhold
  unfold Exec.issueCmd
  rw [Exec.bind_ok s (Exec.get_run s)]
  simp only [if_neg hd, hhold, Bool.not_true, Bool.false_eq_true, if_false, if_true]
  rfl

/-- A command to a full inbox of its own station stalls until there is room (R27). -/
theorem Exec.issueCmd_full (hb : bindRuns (bindOf s.cur g) = some true)
    (hheld : ∀ h ∈ s.here.eng.heldCmds, sameWay h.msg (s.cmdOf cube stn inbox k) = false)
    (hway : s.wayBusy s.hand.at_.stn (s.cmdOf cube stn inbox k) = false) (hc : cube = s.cube) (hs : stn = s.hand.at_.stn)
    (hroom : s.inboxRoom stn inbox k.ptag = false) :
    Exec.issueCmd cube stn inbox k g s =
      .error .stall (s.modCur (fun c => { c with flow := { c.flow with waitOn := some 0 } })) := by
  have hd := not_discarded (s := s) (g := g) (by simp [hb])
  have hany : (s.here.eng.heldCmds.any fun h => sameWay h.msg (s.cmdOf cube stn inbox k)) = false := by simpa using hheld
  have hspace : (decide (cube = s.cube) && decide (stn = s.hand.at_.stn) && !s.inboxRoom stn inbox k.ptag) = true := by
    rw [hroom]
    simp [hc, hs]
  simp only [State.cmdOf, State.here] at hany hway
  unfold Exec.issueCmd
  rw [Exec.bind_ok s (Exec.get_run s)]
  simp only [if_neg hd, hb, hany, hway, hspace, Option.isNone_some, Bool.or_self, Bool.not_false, if_true]
  rfl

end

end Sys2Proof.Machine
end

section
/-! SUPPORT. PUSH (R163). -/

namespace Sys2Proof.Machine

section
variable {s : State} {g : Option Guard} {m : Exec Unit}

/-! ## Instructions that build a command -/

theorem runCmd_discarded (hb : bindRuns (bindOf s.cur g) = some false) : runCmd g m s = .next s.retire := by
  simp only [runCmd, hb]
theorem runCmd_runs (hb : bindRuns (bindOf s.cur g) = some true) : runCmd g m s = runSeq m s := by
  simp only [runCmd, hb]
/-- Steps that succeed complete their instruction, unless the guard slot discards it. -/
theorem runCmd_ok {t : State} (hb : bindRuns (bindOf s.cur g) ≠ some false) (h : m s = .ok () t) : runCmd g m s = .next t.retire := by
  cases hr : bindRuns (bindOf s.cur g) with
  | none => simp only [runCmd, hr, h, runSeq]
  | some v =>
    cases v with
    | false => exact absurd hr hb
    | true => rw [runCmd_runs hr, runSeq_ok s h]

/-! ## What PUSH waits for -/

theorem Exec.waitWC_zero {wc : Nat} (h : s.waitCount s.hand.at_ wc = 0) : Exec.waitWC wc s = .ok () s := by
  rw [Exec.waitWC, Exec.bind_ok s (Exec.get_run s), Exec.wait_run]
  simp [h]
theorem Exec.afterAcquire_allPerformed (h : s.allPerformed) : Exec.afterAcquire s = .ok () s := by
  obtain ⟨-, hf, -, -⟩ := h
  rw [Exec.afterAcquire, Exec.bind_ok s (Exec.ctx_run s), Exec.wait_run]
  simp [hf]
theorem Exec.beforeCommand_allPerformed (h : s.allPerformed) : Exec.beforeCommand s = .ok () s := by
  obtain ⟨hv, hf, h1, h2⟩ := h
  have hd : Exec.drained s = .ok () s := by
    rw [Exec.drained, Exec.bind_ok s (Exec.get_run s), Exec.wait_run]
    simp [hv]
  rw [Exec.beforeCommand, Exec.beforeRelease, Exec.bind_ok s hd, Exec.bind_ok s (Exec.ctx_run s)]
  simp [Exec.wait_run, hf, h1, h2]

/-! ## PUSH -/

section
variable {a b wc : Nat}

/-- What a PUSH of the 64 bytes `bs` does with its selector's value. -/
def pushTo (g : Option Guard) (v : Nat) (bs : List Byte) : Exec Unit := do
  let s ← get
  match s.selector s.hand.at_.stn v false with
  | none => Exec.trap causePROT v
  | some (cube, stn, inbox) => Exec.issueCmd cube stn inbox (cmdOfDws (dwsOf 8 bs)) g

theorem execPush_misaligned (hi : s.mayIssue [a, b] wc) (hb : bindRuns (bindOf s.cur g) = some true)
    (hva : (s.cur.readG b).toNat % 64 ≠ 0) : execPush a b wc g s = .next (s.trap causeALIGN (s.cur.readG b)) := by
  obtain ⟨hr, hwc, hp⟩ := hi
  rw [execPush, runCmd_runs hb]
  refine runSeq_trap s ?_
  rw [Exec.bind_ok s (Exec.need_ready s hr), Exec.bind_ok s (Exec.waitWC_zero hwc), Exec.bind_ok s (Exec.beforeCommand_allPerformed hp),
    Exec.bind_ok s (Exec.afterAcquire_allPerformed hp), Exec.bind_ok s (Exec.ctx_run s)]
  refine Exec.bind_error s ?_
  rw [Exec.check_run]
  simp [hva, w64]

/-- A PUSH that waits for nothing reads its 64 bytes and goes on with them. -/
theorem execPush_reads {bs : List Byte} {u : State} (hi : s.mayIssue [a, b] wc) (hva : (s.cur.readG b).toNat % 64 = 0)
    (hread : Exec.readOwn (s.cur.readG b).toNat 64 s = .ok bs u) :
    ∃ m : Exec Unit, m s = pushTo g (s.cur.readG a).toNat bs u ∧ execPush a b wc g s = runCmd g m s := by
  obtain ⟨hr, hwc, hp⟩ := hi
  have hcheck : Exec.check ((s.cur.readG b).toNat % 64 == 0) causeALIGN (s.cur.readG b).toNat s = .ok () s := by
    rw [Exec.check_run]
    simp [hva]
  refine ⟨_, ?_, rfl⟩
  rw [Exec.bind_ok s (Exec.need_ready s hr), Exec.bind_ok s (Exec.waitWC_zero hwc), Exec.bind_ok s (Exec.beforeCommand_allPerformed hp),
    Exec.bind_ok s (Exec.afterAcquire_allPerformed hp), Exec.bind_ok s (Exec.ctx_run s)]
  rw [Exec.bind_ok s hcheck, Exec.bind_ok s hread]
  rfl

theorem pushTo_bad {v : Nat} {bs : List Byte} (h : s.selector s.hand.at_.stn v false = none) :
    pushTo g v bs s = .error (.trap causePROT (w64 v)) s := by
  rw [pushTo, Exec.bind_ok s (Exec.get_run s), h]
  rfl
theorem pushTo_good {v cube stn inbox : Nat} {bs : List Byte} (h : s.selector s.hand.at_.stn v false = some (cube, stn, inbox)) :
    pushTo g v bs s = Exec.issueCmd cube stn inbox (cmdOfDws (dwsOf 8 bs)) g s := by
  rw [pushTo, Exec.bind_ok s (Exec.get_run s), h]

end

end

end Sys2Proof.Machine
end

section
/-! SUPPORT. What the issue of a command leaves (R28, R163, R207). -/

namespace Sys2Proof.Machine

section
variable {s t : State} {k : Cmd}

@[simp] theorem Ctx.retire_fifopend (c : Ctx) (n : Nat) : (c.retire n).flow.fifopend = c.flow.fifopend := by
  obtain ⟨b, hb⟩ := c.charge_flow n
  simp [Ctx.retire, Ctx.finishAt, hb]

@[simp] theorem State.cur_retire (s : State) : s.retire.cur = s.cur.retire s.hand.words := by simp [State.retire]
@[simp] theorem State.stn_retire (s : State) (n : Nat) : s.retire.stn n = s.stn n := rfl

theorem State.cur_countCmd : (s.countCmd k).cur =
    { s.cur with flow := { s.cur.flow with fifopend := s.cur.flow.fifopend + (if countedCmd k then 1 else 0) } } := by
  refine (State.ctx_modCtx_self ..).trans ?_
  by_cases hk : countedCmd k = true
  · simp only [hk, if_true]
    rfl
  · simp only [hk]
    rfl

theorem SameContextsBut.countCmd : SameContextsBut s.hand.at_ s (s.countCmd k) := fun _ hm => State.ctx_modCtx_ne _ _ hm

/-- What a counted command's instruction leaves as it completes, whatever becomes of stations and messages. -/
theorem State.retire_of_countCmd (h : t.frame = (s.countCmd k).frame) :
    t.retire.c3of s.cur.tid = s.c3of s.cur.tid + 1 ∧
    t.retire.cur.flow.fifopend = s.cur.flow.fifopend + (if countedCmd k then 1 else 0) ∧ t.retire.cur.files = s.cur.files ∧
    t.retire.cur.pc = s.nextOf ∧ SameContextsBut s.hand.at_ s t.retire ∧ SameStorage s t.retire := by
  have hhand : t.hand = s.hand := (State.hand_of_frame h).trans rfl
  have hcur : t.retire.cur = (s.countCmd k).cur.retire s.hand.words := by
    rw [State.cur_retire, State.cur, State.ctx_of_frame h, hhand]
    rfl
  refine ⟨?_, ?_, ?_, ?_, fun m hm => ?_,
    SameStorage.of_eq (State.mem_of_frame h :) (congrArg State.poison h :) (congrArg State.full h :)⟩
  · rw [State.c3of, State.retire_c3, State.c3_of_frame h]
    exact Map.get_set_self ..
  · rw [hcur, Ctx.retire_fifopend, State.cur_countCmd]
  · rw [hcur, Ctx.retire_files, State.cur_countCmd]
  · rw [hcur, Ctx.retire_pc, State.cur_countCmd]
    rfl
  · exact (State.ctx_modCur_ne t _ (hhand ▸ hm)).trans ((State.ctx_of_frame h m).trans (SameContextsBut.countCmd m hm))

end

section
variable {s : State} {cube stn inbox : Nat} {k : Cmd} {g : Option Guard}

@[simp] theorem State.frame_dispatchCmd (n : Nat) (c : CmdMsg) : (s.dispatchCmd n c).frame = s.frame := by
  unfold State.dispatchCmd
  split
  · rfl
  · exact State.frame_beginPublication ..

/-- A command that is sent on its way has been issued. -/
theorem State.issued_sent : s.issued ((s.countCmd k).dispatchCmd s.hand.at_.stn (s.cmdOf cube stn inbox k)).retire cube stn inbox k := by
  obtain ⟨hc3, hpend, hfiles, hpc, hctx, hmem⟩ :=
    State.retire_of_countCmd (State.frame_dispatchCmd (s := s.countCmd k) s.hand.at_.stn (s.cmdOf cube stn inbox k))
  refine ⟨hc3, hpend, hfiles, hpc, hctx, hmem, fun hcube hstn => ?_, fun hfar => ?_⟩
  · have hnear : (s.cmdOf cube stn inbox k).cube = (s.countCmd k).cube ∧ (s.cmdOf cube stn inbox k).stn = s.hand.at_.stn := ⟨hcube, hstn⟩
    rw [State.dispatchCmd, if_pos hnear]
    rfl
  · have hfar' : ¬((s.cmdOf cube stn inbox k).cube = (s.countCmd k).cube ∧ (s.cmdOf cube stn inbox k).stn = s.hand.at_.stn) :=
      fun h => hfar.elim (fun hn => hn h.1) (fun hn => hn h.2)
    have hhere : ((s.countCmd k).dispatchCmd s.hand.at_.stn (s.cmdOf cube stn inbox k)).hand = s.hand :=
      (State.hand_of_frame (State.frame_dispatchCmd ..)).trans rfl
    rw [State.here, State.retire_hand, hhere, State.stn_retire, State.retire_net, State.dispatchCmd, if_neg hfar']
    exact ⟨State.beginPublication_pending _, fun hd hp hw =>
      State.beginPublication_clean (s := s.countCmd k) (d := ⟨s.cube, s.hand.at_.stn, 0, _⟩) hd hp hw⟩

/-- A command of the acting context is issued, or held, as the statements about instructions that issue commands say. -/
theorem State.issues_runCmd {m : Exec Unit} {r : State} (hm : m r = Exec.issueCmd cube stn inbox k g s)
    (hr : bindOf r.cur g = bindOf s.cur g) : s.issues (runCmd g m r) g cube stn inbox k := by
  refine ⟨fun hb hw => ?_, fun hd hh => ?_⟩
  · refine ⟨_, runCmd_ok (by rw [hr, hb]; simp) (hm.trans (Exec.issueCmd_sent hb hw)), State.issued_sent⟩
  · have hb : bindRuns (bindOf r.cur g) ≠ some false := fun hf => by
      rw [hr] at hf
      cases e : bindOf s.cur g <;> rw [e] at hf hd <;> simp_all [bindRuns]
    obtain ⟨hc3, hpend, hfiles, hpc, hctx, hmem⟩ :=
      State.retire_of_countCmd (t := s.holdCmd g (s.cmdOf cube stn inbox k) k) (s := s) (k := k) rfl
    refine ⟨_, ⟨s.cmdOf cube stn inbox k, s.hand.at_.core, s.hand.at_.ctx, bindOf s.cur g, countedCmd k⟩,
      runCmd_ok hb (hm.trans (Exec.issueCmd_held hd hh)), ?_, rfl, rfl, hc3, hpend, rfl, hfiles, hpc, hctx, hmem⟩
    rw [State.here, State.stn_retire, State.holdCmd]
    exact congrArg (fun x : Station => x.eng.heldCmds) (State.stn_modEng_self ..)

end

end Sys2Proof.Machine
end

section
/-! SUPPORT. Commands and results that arrive, and the result FIFO (R26, R27, R164, R165). -/

namespace Sys2Proof.Machine

/-! ## Commands that arrive -/

section
variable {s : State} {c : CmdMsg} {l : Loc} {tid : Nat}

/-- A command without a reply address whose outcome is not quiet answers its task's FIFO. -/
theorem State.finishCmd_toFifo {n status flags : Nat} {v : Word} (hs : c.src = .task l tid) (hq : quietCmd c.cmd = false)
    (hr : c.cmd.reply = 0) : s.finishCmd n c [] status flags v =
      s.send (.resultOrStatus ⟨c.tid, entryWord flags status c.cmd.tag, v, true, true, true⟩) := by
  simp [State.finishCmd, hq, hr, State.answerTask, hs, State.sendSeq]

/-- A command that is refused as it arrives answers FAULT (R26, R301). -/
theorem execEngineCommand_refused {v : Word} (h : s.hand.msg = .engineCommand c) (hs : c.src = .task l tid) (hf : s.cmdFault c = some v)
    (hq : quietCmd c.cmd = false) (hr : c.cmd.reply = 0) (hb : cmdOp c.cmd 3 = 0) :
    execEngineCommand s = .next (s.send (.resultOrStatus ⟨c.tid, entryWord 0 3 c.cmd.tag, v, true, true, true⟩)) := by
  simp [execEngineCommand, h, hf, hq, hb, State.bitmapMsgs, hs, State.finishCmd_toFifo hs hq hr]

theorem execEngineCommand_waits (h : s.hand.msg = .engineCommand c) (hf : s.cmdFault c = none)
    (hq : (s.inboxOf c.stn c.inbox c.cmd.ptag).2 ≤ (s.inboxOf c.stn c.inbox c.cmd.ptag).1) (hi : c.inbox ≠ 2) :
    execEngineCommand s = .next (s.requeue (.engineCommand c)) := by
  simp [execEngineCommand, h, hf, hq, hi]

theorem execEngineCommand_enters (h : s.hand.msg = .engineCommand c) (hs : c.src = .task l tid) (hg : c.sig = none)
    (hf : s.cmdFault c = none)
    (hq : (s.inboxOf c.stn c.inbox c.cmd.ptag).1 < (s.inboxOf c.stn c.inbox c.cmd.ptag).2 ∨ c.inbox = 2) :
    execEngineCommand s = .next (s.enterInbox c) := by
  have hroom : ((s.inboxOf c.stn c.inbox c.cmd.ptag).2 ≤ (s.inboxOf c.stn c.inbox c.cmd.ptag).1 && c.inbox != 2) = false := by
    rcases hq with hq | hq <;> simp [hq]
  simp only [execEngineCommand, h, hf, hroom, hg, hs, Bool.false_eq_true, if_false]

/-- A tile task's opcode is none of R208's. -/
theorem opcode_ne_tile_of_wellFormed {n : Nat} {k : Cmd} (h : cmdMalformed n k = false) : k.opcode ≠ tileOpcode := by
  intro ho
  simp [cmdMalformed, ho, tileOpcode, operandBits] at h

/-- What the entry of a command changes: its inbox, and a message to an engine that was idle (R27). -/
theorem State.frame_enterInbox : (s.enterInbox c).ctxs = s.ctxs ∧ SameStorage s (s.enterInbox c) := by
  unfold State.enterInbox
  dsimp only
  repeat' split
  all_goals exact ⟨rfl, .of_eq rfl rfl rfl⟩

theorem State.enterInbox_matrix (h : c.inbox = 0) (ho : c.cmd.opcode ≠ tileOpcode) :
    ((s.enterInbox c).stn c.stn).eng.matrix.inbox = (s.stn c.stn).eng.matrix.inbox ++ [c] ∧
    ((s.stn c.stn).eng.matrix.inbox = [] → (s.enterInbox c).net = s.net ++ [matrixMsg c.stn c]) := by
  cases hq : (s.stn c.stn).eng.matrix.inbox <;> simp [State.enterInbox, h, ho, hq]
theorem State.enterInbox_copy (h : c.inbox = 1) :
    ((s.enterInbox c).stn c.stn).eng.copy.inbox = (s.stn c.stn).eng.copy.inbox ++ [c] ∧
    ((s.stn c.stn).eng.copy.inbox = [] → (s.enterInbox c).net = s.net ++ [.cpchainCommand c.stn]) := by
  cases hq : (s.stn c.stn).eng.copy.inbox <;> simp [State.enterInbox, h, hq]
theorem State.enterInbox_bank (h : c.inbox = 2) :
    Map.get [] ((s.enterInbox c).vault c.stn).queues c.cmd.ptag = Map.get [] (s.vault c.stn).queues c.cmd.ptag ++ [c] ∧
    (s.enterInbox c).net = s.net ++ [.bkrunCommand c.stn] := by
  simp [State.enterInbox, h, State.vault, State.modVault]
theorem State.enterInbox_coll (h : c.inbox = 3) :
    ((s.enterInbox c).stn c.stn).eng.coll.inbox = (s.stn c.stn).eng.coll.inbox ++ [c] ∧
    ((s.stn c.stn).eng.coll.inbox = [] → (s.enterInbox c).net = s.net ++ [collMsg c.stn c]) := by
  cases hq : (s.stn c.stn).eng.coll.inbox <;> simp [State.enterInbox, h, hq]

end

/-! ## Results that arrive -/

section
variable {s : State} {r : ResultMsg} {l : Loc}

/-- A result enters the FIFO of the context that runs its task and wakes a POP that is parked there (R27, R165). -/
def Flow.takeResult (f : Flow) (r : ResultMsg) : Flow :=
  { f with fifo := f.fifo ++ [(r.entry, r.value)], fifopend := if r.counted then f.fifopend - 1 else f.fifopend
           susp := match f.susp with | some (.park .pop _) => some (.park .pop true) | x => x }

/-- C3 falls for a result that ends its command. -/
def State.dropC3 (s : State) (r : ResultMsg) : State := if r.dropsC3 then s.setC3 r.tid (s.c3of r.tid - 1) else s

theorem State.c3of_dropC3 : (s.dropC3 r).c3of r.tid = s.c3of r.tid - (if r.dropsC3 then 1 else 0) := by
  unfold State.dropC3
  cases r.dropsC3 <;> simp [State.c3of, State.setC3]
@[simp] theorem State.ctx_dropC3 (m : Loc) : (s.dropC3 r).ctx m = s.ctx m := by
  unfold State.dropC3
  split <;> rfl
theorem SameStorage.dropC3 : SameStorage s (s.dropC3 r) := by
  unfold State.dropC3
  split <;> exact .of_eq rfl rfl rfl

/-- A result of a task of this cube goes where `deliverResult` says. -/
theorem execResultOrStatus_here (h : s.hand.msg = .resultOrStatus r) (ht : r.tid < 2 ^ 56) (hl : s.whereIs r.tid = some l) :
    execResultOrStatus s = .next (if (s.deliverResult r).1 then (s.deliverResult r).2.dropC3 r
      else (s.deliverResult r).2.requeue (.resultOrStatus r)) := by
  have hmod : r.tid % 2 ^ 56 = r.tid := Nat.mod_eq_of_lt ht
  have hmoved : s.movedTo r.tid = none := by simp [State.movedTo, hl]
  have hhere : ¬(2 ^ 56 ≤ r.tid ∧ r.tid / 2 ^ 56 - 1 ≠ s.cube) := by omega
  simp only [execResultOrStatus, h, if_neg hhere, hmod, hmoved]
  cases (s.deliverResult r).1 <;> simp [State.dropC3]
theorem execResultOrStatus_delivered {t : State} (h : s.hand.msg = .resultOrStatus r) (ht : r.tid < 2 ^ 56)
    (hl : s.whereIs r.tid = some l) (hd : s.deliverResult r = (true, t)) : execResultOrStatus s = .next (t.dropC3 r) := by
  simp [execResultOrStatus_here h ht hl, hd]
theorem execResultOrStatus_waits {t : State} (h : s.hand.msg = .resultOrStatus r) (ht : r.tid < 2 ^ 56)
    (hl : s.whereIs r.tid = some l) (hd : s.deliverResult r = (false, t)) :
    execResultOrStatus s = .next (t.requeue (.resultOrStatus r)) := by
  simp [execResultOrStatus_here h ht hl, hd]

theorem State.deliverResult_taken (hf : r.toFifo = true) (hl : s.whereIs r.tid = some l) (hs : (s.ctx l).flow.saved = false)
    (hn : (s.ctx l).flow.fifo.length < 16) :
    s.deliverResult r = (true, s.modCtx l (fun c => { c with flow := c.flow.takeResult r })) := by
  have hn' : ¬16 ≤ (s.ctx l).flow.fifo.length := by omega
  simp [State.deliverResult, hf, hl, hs, hn']
  rfl
theorem State.deliverResult_waits (hf : r.toFifo = true) (hl : s.whereIs r.tid = some l)
    (hn : (s.ctx l).flow.saved = true ∨ 16 ≤ (s.ctx l).flow.fifo.length) : s.deliverResult r = (false, s) := by
  have hn' : ((s.ctx l).flow.saved || decide (16 ≤ (s.ctx l).flow.fifo.length)) = true := by simpa using hn
  simp only [State.deliverResult, hf, hl, hn', Bool.not_true, Bool.false_eq_true, if_false, if_true]
theorem State.deliverResult_memory (hf : r.toFifo = false) : s.deliverResult r = (true, s) := by simp [State.deliverResult, hf]

end

/-! ## Contexts that stall for room -/

/-- A context that stalls for room issues again. -/
def Ctx.unstalled (c : Ctx) : Ctx := if c.flow.waitOn = some 0 then { c with flow := { c.flow with waitOn := none } } else c

theorem Ctx.unstalled_unstalled (c : Ctx) : c.unstalled.unstalled = c.unstalled := by
  unfold Ctx.unstalled
  split <;> simp [*]

/-- Every context among some locations is released, once or several times alike. -/
theorem State.ctx_foldl_unstalled (ls : List Loc) (s : State) (m : Loc) :
    (ls.foldl (fun u l => u.modCtx l Ctx.unstalled) s).ctx m =
      if ∃ l ∈ ls, locIx m = locIx l then (s.ctx m).unstalled else s.ctx m := by
  induction ls generalizing s with
  | nil => simp
  | cons l ls ih =>
    rw [List.foldl_cons, ih]
    by_cases hl : locIx m = locIx l
    · have hs : (s.modCtx l Ctx.unstalled).ctx m = (s.ctx m).unstalled := by
        rw [State.modCtx, State.ctx_setCtx, if_pos hl, State.ctx, State.ctx, hl]
      simp [hs, hl, Ctx.unstalled_unstalled]
    · simp [hl, State.ctx_modCtx_ne s _ hl]

theorem State.frame_foldl_modCtx (f : Ctx → Ctx) (ls : List Loc) (s : State) :
    SameStorage s (ls.foldl (fun u l => u.modCtx l f) s) ∧ (ls.foldl (fun u l => u.modCtx l f) s).net = s.net := by
  refine foldl_keeps (p := fun t : State => SameStorage s t ∧ t.net = s.net) (fun t l ht => ?_) ls ⟨.of_eq rfl rfl rfl, rfl⟩
  exact ht

theorem execPushStallRelease_eq {s : State} {n inbox : Nat} (h : s.hand.msg = .pushStallRelease n inbox) :
    execPushStallRelease s = .next ((stnLocs n).foldl (fun u l => u.modCtx l Ctx.unstalled) s) := by
  simp only [execPushStallRelease, h]
  rfl

theorem mem_stnLocs {n core k : Nat} (hc : core < 8) (hk : k < 4) : (⟨n, core, k⟩ : Loc) ∈ stnLocs n := by
  refine List.mem_map.2 ⟨core * 4 + k, List.mem_range.2 (by omega), ?_⟩
  have h1 : (core * 4 + k) / 4 = core := by omega
  have h2 : (core * 4 + k) % 4 = k := by omega
  rw [h1, h2]

/-! ## The result FIFO -/

section
variable {s t : State}

theorem OnlyCur.modCur (f : Ctx → Ctx) : OnlyCur s (s.modCur f) (f s.cur) :=
  ⟨State.cur_modCur .., fun _ hm => State.ctx_modCur_ne s f hm, rfl⟩
theorem OnlyCur.modCur_of {c : Ctx} (h : OnlyCur s t c) (f : Ctx → Ctx) : OnlyCur s (t.modCur f) (f c) := by
  obtain ⟨hc, ho, he⟩ := h
  have hh : t.hand = s.hand := by rw [he]
  refine ⟨by rw [State.cur_modCur, hc], fun m hm => (State.ctx_modCur_ne t f (hh ▸ hm)).trans (ho m hm), ?_⟩
  rw [he]
  rfl

/-- The acting context with another FIFO, `x` and `y` in a register pair, and its instruction completed. -/
def Ctx.popped (c : Ctx) (a : Nat) (fifo : List (Word × Word)) (x y : Word) (n : Nat) : Ctx :=
  (((({ c with flow := { c.flow with fifo := fifo } } : Ctx).writeG a x).writeG (a + 1) y).retire n)

/-- The three changes that a POP of an entry makes, one after another. -/
theorem OnlyCur.popped {a : Nat} {fifo : List (Word × Word)} {x y : Word} :
    OnlyCur s ((((s.modCur (fun c => { c with flow := { c.flow with fifo := fifo } })).modCur (fun c => c.writeG a x)).modCur
      (fun c => c.writeG (a + 1) y)).retire) (s.cur.popped a fifo x y s.hand.words) :=
  (((OnlyCur.modCur _).modCur_of _).modCur_of _).modCur_of _
/-- The same where the FIFO was empty and stays so. -/
theorem OnlyCur.popped_empty {a : Nat} {x y : Word} (h : s.cur.flow.fifo = []) :
    OnlyCur s (((s.modCur (fun c => c.writeG a x)).modCur (fun c => c.writeG (a + 1) y)).retire) (s.cur.popped a [] x y s.hand.words) := by
  rw [← h]
  exact ((OnlyCur.modCur _).modCur_of _).modCur_of _

variable {a wc : Nat} (hwc : s.waitCount s.hand.at_ wc = 0)
include hwc

theorem execPop_entry {e : Word × Word} {es : List (Word × Word)} (hf : s.cur.flow.fifo = e :: es) :
    ∃ t, execPop a wc s = .next t ∧ OnlyCur s t (s.cur.popped a es e.1 e.2 s.hand.words) := by
  refine ⟨_, ?_, OnlyCur.popped⟩
  rw [execPop, runSelf, Exec.bind_ok s (Exec.waitWC_zero hwc), Exec.bind_ok s (Exec.ctx_run s), hf]
  rfl
theorem execTrypop_entry {e : Word × Word} {es : List (Word × Word)} (hf : s.cur.flow.fifo = e :: es) :
    ∃ t, execTrypop a wc s = .next t ∧ OnlyCur s t (s.cur.popped a es e.1 e.2 s.hand.words) := by
  refine ⟨_, ?_, OnlyCur.popped⟩
  rw [execTrypop, runSeq, Exec.bind_ok s (Exec.waitWC_zero hwc), Exec.bind_ok s (Exec.ctx_run s), hf]
  rfl
theorem execTrypop_empty (hf : s.cur.flow.fifo = []) :
    ∃ t, execTrypop a wc s = .next t ∧ OnlyCur s t (s.cur.popped a [] (w64 (255 * 2 ^ 32)) 0 s.hand.words) := by
  refine ⟨_, ?_, OnlyCur.popped_empty hf⟩
  rw [execTrypop, runSeq, Exec.bind_ok s (Exec.waitWC_zero hwc), Exec.bind_ok s (Exec.ctx_run s), hf]
  rfl
theorem execPop_empty (hf : s.cur.flow.fifo = []) (hp : s.cur.flow.fifopend = 0) :
    ∃ t, execPop a wc s = .next t ∧ OnlyCur s t (s.cur.popped a [] (w64 (255 * 2 ^ 32)) 0 s.hand.words) := by
  refine ⟨_, ?_, OnlyCur.popped_empty hf⟩
  rw [execPop, runSelf, Exec.bind_ok s (Exec.waitWC_zero hwc), Exec.bind_ok s (Exec.ctx_run s), hf]
  simp only [hp, if_true]
  rfl
/-- A POP of a result that is still to come parks its task (R165). -/
theorem execPop_parks (hf : s.cur.flow.fifo = []) (hp : s.cur.flow.fifopend ≠ 0) (hu : s.cur.sup = false) :
    execPop a wc s = .next (s.modCur (fun c => let d := c.charge s.hand.words
      { d with flow := { d.flow with susp := some (.park .pop false) } })) := by
  rw [execPop, runSelf, Exec.bind_ok s (Exec.waitWC_zero hwc), Exec.bind_ok s (Exec.ctx_run s), hf]
  simp only [hp, hu, if_false, Bool.false_eq_true]
  rfl
theorem execPop_stalls (hf : s.cur.flow.fifo = []) (hp : s.cur.flow.fifopend ≠ 0) (hu : s.cur.sup = true) :
    execPop a wc s = .next s := by
  rw [execPop, runSelf, Exec.bind_ok s (Exec.waitWC_zero hwc), Exec.bind_ok s (Exec.ctx_run s), hf]
  simp only [hp, hu, if_false, if_true]
  rfl
theorem execRfcnt_eq : execRfcnt a wc s = .next (s.modCur (fun c =>
    c.writeG a (w64 (c.flow.fifopend % 2 ^ 16 * 2 ^ 16 + c.flow.fifo.length)))).retire := by
  rw [execRfcnt, runSeq, Exec.bind_ok s (Exec.waitWC_zero hwc)]
  rfl

end

end Sys2Proof.Machine
end

section
/-! SUPPORT. The obligation about PUSH and results (O43). -/

namespace Sys2Proof.Machine

/-- Settles O43: PUSH goes on from its read with what `State.issues_runCmd` says of the issue of a command; a command that arrives is
refused, waits or enters its inbox; a result enters its task's FIFO; POP takes the oldest entry. -/
theorem pushAndResults : Obligations.PushAndResults := by
  refine ⟨?_, ?_, ?_, ?_, ?_⟩
  · intro a b wc g bs s u hi va v runs k
    refine ⟨runCmd_discarded, fun hb hva => ?_, fun hva hread => ?_⟩
    · exact (execPush_misaligned hi hb hva).trans (by simp [va])
    have hframe := Exec.KeepsFrame.readOwn _ _ _ hread
    have hhand : u.hand = s.hand := State.hand_of_frame hframe
    have hcur : u.cur = s.cur := by rw [State.cur, State.ctx_of_frame hframe, hhand]; rfl
    obtain ⟨m, hm, hexec⟩ : ∃ m : Exec Unit, m s = pushTo g v bs u ∧ exec (.push a b wc g) s = runCmd g m s :=
      execPush_reads hi hva hread
    refine ⟨fun hb hsel => ?_, fun cube stn inbox hsel => ⟨?_, fun hb hheld hway hc hs hroom => ?_⟩⟩
    · exact hexec.trans ((runCmd_runs hb).trans (runSeq_trap s (hm.trans (pushTo_bad (hhand ▸ hsel)))))
    · exact hexec ▸ State.issues_runCmd (hm.trans (pushTo_good (hhand ▸ hsel))) (by rw [hcur])
    · have hfull := Exec.issueCmd_full (k := k) (g := g) (by rw [hcur]; exact hb) hheld (hhand ▸ hway)
        (hc.trans (State.cube_of_frame hframe).symm) (hhand ▸ hs) hroom
      refine ⟨_, hexec.trans ((runCmd_runs hb).trans (runSeq_stall s (hm.trans ((pushTo_good (hhand ▸ hsel)).trans hfull)))),
        ?_, ?_, ?_, rfl, (State.c3_of_frame hframe :)⟩
      all_goals rw [State.cur_modCur, hcur]
  · intro c l tid s h hs hg hin bad right places e queue
    have hcube : c.src ≠ .cube := by rw [hs]; exact nofun
    have hbad : ∀ v, s.cmdFault c = some v → bad v := fun v hf hq hr hb =>
      ⟨_, execEngineCommand_refused h hs hf hq hr hb, fun _ => rfl, .of_eq rfl rfl rfl, rfl⟩
    have hok : right → s.cmdFault c = none := fun ⟨h1, h2⟩ => by simp [State.cmdFault, hcube, h1, h2]
    refine ⟨fun hm => hbad _ (by simp [State.cmdFault, hcube, hm]), fun hm hp => hbad _ (by simp [State.cmdFault, hcube, hm, hp]),
      fun hr hq hb => execEngineCommand_waits h (hok hr) hq hb, fun hr hq => ?_⟩
    obtain ⟨hctx, hst⟩ := State.frame_enterInbox (s := s) (c := c)
    refine ⟨_, execEngineCommand_enters h hs hg (hok hr) hq, fun m => by rw [State.ctx, hctx]; rfl, hst, fun hn => ?_,
      State.enterInbox_copy, State.enterInbox_bank, State.enterInbox_coll⟩
    exact State.enterInbox_matrix hn (opcode_ne_tile_of_wellFormed hr.1)
  · intro r l s h ht hl f dropped
    refine ⟨fun hf hs hn => ?_, fun hf hn => execResultOrStatus_waits h ht hl (State.deliverResult_waits hf hl hn), fun hf =>
      ⟨_, execResultOrStatus_delivered h ht hl (State.deliverResult_memory hf), State.ctx_dropC3, .dropC3, State.c3of_dropC3⟩⟩
    refine ⟨_, execResultOrStatus_delivered h ht hl (State.deliverResult_taken hf hl hs hn), fun m hm => ?_,
      SameStorage.dropC3 (s := s.modCtx l _), ?_⟩
    · exact (State.ctx_dropC3 m).trans (State.ctx_modCtx_ne s _ hm)
    · rw [State.ctx_dropC3, State.ctx_modCtx_self]
      refine ⟨rfl, ?_, fun w hw => by simp [Flow.takeResult, f, hw], rfl, State.c3of_dropC3⟩
      cases hc : r.counted <;> simp [Flow.takeResult, f, hc]
  · intro stn inbox core k s h hc hk
    obtain ⟨hst, hnet⟩ := State.frame_foldl_modCtx Ctx.unstalled (stnLocs stn) s
    refine ⟨_, execPushStallRelease_eq h, hst, hnet, ?_⟩
    rw [State.ctx_foldl_unstalled, if_pos ⟨_, mem_stnLocs hc hk, rfl⟩]
    rfl
  · intro a wc s hwc c gives
    refine ⟨fun e es hf => ⟨execPop_entry hwc hf, execTrypop_entry hwc hf⟩, fun hf => ⟨execTrypop_empty hwc hf, execPop_empty hwc hf,
      fun hp hu => ⟨_, execPop_parks hwc hf hp hu, .modCur _⟩, execPop_stalls hwc hf⟩, _, execRfcnt_eq hwc, ?_⟩
    exact (OnlyCur.modCur _).modCur_of _

end Sys2Proof.Machine
end

section
/-! SUPPORT. The state after reset (O59). -/

namespace Sys2Proof.Machine

@[simp] theorem Map.get_nil {β : Type} (d : β) (a : Nat) : Map.get d [] a = d := rfl

theorem State.ctx_reset (l : Loc) : State.reset.ctx l = {} := rfl
theorem State.stn_reset (n : Nat) : State.reset.stn n = {} := rfl

/-- The weights that a station starts with. -/
theorem vweight_reset {i : Nat} (h : i < 8) : (0x0101010101010101 : Word).toNat / 2 ^ (8 * i) % 256 = 1 := by
  interval_cases i <;> rfl

/-- Time passes over the state after reset without any other effect: no timer is set. -/
theorem State.tick_reset (n : Nat) : ∃ k, State.reset.tick n = { State.reset with datum := k, counts := { steps := 1 } } := by
  unfold State.tick State.advanceTo
  split <;> exact ⟨_, rfl⟩

/-- In a state where nobody can act and no timer is set, a turn changes nothing. -/
theorem takeTurn_idle {s : State} (ht : s.timers = []) (hc : s.candidates = []) (u : State) (hu : u.timers = []) :
    takeTurn s.defaultWho u = .next u := by
  simp [State.defaultWho, ht, hc, takeTurn, whoOk, runTaken, State.takeTimer, hu]

theorem step_reset : ∃ k, step State.reset = .next { State.reset with datum := k, counts := { steps := 1, rr := 1 } } := by
  obtain ⟨k, hk⟩ := State.tick_reset (Config.elapsed 0)
  have hs : step State.reset = takeTurn (State.reset.tick (Config.elapsed 0)).defaultWho
      { State.reset.tick (Config.elapsed 0) with
        counts := { (State.reset.tick (Config.elapsed 0)).counts with rr := (State.reset.tick (Config.elapsed 0)).counts.rr + 1 } } := rfl
  rw [hs, hk]
  exact ⟨k, takeTurn_idle rfl rfl _ rfl⟩

/-- Settles O59: the state after reset is written out, and nothing in it can act but time. -/
theorem resetState : Obligations.ResetState := by
  refine ⟨fun _ => rfl, rfl, rfl, State.canonical_reset, fun l => ?_, fun _ => rfl, fun n => ?_, rfl, rfl, rfl, rfl, rfl, rfl, rfl, step_reset⟩
  · rw [State.ctx_reset]
    refine ⟨rfl, rfl, fun r => ?_, fun _ => rfl, rfl, rfl, rfl, rfl, rfl, rfl, rfl, rfl, rfl, rfl, rfl, rfl⟩
    simp [Ctx.readG, Ctx.banked]
  · rw [State.stn_reset]
    exact ⟨fun i hi => vweight_reset hi, fun _ => rfl, fun _ _ => rfl, rfl, rfl, rfl, rfl, rfl, rfl, rfl⟩

end Sys2Proof.Machine
end

section
/-! SUPPORT. Integer division (O2). -/

namespace Sys2Proof.Machine

/-! ## Writes of a register -/

/-- A change of the acting context depends on nothing but that context. -/
theorem State.modCur_congr {s : State} {f g : Ctx → Ctx} (h : f s.cur = g s.cur) : s.modCur f = s.modCur g :=
  congrArg (s.setCtx s.hand.at_) h

/-- A register holds what was last written to it, so that writes of two values differ. -/
theorem Ctx.writeG_inj {c : Ctx} {r : Nat} {v w : Word} (hr : r ≠ 0) (h : (c.writeG r v).files = (c.writeG r w).files) : v = w := by
  have hp : c.phys r ≠ 0 := by unfold Ctx.phys; split <;> omega
  have hw : (c.writePhys (c.phys r) v).files = (c.writePhys (c.phys r) w).files := by simpa [Ctx.writeG, hr] using h
  simp only [Ctx.writePhys, hp, if_false] at hw
  split at hw
  · have hb := congrArg (fun f => Map.get 0 f.bank (c.phys r - 64)) hw
    simpa using hb
  · have hg := congrArg (fun f => Map.get 0 f.g (c.phys r)) hw
    simpa using hg

theorem State.writes_inj {s : State} {r : Nat} {v w : Word} (hr : r ≠ 0) (h : s.writes r v = s.writes r w) : v = w := by
  have hc := congrArg (fun t => t.cur.files) h
  simp only [State.writes, State.cur_modCur, Ctx.retire_files] at hc
  exact Ctx.writeG_inj hr hc

/-- A two-source integer operation whose sources are at hand writes its result. -/
theorem alu_ready {o : AluOps} {s : State} (f : Word → Word → Word) (h : s.ready (o.b :: xRegs o.c)) :
    alu o f s = .next (s.writes o.a (f (s.cur.readG o.b) (s.cur.xval o.c))) :=
  (scalar_ready s _ h).trans (congrArg Host.Outcome.next (State.modCur_congr rfl))

/-! ## Quotient and remainder (R39) -/

/-- The model's quotient is that of the words: intMin / −1 wraps to intMin. -/
theorem divQ_eq (uns : Bool) (a b : Word) :
    divQ uns a b = if b = 0 then BitVec.allOnes 64 else if uns then a / b else a.sdiv b := by
  unfold divQ valOf wInt
  cases uns with
  | true =>
    have h : BitVec.ofInt 64 ((a.toNat : Int).tdiv b.toNat) = a / b := by
      rw [← Int.ofNat_tdiv, BitVec.ofInt_natCast, ← BitVec.toNat_udiv, BitVec.ofNat_toNat, BitVec.setWidth_eq]
    simp only [if_true, h]
  | false =>
    have h : BitVec.ofInt 64 (a.toInt.tdiv b.toInt) = a.sdiv b :=
      BitVec.eq_of_toInt_eq (by rw [BitVec.toInt_sdiv, BitVec.toInt_ofInt])
    simp [h]

theorem divR_eq (uns : Bool) (a b : Word) : divR uns a b = if b = 0 then a else if uns then a % b else a.srem b := by
  unfold divR valOf wInt
  cases uns with
  | true =>
    have h : BitVec.ofInt 64 ((a.toNat : Int).tmod b.toNat) = a % b := by
      rw [← Int.ofNat_tmod, BitVec.ofInt_natCast, ← BitVec.toNat_umod, BitVec.ofNat_toNat, BitVec.setWidth_eq]
    simp only [if_true, h]
  | false =>
    have h : BitVec.ofInt 64 (a.toInt.tmod b.toInt) = a.srem b := by rw [← BitVec.toInt_srem, BitVec.ofInt_toInt]
    simp [h]

/-- The remainder is the dividend minus the product of quotient and divisor. -/
theorem divR_eq_sub (uns : Bool) {a b : Word} (hb : b ≠ 0) : divR uns a b = a - divQ uns a b * b := by
  unfold divR divQ
  simp only [hb, if_false]
  have hv : ∀ w : Word, wInt (valOf uns w) = w := fun w => by cases uns <;> simp [wInt, valOf]
  have hr : (valOf uns a).tmod (valOf uns b) = valOf uns a + -((valOf uns a).tdiv (valOf uns b) * valOf uns b) := by
    rw [Int.tmod_def, Int.mul_comm]
    exact Int.sub_eq_add_neg
  calc wInt ((valOf uns a).tmod (valOf uns b))
      = wInt (valOf uns a) + -(wInt ((valOf uns a).tdiv (valOf uns b)) * wInt (valOf uns b)) := by
        rw [hr, wInt, BitVec.ofInt_add, BitVec.ofInt_neg, BitVec.ofInt_mul]
        rfl
    _ = a - wInt ((valOf uns a).tdiv (valOf uns b)) * b := by rw [hv, hv, BitVec.sub_eq_add_neg]

theorem exec_div {o : AluOps} {s : State} (h : s.ready (o.b :: xRegs o.c)) :
    exec (.div o) s = .next (s.writes o.a (divQ o.uns (s.cur.readG o.b) (s.cur.xval o.c))) := alu_ready (divQ o.uns) h
theorem exec_rem {o : AluOps} {s : State} (h : s.ready (o.b :: xRegs o.c)) :
    exec (.rem o) s = .next (s.writes o.a (divR o.uns (s.cur.readG o.b) (s.cur.xval o.c))) := alu_ready (divR o.uns) h

/-- Settles O2: both results are those of the words, and a register that holds a result fixes it. -/
theorem division : Obligations.Division := by
  intro o s h a b
  refine ⟨(exec_div h).trans (by rw [divQ_eq]), (exec_rem h).trans (by rw [divR_eq]), fun q r hq hr ha hb => ?_⟩
  rw [exec_div h, Host.Outcome.next.injEq] at hq
  rw [exec_rem h, Host.Outcome.next.injEq] at hr
  rw [← State.writes_inj ha hq, ← State.writes_inj ha hr]
  exact divR_eq_sub o.uns hb

end Sys2Proof.Machine
end

section
/-! SUPPORT. Scalar floating-point results (O7). -/

namespace Sys2Proof.Machine

/-! ## How a scalar floating operation runs -/

section
variable (c : Ctx) (k : Csrs) (r : Nat) (v : Word)

/-- Control registers play no part in a register write. -/
theorem Ctx.writePhys_withCsr : ({ c with csr := k } : Ctx).writePhys r v = { c.writePhys r v with csr := k } := by
  unfold Ctx.writePhys
  split
  · rfl
  · split <;> rfl
theorem Ctx.writeG_withCsr : ({ c with csr := k } : Ctx).writeG r v = { c.writeG r v with csr := k } := by
  unfold Ctx.writeG
  split
  · rfl
  · have hp : ({ c with csr := k } : Ctx).phys r = c.phys r := rfl
    rw [hp, Ctx.writePhys_withCsr]

end

theorem scalarF_ready {srcs : List Nat} {a : Nat} {rm : Rm} {f : Ctx → Nat → Word × Nat} {s : State} {x : Nat × Nat}
    (h : s.ready srcs) (hv : rm = .rs → s.vecPending s.hand.at_ = false) (hx : f s.cur (drawOf rm s.cur 0) = (w64 x.1, x.2)) :
    scalarF srcs a rm f s = s.floatResult rm a x := by
  have hs : (srcs.any s.cur.owed || (decide (rm = .rs) && s.vecPending s.hand.at_)) = false := by
    have h1 : srcs.any s.cur.owed = false := by simpa [State.ready] using h
    by_cases hrm : rm = .rs
    · simp [h1, hv hrm]
    · simp [h1, hrm]
  unfold scalarF State.floatResult
  rw [hs]
  by_cases hrm : rm = .rs
  · simp only [drawOf, hrm, if_true] at hx ⊢
    simp only [hx, withFlags, Bool.false_eq_true, if_false, Ctx.writeG_withCsr]
    exact if_congr Iff.rfl rfl (congrArg Host.Outcome.next (State.modCur_congr (by simp only [Ctx.writeG_csr]; rfl)))
  · simp only [drawOf, hrm, if_false] at hx ⊢
    simp only [hx, withFlags, Bool.false_eq_true, if_false]
    exact if_congr Iff.rfl rfl (congrArg Host.Outcome.next (State.modCur_congr (by simp only [Ctx.writeG_csr]; rfl)))

/-- The same of an operation that draws nothing. -/
theorem scalarF_ne {srcs : List Nat} {a : Nat} {f : Ctx → Nat → Word × Nat} {s : State} {x : Nat × Nat} (h : s.ready srcs)
    (hx : f s.cur 0 = (w64 x.1, x.2)) : scalarF srcs a .ne f s = s.floatResult .ne a x :=
  scalarF_ready h (fun hr => by cases hr) hx

/-- The same of one whose result has no flags. -/
theorem scalarF_bits {srcs : List Nat} {a v : Nat} {g : Ctx → Nat} {s : State} (h : s.ready srcs) (hg : g s.cur = v) :
    scalarF srcs a .ne (fun c _ => (w64 (g c), 0)) s = s.floatResult .ne a (v, 0) :=
  scalarF_ne h (Prod.ext (congrArg w64 hg) rfl)

/-! ## Order -/

theorem dyadic_neg (x : FV) : x.neg.dyadic = (-x.dyadic.1, x.dyadic.2) := by
  cases x with
  | fin n m e => cases n <;> simp [FV.neg, FV.dyadic]
  | nan | inf => rfl

theorem addDyadic_swap_neg (x y : FV) : (addDyadic y.dyadic x.neg.dyadic).1 = -(addDyadic x.dyadic y.neg.dyadic).1 := by
  simp only [addDyadic, dyadic_neg, min_comm y.dyadic.2]
  ring

theorem cmpFV_swap (x y : FV) : cmpFV y x = -cmpFV x y := by
  simp only [cmpFV, addDyadic_swap_neg x y]
  split_ifs <;> omega

/-! ## Minimum and maximum (R46) -/

/-- The flags of an operation that a signalling NaN alone makes invalid. -/
theorem orF_snanFlag (x y : FV) : orF x.snanFlag y.snanFlag = if x = .nan true ∨ y = .nan true then flNV else 0 := by
  have h : ∀ z : FV, z.snanFlag = if z = .nan true then flNV else 0 := fun z => by
    cases z with
    | nan s => cases s <;> rfl
    | inf | fin => rfl
  rw [h, h]
  by_cases hx : x = .nan true <;> by_cases hy : y = .nan true <;> simp [hx, hy, orF, flNV]

section
variable {f : Fmt} {mx np : Bool} {a b : Nat}

theorem fminmax_nan (h : (decodeF f a).isNan = true ∨ (decodeF f b).isNan = true) : fminmax f mx np a b =
    (if np then (if (decodeF f a).isNan = true ∧ (decodeF f b).isNan = true then f.nanCode else if (decodeF f a).isNan = true then b else a)
      else f.nanCode, orF (decodeF f a).snanFlag (decodeF f b).snanFlag) := by
  have hor : ((decodeF f a).isNan || (decodeF f b).isNan) = true := by simpa using h
  simp only [fminmax, hor, if_true, Prod.mk.injEq, and_true]
  cases np <;> cases (decodeF f a).isNan <;> cases (decodeF f b).isNan <;> rfl

/-- One operand orders below another: it is less, or it is −0 and the other +0. -/
def FV.below (x y : FV) : Prop := cmpFV x y < 0 ∨ (cmpFV x y = 0 ∧ x.isNeg = true ∧ y.isNeg = false)

theorem fminmax_below (ha : (decodeF f a).isNan = false) (hb : (decodeF f b).isNan = false) (h : (decodeF f a).below (decodeF f b)) :
    fminmax f mx np a b = (if mx then b else a, orF (decodeF f a).snanFlag (decodeF f b).snanFlag) := by
  simp only [fminmax, ha, hb]
  rcases h with h | ⟨h0, hn, -⟩
  · simp [h, Int.ne_of_lt h]
  · simp [h0, hn]
theorem fminmax_above (ha : (decodeF f a).isNan = false) (hb : (decodeF f b).isNan = false) (h : (decodeF f b).below (decodeF f a)) :
    fminmax f mx np a b = (if mx then a else b, orF (decodeF f a).snanFlag (decodeF f b).snanFlag) := by
  simp only [fminmax, ha, hb]
  rw [FV.below, cmpFV_swap] at h
  rcases h with h | ⟨h0, hn, hp⟩
  · have h1 : ¬cmpFV (decodeF f a) (decodeF f b) = 0 := by omega
    have h2 : ¬cmpFV (decodeF f a) (decodeF f b) < 0 := by omega
    simp [h1, h2]
  · have h1 : cmpFV (decodeF f a) (decodeF f b) = 0 := by omega
    simp [h1, hn, hp]

end

/-! ## Signs (R44) -/

theorem signBit_fmtOf (p : FFmt) : (fmtOf p).signBit = 2 ^ ((fmtOf p).width - 1) := by cases p <;> rfl

/-- Inverting the highest bit of a number of `k + 1` bits. -/
theorem xor_two_pow {b k : Nat} (h : b < 2 ^ (k + 1)) : b ^^^ 2 ^ k = (1 - b / 2 ^ k) * 2 ^ k + b % 2 ^ k := by
  have hm : b % 2 ^ k < 2 ^ k := Nat.mod_lt _ (Nat.two_pow_pos k)
  have hlow : (b % 2 ^ k) ^^^ 2 ^ k = 2 ^ k + b % 2 ^ k := by
    rw [← Nat.mul_one (2 ^ k), Nat.two_pow_add_eq_or_of_lt (by simpa using hm) 1, Nat.mul_one]
    refine Nat.eq_of_testBit_eq fun i => ?_
    by_cases hi : k = i
    · subst hi
      simp [Nat.testBit_lt_two_pow hm]
    · simp [hi]
  have hd : b / 2 ^ k < 2 := Nat.div_lt_of_lt_mul (by rwa [← Nat.pow_succ])
  have hb := Nat.div_add_mod b (2 ^ k)
  generalize b % 2 ^ k = m at *
  obtain h0 | h1 := Nat.le_one_iff_eq_zero_or_eq_one.1 (Nat.lt_succ_iff.1 hd)
  · rw [h0] at hb ⊢
    rw [← hb]
    simpa using hlow
  · rw [h1] at hb ⊢
    rw [← hb, Nat.mul_one, ← hlow, Nat.xor_assoc, Nat.xor_self]
    simp

/-! ## Compares (R102) -/

theorem fcompare_nan {op : Nat} {x y : FV} (h : x.isNan = true ∨ y.isNan = true) :
    fcompare op x y = (op == 3, if op = 1 ∨ op = 2 then flNV else orF x.snanFlag y.snanFlag) := by
  simp [fcompare, h]

theorem fcompare_ordered {op : Nat} {x y : FV} (hx : x.isNan = false) (hy : y.isNan = false) : fcompare op x y =
    (match op with | 0 => decide (cmpFV x y = 0) | 1 => decide (cmpFV x y < 0) | 2 => decide (cmpFV x y ≤ 0) | _ => false, 0) := by
  simp [fcompare, hx, hy] <;> rfl

end Sys2Proof.Machine
end

section
/-! SUPPORT. Rounding (R40): what a format holds is its own rounding, and rounding to nearest. -/

namespace Sys2Proof.Machine

/-! ## Magnitudes that are whole -/

theorem floorAt_rat_self (m : Nat) (e : Int) : (Mag.rat m 1 e).floorAt e = (m, true) := by
  simp [Mag.floorAt, Nat.mod_one]

/-- The leading bit of a whole number of steps. -/
theorem lead_rat {m : Nat} (hm : m ≠ 0) (e : Int) : (Mag.rat m 1 e).lead = (Nat.log2 m : Int) + e := by
  have h1 : 1 ≤ ((Mag.rat m 1 e).floorAt ((Nat.log2 m : Int) + e)).1 := by
    have hp : (2 : Nat) ^ Nat.log2 m ≤ m := Nat.log2_self_le hm
    by_cases h0 : Nat.log2 m = 0
    · rw [h0]
      simp [Mag.floorAt, Nat.one_le_iff_ne_zero, hm]
    · have hn : ¬(Nat.log2 m : Int) + e ≤ e := by omega
      simpa [Mag.floorAt, hn, h0] using (Nat.one_le_div_iff (Nat.two_pow_pos _)).2 hp
  have hl : Nat.log2 1 = 0 := rfl
  simp [Mag.lead, hl, h1]

theorem roundAt_exact {rm : Rm} {neg : Bool} {draw t : Nat} {x : Mag} {q : Int} (h : x.floorAt q = (t, true)) :
    roundAt rm neg draw x q = (t, true, false) := by
  simp [roundAt, h]

/-! ## The grid of a format (R31, R32) -/

/-- The least exponent of a format's grid. -/
def Fmt.qmin (f : Fmt) : Int := 1 - (f.bias : Int) - f.fbits

/-- A significand and an exponent that a format writes with exponent field `x` and fraction `y`. -/
def Fmt.holds (f : Fmt) (x y m : Nat) (e : Int) : Prop :=
  y < 2 ^ f.fbits ∧ ((x = 0 ∧ m = y ∧ e = f.qmin) ∨ (x ≠ 0 ∧ m = 2 ^ f.fbits + y ∧ e = (x : Int) - f.bias - f.fbits))

/-- Whether a code has its sign bit set; no code of E3M5 has one. -/
def Fmt.signOf (f : Fmt) (code : Nat) : Bool := f.signBit != 0 && bitAt code (f.width - 1)

/-- A code is its sign, its exponent field and its fraction. -/
theorem code_eq {f : Fmt} {code : Nat} (h : code < 2 ^ f.width) :
    code = f.withSign (f.signOf code) (code / 2 ^ f.fbits % 2 ^ f.ebits * 2 ^ f.fbits + code % 2 ^ f.fbits) := by
  have hs : f.withSign (f.signOf code) (code / 2 ^ f.fbits % 2 ^ f.ebits * 2 ^ f.fbits + code % 2 ^ f.fbits) =
      code / 2 ^ f.fbits % 2 ^ f.ebits * 2 ^ f.fbits + code % 2 ^ f.fbits + (if f.signOf code then f.signBit else 0) := by
    unfold Fmt.withSign
    split <;> rfl
  rw [hs]
  cases f <;> simp [Fmt.width, Fmt.signOf, Fmt.signBit, Fmt.fbits, Fmt.ebits, bitAt] at h ⊢ <;> (try split) <;> omega

/-- A code of a finite value is a sign, an exponent field and a fraction, at most those of the largest finite value. -/
theorem decodeF_fin {f : Fmt} {code m : Nat} {neg : Bool} {e : Int} (hc : code < 2 ^ f.width) (h : decodeF f code = .fin neg m e) :
    ∃ x y, f.holds x y m e ∧ code = f.withSign neg (x * 2 ^ f.fbits + y) ∧ x * 2 ^ f.fbits + y ≤ f.maxCode ∧ (f = .e3m5 → neg = false) := by
  refine ⟨code / 2 ^ f.fbits % 2 ^ f.ebits, code % 2 ^ f.fbits, ?_⟩
  have hy : code % 2 ^ f.fbits < 2 ^ f.fbits := Nat.mod_lt _ (Nat.two_pow_pos _)
  have hcode := code_eq hc
  have hneg : f = .e3m5 → f.signOf code = false := fun hf => by subst hf; rfl
  unfold decodeF at h
  dsimp only at h
  split at h
  · split at h <;> cases h
  · next hinf =>
    split at h
    · cases h
    · next hnan =>
      have hmax : code / 2 ^ f.fbits % 2 ^ f.ebits * 2 ^ f.fbits + code % 2 ^ f.fbits ≤ f.maxCode := by
        cases f <;> simp [Fmt.ieee, Fmt.fbits, Fmt.ebits, Fmt.maxCode, Fmt.width] at hinf hnan hc ⊢ <;> omega
      split at h <;> injection h with h1 h2 h3 <;> subst h1 h2 h3
      · next h0 => exact ⟨⟨hy, .inl ⟨h0, rfl, rfl⟩⟩, hcode, hmax, hneg⟩
      · next h0 => exact ⟨⟨hy, .inr ⟨h0, rfl, rfl⟩⟩, hcode, hmax, hneg⟩

/-- A finite value's exponent field and fraction give its code. -/
theorem encodeF_holds {f : Fmt} {x y m : Nat} {e : Int} (h : f.holds x y m e) (neg : Bool) :
    encodeF f neg m e = f.withSign neg (x * 2 ^ f.fbits + y) := by
  obtain ⟨hy, ⟨rfl, rfl, -⟩ | ⟨hx, rfl, rfl⟩⟩ := h
  · simp [encodeF, hy]
  · have h1 : ¬2 ^ f.fbits + y < 2 ^ f.fbits := by omega
    have h2 : ¬2 ^ f.fbits + y = 2 ^ (f.fbits + 1) := by rw [pow_succ]; omega
    have h3 : ((x : Int) - f.bias - f.fbits + f.bias + f.fbits).toNat = x := by omega
    simp only [encodeF, h1, h2, h3, if_false, Nat.add_sub_cancel_left]

/-- The largest finite value of a format is a normal one. -/
theorem decodeF_maxCode (f : Fmt) : ∃ x y, x ≠ 0 ∧ y < 2 ^ f.fbits ∧ f.maxCode = x * 2 ^ f.fbits + y ∧
    decodeF f f.maxCode = .fin false (2 ^ f.fbits + y) ((x : Int) - f.bias - f.fbits) := by
  refine ⟨f.maxCode / 2 ^ f.fbits, f.maxCode % 2 ^ f.fbits, ?_, Nat.mod_lt _ (Nat.two_pow_pos _), (Nat.div_add_mod' ..).symm, ?_⟩
  · cases f <;> decide
  · cases f <;> rfl

/-- A value up to the largest finite one does not overflow. -/
theorem overflowsF_holds {f : Fmt} {x y m : Nat} {e : Int} (h : f.holds x y m e) (hmax : x * 2 ^ f.fbits + y ≤ f.maxCode) :
    overflowsF f m e = false := by
  obtain ⟨x', y', hx', hy', hX, hd⟩ := decodeF_maxCode f
  obtain ⟨hy, hm⟩ := h
  rw [hX] at hmax
  have hle : x ≤ x' := by
    by_contra hlt
    have := Nat.mul_le_mul_right (2 ^ f.fbits) (show x' + 1 ≤ x by omega)
    rw [Nat.add_mul] at this
    omega
  have hq : f.qmin = 1 - (f.bias : Int) - f.fbits := rfl
  have he : e ≤ (x' : Int) - f.bias - f.fbits := by omega
  rw [overflowsF, hd]
  simp only [he, if_true, decide_eq_false_iff_not, Nat.not_lt]
  obtain h0 | hlt : e = (x' : Int) - f.bias - f.fbits ∨ e < (x' : Int) - f.bias - f.fbits := by omega
  · have hxx : x = x' → y ≤ y' := fun h => by subst h; omega
    rw [h0, Int.sub_self, Int.toNat_zero, pow_zero, Nat.mul_one]
    omega
  · obtain ⟨k, hk⟩ : ∃ k, ((x' : Int) - f.bias - f.fbits - e).toNat = k + 1 := ⟨_, (Nat.succ_pred_eq_of_pos (by omega)).symm⟩
    have := Nat.mul_le_mul_left (2 ^ f.fbits + y') (show 2 ≤ 2 ^ (k + 1) by rw [pow_succ]; have := Nat.two_pow_pos k; omega)
    rw [hk]
    omega

/-- The exponent of the step that a value of the format is rounded at is its own. -/
theorem step_holds {f : Fmt} {x y m : Nat} {e : Int} (h : f.holds x y m e) (hm : m ≠ 0) :
    max ((Nat.log2 m : Int) + e - f.fbits) f.qmin = e := by
  obtain ⟨hy, ⟨rfl, rfl, rfl⟩ | ⟨hx, rfl, rfl⟩⟩ := h
  · have hl : Nat.log2 m < f.fbits := (Nat.log2_lt hm).2 hy
    omega
  · have hl : Nat.log2 (2 ^ f.fbits + y) = f.fbits := by
      rw [Nat.log2_eq_iff hm, pow_succ]
      omega
    have hq : f.qmin = 1 - (f.bias : Int) - f.fbits := rfl
    omega

/-- R40: a finite value that the format holds is its own rounding. -/
theorem deliver_decodeF {f : Fmt} {rm : Rm} {sat : Bool} {draw code m : Nat} {neg : Bool} {e : Int} (hc : code < 2 ^ f.width)
    (h : decodeF f code = .fin neg m e) : deliver f rm sat draw (decodeF f code).exact = (code, 0) := by
  obtain ⟨x, y, hh, hcode, hmax, hneg⟩ := decodeF_fin hc h
  rw [h, FV.exact]
  by_cases hm : m = 0
  · have hz : x * 2 ^ f.fbits + y = 0 := by
      obtain ⟨-, ⟨rfl, rfl, -⟩ | ⟨-, rfl, -⟩⟩ := hh
      · simp [hm]
      · exact absurd hm (by positivity)
    simp [deliver, hm, hcode, hz]
  · have hsign : ¬(f = .e3m5 ∧ neg = true) := fun ⟨h1, h2⟩ => by simp [hneg h1] at h2
    have hq := step_holds hh hm
    rw [Fmt.qmin] at hq
    simp only [hm, if_false, deliver, hsign, roundF, lead_rat hm, hq, roundAt_exact (floorAt_rat_self m e),
      overflowsF_holds hh hmax, encodeF_holds hh, hcode, Bool.false_eq_true, if_true]

/-! ## Rounding to nearest (R40) -/

/-- The whole number nearest to the half of a fraction n / d, the even one of two that are as near. -/
def nearest (n d : Nat) : Nat :=
  if n % (2 * d) = 0 then n / (2 * d)
  else if n / d % 2 = 1 ∧ (n % d ≠ 0 ∨ n / (2 * d) % 2 = 1) then n / (2 * d) + 1 else n / (2 * d)

theorem nearest_spec {n d : Nat} (hd : 0 < d) :
    (2 * nearest n d * d ≤ n + d ∧ n ≤ 2 * nearest n d * d + d) ∧
    (2 * nearest n d * d = n + d ∨ n = 2 * nearest n d * d + d → nearest n d % 2 = 0) ∧
    (n % (2 * d) = 0 ↔ 2 * nearest n d * d = n) := by
  have hn := Nat.div_add_mod n d
  have hc := Nat.mod_lt n hd
  have hh := Nat.div_add_mod (n / d) 2
  have ht : n / (2 * d) = n / d / 2 := by rw [Nat.mul_comm, Nat.div_div_eq_div_mul]
  have he : n % (2 * d) = d * (n / d % 2) + n % d := by rw [Nat.mul_comm 2 d, Nat.mod_mul]; omega
  unfold nearest
  rw [he, ht]
  generalize n % d = c at *
  generalize hb : n / d % 2 = b at *
  generalize n / d / 2 = t at *
  rw [← hh, Nat.mul_add, Nat.mul_left_comm] at hn
  have hexp : ∀ r, 2 * r * d = 2 * (d * r) := fun r => by ring
  have hsucc : d * (t + 1) = d * t + d := by ring
  obtain rfl | rfl : b = 0 ∨ b = 1 := by omega
  · simp only [hexp, Nat.zero_ne_one, false_and, if_false]
    split_ifs <;> omega
  · simp only [hexp, true_and]
    split_ifs <;> omega

/-- The two floors that rounding to nearest looks at, of twice the magnitude in steps as a fraction of whole numbers. -/
theorem floorAt_twice {n d : Nat} {e q : Int} :
    let n' := n * 2 ^ (e - q + 1).toNat
    let d' := d * 2 ^ (q - e - 1).toNat
    (Mag.rat n d e).floorAt q = (n' / (2 * d'), n' % (2 * d') == 0) ∧
    (Mag.rat n d e).floorAt (q - 1) = (n' / d', n' % d' == 0) := by
  intro n' d'
  constructor
  · by_cases h : q ≤ e
    · have h1 : (e - q + 1).toNat = (e - q).toNat + 1 := by omega
      have h2 : (q - e - 1).toNat = 0 := by omega
      have hn : n' = 2 * (n * 2 ^ (e - q).toNat) := by simp only [n', h1, pow_succ]; ring
      have hd : d' = d := by simp only [d', h2, pow_zero, Nat.mul_one]
      rw [hn, hd, Nat.mul_div_mul_left _ _ (by omega), Nat.mul_mod_mul_left]
      simp [Mag.floorAt, h]
    · have h1 : (e - q + 1).toNat = 0 := by omega
      have h2 : (q - e).toNat = (q - e - 1).toNat + 1 := by omega
      have hn : n' = n := by simp only [n', h1, pow_zero, Nat.mul_one]
      have hd : d * 2 ^ (q - e).toNat = 2 * d' := by simp only [d', h2, pow_succ]; ring
      simp [Mag.floorAt, h, hd, hn]
  · by_cases h : q - 1 ≤ e
    · have h1 : e - (q - 1) = e - q + 1 := by omega
      have h2 : (q - e - 1).toNat = 0 := by omega
      simp [Mag.floorAt, h, n', d', h1, h2]
    · have h1 : (e - q + 1).toNat = 0 := by omega
      have h2 : q - 1 - e = q - e - 1 := by omega
      simp [Mag.floorAt, h, n', d', h1, h2]

theorem roundAt_ne {neg : Bool} {draw n d : Nat} {x : Mag} {q : Int} (h : x.floorAt q = (n / (2 * d), n % (2 * d) == 0))
    (hh : x.floorAt (q - 1) = (n / d, n % d == 0)) :
    (roundAt .ne neg draw x q).1 = nearest n d ∧ ((roundAt .ne neg draw x q).2.1 = true ↔ n % (2 * d) = 0) := by
  by_cases he : n % (2 * d) = 0
  · simp [roundAt, h, nearest, he]
  · simp [roundAt, h, hh, nearest, he]
/-- R40: rounding to nearest lands on the grid within half a step of the exact value, ties on the even multiple. -/
theorem roundAt_ne_spec {neg : Bool} {draw n d : Nat} {e q : Int} (hd : 0 < d) :
    let r := roundAt .ne neg draw (.rat n d e) q
    let n' := n * 2 ^ (e - q + 1).toNat
    let d' := d * 2 ^ (q - e - 1).toNat
    (2 * r.1 * d' ≤ n' + d' ∧ n' ≤ 2 * r.1 * d' + d') ∧ (2 * r.1 * d' = n' + d' ∨ n' = 2 * r.1 * d' + d' → r.1 % 2 = 0) ∧
    (r.2.1 = true ↔ 2 * r.1 * d' = n') := by
  intro r n' d'
  obtain ⟨h1, h2⟩ := floorAt_twice (n := n) (d := d) (e := e) (q := q)
  obtain ⟨hr, he⟩ := roundAt_ne (neg := neg) (draw := draw) h1 h2
  have hd' : 0 < d' := Nat.mul_pos hd (Nat.two_pow_pos _)
  rw [show r.1 = nearest n' d' from hr, show (r.2.1 = true ↔ n' % (2 * d') = 0) from he]
  exact nearest_spec hd'

/-! ## The obligation (O7) -/

section
variable {o : FOps} {s : State}

theorem floatMinMax_ready {mx np : Bool} (h : s.ready [o.b, o.c]) : floatMinMax o mx np s = s.floatResult .ne o.a
    (fminmax (fmtOf o.fmt) mx np (codeIn (fmtOf o.fmt) (s.cur.readG o.b)) (codeIn (fmtOf o.fmt) (s.cur.readG o.c))) := by
  unfold floatMinMax
  exact scalarF_ne h rfl

theorem floatCmp_ready {op : Nat} (h : s.ready [o.b, o.c]) : floatCmp o op s =
    let r := fcompare op (decodeF (fmtOf o.fmt) (codeIn (fmtOf o.fmt) (s.cur.readG o.b)))
      (decodeF (fmtOf o.fmt) (codeIn (fmtOf o.fmt) (s.cur.readG o.c)))
    s.floatResult .ne o.a (if r.1 then 1 else 0, r.2) := by
  unfold floatCmp
  exact scalarF_ne h (Prod.ext (by dsimp only; split <;> rfl) rfl)

end

section
variable {s : State}

theorem execFneg_ready {o : F1Ops} (h : s.ready [o.b]) : execFneg o s = s.floatResult .ne o.a
    (Nat.xor (codeIn (fmtOf o.fmt) (s.cur.readG o.b)) (fmtOf o.fmt).signBit, 0) :=
  scalarF_bits (g := fun c => Nat.xor (codeIn (fmtOf o.fmt) (c.readG o.b)) (fmtOf o.fmt).signBit) h rfl
theorem execFabs_ready {o : F1Ops} (h : s.ready [o.b]) : execFabs o s = s.floatResult .ne o.a
    (codeIn (fmtOf o.fmt) (s.cur.readG o.b) % (fmtOf o.fmt).signBit, 0) :=
  scalarF_bits (g := fun c => codeIn (fmtOf o.fmt) (c.readG o.b) % (fmtOf o.fmt).signBit) h rfl
theorem execFsgn_ready {o : FOps} (h : s.ready [o.b, o.c]) : execFsgn o s = s.floatResult .ne o.a
    (codeIn (fmtOf o.fmt) (s.cur.readG o.b) % (fmtOf o.fmt).signBit + signPart (fmtOf o.fmt) (codeIn (fmtOf o.fmt) (s.cur.readG o.c)), 0) :=
  scalarF_bits (g := fun c => codeIn (fmtOf o.fmt) (c.readG o.b) % (fmtOf o.fmt).signBit +
    signPart (fmtOf o.fmt) (codeIn (fmtOf o.fmt) (c.readG o.c))) h rfl

end

section
variable {p : FFmt} {v : Nat}

/-- The sign instructions on a code of a format with a sign bit: inverted, cleared, another's (R44). -/
theorem code_sign_inverted (h : v < 2 ^ (fmtOf p).width) : let w := (fmtOf p).width
    Nat.xor v (fmtOf p).signBit = (1 - v / 2 ^ (w - 1)) * 2 ^ (w - 1) + v % 2 ^ (w - 1) := by
  have hw : (fmtOf p).width - 1 + 1 = (fmtOf p).width := by cases p <;> rfl
  dsimp only
  rw [signBit_fmtOf]
  exact xor_two_pow (by rwa [hw])
theorem signPart_eq (h : v < 2 ^ (fmtOf p).width) : let w := (fmtOf p).width
    signPart (fmtOf p) v = v / 2 ^ (w - 1) * 2 ^ (w - 1) := by
  have hw : (fmtOf p).width - 1 + 1 = (fmtOf p).width := by cases p <;> rfl
  have hd : v / 2 ^ ((fmtOf p).width - 1) < 2 := Nat.div_lt_of_lt_mul (by rwa [← Nat.pow_succ, Nat.succ_eq_add_one, hw])
  dsimp only
  rw [signPart, signBit_fmtOf, Nat.mod_eq_of_lt hd]

end

/-- Settles O7: minimum, maximum and the compares follow the order of the decoded values, the sign instructions are bit
operations, and the two laws of rounding are `deliver_decodeF` and `roundAt_ne_spec`. -/
theorem floatComparesSignsRounding : Obligations.FloatComparesSignsRounding := by
  refine ⟨?_, ?_, ?_, fun f rm sat draw code neg m e hc h => deliver_decodeF hc h, fun neg draw n d e q hd => roundAt_ne_spec hd⟩
  · intro o s h f b c x y fl less gives
    have hfl : orF x.snanFlag y.snanFlag = fl := orF_snanFlag x y
    have hg : ∀ {i : Instr} {mx np : Bool} {v : Nat}, exec i s = floatMinMax o mx np s → fminmax f mx np b c = (v, fl) → gives i v :=
      fun hi hv => (hi.trans (floatMinMax_ready h)).trans (congrArg (s.floatResult .ne o.a) hv)
    refine ⟨fun hn => ?_, fun hx hy => ⟨fun hl => ?_, fun hl => ?_⟩⟩
    · have hv : ∀ mx np, fminmax f mx np b c = _ := fun mx np => (fminmax_nan hn).trans (congrArg (Prod.mk _) hfl)
      exact ⟨hg rfl (hv _ _), hg rfl (hv _ _), hg rfl (hv _ _), hg rfl (hv _ _)⟩
    · have hv : ∀ mx np, fminmax f mx np b c = _ := fun mx np => (fminmax_below hx hy hl).trans (congrArg (Prod.mk _) hfl)
      exact ⟨hg rfl (hv _ _), hg rfl (hv _ _), hg rfl (hv _ _), hg rfl (hv _ _)⟩
    · have hv : ∀ mx np, fminmax f mx np b c = _ := fun mx np => (fminmax_above hx hy hl).trans (congrArg (Prod.mk _) hfl)
      exact ⟨hg rfl (hv _ _), hg rfl (hv _ _), hg rfl (hv _ _), hg rfl (hv _ _)⟩
  · intro o s h w b c sign mag
    have hb : b < 2 ^ w := Nat.mod_lt _ (Nat.two_pow_pos _)
    have hc : c < 2 ^ w := Nat.mod_lt _ (Nat.two_pow_pos _)
    have h1 : s.ready [o.b] := fun r hr => h r (by simp_all)
    have hg : ∀ {i : Instr} {a v v' : Nat}, exec i s = s.floatResult .ne a (v, 0) → v = v' → exec i s = s.floatResult .ne a (v', 0) :=
      fun hi hv => hv ▸ hi
    refine ⟨hg (execFneg_ready h1) (code_sign_inverted hb), hg (execFabs_ready h1) (congrArg (b % ·) (signBit_fmtOf o.fmt)),
      hg (execFsgn_ready h) ?_⟩
    rw [Nat.add_comm]
    exact congrArg₂ (· + ·) (signPart_eq hc) (congrArg (b % ·) (signBit_fmtOf o.fmt))
  · intro o s h f x y gives quiet
    have hq : orF x.snanFlag y.snanFlag = quiet := orF_snanFlag x y
    have hg : ∀ {i : Instr} {op : Nat} {v : Bool} {fl : Nat}, exec i s = floatCmp o op s → fcompare op x y = (v, fl) → gives i v fl :=
      fun hi hv => (hi.trans (floatCmp_ready h)).trans (congrArg (fun r => s.floatResult .ne o.a (if r.1 then 1 else 0, r.2)) hv)
    refine ⟨fun hn => ?_, fun hx hy => ?_⟩
    · have hv : ∀ op, fcompare op x y = _ := fun op => fcompare_nan hn
      exact ⟨hg rfl ((hv 0).trans (Prod.ext rfl hq)), hg rfl (hv 1), hg rfl (hv 2), hg rfl ((hv 3).trans (Prod.ext rfl hq))⟩
    · exact ⟨hg rfl (fcompare_ordered hx hy), hg rfl (fcompare_ordered hx hy), hg rfl (fcompare_ordered hx hy), hg rfl (fcompare_ordered hx hy)⟩

end Sys2Proof.Machine
end

section
/-! SUPPORT. Issue of vector instructions (O34). -/

namespace Sys2Proof.Machine

section
variable (s : State) (n : Nat) (f : Vec → Vec)

@[simp] theorem State.ctx_modVec (l : Loc) : (s.modVec n f).ctx l = s.ctx l := rfl
@[simp] theorem State.cur_modVec : (s.modVec n f).cur = s.cur := rfl
@[simp] theorem State.stn_modVec_self : (s.modVec n f).stn n = { s.stn n with vec := f (s.stn n).vec } := by simp [State.modVec]
theorem State.stn_modVec_ne {k : Nat} (h : k ≠ n) : (s.modVec n f).stn k = s.stn k := State.stn_modStn_ne s _ h

end

/-! ## A core's queue -/

/-- A station's queue of one core, with another list of entries. -/
def State.setQueue (s : State) (stn core : Nat) (q : List VEntry) : State :=
  s.modVec stn (fun v => { v with queues := Map.set [] v.queues core q })

section
variable {s : State} {l : Loc} {q : List VEntry}

@[simp] theorem State.queueOf_setQueue : (s.setQueue l.stn l.core q).queueOf l = q := by simp [State.queueOf, State.setQueue]
@[simp] theorem State.ctx_setQueue (m : Loc) : (s.setQueue l.stn l.core q).ctx m = s.ctx m := rfl
@[simp] theorem State.queueOf_modCtx (m : Loc) (f : Ctx → Ctx) : (s.modCtx m f).queueOf l = s.queueOf l := rfl
@[simp] theorem State.queueOf_modCur (f : Ctx → Ctx) : (s.modCur f).queueOf l = s.queueOf l := rfl
@[simp] theorem State.queueOf_retire : s.retire.queueOf l = s.queueOf l := rfl

end

/-! ## Issue (R176, R177, R180) -/

/-- The entry that an instruction puts into its core's queue: what it reads at issue, its guard's binding, and its number. -/
def State.vecEntry (s : State) (i : Instr) (val : Word) (g : Option Guard) : VEntry :=
  ⟨i, s.hand.at_, s.cur.tid, s.cur.pc, s.cur.csr.vl, val, bindOf s.cur g, [], 0, 0, false, [], [], s.freshId.1, s.datum⟩

/-- The state with that entry queued. -/
def State.vecQueued (s : State) (i : Instr) (val : Word) (g : Option Guard) : State :=
  s.freshId.2.setQueue s.hand.at_.stn s.hand.at_.core (s.queueOf s.hand.at_ ++ [s.vecEntry i val g])

theorem Exec.enqueue_room {e : VEntry} {u : State} (h : (u.queueOf e.at_).length < 16) :
    Exec.enqueue e u = .ok () (u.setQueue e.at_.stn e.at_.core (u.queueOf e.at_ ++ [e])) := by
  rw [Exec.enqueue, Exec.bind_ok u (Exec.get_run u)]
  exact congrFun (if_pos h) u
theorem Exec.enqueue_full {e : VEntry} {u : State} (h : 16 ≤ (u.queueOf e.at_).length) :
    Exec.enqueue e u = .error .stall (u.modCur (fun c => { c with flow := { c.flow with waitOn := some 0 } })) := by
  rw [Exec.enqueue, Exec.bind_ok u (Exec.get_run u)]
  exact congrFun (if_neg (Nat.not_lt.2 h)) u

section
variable {i : Instr} {srcs : List Nat} {val : Ctx → Word} {g : Option Guard} {fp : Bool} {s : State}

theorem issueVec_discarded (h : s.ready srcs) (hb : bindOf s.cur g = .decided false) : issueVec i srcs val g fp s = .next s.retire := by
  rw [issueVec, runSelf, Exec.bind_ok s (Exec.need_ready s h), Exec.bind_ok s (Exec.get_run s)]
  simp only [hb, if_true]
  rfl

theorem issueVec_queued (h : s.ready srcs) (hb : bindOf s.cur g ≠ .decided false) (hq : (s.queueOf s.hand.at_).length < 16) :
    issueVec i srcs val g fp s = .next (if fp && s.cur.csr.ftrapen != 0 then
        (s.vecQueued i (val s.cur) g).modCur (fun c => { c with flow := { c.flow with waitOn := some s.counts.id, waitWords := s.hand.words } })
      else (s.vecQueued i (val s.cur) g).retire) := by
  have he : Exec.enqueue (s.vecEntry i (val s.cur) g) s.freshId.2 = .ok () (s.vecQueued i (val s.cur) g) := Exec.enqueue_room hq
  rw [issueVec, runSelf, Exec.bind_ok s (Exec.need_ready s h), Exec.bind_ok s (Exec.get_run s)]
  simp only [hb, if_false]
  rw [Exec.bind_ok s (show (set s.freshId.2 : Exec PUnit) s = .ok PUnit.unit s.freshId.2 from rfl)]
  rw [State.vecEntry] at he
  rw [Exec.bind_ok _ he]
  cases fp && s.cur.csr.ftrapen != 0 <;> rfl

/-- A full queue stalls the context; a number has been drawn. -/
theorem issueVec_full (h : s.ready srcs) (hb : bindOf s.cur g ≠ .decided false) (hq : 16 ≤ (s.queueOf s.hand.at_).length) :
    issueVec i srcs val g fp s = .next (s.freshId.2.modCur (fun c => { c with flow := { c.flow with waitOn := some 0 } })) := by
  have he : Exec.enqueue (s.vecEntry i (val s.cur) g) s.freshId.2 = .error .stall _ := Exec.enqueue_full hq
  rw [issueVec, runSelf, Exec.bind_ok s (Exec.need_ready s h), Exec.bind_ok s (Exec.get_run s)]
  simp only [hb, if_false]
  rw [Exec.bind_ok s (show (set s.freshId.2 : Exec PUnit) s = .ok PUnit.unit s.freshId.2 from rfl)]
  rw [State.vecEntry] at he
  rw [Exec.bind_error _ he]
end

/-- What O34 says of the issue of one instruction, whose outcome is `o`. -/
def State.vecIssues (s : State) (o : Out) (i : Instr) (fp : Bool) (regs : List Nat) (val : Word) (g : Option Guard) : Prop :=
  s.ready regs →
  (bindOf s.cur g = .decided false → o = .next s.retire) ∧
  (bindOf s.cur g ≠ .decided false → (s.queueOf s.hand.at_).length < 16 →
    ∃ t, o = .next t ∧ t.queueOf s.hand.at_ = s.queueOf s.hand.at_ ++ [s.vecEntry i val g] ∧ SameContextsBut s.hand.at_ s t ∧
      SameStorage s t ∧ t.net = s.net ∧ (fp = false ∨ s.cur.csr.ftrapen = 0 → t.cur = s.cur.retire s.hand.words) ∧
      (fp = true → s.cur.csr.ftrapen ≠ 0 →
        t.cur = { s.cur with flow := { s.cur.flow with waitOn := some s.counts.id, waitWords := s.hand.words } })) ∧
  (bindOf s.cur g ≠ .decided false → 16 ≤ (s.queueOf s.hand.at_).length →
    ∃ t, o = .next t ∧ t.queueOf s.hand.at_ = s.queueOf s.hand.at_ ∧ t.cur = { s.cur with flow := { s.cur.flow with waitOn := some 0 } } ∧
      SameContextsBut s.hand.at_ s t ∧ SameStorage s t)

theorem vecIssues_issueVec {s : State} {i : Instr} {fp : Bool} {regs : List Nat} {val : Ctx → Word} {g : Option Guard} :
    s.vecIssues (issueVec i regs val g fp s) i fp regs (val s.cur) g := by
  intro h
  refine ⟨fun hb => issueVec_discarded h hb, fun hb hq => ?_, fun hb hq => ⟨_, issueVec_full h hb hq, rfl, State.cur_modCur .., ?_, ?_⟩⟩
  · refine ⟨_, issueVec_queued h hb hq, ?_⟩
    by_cases hw : (fp && s.cur.csr.ftrapen != 0) = true
    · rw [if_pos hw]
      have hne : ¬(fp = false ∨ s.cur.csr.ftrapen = 0) := by simpa using hw
      exact ⟨State.queueOf_setQueue, fun _ hm => State.ctx_modCur_ne _ _ hm, .of_eq rfl rfl rfl, rfl, fun hn => absurd hn hne,
        fun _ _ => State.cur_modCur ..⟩
    · rw [if_neg hw]
      have hno : fp = true → s.cur.csr.ftrapen = 0 := by simpa using hw
      exact ⟨State.queueOf_setQueue, fun _ hm => State.ctx_modCur_ne _ _ hm, .of_eq rfl rfl rfl, rfl, fun _ => State.cur_modCur ..,
        fun hf h0 => absurd (hno hf) h0⟩
  · exact fun _ hm => State.ctx_modCur_ne _ _ hm
  · exact .of_eq rfl rfl rfl

/-- A list of instructions that are issued alike. -/
theorem vecIssues_all {s : State} {is : List Instr} {fp : Bool} {regs : List Nat} {val : Ctx → Word} {g : Option Guard}
    (h : List.Forall (fun i => exec i s = issueVec i regs val g fp s) is) :
    ∀ i ∈ is, s.vecIssues (exec i s) i fp regs (val s.cur) g :=
  fun i hi => (List.forall_iff_forall_mem.1 h i hi) ▸ vecIssues_issueVec

/-- Settles O34: every vector instruction is an `issueVec` of its own operands. -/
theorem vectorIssue : Obligations.VectorIssue := by
  intro f n g k r v d x s l c q entry issues regs val floats quants reds
  refine ⟨?_, ?_, vecIssues_issueVec (val := fun _ => 0), ?_, ?_, ?_, ?_, ?_, ?_, vecIssues_issueVec (regs := x.b :: xRegs x.c)
    (val := fun c => w64 ((c.xval x.c).toNat % 256 * 2 ^ 32 + (c.readG x.b).toNat % 2 ^ 32))⟩
  · exact vecIssues_all (val := fun c => if f.bc then c.readG f.c else 0) (by repeat' constructor)
  · exact vecIssues_all (val := fun c => c.readG r.c) (by repeat' constructor)
  · exact vecIssues_all (val := fun _ => 0) (by repeat' constructor)
  · exact vecIssues_all (val := fun c => if n.bc then c.readG n.c else 0) (by repeat' constructor)
  · exact vecIssues_all (val := fun c => if g.bc then c.readG g.c else 0) (by repeat' constructor)
  · exact vecIssues_all (val := fun c => if k.bc then c.readG k.c else 0) (by repeat' constructor)
  · exact vecIssues_all (val := fun _ => 0) (by repeat' constructor)
  · exact vecIssues_all (val := fun c => c.xval x.c) (by repeat' constructor)

end Sys2Proof.Machine
end

section
/-! SUPPORT. Elements and lanes of vector registers as functions of their number (R36, R176): what the list operations of the model
read and write (O33). -/

namespace Sys2Proof.Machine

/-! ## Registers -/

theorem Ctx.readV_writeV_self {c : Ctx} {r : Nat} {v : VReg} : (c.writeV r v).readV r = v := by simp [Ctx.readV, Ctx.writeV]
theorem Ctx.readV_writeV_ne {c : Ctx} {r m : Nat} {v : VReg} (h : m ≠ r) : (c.writeV r v).readV m = c.readV m := by
  simp [Ctx.readV, Ctx.writeV, Map.get_set, h]

/-! ## Elements of a register -/

theorem chop_eq_map (w : Nat) : ∀ k x, chop w k x = (List.range k).map (fun n => x / 2 ^ (w * n) % 2 ^ w) := by
  intro k
  induction k with
  | zero => intro x; rfl
  | succ k ih =>
    intro x
    rw [chop, ih, List.range_succ_eq_map, List.map_cons, List.map_map]
    simp [Function.comp_def, Nat.div_div_eq_div_mul, ← pow_add, Nat.mul_succ, Nat.add_comm]

/-- The elements of a register, by their numbers. -/
theorem elemsOf_readV (c : Ctx) (w r : Nat) : elemsOf w (c.readV r) = (List.range (8192 / w)).map (c.elem w r) := chop_eq_map ..

theorem zipIdx_map_range {α : Type} (k : Nat) (f : Nat → α) : ((List.range k).map f).zipIdx = (List.range k).map (fun n => (f n, n)) := by
  rw [List.zipIdx_eq_zip_range', List.length_map, List.length_range, ← List.range_eq_range']
  conv_lhs => rw [← List.map_id (List.range k), List.map_map]
  rw [List.zip_map']
  rfl

theorem getD_map_range {α : Type} {k n : Nat} (f : Nat → α) (d : α) (h : n < k) : ((List.range k).map f).getD n d = f n := by
  simp [List.getD_eq_getElem?_getD, h]

theorem getD_elemsOf {c : Ctx} {w r n : Nat} (h : n < 8192 / w) : (elemsOf w (c.readV r)).getD n 0 = c.elem w r n := by
  rw [elemsOf_readV, getD_map_range _ _ h]

theorem Ctx.elem_lt (c : Ctx) (w r n : Nat) : c.elem w r n < 2 ^ w := Nat.mod_lt _ (Nat.two_pow_pos w)
theorem Ctx.elem_mod (c : Ctx) (w r n : Nat) : c.elem w r n % 2 ^ w = c.elem w r n := Nat.mod_eq_of_lt (c.elem_lt w r n)

theorem joinElems_cons (w x : Nat) (xs : List Nat) : joinElems w (x :: xs) = x % 2 ^ w + 2 ^ w * joinElems w xs := rfl

theorem joinElems_elem (w : Nat) : ∀ xs n, joinElems w xs / 2 ^ (w * n) % 2 ^ w = xs.getD n 0 % 2 ^ w := by
  intro xs
  induction xs with
  | nil => intro n; simp [joinElems]
  | cons x xs ih =>
    intro n
    have hp : 0 < 2 ^ w := Nat.two_pow_pos w
    cases n with
    | zero => rw [joinElems_cons]; simp
    | succ n =>
      have hd : (x % 2 ^ w + 2 ^ w * joinElems w xs) / 2 ^ w = joinElems w xs := by
        rw [Nat.add_mul_div_left _ _ hp, Nat.div_eq_of_lt (Nat.mod_lt _ hp), Nat.zero_add]
      rw [joinElems_cons, Nat.mul_succ, Nat.add_comm (w * n) w, pow_add, ← Nat.div_div_eq_div_mul, hd, ih, List.getD_cons_succ]

/-- An element of a register that was written element by element. -/
theorem Ctx.elem_writeV_ofElems {c : Ctx} {w a n : Nat} {xs : List Nat} (h : n < 8192 / w) :
    (c.writeV a (ofElems w xs)).elem w a n = xs.getD n 0 % 2 ^ w := by
  have hle : w * n + w ≤ 8192 := by
    have := Nat.mul_le_mul_left w (Nat.succ_le_of_lt h)
    have := Nat.mul_div_le 8192 w
    rw [Nat.mul_succ] at *
    omega
  have hlow : joinElems w xs % 2 ^ 8192 / 2 ^ (w * n) % 2 ^ w = joinElems w xs / 2 ^ (w * n) % 2 ^ w := by
    obtain ⟨k, hk⟩ := Nat.exists_eq_add_of_le hle
    rw [hk, Nat.add_assoc, pow_add, Nat.mod_mul_right_div_self, pow_add, Nat.mod_mul_right_mod]
  rw [Ctx.elem, Ctx.readV_writeV_self, ofElems, BitVec.toNat_ofNat, hlow, joinElems_elem]

/-- An element of a register that was written from a function of the element number. -/
theorem Ctx.elem_writeV_map {c : Ctx} {w a n : Nat} {f : Nat → Nat} (h : n < 8192 / w) :
    (c.writeV a (ofElems w ((List.range (8192 / w)).map f))).elem w a n = f n % 2 ^ w := by
  rw [Ctx.elem_writeV_ofElems h, getD_map_range _ _ h]

/-! ## Activity (R176) -/

theorem elOn_eq (q : VQ) (c : Ctx) (vl w n : Nat) : elOn q.pred q.inv c vl w n = decide (Active q w vl c n) := by
  simp only [elOn, laneSel, Active, Bool.decide_and, bne, ne_eq, decide_not]
  congr 2

theorem laneOn_eq (q : VQ) (c : Ctx) (vl n : Nat) : laneOn q c vl n = decide (Active q 32 vl c n) := elOn_eq q c vl 32 n

theorem VectorFrame.writeV (c : Ctx) (a : Nat) (v : VReg) (fl : List (Nat × Nat)) :
    VectorFrame .ne a c (c.writeV a v, fl) :=
  ⟨fun _ hm => Ctx.readV_writeV_ne hm, rfl, rfl, rfl, rfl, rfl, rfl, rfl, rfl⟩

/-! ## Permutations (R198) -/

theorem vLanes_elementWise {q : VQ} {a vl : Nat} {c : Ctx} {f g : Nat → Nat} (h : ∀ n, n < 256 → f n = g n) :
    ElementWise { q with rm := .ne } 32 a vl c (vLanes q a vl c f) (fun n => (g n, 0)) := by
  have hv : vLanes q a vl c f = (c.writeV a (ofElems 32 ((List.range (8192 / 32)).map (fun n =>
      if Active q 32 vl c n then f n else if q.zero then 0 else c.elem 32 a n))), []) := by
    rw [vLanes, elemsOf_readV, zipIdx_map_range, List.map_map]
    simp only [laneOn_eq, decide_eq_true_eq, Function.comp_def]
  rw [hv]
  refine ⟨fun n hn => ⟨fun ha => ⟨?_, by simp⟩, fun ha => ⟨?_, by simp⟩⟩, .writeV c a _ _⟩
  · have ha' : Active q 32 vl c n := ha
    rw [Ctx.elem_writeV_map hn, if_pos ha', h n hn]
  · have ha' : ¬ Active q 32 vl c n := ha
    rw [Ctx.elem_writeV_map hn, if_neg ha']
    split
    · rfl
    · exact c.elem_mod ..

/-- The active lanes, in ascending order. -/
def activeLanes (q : VQ) (vl : Nat) (c : Ctx) : List Nat := (List.range 256).filter (fun n => decide (Active q 32 vl c n))

/-- VCOMPR packs the active lanes to the bottom. -/
theorem vrunCompr_elem {o : VROps} {e : VEntry} {c : Ctx} {n : Nat} (hn : n < 256) :
    (vrunCompr o e c).1.elem 32 o.a n =
      match (activeLanes o.q e.vl c)[n]? with | some k => c.elem 32 o.b k | none => if o.q.zero then 0 else c.elem 32 o.a n := by
  have hact : ((elemsOf 32 (c.readV o.b)).zipIdx.filter (fun x => laneOn o.q c e.vl x.2)).map (fun x => x.1) =
      (activeLanes o.q e.vl c).map (c.elem 32 o.b) := by
    rw [elemsOf_readV, zipIdx_map_range, List.filter_map, List.map_map, activeLanes]
    simp only [Function.comp_def, laneOn_eq]
  rw [vrunCompr, hact]
  simp only
  rw [Ctx.elem_writeV_ofElems hn, List.length_map, elemsOf_readV, List.getD_eq_getElem?_getD]
  by_cases hl : n < (activeLanes o.q e.vl c).length
  · rw [List.getElem?_append_left (by simpa using hl), List.getElem?_map, List.getElem?_eq_getElem hl]
    exact c.elem_mod ..
  · have hr : n < 8192 / 32 := hn
    rw [List.getElem?_append_right (by simpa using hl), List.getElem?_eq_none (Nat.le_of_not_lt hl), List.length_map, List.getElem?_map,
      List.getElem?_drop, Nat.add_sub_cancel' (Nat.le_of_not_lt hl), List.getElem?_map, List.getElem?_range hr]
    simp only [Option.map_some, Option.getD_some]
    split
    · rfl
    · exact c.elem_mod ..

/-- How many of the numbers below `n` are selected. -/
def selectedBelow (on : Nat → Bool) (n : Nat) : Nat := ((List.range n).filter on).length

theorem selectedBelow_succ (on : Nat → Bool) (n : Nat) : selectedBelow on (n + 1) = selectedBelow on n + if on n then 1 else 0 := by
  rw [selectedBelow, List.range_succ, List.filter_append, List.length_append, List.filter_singleton]
  cases on n <;> rfl

/-- VEXPND hands the source lanes out in order: a selected lane takes the one numbered by the selected lanes below it. -/
theorem expandLoop_eq (on : Nat → Bool) (zero : Bool) (xs : List Nat) (old : Nat → Nat) : ∀ m p,
    expandLoop on zero (xs.drop (selectedBelow on p)) ((List.range' p m).map (fun n => (old n, n))) =
      (List.range' p m).map (fun n => if on n then xs.getD (selectedBelow on n) 0 else if zero then 0 else old n) := by
  intro m
  induction m with
  | zero => intro p; rfl
  | succ m ih =>
    intro p
    have hs := selectedBelow_succ on p
    rw [List.range'_succ, List.map_cons, List.map_cons, expandLoop, ← ih (p + 1)]
    cases hp : on p with
    | true =>
      rw [hp, if_pos rfl] at hs
      rw [if_pos rfl, if_pos rfl, hs, List.drop_drop, List.headD_eq_head?_getD, List.head?_drop, List.getD_eq_getElem?_getD]
    | false =>
      rw [hp, if_neg Bool.false_ne_true] at hs
      rw [if_neg Bool.false_ne_true, if_neg Bool.false_ne_true, hs]
      rfl

theorem vrunExpnd_elem {o : VROps} {e : VEntry} {c : Ctx} {n : Nat} (hn : n < 256) :
    (vrunExpnd o e c).1.elem 32 o.a n = if Active o.q 32 e.vl c n then
      (elemsOf 32 (c.readV o.b)).getD (selectedBelow (laneOn o.q c e.vl) n) 0 % 2 ^ 32 else if o.q.zero then 0 else c.elem 32 o.a n := by
  have hl := expandLoop_eq (laneOn o.q c e.vl) o.q.zero (elemsOf 32 (c.readV o.b)) (c.elem 32 o.a) 256 0
  rw [← List.range_eq_range', show selectedBelow (laneOn o.q c e.vl) 0 = 0 from rfl, List.drop_zero] at hl
  rw [vrunExpnd, elemsOf_readV c 32 o.a, zipIdx_map_range]
  simp only
  rw [show (8192 / 32 : Nat) = 256 from rfl, hl, Ctx.elem_writeV_ofElems hn, getD_map_range _ _ hn, laneOn_eq]
  by_cases ha : Active o.q 32 e.vl c n
  · rw [if_pos (decide_eq_true ha), if_pos ha]
  · rw [if_neg (by simpa using ha), if_neg ha]
    split
    · rfl
    · exact c.elem_mod ..

/-- The number of an active lane among the active lanes. -/
theorem selectedBelow_activeLanes {q : VQ} {vl : Nat} {c : Ctx} {k : Nat} (h : k < (activeLanes q vl c).length) :
    selectedBelow (laneOn q c vl) (activeLanes q vl c)[k] = k := by
  have hmem := List.getElem_mem h
  generalize hi : (activeLanes q vl c)[k] = i at hmem
  rw [activeLanes, List.mem_filter, List.mem_range] at hmem
  obtain ⟨hlt, ha⟩ := hmem
  have hsplit : activeLanes q vl c = (List.range i).filter (laneOn q c vl) ++
      (i :: (List.range' (i + 1) (255 - i)).filter (laneOn q c vl)) := by
    have hr : List.range 256 = List.range i ++ i :: List.range' (i + 1) (255 - i) := by
      rw [← List.range'_succ, List.range_eq_range', List.range_eq_range', show 255 - i + 1 = 256 - i by omega]
      simpa [Nat.add_sub_cancel' hlt.le] using (List.range'_append_1 (s := 0) (m := i) (n := 256 - i)).symm
    rw [activeLanes, ← funext (laneOn_eq q c vl), hr, List.filter_append, List.filter_cons_of_pos (by rw [laneOn_eq]; exact ha)]
  have hat : (activeLanes q vl c)[selectedBelow (laneOn q c vl) i]? = some i := by
    rw [hsplit, selectedBelow, List.getElem?_append_right (Nat.le_refl _), Nat.sub_self]
    rfl
  have hnd : (activeLanes q vl c).Nodup := List.nodup_range.filter _
  obtain ⟨hb, hbi⟩ := List.getElem?_eq_some_iff.1 hat
  exact (hnd.getElem_inj_iff).1 (hbi.trans hi.symm)

theorem activeLanes_length_le (q : VQ) (vl : Nat) (c : Ctx) : (activeLanes q vl c).length ≤ 256 :=
  (List.length_filter_le ..).trans_eq List.length_range

theorem mem_activeLanes {q : VQ} {vl n : Nat} {c : Ctx} : n ∈ activeLanes q vl c ↔ n < 256 ∧ Active q 32 vl c n := by
  rw [activeLanes, List.mem_filter, List.mem_range, decide_eq_true_eq]

theorem vrunInsr_elem {o : VXOps} {e : VEntry} {c : Ctx} {n : Nat} (hn : n < 256) :
    (vrunInsr o e c).1.elem 32 o.a n = if n = e.scalar.toNat / 2 ^ 32 then e.scalar.toNat % 2 ^ 32 else c.elem 32 o.a n := by
  rw [vrunInsr]
  simp only
  rw [Ctx.elem_writeV_ofElems hn, elemsOf_readV, List.getD_eq_getElem?_getD, List.getElem?_set]
  have hr : n < 8192 / 32 := hn
  by_cases hi : n = e.scalar.toNat / 2 ^ 32
  · rw [if_pos hi.symm, if_pos hi, if_pos (by rw [← hi]; simpa using hn)]
    simp
  · rw [if_neg (Ne.symm hi), if_neg hi, List.getElem?_map, List.getElem?_range hr]
    exact c.elem_mod ..

end Sys2Proof.Machine
end

section
/-! SUPPORT. Reductions and scans (R53, R196, R197): the model's list of levels is the pairwise tree over the element positions, and what
the tree gives for the operations of the integer pages (O33). -/

namespace Sys2Proof.Machine

/-! ## The tree -/

/-- The code of a present value of a reduction. -/
def RVal.code (x : RVal) : Option Nat := x.map (fun r => r.1)

section
variable {op : Nat → Nat → Nat × Nat}

theorem redLevel_cons_cons (a b : RVal) (r : List RVal) :
    (redLevel op (a :: b :: r)).1.map RVal.code = bothOf (fun u v => (op u v).1) a.code b.code :: (redLevel op r).1.map RVal.code := by
  cases a with
  | none => cases b <;> rfl
  | some a => cases b <;> rfl

/-- One level halves the positions. -/
theorem redLevel_codes : ∀ m (x : Nat → Option Nat) (xs : List RVal), xs.map RVal.code = (List.range (2 * m)).map x →
    (redLevel op xs).1.map RVal.code = (List.range m).map (fun j => bothOf (fun u v => (op u v).1) (x (2 * j)) (x (2 * j + 1))) := by
  intro m
  induction m with
  | zero =>
    intro x xs h
    rw [List.map_eq_nil_iff.1 h]
    rfl
  | succ m ih =>
    intro x xs h
    rw [Nat.mul_succ, List.range_succ_eq_map, List.range_succ_eq_map] at h
    obtain ⟨a, t, rfl, ha, ht⟩ := List.map_eq_cons_iff.1 h
    obtain ⟨b, r, rfl, hb, hr⟩ := List.map_eq_cons_iff.1 ht
    have hrest := ih (fun j => x (j + 2)) r (by rw [hr]; simp [Function.comp_def])
    rw [redLevel_cons_cons, ha, hb, hrest, List.range_succ_eq_map, List.map_cons, List.map_map]
    rfl

/-- A tree whose leaves are a level's results is the tree of one more level. -/
theorem pairTree_level (f : Nat → Nat → Nat) (x : Nat → Option Nat) : ∀ k j,
    pairTree f (fun j => bothOf f (x (2 * j)) (x (2 * j + 1))) k j = pairTree f x (k + 1) j := by
  intro k
  induction k with
  | zero => intro j; rfl
  | succ k ih => intro j; rw [pairTree, ih, ih]; rfl

theorem redTree_single (a : RVal) : ∀ k, (redTree op k [a]).1 = a
  | 0 => rfl
  | k + 1 => by
    rw [redTree, redLevel]
    exact redTree_single a k

/-- The model's tree over 2^k positions, with levels to spare. -/
theorem redTree_code {spare : Nat} : ∀ k (x : Nat → Option Nat) (xs : List RVal), xs.map RVal.code = (List.range (2 ^ k)).map x →
    (redTree op (k + spare) xs).1.code = pairTree (fun u v => (op u v).1) x k 0 := by
  intro k
  induction k with
  | zero =>
    intro x xs h
    obtain ⟨a, t, rfl, ha, ht⟩ := List.map_eq_cons_iff.1 h
    rw [List.map_eq_nil_iff.1 ht, redTree_single]
    exact ha
  | succ k ih =>
    intro x xs h
    rw [Nat.succ_add, redTree, ih _ _ (redLevel_codes _ _ _ (by rw [h, pow_succ, Nat.mul_comm]))]
    exact pairTree_level ..

end

/-! ## What a tree holds -/

/-- A property of the leaves that the combination keeps. -/
theorem pairTree_keeps {f : Nat → Nat → Nat} {x : Nat → Option Nat} {P : Nat → Prop} (hx : ∀ n u, x n = some u → P u)
    (hf : ∀ u v, P u → P v → P (f u v)) : ∀ k j u, pairTree f x k j = some u → P u := by
  intro k
  induction k with
  | zero => exact fun j u h => hx j u h
  | succ k ih =>
    intro j u h
    rw [pairTree] at h
    cases hl : pairTree f x k (2 * j) with
    | none => exact ih (2 * j + 1) u (by rw [hl] at h; exact h)
    | some a =>
      cases hr : pairTree f x k (2 * j + 1) with
      | none => rw [hl, hr] at h; exact ih _ u (hl.trans h)
      | some b =>
        rw [hl, hr] at h
        obtain rfl : f a b = u := Option.some.inj h
        exact hf a b (ih _ a hl) (ih _ b hr)

/-- The leaves under value `j` of level `k`. -/
def leaves (x : Nat → Option Nat) (k j : Nat) : List Nat := (List.range' (j * 2 ^ k) (2 ^ k)).filterMap x

theorem leaves_succ (x : Nat → Option Nat) (k j : Nat) : leaves x (k + 1) j = leaves x k (2 * j) ++ leaves x k (2 * j + 1) := by
  have h0 : j * 2 ^ (k + 1) = 2 * j * 2 ^ k := by ring
  have h1 : (2 * j + 1) * 2 ^ k = 2 * j * 2 ^ k + 2 ^ k := by ring
  have h2 : 2 ^ (k + 1) = 2 ^ k + 2 ^ k := by ring
  rw [leaves, leaves, leaves, h0, h1, h2, ← List.filterMap_append, List.range'_append_1]

theorem leaves_zero (x : Nat → Option Nat) (j : Nat) : leaves x 0 j = (x j).toList := by
  cases h : x j with
  | none => simp [leaves, h]
  | some u => simp [leaves, h]

theorem pairTree_eq_none (f : Nat → Nat → Nat) (x : Nat → Option Nat) : ∀ k j, pairTree f x k j = none ↔ leaves x k j = [] := by
  intro k
  induction k with
  | zero => intro j; rw [pairTree, leaves_zero, Option.toList_eq_nil_iff]
  | succ k ih =>
    intro j
    rw [pairTree, leaves_succ, List.append_eq_nil_iff, ← ih, ← ih]
    cases pairTree f x k (2 * j) <;> cases pairTree f x k (2 * j + 1) <;> simp [bothOf]

/-- A combination that is a monoid's: the tree gives the combination of the leaves from left to right. -/
theorem pairTree_foldl {α : Type} {g : α → α → α} [Std.Associative g] {one : α} [Std.LawfulIdentity g one] {f : Nat → Nat → Nat}
    {rd : Nat → α} (hf : ∀ u v, rd (f u v) = g (rd u) (rd v)) (x : Nat → Option Nat) : ∀ k j,
    (pairTree f x k j).elim one rd = ((leaves x k j).map rd).foldl g one := by
  intro k
  induction k with
  | zero =>
    intro j
    rw [pairTree, leaves_zero]
    cases x j with
    | none => rfl
    | some u => exact (Std.LawfulLeftIdentity.left_id _).symm
  | succ k ih =>
    intro j
    have hsplit : ((leaves x (k + 1) j).map rd).foldl g one =
        g ((pairTree f x k (2 * j)).elim one rd) ((pairTree f x k (2 * j + 1)).elim one rd) := by
      rw [leaves_succ, List.map_append, List.foldl_append, ih, ih, ← List.foldl_assoc (op := g),
        Std.LawfulRightIdentity.right_id (op := g) (o := one)]
    rw [hsplit, pairTree]
    cases pairTree f x k (2 * j) with
    | none => exact (Std.LawfulLeftIdentity.left_id _).symm
    | some a =>
      cases pairTree f x k (2 * j + 1) with
      | none => exact (Std.LawfulRightIdentity.right_id _).symm
      | some b => exact hf a b

/-- A combination that chooses: the tree gives a leaf that is the best of them. -/
theorem pairTree_best {f : Nat → Nat → Nat} {le : Nat → Nat → Prop} (htr : ∀ u v w, le u v → le v w → le u w) (hrefl : ∀ u, le u u)
    {x : Nat → Option Nat} {P : Nat → Prop} (hx : ∀ n u, x n = some u → P u)
    (hf : ∀ u v, P u → P v → (f u v = u ∨ f u v = v) ∧ le u (f u v) ∧ le v (f u v)) : ∀ k j u, pairTree f x k j = some u →
    u ∈ leaves x k j ∧ ∀ v ∈ leaves x k j, le v u := by
  have hP := pairTree_keeps hx (fun u v hu hv => (hf u v hu hv).1.elim (fun h => h.symm.subst (motive := P) hu) (fun h => h.symm.subst (motive := P) hv))
  intro k
  induction k with
  | zero =>
    intro j u h
    rw [pairTree] at h
    simp [leaves_zero, h, hrefl]
  | succ k ih =>
    intro j u h
    rw [leaves_succ]
    rw [pairTree] at h
    cases hl : pairTree f x k (2 * j) with
    | none =>
      rw [(pairTree_eq_none ..).1 hl]
      exact ih (2 * j + 1) u (by rw [hl] at h; exact h)
    | some a =>
      cases hr : pairTree f x k (2 * j + 1) with
      | none =>
        rw [(pairTree_eq_none ..).1 hr, List.append_nil]
        rw [hl, hr] at h
        exact ih _ u (hl.trans h)
      | some b =>
        rw [hl, hr] at h
        obtain rfl : f a b = u := Option.some.inj h
        obtain ⟨hsel, hla, hlb⟩ := hf a b (hP _ _ a hl) (hP _ _ b hr)
        obtain ⟨ha, hau⟩ := ih _ a hl
        obtain ⟨hb, hbu⟩ := ih _ b hr
        refine ⟨?_, fun v hv => ?_⟩
        · rw [List.mem_append]
          rcases hsel with h | h
          · exact .inl (by rw [h]; exact ha)
          · exact .inr (by rw [h]; exact hb)
        · rcases List.mem_append.1 hv with hv | hv
          · exact htr _ _ _ (hau v hv) hla
          · exact htr _ _ _ (hbu v hv) hlb

/-! ## The scan -/

/-- A value at each position that is selected. -/
def present (on : Nat → Bool) (x : Nat → Nat) (n : Nat) : Option Nat := if on n then some (x n) else none

theorem scanRun_present (f : Nat → Nat → Nat) (on : Nat → Bool) (x : Nat → Nat) (n : Nat) : scanRun f (present on x) (n + 1) =
    if on n then some ((scanRun f (present on x) n).elim (x n) (fun v => f v (x n))) else scanRun f (present on x) n := by
  rw [scanRun, present]
  cases on n <;> cases scanRun f (present on x) n <;> rfl

/-- The outputs of a scan from a position on are those of the running combination there. -/
theorem scanLoop_eq {out : Nat → Nat × Nat} (add : Nat → Nat → Nat × Nat) (zero : Bool) (on : Nat → Bool) (old x fx : Nat → Nat) : ∀ m p,
    (scanLoop add out zero (scanRun (fun u v => (add u v).1) (present on x) p)
      ((List.range' p m).map (fun n => (on n, old n, x n, fx n)))).map (fun r => r.1) =
    (List.range' p m).map (fun n => if on n then (out ((scanRun (fun u v => (add u v).1) (present on x) (n + 1)).getD 0)).1
      else if zero then 0 else old n) := by
  intro m
  induction m with
  | zero => intro p; rfl
  | succ m ih =>
    intro p
    have hs := scanRun_present (fun u v => (add u v).1) on x p
    rw [List.range'_succ, List.map_cons, List.map_cons, ← ih (p + 1), hs]
    simp only [scanLoop]
    cases on p with
    | false => rfl
    | true => cases scanRun (fun u v => (add u v).1) (present on x) p <;> rfl

theorem scanRun_keeps {f : Nat → Nat → Nat} {x : Nat → Option Nat} {P : Nat → Prop} (hx : ∀ n u, x n = some u → P u)
    (hf : ∀ u v, P u → P v → P (f u v)) : ∀ n u, scanRun f x n = some u → P u := by
  intro n
  induction n with
  | zero => exact fun u h => nomatch h
  | succ n ih =>
    intro u h
    rw [scanRun] at h
    cases hl : scanRun f x n with
    | none => exact hx n u (by rw [hl] at h; exact h)
    | some a =>
      cases hr : x n with
      | none => rw [hl, hr] at h; exact ih u (hl.trans h)
      | some b =>
        rw [hl, hr] at h
        obtain rfl : f a b = u := Option.some.inj h
        exact hf a b (ih a hl) (hx n b hr)

end Sys2Proof.Machine
end

section
/-! SUPPORT. Reductions, the scan and the permutations, settled (O33). -/

namespace Sys2Proof.Machine

theorem present_decide (P : Nat → Prop) [DecidablePred P] (x : Nat → Nat) :
    present (fun n => decide (P n)) x = fun n => if P n then some (x n) else none := by
  funext n
  simp [present]

theorem present_eq_some {on : Nat → Bool} {x : Nat → Nat} {n u : Nat} (h : present on x n = some u) : on n = true ∧ x n = u := by
  simpa [present] using h

theorem filterMap_present (on : Nat → Bool) (x : Nat → Nat) (l : List Nat) : l.filterMap (present on x) = (l.filter on).map x := by
  induction l with
  | nil => rfl
  | cons n l ih =>
    rw [List.filterMap_cons, List.filter_cons, ih, present]
    cases on n <;> rfl

theorem leaves_present (on : Nat → Bool) (x : Nat → Nat) (k : Nat) : leaves (present on x) k 0 = ((List.range (2 ^ k)).filter on).map x := by
  rw [leaves, filterMap_present, Nat.zero_mul, ← List.range_eq_range']

/-! ## Values of the integer pages (R38) -/

section
variable {sg sat : Bool} {u v : Nat}

theorem iWrap_lt {k : Int} : iWrap 32 sg sat k < 2 ^ 32 := by
  rw [iWrap]
  have := Int.emod_lt_of_pos (if sat then max (if sg then -(2 ^ (32 - 1)) else 0) (min k (if sg then 2 ^ (32 - 1) - 1 else 2 ^ 32 - 1)) else k)
    (by norm_num : (0 : Int) < 2 ^ 32)
  omega

theorem iVal_emod : (iVal 32 sg u % 2 ^ 32).toNat = u % 2 ^ 32 := by
  rw [iVal, signed]
  split
  · split <;> omega
  · omega

theorem iWrap_unclamped {k : Int} : iWrap 32 sg false k = (k % 2 ^ 32).toNat := rfl

theorem iVal_range (h : u < 2 ^ 32) : (if sg then -(2 ^ 31) else 0 : Int) ≤ iVal 32 sg u ∧
    iVal 32 sg u ≤ (if sg then 2 ^ 31 - 1 else 2 ^ 32 - 1 : Int) := by
  rw [iVal, signed]
  cases sg with
  | false => simp; omega
  | true => simp; split <;> omega

/-- A value of the type is its own result, clamped or not. -/
theorem iWrap_iVal (h : u < 2 ^ 32) : iWrap 32 sg sat (iVal 32 sg u) = u := by
  obtain ⟨hlo, hhi⟩ := iVal_range (sg := sg) h
  have hid : max (if sg then -(2 ^ 31) else 0 : Int) (min (iVal 32 sg u) (if sg then 2 ^ 31 - 1 else 2 ^ 32 - 1)) = iVal 32 sg u := by
    rw [min_eq_left hhi, max_eq_right hlo]
  have hw : (iVal 32 sg u % 2 ^ 32).toNat = u := iVal_emod.trans (Nat.mod_eq_of_lt h)
  cases sat with
  | false => exact hw
  | true => exact (congrArg (fun k : Int => (k % 2 ^ 32).toNat) hid).trans hw

theorem iVal_ofNat (h : u < 2 ^ 32) : iVal 32 sg u = if sg = true then (BitVec.ofNat 32 u).toInt else ((BitVec.ofNat 32 u).toNat : Int) := by
  rw [iVal, signed, BitVec.toInt_eq_toNat_cond, BitVec.toNat_ofNat, Nat.mod_eq_of_lt h]
  cases sg with
  | false => rfl
  | true => simp; split <;> split <;> omega

theorem iWrap_bitInt {f : Nat → Nat → Nat} {g : BitVec 32 → BitVec 32 → BitVec 32} (h : ∀ a b, (g a b).toNat = f a.toNat b.toNat) :
    BitVec.ofNat 32 (iWrap 32 sg false (bitInt f (iVal 32 sg u) (iVal 32 sg v))) = g (BitVec.ofNat 32 u) (BitVec.ofNat 32 v) := by
  apply BitVec.eq_of_toNat_eq
  rw [h, iWrap_unclamped, bitInt, iVal_emod, iVal_emod, BitVec.toNat_ofNat, BitVec.toNat_ofNat, BitVec.toNat_ofNat,
    ← BitVec.toNat_ofNat u, ← BitVec.toNat_ofNat v, ← h]
  have := (g (BitVec.ofNat 32 u) (BitVec.ofNat 32 v)).isLt
  omega

theorem iWrap_add : iWrap 32 sg false (iVal 32 sg u + iVal 32 sg v) = (u + v) % 2 ^ 32 := by
  have hu := iVal_emod (sg := sg) (u := u)
  have hv := iVal_emod (sg := sg) (u := v)
  rw [iWrap_unclamped]
  omega

theorem iWrap_choose {op : Int → Int → Int} (hc : ∀ a b, op a b = a ∨ op a b = b) (hu : u < 2 ^ 32) (hv : v < 2 ^ 32) :
    (iWrap 32 sg sat (op (iVal 32 sg u) (iVal 32 sg v)) = u ∨ iWrap 32 sg sat (op (iVal 32 sg u) (iVal 32 sg v)) = v) ∧
      iVal 32 sg (iWrap 32 sg sat (op (iVal 32 sg u) (iVal 32 sg v))) = op (iVal 32 sg u) (iVal 32 sg v) := by
  rcases hc (iVal 32 sg u) (iVal 32 sg v) with h | h
  · rw [h, iWrap_iVal hu]
    exact ⟨.inl rfl, rfl⟩
  · rw [h, iWrap_iVal hv]
    exact ⟨.inr rfl, rfl⟩

end

/-! ## What a reduction writes (R53, R196) -/

/-- The width of the elements of a page. -/
theorem redFmt_width {p : RPage} {f : Fmt} (h : redFmt p = some f) : f.width = 32 ∨ f.width = 16 := by
  cases p <;> cases h
  · exact .inl rfl
  · exact .inr rfl
  · exact .inr rfl

section
variable {o : VRedOps} {pre : Nat → Nat} {fop : Nat → Nat → Nat × Nat} {fempty : Nat} {iop : Int → Int → Int} {iempty : Nat} {e : VEntry} {c : Ctx}

/-- The combination of an integer page. -/
def redCombine (o : VRedOps) (iop : Int → Int → Int) (u v : Nat) : Nat :=
  iWrap 32 (decide (o.page = .i32)) o.q.sat (iop (iVal 32 (decide (o.page = .i32)) u) (iVal 32 (decide (o.page = .i32)) v))

/-- The active elements of a page of `w`-bit elements. -/
def redOn (o : VRedOps) (w vl : Nat) (c : Ctx) (n : Nat) : Bool := decide (Active o.q w vl c n)

/-- The code of a value of a reduction, or the result of an empty one. -/
def RVal.codeOr (d : Nat) : RVal → Nat
  | some r => r.1
  | none => d

theorem RVal.codeOr_eq (d : Nat) (x : RVal) : x.codeOr d = x.code.getD d := by cases x <;> rfl

/-- The values that a reduction of a floating page starts from, as the model lists them. -/
def redInput (o : VRedOps) (pre : Nat → Nat) (f : Fmt) (e : VEntry) (c : Ctx) : List RVal :=
  ((elemsOf f.width (c.readV o.b)).zipIdx.map (fun x => if elOn o.q.pred o.q.inv c e.vl f.width x.2 then
    (let r := toF32 f x.1; (some (pre r.1, x.2), r.2)) else ((none : RVal), 0))).map (fun x => x.1)

theorem redInput_codes {f : Fmt} : (redInput o pre f e c).map RVal.code =
    (List.range (8192 / f.width)).map (present (redOn o f.width e.vl c) (fun n => pre (toF32 f (c.elem f.width o.b n)).1)) := by
  simp only [redInput, elemsOf_readV, zipIdx_map_range, List.map_map, elOn_eq]
  refine List.map_congr_left fun n _ => ?_
  simp only [Function.comp_apply, present, redOn, decide_eq_true_eq]
  by_cases ha : Active o.q f.width e.vl c n
  · rw [if_pos ha, if_pos ha]
    rfl
  · rw [if_neg ha, if_neg ha]
    rfl

theorem vReduce_float_tree {f : Fmt} (h : redFmt o.page = some f) : (vReduce o pre fop fempty iop iempty e c).1 =
    c.writeV o.a (ofElems 32 [(redTree fop 10 (redInput o pre f e c)).1.codeOr fempty]) := by
  rw [vReduce]
  simp only [h, redInput]
  generalize redTree fop 10 _ = t
  rfl

/-- How many levels the tree over the elements of a page has. -/
theorem redFmt_levels {p : RPage} {f : Fmt} (h : redFmt p = some f) : 8192 / f.width = 2 ^ (if f.width = 32 then 8 else 9) := by
  rcases redFmt_width h with hw | hw <;> rw [hw] <;> rfl

theorem vReduce_float {f : Fmt} (h : redFmt o.page = some f) : (vReduce o pre fop fempty iop iempty e c).1 =
    c.writeV o.a (ofElems 32 [(pairTree (fun u v => (fop u v).1)
      (present (redOn o f.width e.vl c) (fun n => pre (toF32 f (c.elem f.width o.b n)).1)) (if f.width = 32 then 8 else 9) 0).getD fempty]) := by
  have ht := redTree_code (op := fop) (spare := if f.width = 32 then 2 else 1) (if f.width = 32 then 8 else 9) _ (redInput o pre f e c)
    (redInput_codes.trans (by rw [redFmt_levels h]))
  have hk : (if f.width = 32 then 8 else 9) + (if f.width = 32 then 2 else 1) = 10 := by split <;> rfl
  rw [hk] at ht
  rw [← ht, ← RVal.codeOr_eq, vReduce_float_tree h]

theorem vReduce_int (h : redFmt o.page = none) : (vReduce o pre fop fempty iop iempty e c).1 =
    c.writeV o.a (ofElems 32 [(pairTree (redCombine o iop) (present (redOn o 32 e.vl c) (c.elem 32 o.b)) 8 0).getD iempty]) := by
  have ht := redTree_code (op := fun a b => (redCombine o iop a b, 0)) (spare := 0) 8 (present (redOn o 32 e.vl c) (c.elem 32 o.b))
    ((List.range (8192 / 32)).map (fun n => if redOn o 32 e.vl c n then some (c.elem 32 o.b n, n) else none))
    (by
      rw [List.map_map]
      refine List.map_congr_left fun n _ => ?_
      rw [Function.comp_apply, present]
      cases redOn o 32 e.vl c n <;> rfl)
  rw [show (pairTree (redCombine o iop) (present (redOn o 32 e.vl c) (c.elem 32 o.b)) 8 0) = _ from ht.symm, ← RVal.codeOr_eq, vReduce]
  simp only [h, elemsOf_readV, zipIdx_map_range, List.map_map, laneOn_eq]
  rfl

/-- One 32-bit element is written. -/
theorem vReduce_writes : ∃ v, (vReduce o pre fop fempty iop iempty e c).1 = c.writeV o.a (ofElems 32 [v]) := by
  cases h : redFmt o.page with
  | some f => exact ⟨_, vReduce_float h⟩
  | none => exact ⟨_, vReduce_int h⟩

theorem elem_zero_single {a v : Nat} : (c.writeV a (ofElems 32 [v])).elem 32 a 0 = v % 2 ^ 32 := Ctx.elem_writeV_ofElems (by norm_num)

theorem elem_pos_single {a v n : Nat} (h : 1 ≤ n) (hn : n < 256) : (c.writeV a (ofElems 32 [v])).elem 32 a n = 0 := by
  obtain ⟨n, rfl⟩ := Nat.exists_eq_add_of_le' h
  rw [Ctx.elem_writeV_ofElems (by norm_num; omega)]
  rfl

theorem vReduce_float_low {f : Fmt} (h : redFmt o.page = some f) : (vReduce o pre fop fempty iop iempty e c).1.elem 32 o.a 0 =
    (pairTree (fun u v => (fop u v).1) (fun n => if Active o.q f.width e.vl c n then some (pre (toF32 f (c.elem f.width o.b n)).1) else none)
      (if f.width = 32 then 8 else 9) 0).getD fempty % 2 ^ 32 := by
  rw [vReduce_float h, elem_zero_single, ← present_decide]
  rfl

theorem vReduce_int_low (h : redFmt o.page = none) : (vReduce o pre fop fempty iop iempty e c).1.elem 32 o.a 0 =
    (pairTree (redCombine o iop) (present (redOn o 32 e.vl c) (c.elem 32 o.b)) 8 0).getD iempty % 2 ^ 32 := by
  rw [vReduce_int h, elem_zero_single]

/-! ### Nothing active -/

theorem pairTree_none {f : Nat → Nat → Nat} {on : Nat → Bool} {x : Nat → Nat} {k : Nat} (h : ∀ n, n < 2 ^ k → on n = false) :
    pairTree f (present on x) k 0 = none := by
  rw [pairTree_eq_none, leaves_present, List.map_eq_nil_iff, List.filter_eq_nil_iff]
  intro n hn
  rw [h n (List.mem_range.1 hn)]
  exact Bool.false_ne_true

theorem vReduce_float_none {f : Fmt} (h : redFmt o.page = some f) (hn : ∀ n, n < 8192 / f.width → ¬ Active o.q f.width e.vl c n) :
    (vReduce o pre fop fempty iop iempty e c).1.elem 32 o.a 0 = fempty % 2 ^ 32 := by
  rw [vReduce_float h, elem_zero_single, pairTree_none (on := redOn o f.width e.vl c) fun n hlt => decide_eq_false (hn n (redFmt_levels h ▸ hlt))]
  rfl

theorem vReduce_int_none (h : redFmt o.page = none) (hn : ∀ n, n < 256 → ¬ Active o.q 32 e.vl c n) :
    (vReduce o pre fop fempty iop iempty e c).1.elem 32 o.a 0 = iempty % 2 ^ 32 := by
  rw [vReduce_int_low h, pairTree_none (on := redOn o 32 e.vl c) fun n hlt => decide_eq_false (hn n hlt)]
  rfl

/-! ### Integers -/

/-- The active elements of an integer page, as words. -/
def redWords (o : VRedOps) (vl : Nat) (c : Ctx) : List (BitVec 32) :=
  ((List.range 256).filter (fun n => decide (Active o.q 32 vl c n))).map (fun n => BitVec.ofNat 32 (c.elem 32 o.b n))

theorem words_eq (vl : Nat) : redWords o vl c = (leaves (present (redOn o 32 vl c) (c.elem 32 o.b)) 8 0).map (BitVec.ofNat 32) := by
  rw [leaves_present, List.map_map]
  rfl

theorem present_elem_lt {on : Nat → Bool} {r : Nat} : ∀ n u, present on (c.elem 32 r) n = some u → u < 2 ^ 32 :=
  fun _ _ h => (present_eq_some h).2 ▸ c.elem_lt ..

/-- A reduction whose combination is a monoid's on words. -/
theorem vReduce_int_fold {g : BitVec 32 → BitVec 32 → BitVec 32} [Std.Associative g] [Std.LawfulIdentity g (BitVec.ofNat 32 iempty)]
    (h : redFmt o.page = none) (hg : ∀ u v, BitVec.ofNat 32 (redCombine o iop u v) = g (BitVec.ofNat 32 u) (BitVec.ofNat 32 v)) :
    (vReduce o pre fop fempty iop iempty e c).1.elem 32 o.a 0 = ((redWords o e.vl c).foldl g (BitVec.ofNat 32 iempty)).toNat := by
  rw [vReduce_int_low h, words_eq, ← pairTree_foldl hg]
  cases pairTree (redCombine o iop) (present (redOn o 32 e.vl c) (c.elem 32 o.b)) 8 0 <;> exact (BitVec.toNat_ofNat ..).symm

/-- A reduction that chooses by an order. -/
theorem vReduce_int_best {le : Int → Int → Prop} (htr : ∀ u v w, le u v → le v w → le u w) (hrefl : ∀ u, le u u)
    (hc : ∀ a b, iop a b = a ∨ iop a b = b) (hl : ∀ a b, le a (iop a b) ∧ le b (iop a b)) (h : redFmt o.page = none)
    (hne : redWords o e.vl c ≠ []) :
    ∃ m ∈ redWords o e.vl c, (vReduce o pre fop fempty iop iempty e c).1.elem 32 o.a 0 = m.toNat ∧ ∀ v ∈ redWords o e.vl c,
      le (if o.page = .i32 then v.toInt else (v.toNat : Int)) (if o.page = .i32 then m.toInt else (m.toNat : Int)) := by
  rw [vReduce_int_low h]
  rw [words_eq] at hne ⊢
  have hval : ∀ u, u < 2 ^ 32 → iVal 32 (decide (o.page = .i32)) u =
      if o.page = .i32 then (BitVec.ofNat 32 u).toInt else ((BitVec.ofNat 32 u).toNat : Int) := by
    intro u hu
    rw [iVal_ofNat hu]
    simp only [decide_eq_true_eq]
  cases ht : pairTree (redCombine o iop) (present (redOn o 32 e.vl c) (c.elem 32 o.b)) 8 0 with
  | none => exact absurd (by rw [(pairTree_eq_none ..).1 ht]; rfl) hne
  | some m =>
    have hlt := pairTree_keeps present_elem_lt (fun _ _ _ _ => iWrap_lt) _ _ _ ht
    obtain ⟨hm, hall⟩ := pairTree_best (le := fun u v => le (iVal 32 (decide (o.page = .i32)) u) (iVal 32 (decide (o.page = .i32)) v))
      (fun _ _ _ => htr _ _ _) (fun _ => hrefl _) present_elem_lt
      (fun u v hu hv => by
        obtain ⟨hsel, heq⟩ := iWrap_choose (sg := decide (o.page = .i32)) (sat := o.q.sat) hc hu hv
        exact ⟨hsel, by rw [redCombine, heq]; exact hl _ _⟩) 8 0 m ht
    refine ⟨_, List.mem_map_of_mem hm, by rw [BitVec.toNat_ofNat]; rfl, fun v hv => ?_⟩
    obtain ⟨u, hu, rfl⟩ := List.mem_map.1 hv
    have hu' : u < 2 ^ 32 := by
      obtain ⟨n, -, hn⟩ := List.mem_filterMap.1 hu
      exact present_elem_lt n u hn
    rw [← hval u hu', ← hval m hlt]
    exact hall u hu

/-- A reduction whose clamped results are taken in the order of the tree. -/
theorem vReduce_int_tree (h : redFmt o.page = none) (hz : iempty < 2 ^ 32) : (vReduce o pre fop fempty iop iempty e c).1.elem 32 o.a 0 =
    (pairTree (redCombine o iop) (fun n => if Active o.q 32 e.vl c n then some (c.elem 32 o.b n) else none) 8 0).getD iempty := by
  have hp : (fun n => if Active o.q 32 e.vl c n then some (c.elem 32 o.b n) else none) = present (redOn o 32 e.vl c) (c.elem 32 o.b) :=
    (present_decide ..).symm
  rw [vReduce_int_low h, hp]
  cases ht : pairTree (redCombine o iop) (present (redOn o 32 e.vl c) (c.elem 32 o.b)) 8 0 with
  | none => exact Nat.mod_eq_of_lt hz
  | some m =>
    have hlt := pairTree_keeps present_elem_lt (fun _ _ _ _ => iWrap_lt) _ _ _ ht
    exact Nat.mod_eq_of_lt hlt

/-! ### The scan -/

/-- What a scan writes from a list of positions. -/
theorem scan_elem {add : Nat → Nat → Nat × Nat} {out : Nat → Nat × Nat} {w n : Nat} (on : Nat → Bool) (x fx : Nat → Nat) (hn : n < 8192 / w) :
    (c.writeV o.a (ofElems w ((scanLoop add out o.q.zero none
      ((List.range (8192 / w)).map (fun n => (on n, c.elem w o.a n, x n, fx n)))).map (fun r => r.1)))).elem w o.a n =
    if on n then (out ((scanRun (fun u v => (add u v).1) (present on x) (n + 1)).getD 0)).1 % 2 ^ w
    else if o.q.zero then 0 else c.elem w o.a n := by
  have hs := scanLoop_eq (out := out) add o.q.zero on (c.elem w o.a) x fx (8192 / w) 0
  rw [← List.range_eq_range', show scanRun (fun u v => (add u v).1) (present on x) 0 = none from rfl] at hs
  rw [hs, Ctx.elem_writeV_map hn]
  cases on n with
  | true => rfl
  | false =>
    cases o.q.zero with
    | true => rfl
    | false => exact c.elem_mod ..

theorem vrunScan_float {f : Fmt} (h : redFmt o.page = some f) {n : Nat} (hn : n < 8192 / f.width) :
    (vrunScan o e c).1.elem f.width o.a n = if Active o.q f.width e.vl c n then
      (if f = .f32 then (scanRun (fun u v => (addF32 u v).1)
        (fun k => if Active o.q f.width e.vl c k then some (toF32 f (c.elem f.width o.b k)).1 else none) (n + 1)).getD 0
       else (cvtFF f .f32 .ne false 0 ((scanRun (fun u v => (addF32 u v).1)
        (fun k => if Active o.q f.width e.vl c k then some (toF32 f (c.elem f.width o.b k)).1 else none) (n + 1)).getD 0)).1) % 2 ^ f.width
      else if o.q.zero then 0 else c.elem f.width o.a n := by
  have hs := scan_elem (o := o) (c := c) (add := addF32) (out := fun v => if f = .f32 then (v, 0) else cvtFF f .f32 .ne false 0 v)
    (fun n => decide (Active o.q f.width e.vl c n)) (fun n => (toF32 f (c.elem f.width o.b n)).1) (fun n => (toF32 f (c.elem f.width o.b n)).2) hn
  rw [vrunScan]
  simp only [h, elemsOf_readV, List.zip_map', zipIdx_map_range, List.map_map, elOn_eq, Function.comp_def, present_decide, decide_eq_true_eq,
    apply_ite Prod.fst] at hs ⊢
  exact hs

theorem vrunScan_int (h : redFmt o.page = none) {n : Nat} (hn : n < 256) :
    (vrunScan o e c).1.elem 32 o.a n = if Active o.q 32 e.vl c n then
      (scanRun (redCombine o (fun u v => u + v)) (fun k => if Active o.q 32 e.vl c k then some (c.elem 32 o.b k) else none) (n + 1)).getD 0
      else if o.q.zero then 0 else c.elem 32 o.a n := by
  have hs := scan_elem (o := o) (c := c) (add := fun u v => (redCombine o (fun u v => u + v) u v, 0)) (out := fun v => (v, 0))
    (redOn o 32 e.vl c) (c.elem 32 o.b) (fun _ => 0) (show n < 8192 / 32 from hn)
  have hmod : (scanRun (redCombine o (fun u v => u + v)) (present (redOn o 32 e.vl c) (c.elem 32 o.b)) (n + 1)).getD 0 % 2 ^ 32 =
      (scanRun (redCombine o (fun u v => u + v)) (present (redOn o 32 e.vl c) (c.elem 32 o.b)) (n + 1)).getD 0 := by
    cases hr : scanRun (redCombine o (fun u v => u + v)) (present (redOn o 32 e.vl c) (c.elem 32 o.b)) (n + 1) with
    | none => rfl
    | some v => exact Nat.mod_eq_of_lt (scanRun_keeps present_elem_lt (fun _ _ _ _ => iWrap_lt) _ _ hr)
  have hp : present (redOn o 32 e.vl c) (c.elem 32 o.b) = fun k => if Active o.q 32 e.vl c k then some (c.elem 32 o.b k) else none :=
    present_decide ..
  simp only [hmod] at hs
  rw [hp] at hs
  rw [vrunScan]
  simp only [h, elemsOf_readV, List.zip_map', zipIdx_map_range, List.map_map, laneOn_eq, Function.comp_def, redOn, decide_eq_true_eq] at hs ⊢
  exact hs

end

end Sys2Proof.Machine
end

section
/-! SUPPORT. Reductions and permutations, put together (O33). -/

namespace Sys2Proof.Machine

section
variable {o : VRedOps} {e : VEntry} {c : Ctx}

/-- A result whose one effect is to write one 32-bit element above zeros. -/
def WritesOne (a : Nat) (c : Ctx) (r : VRes) : Prop := ∃ v, r.1 = c.writeV a (ofElems 32 [v])

theorem vReduce_writesOne {pre : Nat → Nat} {fop : Nat → Nat → Nat × Nat} {fempty : Nat} {iop : Int → Int → Int} {iempty : Nat} :
    WritesOne o.a c (vReduce o pre fop fempty iop iempty e c) := vReduce_writes

/-- Every reduction writes one element. -/
theorem reductions_write (o : VRedOps) (e : VEntry) (c : Ctx) : ∀ i ∈ ([.vrsum o, .vrmax o, .vrmin o, .vrmaxn o, .vrminn o, .vramax o,
    .vriand o, .vrior o, .vrixor o] : List Instr), WritesOne o.a c (vecRun i e c) := by
  refine (List.forall_iff_forall_mem (p := fun i => WritesOne o.a c (vecRun i e c))).1 ⟨?_, ?_, ?_, ?_, ?_, ?_, ?_, ?_, ?_⟩
  · exact (show WritesOne o.a c (vrunRsum o e c) by unfold vrunRsum; exact vReduce_writesOne)
  · exact (show WritesOne o.a c (vrunRmax o e c) by unfold vrunRmax; exact vReduce_writesOne)
  · exact (show WritesOne o.a c (vrunRmin o e c) by unfold vrunRmin; exact vReduce_writesOne)
  · exact (show WritesOne o.a c (vrunRmaxn o e c) by unfold vrunRmaxn; exact vReduce_writesOne)
  · exact (show WritesOne o.a c (vrunRminn o e c) by unfold vrunRminn; exact vReduce_writesOne)
  · exact (show WritesOne o.a c (vrunRamax o e c) by unfold vrunRamax; exact vReduce_writesOne)
  · exact (show WritesOne o.a c (vrunRiand o e c) by unfold vrunRiand; exact vReduce_writesOne (o := unclamped o))
  · exact (show WritesOne o.a c (vrunRior o e c) by unfold vrunRior; exact vReduce_writesOne (o := unclamped o))
  · exact (show WritesOne o.a c (vrunRixor o e c) by unfold vrunRixor; exact vReduce_writesOne (o := unclamped o))

theorem page_of_float {f : Fmt} (h : redFmt o.page = some f) : o.page ≠ .i32 ∧ o.page ≠ .n32 := by
  constructor <;> intro hp <;> rw [hp] at h <;> cases h

/-- The combination of a natural or integer page, without clamping, is that of the words. -/
theorem redCombine_bits {f : Nat → Nat → Nat} {g : BitVec 32 → BitVec 32 → BitVec 32} (h : ∀ a b, (g a b).toNat = f a.toNat b.toNat) (u v : Nat) :
    BitVec.ofNat 32 (redCombine (unclamped o) (bitInt f) u v) = g (BitVec.ofNat 32 u) (BitVec.ofNat 32 v) := iWrap_bitInt h

theorem redCombine_add (hs : o.q.sat = false) (u v : Nat) :
    BitVec.ofNat 32 (redCombine o (fun a b => a + b) u v) = BitVec.ofNat 32 u + BitVec.ofNat 32 v := by
  rw [redCombine, hs, iWrap_add, ← BitVec.ofNat_add]
  exact BitVec.eq_of_toNat_eq (by simp)

theorem vrunRiand_low (h : redFmt o.page = none) :
    (vrunRiand o e c).1.elem 32 o.a 0 = ((redWords o e.vl c).foldl (fun u v => u &&& v) (BitVec.allOnes 32)).toNat :=
  vReduce_int_fold (o := unclamped o) (g := fun u v => u &&& v) h (redCombine_bits BitVec.toNat_and)
theorem vrunRior_low (h : redFmt o.page = none) :
    (vrunRior o e c).1.elem 32 o.a 0 = ((redWords o e.vl c).foldl (fun u v => u ||| v) 0).toNat :=
  vReduce_int_fold (o := unclamped o) (g := fun u v => u ||| v) h (redCombine_bits BitVec.toNat_or)
theorem vrunRixor_low (h : redFmt o.page = none) :
    (vrunRixor o e c).1.elem 32 o.a 0 = ((redWords o e.vl c).foldl (fun u v => u ^^^ v) 0).toNat :=
  vReduce_int_fold (o := unclamped o) (g := fun u v => u ^^^ v) h (redCombine_bits BitVec.toNat_xor)
theorem vrunRsum_low (h : redFmt o.page = none) (hs : o.q.sat = false) :
    (vrunRsum o e c).1.elem 32 o.a 0 = ((redWords o e.vl c).foldl (fun u v => u + v) 0).toNat :=
  vReduce_int_fold (g := fun u v => u + v) h (redCombine_add hs)

/-- The results of empty reductions of floating pages. -/
theorem reductions_none_float {f : Fmt} (h : redFmt o.page = some f) (hn : ∀ n, n < 8192 / f.width → ¬ Active o.q f.width e.vl c n) :
    (vrunRsum o e c).1.elem 32 o.a 0 = 0 ∧ (vrunRmax o e c).1.elem 32 o.a 0 = 0xFF800000 ∧ (vrunRmaxn o e c).1.elem 32 o.a 0 = 0xFF800000 ∧
      (vrunRmin o e c).1.elem 32 o.a 0 = 0x7F800000 ∧ (vrunRminn o e c).1.elem 32 o.a 0 = 0x7F800000 ∧
      (vrunRamax o e c).1.elem 32 o.a 0 = 0 := by
  simp only [vrunRsum, vrunRmax, vrunRmaxn, vrunRmin, vrunRminn, vrunRamax, vReduce_float_none h hn]
  decide

/-- The results of empty reductions of integer pages. -/
theorem reductions_none_int (h : redFmt o.page = none) (hn : ∀ n, n < 256 → ¬ Active o.q 32 e.vl c n) :
    (vrunRsum o e c).1.elem 32 o.a 0 = 0 ∧
      ((vrunRiand o e c).1.elem 32 o.a 0 = 0xFFFFFFFF ∧ (vrunRior o e c).1.elem 32 o.a 0 = 0 ∧ (vrunRixor o e c).1.elem 32 o.a 0 = 0) ∧
      (o.page = .i32 → (vrunRmax o e c).1.elem 32 o.a 0 = 0x80000000 ∧ (vrunRmin o e c).1.elem 32 o.a 0 = 0x7FFFFFFF) ∧
      (o.page = .n32 → (vrunRmax o e c).1.elem 32 o.a 0 = 0 ∧ (vrunRmin o e c).1.elem 32 o.a 0 = 0xFFFFFFFF) := by
  have hb : ∀ iop z, (vReduce (unclamped o) id addF32 0 iop z e c).1.elem 32 o.a 0 = z % 2 ^ 32 := fun iop z => vReduce_int_none (o := unclamped o) h hn
  simp only [vrunRsum, vrunRmax, vrunRmin, vrunRiand, vrunRior, vrunRixor, vReduce_int_none h hn, hb]
  refine ⟨rfl, ⟨rfl, rfl, rfl⟩, fun hp => ?_, fun hp => ?_⟩ <;> rw [hp] <;> decide

theorem vrunRmax_best (h : redFmt o.page = none) (hne : redWords o e.vl c ≠ []) :
    ∃ m ∈ redWords o e.vl c, (vrunRmax o e c).1.elem 32 o.a 0 = m.toNat ∧ ∀ v ∈ redWords o e.vl c,
      (if o.page = .i32 then v.toInt else (v.toNat : Int)) ≤ (if o.page = .i32 then m.toInt else (m.toNat : Int)) :=
  vReduce_int_best (le := fun a b => a ≤ b) (fun _ _ _ => le_trans) le_refl max_choice (fun a b => ⟨le_max_left a b, le_max_right a b⟩) h hne

theorem vrunRmin_best (h : redFmt o.page = none) (hne : redWords o e.vl c ≠ []) :
    ∃ m ∈ redWords o e.vl c, (vrunRmin o e c).1.elem 32 o.a 0 = m.toNat ∧ ∀ v ∈ redWords o e.vl c,
      (if o.page = .i32 then m.toInt else (m.toNat : Int)) ≤ (if o.page = .i32 then v.toInt else (v.toNat : Int)) :=
  vReduce_int_best (le := fun a b => b ≤ a) (fun _ _ _ h1 h2 => le_trans h2 h1) le_refl min_choice (fun a b => ⟨min_le_left a b, min_le_right a b⟩) h hne

/-- A reduction of a floating page is the value of the pairwise tree. -/
theorem reductions_float {f : Fmt} (h : redFmt o.page = some f) :
    let x := fun n => if Active o.q f.width e.vl c n then some (toF32 f (c.elem f.width o.b n)).1 else none
    let tree := fun (r : VRes) (op : Nat → Nat → Nat × Nat) (x : Nat → Option Nat) (none_ : Nat) => r.1.elem 32 o.a 0 =
      (pairTree (fun u v => (op u v).1) x (if f.width = 32 then 8 else 9) 0).getD none_ % 2 ^ 32
    tree (vrunRsum o e c) addF32 x 0 ∧
    tree (vrunRmax o e c) (fminmax .f32 true false) x 0xFF800000 ∧ tree (vrunRmin o e c) (fminmax .f32 false false) x 0x7F800000 ∧
    tree (vrunRmaxn o e c) (fminmax .f32 true true) x 0xFF800000 ∧ tree (vrunRminn o e c) (fminmax .f32 false true) x 0x7F800000 ∧
    tree (vrunRamax o e c) (fminmax .f32 true false) (fun n => (x n).map (fun v => v % 2 ^ 31)) 0 := by
  simp only [vrunRsum, vrunRmax, vrunRmaxn, vrunRmin, vrunRminn, vrunRamax, vReduce_float_low h, id, Option.map_if, negInf, posInf, and_self]

theorem vrunRsum_clamped (h : redFmt o.page = none) (hs : o.q.sat = true) : (vrunRsum o e c).1.elem 32 o.a 0 =
    (pairTree (fun u v => iWrap 32 (decide (o.page = .i32)) true (iVal 32 (decide (o.page = .i32)) u + iVal 32 (decide (o.page = .i32)) v))
      (fun n => if Active o.q 32 e.vl c n then some (c.elem 32 o.b n) else none) 8 0).getD 0 := by
  rw [vrunRsum, vReduce_int_tree h (by norm_num)]
  unfold redCombine
  rw [hs]

theorem vrunScan_words (h : redFmt o.page = none) {n : Nat} (hn : n < 256) : (vrunScan o e c).1.elem 32 o.a n =
    if Active o.q 32 e.vl c n then (scanRun (if o.q.sat then (fun u v => iWrap 32 (decide (o.page = .i32)) true
        (iVal 32 (decide (o.page = .i32)) u + iVal 32 (decide (o.page = .i32)) v)) else fun u v => (u + v) % 2 ^ 32)
      (fun k => if Active o.q 32 e.vl c k then some (c.elem 32 o.b k) else none) (n + 1)).getD 0
    else if o.q.zero then 0 else c.elem 32 o.a n := by
  rw [vrunScan_int h hn]
  unfold redCombine
  cases o.q.sat with
  | true => rfl
  | false =>
    simp only [iWrap_add]
    rfl

theorem vrunPerm_elementWise (o : VROps) (e : VEntry) (c : Ctx) : ElementWise { o.q with rm := .ne } 32 o.a e.vl c (vrunPerm o e c)
    (fun n => (c.elem 32 o.b (c.elem 32 o.c n % 256), 0)) := by
  unfold vrunPerm
  exact vLanes_elementWise fun n hn => by rw [getD_elemsOf (Nat.mod_lt _ (by decide)), getD_elemsOf hn]

theorem vrunRotl_elementWise (o : VXOps) (e : VEntry) (c : Ctx) : ElementWise { o.q with rm := .ne } 32 o.a e.vl c (vrunRotl o e c)
    (fun n => (c.elem 32 o.b ((n + e.scalar.toNat % 256) % 256), 0)) := by
  unfold vrunRotl laneNum
  exact vLanes_elementWise fun n _ => getD_elemsOf (Nat.mod_lt _ (by decide))

theorem vrunBcast_elementWise (o : VXOps) (e : VEntry) (c : Ctx) : ElementWise { o.q with rm := .ne } 32 o.a e.vl c (vrunBcast o e c)
    (fun _ => (c.elem 32 o.b (e.scalar.toNat % 256), 0)) := by
  unfold vrunBcast laneNum
  exact vLanes_elementWise fun n _ => getD_elemsOf (Nat.mod_lt _ (by decide))

theorem vrunExpnd_active {o : VROps} {e : VEntry} {c : Ctx} {k : Nat} (hk : k < (activeLanes o.q e.vl c).length) :
    (vrunExpnd o e c).1.elem 32 o.a (activeLanes o.q e.vl c)[k] = c.elem 32 o.b k := by
  obtain ⟨hlt, ha⟩ := mem_activeLanes.1 (List.getElem_mem hk)
  rw [vrunExpnd_elem hlt, if_pos ha, selectedBelow_activeLanes hk, getD_elemsOf (Nat.lt_of_lt_of_le hk (activeLanes_length_le ..)), Ctx.elem_mod]

/-- Settles O33: the list operations of the model are functions of the element number, and its levels are the pairwise tree. -/
theorem reductionsAndPermutations : Obligations.ReductionsAndPermutations := by
  refine ⟨fun o e c => ?_, fun o x e c => ⟨?_, ?_, ?_, ?_, ?_, ?_, ?_⟩⟩
  · intro w on low clamped all
    have hwf : ∀ f, redFmt o.page = some f → w = f.width := fun f h => by simp only [w, h]
    have hwi : redFmt o.page = none → w = 32 := fun h => by simp only [w, h]
    clear_value w
    refine ⟨fun i hi n h1 hn => ?_, fun i hi m hm => ?_, fun hn => ?_, fun h => ?_, fun h hs => ?_, fun f h => ?_, fun h n hn => ?_, fun f h n hn => ?_⟩
    · obtain ⟨v, hv⟩ := reductions_write o e c i hi
      rw [hv, elem_pos_single h1 hn]
    · obtain ⟨v, hv⟩ := reductions_write o e c i hi
      rw [hv, Ctx.readV_writeV_ne hm]
    · cases h : redFmt o.page with
      | some f =>
        obtain rfl := hwf f h
        obtain ⟨h1, h2⟩ := reductions_none_float h hn
        obtain ⟨hi, hu⟩ := page_of_float h
        exact ⟨h1, fun _ => h2, nofun, fun hp => absurd hp hi, fun hp => absurd hp hu⟩
      | none =>
        obtain rfl := hwi h
        obtain ⟨h1, h2, h3, h4⟩ := reductions_none_int h hn
        exact ⟨h1, fun hp => absurd rfl hp, fun _ => h2, h3, h4⟩
    · exact ⟨vrunRiand_low h, vrunRior_low h, vrunRixor_low h, fun hs => vrunRsum_low h hs, fun hne => ⟨vrunRmax_best h hne, vrunRmin_best h hne⟩⟩
    · obtain rfl := hwi h
      exact vrunRsum_clamped h hs
    · obtain rfl := hwf f h
      obtain ⟨hsum, hmax, hmin, hmaxn, hminn, hamax⟩ := reductions_float (e := e) (c := c) h
      exact ⟨hsum, hmax, hmin, hmaxn, hminn, hamax⟩
    · obtain rfl := hwi h
      exact vrunScan_words h hn
    · obtain rfl := hwf f h
      exact vrunScan_float h hn
  · exact vrunPerm_elementWise o e c
  · exact vrunRotl_elementWise x e c
  · exact vrunBcast_elementWise x e c
  · exact fun n hn => vrunCompr_elem hn
  · exact fun k hk => vrunExpnd_active hk
  · exact fun n hn hm => (vrunExpnd_elem hn).trans (if_neg fun ha => hm (mem_activeLanes.2 ⟨hn, ha⟩))
  · exact fun n hn => vrunInsr_elem hn

end

end Sys2Proof.Machine
end

section
/-! SUPPORT. What the effect of a queue entry changes of its context (O35). -/

namespace Sys2Proof.Machine

/-! ## An instruction's effect leaves what its context waits for -/

@[simp] theorem Ctx.flow_writeV (c : Ctx) (r : Nat) (v : VReg) : (c.writeV r v).flow = c.flow := rfl
@[simp] theorem Ctx.flow_writeK (c : Ctx) (r : Nat) (v : Pred) : (c.writeK r v).flow = c.flow := by
  rw [Ctx.writeK]
  split <;> rfl
@[simp] theorem seedFor_flow (rm : Rm) (c : Ctx) : (seedFor rm c).flow = c.flow := by
  rw [seedFor]
  split <;> rfl
@[simp] theorem kLanes_flow (q : VQ) (a vl : Nat) (c : Ctx) (f : Nat → Bool) : (kLanes q a vl c f).flow = c.flow := Ctx.flow_writeK ..
@[simp] theorem vElem_flow (q : VQ) (w a vl : Nat) (c : Ctx) (f : Nat → Nat → Nat × Nat) : (vElem q w a vl c f).1.flow = c.flow :=
  seedFor_flow ..
@[simp] theorem vCompare_flow (q : VQ) (w : Nat) (bc : Bool) (a b cn : Nat) (f : Nat → Nat → Bool × Nat) (e : VEntry) (c : Ctx) :
    (vCompare q w bc a b cn f e c).1.flow = c.flow := kLanes_flow ..
@[simp] theorem vLanes_flow (q : VQ) (a vl : Nat) (c : Ctx) (f : Nat → Nat) : (vLanes q a vl c f).1.flow = c.flow := rfl
@[simp] theorem vReduce_flow (o : VRedOps) (pre : Nat → Nat) (fop : Nat → Nat → Nat × Nat) (fempty : Nat) (iop : Int → Int → Int)
    (iempty : Nat) (e : VEntry) (c : Ctx) : (vReduce o pre fop fempty iop iempty e c).1.flow = c.flow := by
  obtain ⟨v, hv⟩ := vReduce_writes (o := o) (pre := pre) (fop := fop) (fempty := fempty) (iop := iop) (iempty := iempty) (e := e) (c := c)
  rw [hv, Ctx.flow_writeV]
theorem vrunScan_flow (o : VRedOps) (e : VEntry) (c : Ctx) : (vrunScan o e c).1.flow = c.flow := by
  rw [vrunScan]
  cases redFmt o.page <;> rfl

theorem vecRun_flow (i : Instr) (e : VEntry) (c : Ctx) : (vecRun i e c).1.flow = c.flow := by
  unfold vecRun
  split
  all_goals simp only [vrunAdd, vrunSub, vrunMul, vrunDiv, vrunSqrt, vrunMin, vrunMax, vrunMinn, vrunMaxn, vrunNeg, vrunAbs, vrunSgn, vrunFma,
    vrunFms, vrunFnma, vrunFnms, vrunSpecial, vrunIadd, vrunIsub, vrunImul, vrunImulh, vrunImin, vrunImax, vrunIabs, vrunAnd, vrunOr, vrunXor,
    vrunAndn, vrunSll, vrunSrl, vrunSra, vrunFeq, vrunFne, vrunFlt, vrunFle, vrunFun, vrunIeq, vrunIne, vrunIlt, vrunIle, vrunKand, vrunKor,
    vrunKxor, vrunKandn, vrunKnot, vrunSel, vrunCvt, vrunQ8, vrunQ4, vrunDq4, vrunRsum, vrunRmax, vrunRmin, vrunRmaxn, vrunRminn, vrunRamax,
    vrunRiand, vrunRior, vrunRixor, vrunPerm, vrunRotl, vrunBcast, vrunCompr, vrunExpnd, vrunInsr, vFloat, vBits, vInt, vLogic, vOp3, vFCompare,
    vICompare, kLogic, Ctx.flow_writeV, seedFor_flow, kLanes_flow, vElem_flow, vCompare_flow, vLanes_flow, vReduce_flow, vrunScan_flow]

/-! ## The lowest position that raised an enabled flag -/

/-- The lower of the positions seen so far and one more. -/
def lowerPos (m : Option Nat) (p : Nat) : Option Nat := some (m.elim p (fun q => min q p))

/-- The positions that raised an enabled flag. -/
def flagged (en : Nat) (fs : List (Nat × Nat)) : List Nat := (fs.filter (fun f => decide (Nat.land f.2 en ≠ 0))).map (fun f => f.1)

theorem mem_flagged {en x : Nat} {fs : List (Nat × Nat)} : x ∈ flagged en fs ↔ ∃ z ∈ fs, z.1 = x ∧ Nat.land z.2 en ≠ 0 := by
  simp only [flagged, List.mem_map, List.mem_filter, decide_eq_true_eq]
  exact ⟨fun ⟨z, ⟨hz, hn⟩, hx⟩ => ⟨z, hz, hx, hn⟩, fun ⟨z, hz, hx, hn⟩ => ⟨z, ⟨hz, hn⟩, hx⟩⟩

theorem lowFlag_eq (en : Nat) (fs : List (Nat × Nat)) : lowFlag en fs = (flagged en fs).foldl lowerPos none := by
  have hstep : lowFlag en fs = fs.foldl (fun m f => if Nat.land f.2 en = 0 then m else lowerPos m f.1) none := by
    rw [lowFlag]
    congr 1
    funext m f
    cases m <;> rfl
  rw [hstep]
  clear hstep
  generalize (none : Option Nat) = m
  induction fs generalizing m with
  | nil => rfl
  | cons f fs ih =>
    rw [List.foldl_cons, ih, flagged, flagged]
    by_cases h : Nat.land f.2 en = 0
    · rw [if_pos h, List.filter_cons_of_neg (by simpa using h)]
    · rw [if_neg h, List.filter_cons_of_pos (by simpa using h), List.map_cons, List.foldl_cons]

theorem lowFlag_none {en : Nat} {fs : List (Nat × Nat)} (h : ∀ z ∈ fs, Nat.land z.2 en = 0) : lowFlag en fs = none := by
  have hf : flagged en fs = [] := List.eq_nil_iff_forall_not_mem.2 fun x hx => by
    obtain ⟨z, hz, -, hn⟩ := mem_flagged.1 hx
    exact hn (h z hz)
  rw [lowFlag_eq, hf]
  rfl

theorem foldl_min (ps : List Nat) : ∀ q, ∃ p, ps.foldl lowerPos (some q) = some p ∧
    (p = q ∨ p ∈ ps) ∧ p ≤ q ∧ ∀ x ∈ ps, p ≤ x := by
  induction ps with
  | nil => exact fun q => ⟨q, rfl, .inl rfl, le_refl q, nofun⟩
  | cons x ps ih =>
    intro q
    obtain ⟨p, hp, hmem, hle, hall⟩ := ih (min q x)
    refine ⟨p, hp, ?_, hle.trans (min_le_left q x), fun y hy => ?_⟩
    · rcases hmem with rfl | h
      · rcases min_choice q x with hm | hm <;> rw [hm]
        · exact .inl rfl
        · exact .inr (List.mem_cons_self ..)
      · exact .inr (List.mem_cons_of_mem _ h)
    · rcases List.mem_cons.1 hy with rfl | hy
      · exact hle.trans (min_le_right q y)
      · exact hall y hy

theorem lowFlag_least {en p : Nat} {fs : List (Nat × Nat)} (hp : ∃ z ∈ fs, z.1 = p ∧ Nat.land z.2 en ≠ 0)
    (hl : ∀ z ∈ fs, Nat.land z.2 en ≠ 0 → p ≤ z.1) : lowFlag en fs = some p := by
  rw [lowFlag_eq]
  have hin := mem_flagged.2 hp
  have hleast : ∀ x ∈ flagged en fs, p ≤ x := fun x hx => by
    obtain ⟨z, hz, rfl, hn⟩ := mem_flagged.1 hx
    exact hl z hz hn
  cases hps : flagged en fs with
  | nil => rw [hps] at hin; exact absurd hin List.not_mem_nil
  | cons x ps =>
    rw [hps] at hin hleast
    obtain ⟨q, hq, hqm, hqx, hall⟩ := foldl_min ps x
    have hqp : q ≤ p := (List.mem_cons.1 hin).elim (fun h => h ▸ hqx) (hall p)
    have hpq : p ≤ q := hleast q (hqm.elim (fun h => h ▸ List.mem_cons_self ..) (List.mem_cons_of_mem _))
    rw [List.foldl_cons]
    exact hq.trans (congrArg some (Nat.le_antisymm hqp hpq))

/-! ## Effects (R50, R51) -/

/-- An instruction that its context stalled on has completed. -/
def Ctx.ended (c : Ctx) (words : Nat) : Ctx := Ctx.retire { c with flow := { c.flow with waitOn := none, waitWords := 0 } } words

section
variable {s : State} {e : VEntry}

theorem waitsFor_iff : s.waitsFor e = true ↔ (s.ctx e.at_).flow.waitOn = some e.num := by simp [State.waitsFor]

theorem ctx_completeWaiting (l : Loc) : (s.completeWaiting l 0 0 none).ctx l = (s.ctx l).ended (s.ctx l).flow.waitWords := by
  simp [State.completeWaiting, Ctx.ended, Ctx.writeG]

theorem completeWaiting_others (l : Loc) : SameContextsBut l s (s.completeWaiting l 0 0 none) ∧ SameStorage s (s.completeWaiting l 0 0 none) ∧
    (s.completeWaiting l 0 0 none).stations = s.stations :=
  ⟨SameContextsBut.trans (.modCtx _) (.modCtx _), .of_eq rfl rfl rfl, rfl⟩

theorem vecDiscard_idle (h : (s.ctx e.at_).flow.waitOn ≠ some e.num) : s.vecDiscard e = s := by
  rw [State.vecDiscard, if_neg (mt waitsFor_iff.1 h)]
theorem vecDiscard_waits (h : (s.ctx e.at_).flow.waitOn = some e.num) : s.vecDiscard e = s.completeWaiting e.at_ 0 0 none := by
  rw [State.vecDiscard, if_pos (waitsFor_iff.2 h)]

theorem vecEffect_idle (h : (s.ctx e.at_).flow.waitOn ≠ some e.num) :
    s.vecEffect e = s.modCtx e.at_ (fun _ => Ctx.takeEffect (vecRun e.i e (s.ctx e.at_))) := by
  rw [State.vecEffect, if_neg (mt waitsFor_iff.1 h)]
theorem vecEffect_quiet (h : (s.ctx e.at_).flow.waitOn = some e.num)
    (hq : ∀ z ∈ (vecRun e.i e (s.ctx e.at_)).2, Nat.land z.2 (s.ctx e.at_).csr.ftrapen = 0) :
    s.vecEffect e = (s.modCtx e.at_ (fun _ => Ctx.takeEffect (vecRun e.i e (s.ctx e.at_)))).completeWaiting e.at_ 0 0 none := by
  rw [State.vecEffect, if_pos (waitsFor_iff.2 h)]
  simp only [lowFlag_none hq]
theorem vecEffect_traps {p : Nat} (h : (s.ctx e.at_).flow.waitOn = some e.num)
    (hp : lowFlag (s.ctx e.at_).csr.ftrapen (vecRun e.i e (s.ctx e.at_)).2 = some p) :
    s.vecEffect e = (s.modCtx e.at_ (fun c => { c with flow := { c.flow with waitOn := none, waitWords := 0 } })).trapOf e.at_ causeFPE
      (w64 (256 * p + orFlags (vecRun e.i e (s.ctx e.at_)).2)) (s.ctx e.at_).flow.waitWords := by
  rw [State.vecEffect, if_pos (waitsFor_iff.2 h)]
  simp only [hp]

/-- Whatever an entry does, it does to its own context alone. -/
theorem vecEffect_others : SameContextsBut e.at_ s (s.vecEffect e) ∧ SameStorage s (s.vecEffect e) ∧ (s.vecEffect e).stations = s.stations := by
  by_cases h : (s.ctx e.at_).flow.waitOn = some e.num
  · rw [State.vecEffect, if_pos (waitsFor_iff.2 h)]
    cases lowFlag (s.ctx e.at_).csr.ftrapen (vecRun e.i e (s.ctx e.at_)).2 with
    | none =>
      obtain ⟨hc, hs, ht⟩ := completeWaiting_others (s := s.modCtx e.at_ (fun _ => Ctx.takeEffect (vecRun e.i e (s.ctx e.at_)))) e.at_
      exact ⟨SameContextsBut.trans (.modCtx _) hc, hs, ht⟩
    | some p => exact ⟨.enterTrap (SameContextsBut.trans (.modCtx _) (.modCtx _)), .of_eq rfl rfl rfl, rfl⟩
  · rw [vecEffect_idle h]
    exact ⟨.modCtx _, .of_eq rfl rfl rfl, rfl⟩

theorem vecDiscard_others : SameContextsBut e.at_ s (s.vecDiscard e) ∧ SameStorage s (s.vecDiscard e) ∧ (s.vecDiscard e).stations = s.stations := by
  by_cases h : (s.ctx e.at_).flow.waitOn = some e.num
  · rw [vecDiscard_waits h]
    exact completeWaiting_others _
  · rw [vecDiscard_idle h]
    exact ⟨fun _ _ => rfl, .of_eq rfl rfl rfl, rfl⟩

theorem ctx_vecEffect_idle (h : (s.ctx e.at_).flow.waitOn ≠ some e.num) :
    (s.vecEffect e).ctx e.at_ = Ctx.takeEffect (vecRun e.i e (s.ctx e.at_)) := by
  rw [vecEffect_idle h, State.ctx_modCtx_self]
theorem ctx_vecEffect_quiet (h : (s.ctx e.at_).flow.waitOn = some e.num)
    (hq : ∀ z ∈ (vecRun e.i e (s.ctx e.at_)).2, Nat.land z.2 (s.ctx e.at_).csr.ftrapen = 0) :
    (s.vecEffect e).ctx e.at_ = (Ctx.takeEffect (vecRun e.i e (s.ctx e.at_))).ended (s.ctx e.at_).flow.waitWords := by
  rw [vecEffect_quiet h hq, ctx_completeWaiting, State.ctx_modCtx_self,
    show (Ctx.takeEffect (vecRun e.i e (s.ctx e.at_))).flow = (s.ctx e.at_).flow from vecRun_flow ..]

@[simp] theorem Ctx.pc_charge (c : Ctx) (n : Nat) : (c.charge n).pc = c.pc := by
  rw [Ctx.charge]
  split
  · rfl
  · split <;> rfl
@[simp] theorem Ctx.files_charge (c : Ctx) (n : Nat) : (c.charge n).files = c.files := by
  rw [Ctx.charge]
  split
  · rfl
  · split <;> rfl
@[simp] theorem Ctx.fflags_charge (c : Ctx) (n : Nat) : (c.charge n).csr.fflags = c.csr.fflags := by
  rw [Ctx.charge]
  split
  · rfl
  · split <;> rfl
@[simp] theorem Ctx.waitOn_charge (c : Ctx) (n : Nat) : (c.charge n).flow.waitOn = c.flow.waitOn := by
  rw [Ctx.charge]
  split
  · rfl
  · split <;> rfl

/-- A precise FPE: the position and the flags are told, and the instruction had no effect. -/
theorem ctx_vecEffect_traps {p : Nat} (h : (s.ctx e.at_).flow.waitOn = some e.num)
    (hp : lowFlag (s.ctx e.at_).csr.ftrapen (vecRun e.i e (s.ctx e.at_)).2 = some p) :
    let d := (s.vecEffect e).ctx e.at_
    d.sup = true ∧ d.csr.tcause = causeFPE ∧ d.csr.taddr = BitVec.ofNat 64 (256 * p + orFlags (vecRun e.i e (s.ctx e.at_)).2) ∧
      d.csr.tpc = (s.ctx e.at_).pc ∧ d.files = (s.ctx e.at_).files ∧ d.csr.fflags = (s.ctx e.at_).csr.fflags ∧ d.flow.waitOn = none := by
  rw [vecEffect_traps h hp]
  simp [State.trapOf, Ctx.enter, w64]

end

end Sys2Proof.Machine
end

section
/-! SUPPORT. One arbitration cycle of a station whose one queue holds one entry (O35): the heads that pass without lane groups, the
passes of the arbiter, and the top-up between them (R180, R183, R184). -/

namespace Sys2Proof.Machine

/-- A fold whose function does something at one element alone. -/
theorem foldl_only {α β : Type} {f : β → α → β} {a : α} {s t : β} (ha : f s a = t) (hs : ∀ x, x ≠ a → f s x = s) (ht : ∀ x, x ≠ a → f t x = t) :
    ∀ xs : List α, a ∈ xs → xs.Nodup → xs.foldl f s = t := by
  have hrest : ∀ xs : List α, a ∉ xs → xs.foldl f t = t := by
    intro xs
    induction xs with
    | nil => exact fun _ => rfl
    | cons x xs ih =>
      intro h
      rw [List.mem_cons, not_or] at h
      rw [List.foldl_cons, ht x (Ne.symm h.1), ih h.2]
  intro xs
  induction xs with
  | nil => exact fun h => absurd h List.not_mem_nil
  | cons x xs ih =>
    intro hm hn
    rw [List.nodup_cons] at hn
    rw [List.foldl_cons]
    by_cases hx : x = a
    · subst hx
      rw [ha, hrest xs hn.1]
    · rw [hs x hx]
      exact ih ((List.mem_cons.1 hm).resolve_left (Ne.symm hx)) hn.2

/-! ## A station with one queue in use -/

/-- The only queue of a station that may hold anything, and what it holds. -/
def Vec.sole (v : Vec) (core : Nat) (q : List VEntry) : Prop := ∀ c, Map.get [] v.queues c = if c = core then q else []

section
variable {s t : State} {stn core : Nat} {q : List VEntry} {e : VEntry}

theorem sole_of_queues {v : Vec} (h : v.queues = [(core, q)]) : v.sole core q := by
  intro c
  rw [h]
  simp [Map.get, eq_comm]

theorem sole_set {v : Vec} {r : List VEntry} (h : v.sole core q) : Vec.sole { v with queues := Map.set [] v.queues core r } core r := by
  intro c
  have := h c
  simp only [Map.get_set]
  split <;> simp_all

/-- A queue of fewer than 16 entries releases nobody when its head leaves. -/
theorem dropHead_one (h : (t.stn stn).vec.sole core [e]) :
    t.dropHead stn core = t.modVec stn (fun v => { v with queues := Map.set [] v.queues core [] }) := by
  have hq := h core
  rw [if_pos rfl] at hq
  simp only [State.dropHead, hq]
  rfl

theorem queued_dropHead (h : (t.stn stn).vec.sole core [e]) : ((t.dropHead stn core).stn stn).vec.sole core [] ∧
    ((t.dropHead stn core).stn stn).vec.pipe = (t.stn stn).vec.pipe ∧ (t.dropHead stn core).ctxs = t.ctxs ∧
    SameStorage t (t.dropHead stn core) ∧ (t.dropHead stn core).net = t.net := by
  rw [dropHead_one h]
  refine ⟨?_, ?_, rfl, .of_eq rfl rfl rfl, rfl⟩
  · rw [State.stn_modVec_self]
    exact sole_set h
  · rw [State.stn_modVec_self]

/-! ### The heads that pass without lane groups -/

theorem passHeads_empty (c : Nat) (h : Map.get [] (t.stn stn).vec.queues c = []) : ∀ k, t.passHeads stn c k = t
  | 0 => rfl
  | k + 1 => by simp [State.passHeads, h]

theorem passHeads_other {c : Nat} (h : (t.stn stn).vec.sole core q) (hc : c ≠ core) (k : Nat) : t.passHeads stn c k = t :=
  passHeads_empty c (by rw [h c, if_neg hc]) k

theorem passHeads_all {r : List VEntry} (hs : (s.stn stn).vec.sole core q) (ht : (t.stn stn).vec.sole core r) (h : s.passHeads stn core 16 = t) (hc : core < 8) :
    (List.range 8).foldl (fun st c => st.passHeads stn c 16) s = t :=
  foldl_only h (fun _ hx => passHeads_other hs hx 16) (fun _ hx => passHeads_other ht hx 16) _ (List.mem_range.2 hc) List.nodup_range

theorem head_of_sole (h : (t.stn stn).vec.sole core [e]) : (Map.get [] (t.stn stn).vec.queues core).head? = some e := by
  rw [h core, if_pos rfl]
  rfl

theorem passHeads_pending (h : (t.stn stn).vec.sole core [e]) (hb : bindRuns e.bind = none) : t.passHeads stn core 16 = t := by
  rw [State.passHeads, head_of_sole h]
  simp only [hb]

theorem passHeads_discard (h : (t.stn stn).vec.sole core [e]) (hb : bindRuns e.bind = some false) :
    t.passHeads stn core 16 = (t.vecDiscard e).dropHead stn core := by
  have hd : ((t.vecDiscard e).stn stn).vec.sole core [e] := by
    rw [State.stn, vecDiscard_others.2.2, ← State.stn]
    exact h
  rw [State.passHeads, head_of_sole h]
  simp only [hb]
  exact passHeads_empty core (by rw [(queued_dropHead hd).1 core, if_pos rfl]) 15

theorem behindMem_empty (hat : e.at_.stn = stn) (h : (t.stn stn).vec.pipe = []) : t.behindMem e = false := by
  rw [State.behindMem, hat, h]
  rfl

/-- An arithmetic entry that needs no lane group takes effect. -/
theorem passHeads_free (h : (t.stn stn).vec.sole core [e]) (hb : bindRuns e.bind = some true) (hat : e.at_.stn = stn)
    (hp : (t.stn stn).vec.pipe = []) (hm : memKind e.i = none) (h0 : (laneCost e.i e.vl).1 = 0) :
    t.passHeads stn core 16 = (t.vecEffect e).dropHead stn core := by
  have hd : ((t.vecEffect e).stn stn).vec.sole core [e] := by
    rw [State.stn, vecEffect_others.2.2, ← State.stn]
    exact h
  rw [State.passHeads, head_of_sole h]
  simp only [hb, behindMem_empty hat hp, hm, h0, Option.isSome_none, Bool.false_eq_true, if_false, if_true]
  exact passHeads_empty core (by rw [(queued_dropHead hd).1 core, if_pos rfl]) 15

theorem passHeads_waits (h : (t.stn stn).vec.sole core [e]) (hb : bindRuns e.bind = some true) (hat : e.at_.stn = stn)
    (hp : (t.stn stn).vec.pipe = []) (hm : memKind e.i = none) (h0 : (laneCost e.i e.vl).1 ≠ 0) : t.passHeads stn core 16 = t := by
  rw [State.passHeads, head_of_sole h]
  simp only [hb, behindMem_empty hat hp, hm, h0, Option.isSome_none, Bool.false_eq_true, if_false]

/-- A memory entry goes to the memory pipeline. -/
theorem passHeads_mem (h : (t.stn stn).vec.sole core [e]) (hb : bindRuns e.bind = some true) (hat : e.at_.stn = stn)
    (hp : (t.stn stn).vec.pipe = []) (hm : (memKind e.i).isSome = true) :
    t.passHeads stn core 16 = (t.modVec stn (fun v => { v with pipe := v.pipe ++ [e] })).dropHead stn core := by
  have hd : ((t.modVec stn (fun v => { v with pipe := v.pipe ++ [e] })).stn stn).vec.sole core [e] := by
    rw [State.stn_modVec_self]
    exact h
  rw [State.passHeads, head_of_sole h]
  simp only [hb, behindMem_empty hat hp, hm, Bool.false_eq_true, if_false, if_true]
  exact passHeads_empty core (by rw [(queued_dropHead hd).1 core, if_pos rfl]) 15

theorem runPipe_empty (h : (t.stn stn).vec.pipe = []) : t.runPipe stn = t := by
  rw [State.runPipe, h]
  rfl

/-! ### The passes of the arbiter -/

theorem readyHead_empty {c : Nat} (h : Map.get [] (t.stn stn).vec.queues c = []) : t.readyHead stn c = none := by
  simp [State.readyHead, h]

theorem readyHead_pending (h : (t.stn stn).vec.sole core [e]) (hb : bindRuns e.bind ≠ some true) : t.readyHead stn core = none := by
  simp [State.readyHead, head_of_sole h, hb]

theorem readyHead_ready (h : (t.stn stn).vec.sole core [e]) (hb : bindRuns e.bind = some true) (hat : e.at_.stn = stn)
    (hp : (t.stn stn).vec.pipe = []) (hm : memKind e.i = none) : t.readyHead stn core = some e := by
  simp [State.readyHead, head_of_sole h, hb, hm, behindMem_empty hat hp]

theorem bindPass_skip {free : Nat} {done : List Nat} {st : Bool} : ∀ cs rest : List Nat, (∀ c ∈ cs, t.readyHead stn c = none) →
    t.bindPass stn free done st (cs ++ rest) = t.bindPass stn free done st rest := by
  intro cs
  induction cs with
  | nil => exact fun _ _ => rfl
  | cons c cs ih =>
    intro rest h
    have hc : (if done.contains c then none else t.readyHead stn c) = none := by
      rw [h c (List.mem_cons_self ..)]
      split <;> rfl
    rw [List.cons_append, State.bindPass, hc]
    exact ih rest fun d hd => h d (List.mem_cons_of_mem _ hd)

theorem bindPass_none {free : Nat} {done : List Nat} {st : Bool} (cs : List Nat) (h : ∀ c ∈ cs, t.readyHead stn c = none) :
    t.bindPass stn free done st cs = (t, free, done, st) := by
  rw [← List.append_nil cs, bindPass_skip cs [] h]
  rfl

end

end Sys2Proof.Machine
end

section
/-! SUPPORT. The end of an arbitration cycle (O35): what it leaves of a state, and the effect of a head that gets its lane groups (R183,
R184). -/

namespace Sys2Proof.Machine

/-! ## Costs (R183) -/

theorem laneCost_bounds (i : Instr) {vl : Nat} (h : vl ≤ 256) : (laneCost i vl).1 ≤ 4 ∧ (laneCost i vl).1 * (laneCost i vl).2 ≤ 32 := by
  have hl : (vl + 63) / 64 ≤ 4 := by omega
  unfold laneCost
  split <;> dsimp only <;> omega

/-! ## A head that is ready -/

/-- A state but for the passes' own notes: its contexts and storage, and the queues and the pipeline of a station. -/
structure State.Passed (s t : State) (stn : Nat) : Prop where
  ctxs : t.ctxs = s.ctxs
  store : SameStorage s t
  queues : (t.stn stn).vec.queues = (s.stn stn).vec.queues
  pipe : (t.stn stn).vec.pipe = (s.stn stn).vec.pipe
  net : t.net = s.net

/-- The one queue in use of a station holds an arithmetic entry that executes. -/
structure State.Ready (t : State) (stn core : Nat) (e : VEntry) : Prop where
  sole : (t.stn stn).vec.sole core [e]
  runs : bindRuns e.bind = some true
  here : e.at_.stn = stn
  pipe : (t.stn stn).vec.pipe = []
  arith : memKind e.i = none

section
variable {s t u : State} {stn core : Nat} {q : List VEntry} {e : VEntry}

theorem State.Passed.modVec {f : Vec → Vec} (hq : (f (s.stn stn).vec).queues = (s.stn stn).vec.queues)
    (hp : (f (s.stn stn).vec).pipe = (s.stn stn).vec.pipe) : s.Passed (s.modVec stn f) stn :=
  ⟨rfl, .of_eq rfl rfl rfl, by rw [State.stn_modVec_self]; exact hq, by rw [State.stn_modVec_self]; exact hp, rfl⟩

theorem SameStorage.trans' (h : SameStorage s t) (h' : SameStorage t u) : SameStorage s u :=
  ⟨fun a => (h'.1 a).trans (h.1 a), h'.2.1.trans h.2.1, h'.2.2.trans h.2.2⟩

theorem State.Passed.trans (h : s.Passed t stn) (h' : t.Passed u stn) : s.Passed u stn :=
  ⟨h'.ctxs.trans h.ctxs, h.store.trans' h'.store, h'.queues.trans h.queues, h'.pipe.trans h.pipe, h'.net.trans h.net⟩

theorem State.Passed.sole (h : s.Passed t stn) (hs : (s.stn stn).vec.sole core q) : (t.stn stn).vec.sole core q := fun c => by
  rw [h.queues]
  exact hs c

theorem State.Ready.passed (h : s.Ready stn core e) (hp : s.Passed t stn) : t.Ready stn core e :=
  ⟨hp.sole h.sole, h.runs, h.here, hp.pipe.trans h.pipe, h.arith⟩

theorem State.Ready.readyHead (h : t.Ready stn core e) : t.readyHead stn core = some e := readyHead_ready h.sole h.runs h.here h.pipe h.arith

theorem readyHead_other {c : Nat} (h : (t.stn stn).vec.sole core q) (hc : c ≠ core) : t.readyHead stn c = none :=
  readyHead_empty (by rw [h c, if_neg hc])

/-! ## The weight of a core -/

theorem vecWeight_congr (hc : t.ctxs = s.ctxs) (hv : (t.stn stn).vec.vweight = (s.stn stn).vec.vweight) : t.vecWeight stn core = s.vecWeight stn core := by
  unfold State.vecWeight State.ctx
  rw [hc, hv]

/-! ## One pass -/

/-- A head that its deficit does not pay for starves. -/
theorem bindPass_starved {free : Nat} {cs ds : List Nat} (h : t.Ready stn core e) (hcs : core ∉ cs) (hds : core ∉ ds)
    (hd : Map.get 0 (t.stn stn).vec.deficit core < (laneCost e.i e.vl).1 * (laneCost e.i e.vl).2) :
    t.bindPass stn free [] false (cs ++ core :: ds) = (t, free, [], true) := by
  have hne : ∀ xs : List Nat, core ∉ xs → ∀ c ∈ xs, t.readyHead stn c = none := fun xs hx c hc =>
    readyHead_other h.sole fun hcc => hx (hcc ▸ hc)
  rw [bindPass_skip cs _ (hne cs hcs), State.bindPass]
  simp only [List.contains_nil, Bool.false_eq_true, if_false, h.readyHead, hd, if_true]
  exact bindPass_none ds (hne ds hds)

/-- A head that is paid for takes effect and leaves its queue. -/
theorem bindPass_executed {free : Nat} {cs ds : List Nat} (h : t.Ready stn core e) (hcs : core ∉ cs) (hds : core ∉ ds)
    (hd : (laneCost e.i e.vl).1 * (laneCost e.i e.vl).2 ≤ Map.get 0 (t.stn stn).vec.deficit core) (hf : (laneCost e.i e.vl).1 ≤ free) :
    ∃ w, (t.vecEffect e).Passed w stn ∧
      t.bindPass stn free [] false (cs ++ core :: ds) = (w.dropHead stn core, free - (laneCost e.i e.vl).1, [core], false) := by
  have hne : ∀ c ∈ cs, t.readyHead stn c = none := fun c hc => readyHead_other h.sole fun hcc => hcs (hcc ▸ hc)
  have hw : (t.vecEffect e).Passed ((t.vecEffect e).modVec stn (fun v =>
      { v with binds := v.binds ++ [⟨(laneCost e.i e.vl).1, (laneCost e.i e.vl).2⟩]
               deficit := Map.set 0 v.deficit core (Map.get 0 (t.stn stn).vec.deficit core - (laneCost e.i e.vl).1 * (laneCost e.i e.vl).2) })) stn :=
    .modVec rfl rfl
  have hsole := hw.sole (core := core) (q := [e]) (by rw [State.stn, vecEffect_others.2.2, ← State.stn]; exact h.sole)
  refine ⟨_, hw, ?_⟩
  rw [bindPass_skip cs _ hne, State.bindPass]
  simp only [List.contains_nil, Bool.false_eq_true, if_false, h.readyHead, Nat.not_lt.2 hd, Nat.not_lt.2 hf]
  exact bindPass_none ds fun c hc => by
    by_cases hcc : c = core
    · exact absurd (hcc ▸ hc) hds
    · exact readyHead_other (queued_dropHead hsole).1 hcc

/-- A station's vector state after a top-up of a core's deficit by a weight (R184). -/
def Vec.topped (core w : Nat) (v : Vec) : Vec := { v with deficit := Map.set 0 v.deficit core (min (Map.get 0 v.deficit core + 64 * w) (128 * w)) }

theorem topUp_ready (h : t.Ready stn core e) (hc : core < 8) : t.topUp stn = t.modVec stn (Vec.topped core (t.vecWeight stn core)) := by
  refine foldl_only (a := core) ?_ (fun c hcc => ?_) (fun c hcc => ?_) _ (List.mem_range.2 hc) List.nodup_range
  · simp only [h.readyHead]
    rfl
  · simp only [readyHead_other h.sole hcc]
  · have hp : t.Passed (t.modVec stn (Vec.topped core (t.vecWeight stn core))) stn := .modVec rfl rfl
    simp only [readyHead_other (hp.sole h.sole) hcc]

/-! ## What follows the heads that pass -/

/-- The deficits of empty queues go. -/
def State.trimmed (s : State) (stn : Nat) : State := s.modVec stn (fun v =>
  { v with deficit := v.deficit.filter (fun e => !(Map.get [] v.queues e.1).isEmpty) })
/-- The next cycle begins with another core. -/
def State.turned (s : State) (stn : Nat) : State := s.modVec stn (fun v => { v with ptr := (v.ptr + 1) % 8 })
/-- Bindings that have ended let go of their groups. -/
def State.released (s : State) (stn : Nat) : State := s.modVec stn (fun v =>
  { v with binds := (v.binds.map (fun b => { b with left := b.left - 1 })).filter (fun b => b.left != 0) })

/-- A station after the heads that pass without lane groups and the memory pipeline. -/
def State.preludeOf (s : State) (stn : Nat) : State := ((List.range 8).foldl (fun st c => st.passHeads stn c 16) (s.released stn)).runPipe stn

theorem passed_trimmed : t.Passed (t.trimmed stn) stn := .modVec rfl rfl
theorem passed_turned : t.Passed (t.turned stn) stn := .modVec rfl rfl
theorem passed_released : t.Passed (t.released stn) stn := .modVec rfl rfl
theorem passed_topped (w : Nat) : t.Passed (t.modVec stn (Vec.topped core w)) stn := .modVec rfl rfl

/-- A queue of at most one entry has no head that executes. -/
def idleQueue (q : List VEntry) : Prop := q = [] ∨ ∃ e, q = [e] ∧ bindRuns e.bind ≠ some true

theorem readyHead_idle (hs : (t.stn stn).vec.sole core q) (hq : idleQueue q) (c : Nat) : t.readyHead stn c = none := by
  by_cases hc : c = core
  · subst hc
    obtain rfl | ⟨e, rfl, hb⟩ := hq
    · exact readyHead_empty (by rw [hs c, if_pos rfl])
    · exact readyHead_pending hs hb
  · exact readyHead_other hs hc

/-- Where no head is ready, nothing else happens. -/
theorem arbitrate_idle (h : s.preludeOf stn = t) (hs : (t.stn stn).vec.sole core q) (hq : idleQueue q) : t.Passed (s.arbitrate stn) stn := by
  unfold State.arbitrate
  extract_lets s0 s1 s2 v free order p1 p2 p
  have hs2 : s2 = t.trimmed stn := congrArg (fun u : State => u.trimmed stn) h
  have hp1 : p1 = (s2, free, [], false) := bindPass_none _ fun c _ => readyHead_idle (hs2 ▸ passed_trimmed.sole hs) hq c
  have hp : p = s2 := by
    simp only [p, hp1, Bool.false_and, Bool.false_eq_true, if_false]
  rw [hp, hs2]
  exact passed_trimmed.trans passed_turned

/-- The order of a pass visits each core once. -/
theorem order_split (ptr : Nat) (hc : core < 8) : ∃ cs ds, (List.range 8).map (fun i => (ptr + i) % 8) = cs ++ core :: ds ∧ core ∉ cs ∧ core ∉ ds := by
  have hm : core ∈ (List.range 8).map (fun i => (ptr + i) % 8) :=
    List.mem_map.2 ⟨(core + 8 - ptr % 8) % 8, List.mem_range.2 (by omega), by omega⟩
  have hn : ((List.range 8).map (fun i => (ptr + i) % 8)).Nodup := by
    refine List.Nodup.map_on (fun i hi j hj h => ?_) List.nodup_range
    have := List.mem_range.1 hi
    have := List.mem_range.1 hj
    omega
  obtain ⟨cs, ds, hsplit⟩ := List.append_of_mem hm
  rw [hsplit, List.nodup_append, List.nodup_cons] at hn
  obtain ⟨-, ⟨hds, -⟩, hdis⟩ := hn
  exact ⟨cs, ds, hsplit, fun h => hdis core h core (List.mem_cons_self ..) rfl, hds⟩

/-- A head that is ready takes effect in the cycle, in the first pass or after a top-up. -/
theorem arbitrate_ready (h1 : s.preludeOf stn = t) (h : t.Ready stn core e) (hc : core < 8) (hv : e.vl ≤ 256) (hb : (t.stn stn).vec.binds = [])
    (hw : 1 ≤ t.vecWeight stn core) : ∃ w x, t.Passed w stn ∧ (w.vecEffect e).Passed x stn ∧ (x.dropHead stn core).Passed (s.arbitrate stn) stn := by
  obtain ⟨hg, hcost⟩ := laneCost_bounds e.i hv
  have hg16 : (laneCost e.i e.vl).1 ≤ 16 := by omega
  unfold State.arbitrate
  extract_lets s0 s1 s2 v free order p1 p2 p
  have hs2 : s2 = t.trimmed stn := congrArg (fun u : State => u.trimmed stn) h1
  have hpt : t.Passed s2 stn := hs2 ▸ passed_trimmed
  have hr : s2.Ready stn core e := h.passed hpt
  have hw2 : 1 ≤ s2.vecWeight stn core := by
    rw [hs2, vecWeight_congr (s := t) (t := t.trimmed stn) rfl (by rw [State.trimmed, State.stn_modVec_self])]
    exact hw
  have hfree : free = 16 := by
    have hvb : v.binds = [] := by
      simp only [v, hs2, State.trimmed, State.stn_modVec_self, hb]
    simp only [free, hvb]
    rfl
  obtain ⟨cs, ds, ho, hcs, hds⟩ := order_split v.ptr hc
  have horder : order = cs ++ core :: ds := ho
  by_cases hd : Map.get 0 (s2.stn stn).vec.deficit core < (laneCost e.i e.vl).1 * (laneCost e.i e.vl).2
  · have hp1 : p1 = (s2, free, [], true) := by
      simp only [p1, horder]
      exact bindPass_starved hr hcs hds hd
    have hp3 := passed_topped (t := s2) (stn := stn) (core := core) (s2.vecWeight stn core)
    have hd3 : (laneCost e.i e.vl).1 * (laneCost e.i e.vl).2 ≤
        Map.get 0 ((s2.modVec stn (Vec.topped core (s2.vecWeight stn core))).stn stn).vec.deficit core := by
      rw [State.stn_modVec_self]
      simp only [Vec.topped, Map.get_set, if_true]
      omega
    obtain ⟨x, hx, he⟩ := bindPass_executed (hr.passed hp3) hcs hds hd3 hg16
    have hp2 : p2 = (x.dropHead stn core, 16 - (laneCost e.i e.vl).1, [core], false) := by
      simp only [p2, hp1, hfree, horder, topUp_ready hr hc, he]
    have hp : p = x.dropHead stn core := by
      simp [p, hp1, hp2, hfree]
    refine ⟨_, x, hpt.trans hp3, hx, ?_⟩
    rw [hp]
    exact passed_turned
  · obtain ⟨x, hx, he⟩ := bindPass_executed hr hcs hds (Nat.not_lt.1 hd) hg16
    have hp : p = x.dropHead stn core := by
      simp only [p, p1, hfree, horder, he, Bool.false_and, Bool.false_eq_true, if_false]
    refine ⟨s2, x, hpt, hx, ?_⟩
    rw [hp]
    exact passed_turned

end

end Sys2Proof.Machine
end

section
/-! SUPPORT. An arbitration cycle over one arithmetic entry (O35). -/

namespace Sys2Proof.Machine

/-- What a state keeps of another but for the vector queues: contexts and storage. -/
def State.Same (s t : State) : Prop := t.ctxs = s.ctxs ∧ SameStorage s t

section
variable {s t u w : State} {stn core k : Nat} {q : List VEntry} {e : VEntry}

theorem State.Same.trans (h : s.Same t) (h' : t.Same u) : s.Same u := ⟨h'.1.trans h.1, h.2.trans' h'.2⟩
theorem State.Passed.same (h : s.Passed t stn) : s.Same t := ⟨h.ctxs, h.store⟩
theorem State.Same.ctx (h : s.Same t) (m : Loc) : t.ctx m = s.ctx m := by rw [State.ctx, h.1]; rfl

theorem prelude_of_passHeads {r : List VEntry} (hs : (s.stn stn).vec.sole core q) (hc : core < 8)
    (h : (s.released stn).passHeads stn core 16 = t) (ht : (t.stn stn).vec.sole core r) : s.preludeOf stn = t.runPipe stn := by
  rw [State.preludeOf, passHeads_all (passed_released.sole hs) ht h hc]

/-- What the acting entry's queue holds. -/
theorem queueOf_sole (h : (t.stn stn).vec.sole core q) (hat : e.at_ = ⟨stn, core, k⟩) : t.queueOf e.at_ = q := by
  rw [State.queueOf, hat]
  simp only
  rw [h core, if_pos rfl]

/-- The facts about a station whose one queue in use holds one entry, with the memory pipeline empty. -/
structure State.Solo (s : State) (stn core k : Nat) (e : VEntry) : Prop where
  bound : core < 8
  here : e.at_ = ⟨stn, core, k⟩
  sole : (s.stn stn).vec.sole core [e]
  pipe : (s.stn stn).vec.pipe = []

theorem State.Solo.station (h : s.Solo stn core k e) : e.at_.stn = stn := by rw [h.here]

/-- A pending entry stays. -/
theorem arbitrate_pending (h : s.Solo stn core k e) (hb : bindRuns e.bind = none) :
    s.Same (s.arbitrate stn) ∧ (s.arbitrate stn).queueOf e.at_ = [e] := by
  have hr := passed_released (t := s) (stn := stn)
  have hsole := hr.sole h.sole
  have hpre : s.preludeOf stn = s.released stn := by
    rw [prelude_of_passHeads h.sole h.bound (passHeads_pending hsole hb) hsole]
    exact runPipe_empty (hr.pipe.trans h.pipe)
  have hp := arbitrate_idle hpre hsole (.inr ⟨e, rfl, by rw [hb]; nofun⟩)
  exact ⟨hr.same.trans hp.same, queueOf_sole (hp.sole hsole) h.here⟩

/-- What passes and leaves its queue ends the cycle. -/
theorem arbitrate_passed (h : s.Solo stn core k e) (hd : (s.released stn).passHeads stn core 16 = u.dropHead stn core)
    (hu : u.stations = (s.released stn).stations) : u.Same (s.arbitrate stn) ∧ (s.arbitrate stn).queueOf e.at_ = [] := by
  have hr := passed_released (t := s) (stn := stn)
  have hus : (u.stn stn).vec.sole core [e] := by
    rw [State.stn, hu, ← State.stn]
    exact hr.sole h.sole
  have hup : (u.stn stn).vec.pipe = [] := by
    rw [State.stn, hu, ← State.stn]
    exact hr.pipe.trans h.pipe
  obtain ⟨hs0, hp0, hc0, hst0, -⟩ := queued_dropHead hus
  have hpre : s.preludeOf stn = u.dropHead stn core := by
    rw [prelude_of_passHeads h.sole h.bound hd hs0]
    exact runPipe_empty (hp0.trans hup)
  have hp := arbitrate_idle hpre hs0 (.inl rfl)
  exact ⟨State.Same.trans ⟨hc0, hst0⟩ hp.same, queueOf_sole (hp.sole hs0) h.here⟩

/-- An entry whose guard is against it is discarded. -/
theorem arbitrate_discarded (h : s.Solo stn core k e) (hb : bindRuns e.bind = some false) :
    ∃ w, s.Same w ∧ (w.vecDiscard e).Same (s.arbitrate stn) ∧ (s.arbitrate stn).queueOf e.at_ = [] :=
  ⟨_, (passed_released (stn := stn)).same, arbitrate_passed h (passHeads_discard (passed_released.sole h.sole) hb) vecDiscard_others.2.2⟩

/-- An entry whose guard is for it takes effect. -/
theorem arbitrate_taken (h : s.Solo stn core k e) (hb : bindRuns e.bind = some true) (hm : memKind e.i = none) (hv : e.vl ≤ 256)
    (hbs : (s.stn stn).vec.binds = []) (hw : 1 ≤ s.vecWeight stn core) :
    ∃ w, s.Same w ∧ (w.vecEffect e).Same (s.arbitrate stn) ∧ (s.arbitrate stn).queueOf e.at_ = [] := by
  have hr := passed_released (t := s) (stn := stn)
  have hsole := hr.sole h.sole
  have hpipe := hr.pipe.trans h.pipe
  by_cases h0 : (laneCost e.i e.vl).1 = 0
  · exact ⟨_, hr.same, arbitrate_passed h (passHeads_free hsole hb h.station hpipe hm h0) vecEffect_others.2.2⟩
  · have hpre : s.preludeOf stn = s.released stn := by
      rw [prelude_of_passHeads h.sole h.bound (passHeads_waits hsole hb h.station hpipe hm h0) hsole]
      exact runPipe_empty hpipe
    obtain ⟨w, x, hpw, hx, hp⟩ := arbitrate_ready hpre ⟨hsole, hb, h.station, hpipe, hm⟩ h.bound hv
      (by rw [State.released, State.stn_modVec_self]; simp [hbs])
      (by rw [vecWeight_congr (s := s) (t := s.released stn) rfl (by rw [State.released, State.stn_modVec_self])]; exact hw)
    have hxs : (x.stn stn).vec.sole core [e] := hx.sole (by
      rw [State.stn, vecEffect_others.2.2, ← State.stn]
      exact hpw.sole hsole)
    obtain ⟨hs0, -, hc0, hst0, -⟩ := queued_dropHead hxs
    exact ⟨w, (hr.trans hpw).same, (hx.same.trans ⟨hc0, hst0⟩).trans hp.same, queueOf_sole (hp.sole hs0) h.here⟩

/-- Contexts and storage of a cycle that passes those of `w` on but for one entry's own context. -/
theorem others_of_same {f : State → State} (hw : s.Same w) (ht : (f w).Same t)
    (hf : SameContextsBut e.at_ w (f w) ∧ SameStorage w (f w) ∧ (f w).stations = w.stations) : SameContextsBut e.at_ s t ∧ SameStorage s t := by
  obtain ⟨hc, hst, -⟩ := hf
  exact ⟨fun m hm => (ht.ctx m).trans ((hc m hm).trans (hw.ctx m)), hw.2.trans' (hst.trans' ht.2)⟩

/-- A cycle leaves the acting context as it was. -/
def State.handOf (u s : State) : State := { u with hand := s.hand }

theorem exec_arbitration (h : s.hand.msg = .laneGroupArbitration stn) : exec .laneGroupArbitration s = .next ((s.arbitrate stn).handOf s) := by
  rw [show exec .laneGroupArbitration s = execLaneGroupArbitration s from rfl, execLaneGroupArbitration]
  simp only [h]
  rfl

theorem same_handOf (u s : State) : u.Same (u.handOf s) := ⟨rfl, .of_eq rfl rfl rfl⟩
@[simp] theorem queueOf_handOf (u s : State) (l : Loc) : (u.handOf s).queueOf l = u.queueOf l := rfl
@[simp] theorem stn_handOf (u s : State) (n : Nat) : (u.handOf s).stn n = u.stn n := rfl
@[simp] theorem net_handOf (u s : State) : (u.handOf s).net = u.net := rfl

end

end Sys2Proof.Machine
end

section
/-! SUPPORT. What an arbitration cycle makes of an arithmetic entry, by its guard and by what its context waits for; and the release of
stalled contexts (O35). -/

namespace Sys2Proof.Machine

section
variable {s : State} {stn core k : Nat} {e : VEntry}

/-- What a queue entry makes of its own context in a cycle, where it executes. -/
theorem arbitration_effect (hmsg : s.hand.msg = .laneGroupArbitration stn) (h : s.Solo stn core k e) (hb : bindRuns e.bind = some true)
    (hm : memKind e.i = none) (hv : e.vl ≤ 256) (hbs : (s.stn stn).vec.binds = []) (hw : 1 ≤ s.vecWeight stn core) (P : Ctx → Prop)
    (hP : ∀ w : State, w.ctx e.at_ = s.ctx e.at_ → P ((w.vecEffect e).ctx e.at_)) : ∃ t, exec .laneGroupArbitration s = .next t ∧
      t.queueOf e.at_ = [] ∧ P (t.ctx e.at_) ∧ SameContextsBut e.at_ s t ∧ SameStorage s t := by
  obtain ⟨w, hsw, ht, hq⟩ := arbitrate_taken h hb hm hv hbs hw
  replace ht := ht.trans (same_handOf _ s)
  obtain ⟨hc, hst⟩ := others_of_same (f := fun u => u.vecEffect e) hsw ht vecEffect_others
  refine ⟨_, exec_arbitration hmsg, (queueOf_handOf ..).trans hq, ?_, hc, hst⟩
  rw [ht.ctx]
  exact hP w (hsw.ctx e.at_)

/-- The same where its guard is against it. -/
theorem arbitration_discard (hmsg : s.hand.msg = .laneGroupArbitration stn) (h : s.Solo stn core k e) (hb : bindRuns e.bind = some false) :
    ∃ t, exec .laneGroupArbitration s = .next t ∧ t.queueOf e.at_ = [] ∧
      ((s.ctx e.at_).flow.waitOn ≠ some e.num → t.ctx e.at_ = s.ctx e.at_) ∧
      ((s.ctx e.at_).flow.waitOn = some e.num → t.ctx e.at_ = (s.ctx e.at_).ended (s.ctx e.at_).flow.waitWords) ∧
      SameContextsBut e.at_ s t ∧ SameStorage s t := by
  obtain ⟨w, hsw, ht, hq⟩ := arbitrate_discarded h hb
  replace ht := ht.trans (same_handOf _ s)
  obtain ⟨hc, hst⟩ := others_of_same (f := fun u => u.vecDiscard e) hsw ht vecDiscard_others
  have hcw := hsw.ctx e.at_
  refine ⟨_, exec_arbitration hmsg, (queueOf_handOf ..).trans hq, fun hn => (ht.ctx e.at_).trans ?_, fun hn => (ht.ctx e.at_).trans ?_, hc, hst⟩
  · rw [vecDiscard_idle (by rw [hcw]; exact hn), hcw]
  · rw [vecDiscard_waits (by rw [hcw]; exact hn), ctx_completeWaiting, hcw]

theorem arbitration_pending (hmsg : s.hand.msg = .laneGroupArbitration stn) (h : s.Solo stn core k e) (hb : bindRuns e.bind = none) :
    ∃ t, exec .laneGroupArbitration s = .next t ∧ t.queueOf e.at_ = [e] ∧ SameContexts s t ∧ SameStorage s t := by
  obtain ⟨hsame, hq⟩ := arbitrate_pending h hb
  replace hsame := hsame.trans (same_handOf _ s)
  exact ⟨_, exec_arbitration hmsg, (queueOf_handOf ..).trans hq, hsame.ctx, hsame.2⟩

/-- The contexts of a core that stall for room issue again. -/
theorem exec_stallRelease (hmsg : s.hand.msg = .vectorQueueStallRelease stn core) (hk : k < 4) :
    ∃ t, exec .vectorQueueStallRelease s = .next t ∧ SameStorage s t ∧ t.ctx ⟨stn, core, k⟩ = (s.ctx ⟨stn, core, k⟩).unstalled := by
  have he : exec .vectorQueueStallRelease s =
      .next (((List.range 4).map (fun j => (⟨stn, core, j⟩ : Loc))).foldl (fun u l => u.modCtx l Ctx.unstalled) s) := by
    rw [show exec .vectorQueueStallRelease s = execVectorQueueStallRelease s from rfl, execVectorQueueStallRelease, List.foldl_map]
    simp only [hmsg]
    rfl
  refine ⟨_, he, (State.frame_foldl_modCtx _ _ s).1, ?_⟩
  rw [State.ctx_foldl_unstalled, if_pos ⟨⟨stn, core, k⟩, List.mem_map_of_mem (List.mem_range.2 hk), rfl⟩]

end

end Sys2Proof.Machine
end

section
/-! SUPPORT. What a vector load makes of the words it finds (O35): the bytes of an element, and the merge of loaded elements into old
ones (R166, R176). -/

namespace Sys2Proof.Machine

/-! ## Bytes of a word -/

theorem bytesOf_drop : ∀ a n v : Nat, (bytesOf n v).drop a = bytesOf (n - a) (v / 256 ^ a) := by
  intro a
  induction a with
  | zero => intro n v; simp
  | succ a ih =>
    intro n v
    cases n with
    | zero => simp [bytesOf]
    | succ n => rw [bytesOf, List.drop_succ_cons, ih, Nat.div_div_eq_div_mul, ← pow_succ', Nat.add_sub_add_right]

theorem bytesOf_take : ∀ a n v : Nat, a ≤ n → (bytesOf n v).take a = bytesOf a v := by
  intro a
  induction a with
  | zero => intro n v _; rfl
  | succ a ih =>
    intro n v h
    obtain ⟨n, rfl⟩ := Nat.exists_eq_add_of_le' h
    rw [← Nat.add_assoc, bytesOf, List.take_succ_cons, ih _ _ (by omega)]
    rfl

/-- The bytes of a block word that an access touches, as a number. -/
theorem natOf_partOf {w : BlockWord} {fa len : Nat} (h : fa % 16 + len ≤ 16) :
    natOf (partOf w fa len) = w.toNat / 2 ^ (8 * (fa % 16)) % 2 ^ (8 * len) := by
  rw [partOf, bytesOf_drop, bytesOf_take _ _ _ (by omega), natOf_bytesOf, pow_mul, pow_mul, show 2 ^ 8 = 256 from rfl]

/-! ## Loaded elements among old ones -/

theorem lookup_none_of_lt {vals : List (Nat × Nat)} {n : Nat} (h : ∀ x ∈ vals, n < x.1) : vals.lookup n = none := by
  induction vals with
  | nil => rfl
  | cons x vals ih =>
    have hx := h x (List.mem_cons_self ..)
    rw [List.lookup_cons, show (n == x.1) = false from beq_eq_false_iff_ne.2 (by omega)]
    exact ih fun y hy => h y (List.mem_cons_of_mem _ hy)

/-- Elements at ascending positions replace the old ones there; another is zero in the range under ZERO, or stays. -/
theorem mergeElems_eq (zero : Bool) (first last : Nat) (old : Nat → Nat) : ∀ m p vals, vals.Pairwise (fun x y => x.1 < y.1) → (∀ x ∈ vals, p ≤ x.1) →
    mergeElems zero first last ((List.range' p m).map (fun n => (old n, n))) vals =
      (List.range' p m).map (fun n => (vals.lookup n).getD (if zero && decide (first ≤ n ∧ n < last) then 0 else old n)) := by
  intro m
  induction m with
  | zero => intro p vals _ _; rfl
  | succ m ih =>
    intro p vals hs hp
    rw [List.range'_succ, List.map_cons, List.map_cons]
    cases vals with
    | nil =>
      rw [mergeElems, ih (p + 1) [] .nil nofun]
      rfl
    | cons x vals =>
      obtain ⟨q, v⟩ := x
      obtain ⟨hlt, hrest⟩ := List.pairwise_cons.1 hs
      have hpq := hp (q, v) (List.mem_cons_self ..)
      by_cases hq : p = q
      · subst hq
        rw [mergeElems, if_pos rfl, ih (p + 1) vals hrest fun x hx => hlt x hx, List.lookup_cons, beq_self_eq_true]
        congr 1
        refine List.map_congr_left fun n hn => ?_
        have := (List.mem_range'_1.1 hn).1
        rw [List.lookup_cons, show (n == p) = false from beq_eq_false_iff_ne.2 (by omega)]
      · have hnone : ((q, v) :: vals).lookup p = none := lookup_none_of_lt fun x hx => by
          rcases List.mem_cons.1 hx with rfl | hx
          · exact lt_of_le_of_ne hpq hq
          · exact hpq.trans_lt (hlt x hx)
        rw [mergeElems, if_neg hq, ih (p + 1) _ hs fun x hx => by
          rcases List.mem_cons.1 hx with rfl | hx
          · exact Nat.lt_of_le_of_ne hpq hq
          · exact Nat.lt_of_le_of_lt hpq (hlt x hx), hnone]
        rfl

theorem lookup_of_mem {vals : List (Nat × Nat)} {x : Nat × Nat} (hs : vals.Pairwise (fun x y => x.1 < y.1)) (hx : x ∈ vals) :
    vals.lookup x.1 = some x.2 := by
  induction vals with
  | nil => exact absurd hx List.not_mem_nil
  | cons y vals ih =>
    obtain ⟨hlt, hrest⟩ := List.pairwise_cons.1 hs
    rw [List.lookup_cons]
    rcases List.mem_cons.1 hx with rfl | hx
    · rw [beq_self_eq_true]
    · rw [show (x.1 == y.1) = false from beq_eq_false_iff_ne.2 (by have := hlt x hx; omega)]
      exact ih hrest hx

theorem lookup_none_of_ne {vals : List (Nat × Nat)} {n : Nat} (h : ∀ x ∈ vals, x.1 ≠ n) : vals.lookup n = none := by
  induction vals with
  | nil => rfl
  | cons x vals ih =>
    rw [List.lookup_cons, show (n == x.1) = false from beq_eq_false_iff_ne.2 (Ne.symm (h x (List.mem_cons_self ..)))]
    exact ih fun y hy => h y (List.mem_cons_of_mem _ hy)

/-! ## The distinct numbers among some -/

theorem mem_foldl_distinct (xs : List Nat) (n : Nat) : ∀ ys : List Nat,
    n ∈ xs.foldl (fun ys x => if ys.contains x then ys else ys ++ [x]) ys ↔ n ∈ ys ∨ n ∈ xs := by
  induction xs with
  | nil => simp
  | cons x xs ih =>
    intro ys
    rw [List.foldl_cons, ih]
    by_cases h : ys.contains x = true
    · rw [if_pos h, List.mem_cons]
      exact ⟨Or.imp_right .inr, fun hn => hn.elim .inl (Or.elim · (fun hx => .inl (hx ▸ List.contains_iff_mem.1 h)) .inr)⟩
    · rw [if_neg h, List.mem_append, List.mem_singleton, List.mem_cons, or_assoc]

theorem mem_distinct {xs : List Nat} {n : Nat} : n ∈ distinct xs ↔ n ∈ xs := by
  rw [distinct, mem_foldl_distinct]
  simp

end Sys2Proof.Machine
end

section
/-! SUPPORT. What the memory pipeline finds and does at a stash (O35): the place, the look and the word of a stash address depend on
the tables, the storage and the slices alone. -/

namespace Sys2Proof.Machine

section
variable {s t u v : State} {fa ea : Nat} {pl : Place}

theorem State.place_congr (ht : u.tables = s.tables) (hc : u.cube = s.cube) : u.place fa = s.place fa := by
  have hs : { s with tables := u.tables, cube := u.cube } = s := by rw [ht, hc]
  rw [← hs]
  rfl

theorem isStashFa_of_placeIn (h : s.placeIn fa = .ok pl) (hs : pl.stash = true) : isStashFa fa = true := by
  by_contra hf
  unfold State.placeIn at h
  rw [if_neg hf] at h
  dsimp only at h
  repeat' split at h
  all_goals cases h <;> cases hs

theorem isStashFa_of_place (h : s.place fa = .ok pl) (hs : pl.stash = true) : isStashFa fa = true := by
  unfold State.place at h
  split at h
  · next p hp =>
    split at h
    · exact isStashFa_of_placeIn h hs
    · cases h
      exact isStashFa_of_placeIn hp hs
  · cases h

/-- A stash is in no region of the plat, so nothing of it awaits rebuilding. -/
theorem unbuilt_stash (h : s.place fa = .ok pl) (hs : pl.stash = true) (t : State) (canon : Nat) : t.unbuilt fa canon = false := by
  have hf := isStashFa_of_place h hs
  rw [isStashFa, Bool.and_eq_true, Bool.and_eq_true] at hf
  rw [State.unbuilt, hf.1.1]
  rfl

theorem rebuildNeeds_stash (h : s.place fa = .ok pl) (hs : pl.stash = true) (t : State) (canon : Nat) : t.rebuildNeeds fa canon = [] := by
  rw [State.rebuildNeeds, unbuilt_stash h hs]
  rfl
theorem rebuild_stash (h : s.place fa = .ok pl) (hs : pl.stash = true) (t : State) (canon : Nat) : t.rebuild fa canon = t := by
  rw [State.rebuild, unbuilt_stash h hs]
  rfl

/-- What a station finds of a word of a stash. -/
theorem look_stash (h : s.place fa = .ok pl) (hs : pl.stash = true) (t : State) (n : Nat) : t.look n pl fa =
    if (t.stn n).slice.wbOut.any (fun e => e.2 == bwOf fa) then .stall
    else if t.isLocal n pl && !t.chunkHeld n fa then .have_ (t.rawWord pl.canon).1 (t.rawWord pl.canon).2 else .fetch := by
  simp only [State.look, hs, if_true, rebuildNeeds_stash h hs, rebuild_stash h hs, State.homeWord, List.isEmpty_nil, Bool.and_true]

/-- What a look at a stash depends on. -/
structure State.Alike (s u : State) : Prop where
  tables : u.tables = s.tables
  cube : u.cube = s.cube
  mem : u.mem = s.mem
  poison : u.poison = s.poison
  slice : ∀ k, (u.stn k).slice = (s.stn k).slice
  home : ∀ k, (u.stn k).home = (s.stn k).home

theorem State.Alike.place (h : s.Alike u) : u.place fa = s.place fa := State.place_congr h.tables h.cube

theorem bytes_congr (h : u.mem = s.mem) : ∀ n a, u.bytes a n = s.bytes a n := by
  intro n
  induction n with
  | zero => intro a; rfl
  | succ n ih => intro a; rw [State.bytes, State.bytes, ih, State.byte, State.byte, h]

theorem State.Alike.rawWord (h : s.Alike u) (canon : Nat) : u.rawWord canon = s.rawWord canon := by
  rw [State.rawWord, State.rawWord, bytes_congr h.mem, h.poison]

theorem State.Alike.look (h : s.Alike u) (hp : s.place fa = .ok pl) (hs : pl.stash = true) (n : Nat) : u.look n pl fa = s.look n pl fa := by
  rw [look_stash hp hs, look_stash hp hs, State.isLocal, State.chunkHeld, h.slice, h.home, h.rawWord, h.cube, State.isLocal, State.chunkHeld]

theorem State.Alike.trans (h : s.Alike t) (h' : t.Alike u) : s.Alike u :=
  ⟨h'.tables.trans h.tables, h'.cube.trans h.cube, h'.mem.trans h.mem, h'.poison.trans h.poison, fun k => (h'.slice k).trans (h.slice k),
    fun k => (h'.home k).trans (h.home k)⟩

theorem State.Alike.modVec (s : State) (n : Nat) (f : Vec → Vec) : s.Alike (s.modVec n f) := by
  refine ⟨rfl, rfl, rfl, rfl, fun k => ?_, fun k => ?_⟩
  · by_cases h : k = n
    · rw [h, State.stn_modVec_self]
    · rw [State.stn_modVec_ne s n f h]
  · by_cases h : k = n
    · rw [h, State.stn_modVec_self]
    · rw [State.stn_modVec_ne s n f h]

/-! ## Loads -/

theorem Exec.foundWord_stash (h : Hint) (hs : pl.stash = true) : Exec.foundWord h pl fa v = .ok () v := by
  rw [Exec.foundWord, Exec.bind_ok v (Exec.get_run v)]
  simp [hs]

/-- A word of a stash that is at hand is found, and nothing changes. -/
theorem Exec.vecWord_stash (h : Hint) {w : BlockWord} {bad : Bool} (hf : v.cur.flow.flights = []) (hp : v.place fa = .ok pl)
    (hs : pl.stash = true) (hl : v.look v.hand.at_.stn pl fa = .have_ w bad) : Exec.vecWord h fa ea v = .ok (some (w, bad)) v := by
  rw [Exec.vecWord, Exec.bind_ok v (Exec.get_run v)]
  simp only [hf, List.any_nil, Bool.false_eq_true, if_false, hp, hl]
  rw [Exec.bind_ok v (Exec.foundWord_stash h hs)]
  rfl

theorem Exec.vecWords_stash (h : Hint) (word : Nat → BlockWord) (hf : v.cur.flow.flights = []) : ∀ xs : List (Nat × Nat × Nat),
    (∀ x ∈ xs, ∃ pl, v.place x.2.1 = .ok pl ∧ pl.stash = true ∧ v.look v.hand.at_.stn pl x.2.1 = .have_ (word x.2.1) false) →
    Exec.vecWords h xs v = .ok (xs.map (fun x => (bwOf x.2.1, word x.2.1, false))) v := by
  intro xs
  induction xs with
  | nil => exact fun _ => rfl
  | cons x xs ih =>
    intro hx
    obtain ⟨pl, hp, hs, hl⟩ := hx x (List.mem_cons_self ..)
    rw [Exec.vecWords, Exec.bind_ok v (Exec.vecWord_stash h hf hp hs hl), Exec.bind_ok v (ih fun y hy => hx y (List.mem_cons_of_mem _ hy))]
    rfl

end

end Sys2Proof.Machine
end

section
/-! SUPPORT. A cycle in which the memory pipeline completes its one entry (O35). -/

namespace Sys2Proof.Machine

section
variable {s t u : State} {stn core k : Nat} {e : VEntry} {m : MemKind}

/-- A state that differs from another in what stations keep of vector instructions alone. -/
structure State.OnlyVec (s u : State) : Prop where
  rest : u = { s with stations := u.stations }
  vec : ∀ n, ∃ v, u.stn n = { s.stn n with vec := v }

theorem State.OnlyVec.modVec (h : s.OnlyVec u) (n : Nat) (f : Vec → Vec) : s.OnlyVec (u.modVec n f) := by
  refine ⟨by rw [h.rest]; rfl, fun l => ?_⟩
  by_cases hl : l = n
  · obtain ⟨v, hv⟩ := h.vec n
    exact ⟨f v, by rw [hl, State.stn_modVec_self, hv]⟩
  · rw [State.stn_modVec_ne u n f hl]
    exact h.vec l

theorem State.OnlyVec.refl : s.OnlyVec s := ⟨rfl, fun n => ⟨(s.stn n).vec, rfl⟩⟩

/-! ## The station as the pipeline finds it -/

/-- The state after a memory head has gone to the pipeline. -/
def State.memStart (s : State) (stn core : Nat) (e : VEntry) : State :=
  ((s.released stn).modVec stn (fun v => { v with pipe := v.pipe ++ [e] })).dropHead stn core

theorem State.Solo.intoPipe (h : s.Solo stn core k e) :
    (((s.released stn).modVec stn (fun v => { v with pipe := v.pipe ++ [e] })).stn stn).vec.sole core [e] ∧
    (((s.released stn).modVec stn (fun v => { v with pipe := v.pipe ++ [e] })).stn stn).vec.pipe = [e] := by
  have hs := (passed_released (t := s) (stn := stn)).sole h.sole
  have hp : ((s.released stn).stn stn).vec.pipe = [] := passed_released.pipe.trans h.pipe
  rw [State.stn_modVec_self]
  exact ⟨hs, by simp only [hp, List.nil_append]⟩

theorem memStart_onlyVec (h : s.Solo stn core k e) : s.OnlyVec (s.memStart stn core e) := by
  rw [State.memStart, dropHead_one h.intoPipe.1]
  exact ((State.OnlyVec.refl.modVec _ _).modVec _ _).modVec _ _

theorem memStart_vec (h : s.Solo stn core k e) : ((s.memStart stn core e).stn stn).vec.sole core [] ∧
    ((s.memStart stn core e).stn stn).vec.pipe = [e] := by
  obtain ⟨hs, hp, -⟩ := queued_dropHead h.intoPipe.1
  exact ⟨hs, hp.trans h.intoPipe.2⟩

/-! ## One turn -/

/-- A context with the block words that were read for an entry. -/
def Ctx.seen (e : VEntry) (c : Ctx) : Ctx := { c with flow := { c.flow with rbuf := e.buf, asked := e.asked } }

/-- The state in which an entry has its turn: its own block words are those read for its context. -/
def State.memSeen (u : State) (e : VEntry) : State :=
  { (u.modCtx e.at_ (Ctx.seen e)) with hand := { u.hand with at_ := e.at_ } }

/-- A context with the block words that were read for its own instruction. -/
def Ctx.withRead (old : Flow) (c : Ctx) : Ctx := { c with flow := { c.flow with rbuf := old.rbuf, asked := old.asked } }

theorem vecMem_done (h : Exec.vecMemTurn m e (u.memSeen e) = .ok none t) :
    u.vecMem m e = (none, t.modCtx e.at_ (Ctx.withRead (u.ctx e.at_).flow)) := by
  unfold State.vecMem
  extract_lets old src hsrc s0 back
  have h0 : Exec.vecMemTurn m e s0 = .ok none t := h
  simp only [h0]
  rfl

theorem runPipe_done (hp : (u.stn stn).vec.pipe = [e]) (hm : memKind e.i = some m) (hv : u.vecMem m e = (none, t)) : u.runPipe stn =
    (t.modVec stn (fun v => { v with pipe := v.pipe.filter (fun x => x.num != e.num) })).modCtx e.at_ (fun c => c.postedOver e.num) := by
  have hb : blockedIn [e] e = false := by simp [blockedIn]
  rw [State.runPipe, hp, List.foldl_cons, List.foldl_nil]
  simp only [hp, List.find?_cons, beq_self_eq_true, hm, hb, hv]
  rfl

/-- The state after a memory entry that its turn completes: the turn's, but for what the passes note. -/
theorem arbitrate_mem (h : s.Solo stn core k e) (hb : bindRuns e.bind = some true) (hm : memKind e.i = some m)
    (ht : Exec.vecMemTurn m e ((s.memStart stn core e).memSeen e) = .ok none t) (hvec : (t.stn stn).vec = ((s.memStart stn core e).stn stn).vec) :
    let r := (t.modCtx e.at_ (Ctx.withRead ((s.memStart stn core e).ctx e.at_).flow)).modCtx e.at_ (fun c => c.postedOver e.num)
    r.Same (s.arbitrate stn) ∧ (s.arbitrate stn).net = t.net ∧ (s.arbitrate stn).queueOf e.at_ = [] ∧
      ((s.arbitrate stn).stn stn).vec.pipe = [] := by
  have hst := h.station
  have hr := passed_released (t := s) (stn := stn)
  obtain ⟨hsole, hpipe⟩ := memStart_vec h
  have hpass := passHeads_mem (hr.sole h.sole) hb hst (hr.pipe.trans h.pipe) (by rw [hm]; rfl)
  let x := (t.modCtx e.at_ (Ctx.withRead ((s.memStart stn core e).ctx e.at_).flow)).modVec stn
    (fun v => { v with pipe := v.pipe.filter (fun x => x.num != e.num) })
  have hxv : (x.stn stn).vec = { (t.stn stn).vec with pipe := (t.stn stn).vec.pipe.filter (fun x => x.num != e.num) } := by
    rw [State.stn_modVec_self]
    rfl
  have hpre : s.preludeOf stn = x.modCtx e.at_ (fun c => c.postedOver e.num) := by
    rw [prelude_of_passHeads h.sole h.bound hpass hsole]
    exact runPipe_done hpipe hm (vecMem_done ht)
  have hxs : (x.stn stn).vec.sole core [] := by
    rw [hxv, hvec]
    exact hsole
  have hp := arbitrate_idle hpre (t := x.modCtx e.at_ (fun c => c.postedOver e.num)) hxs (.inl rfl)
  refine ⟨State.Same.trans (t := x.modCtx e.at_ (fun c => c.postedOver e.num)) ⟨rfl, .of_eq rfl rfl rfl⟩ hp.same, hp.net,
    queueOf_sole (hp.sole hxs) h.here, hp.pipe.trans ?_⟩
  rw [show (x.modCtx e.at_ (fun c => c.postedOver e.num)).stn stn = x.stn stn from rfl, hxv, hvec, hpipe]
  simp

end

end Sys2Proof.Machine
end

section
/-! SUPPORT. A vector load whose words are at hand (O35; R166, R169, R176). -/

namespace Sys2Proof.Machine

section
variable {s t u v : State} {e : VEntry} {w a : Nat} {zero : Bool} {h : Hint} {word : Nat → BlockWord}

/-- The value that a load of `w`-bit elements gives its register. -/
def loadedReg (w a : Nat) (zero : Bool) (e : VEntry) (word : Nat → BlockWord) (c : Ctx) : VReg :=
  ofElems w (mergeElems zero e.first e.last (elemsOf w (c.readV a)).zipIdx
    (e.elems.map (fun x => (x.1, natOf (partOf (word x.2.1) x.2.1 (w / 8))))))

/-- The first element of each block word that an entry touches. -/
def firstsOf (e : VEntry) : List (Nat × Nat × Nat) :=
  (distinct (e.elems.map (fun x => bwOf x.2.1))).filterMap (fun b => e.elems.find? (fun x => bwOf x.2.1 == b))

theorem find_bw {b : Nat} (hb : b ∈ distinct (e.elems.map (fun x => bwOf x.2.1))) :
    ∃ x ∈ e.elems, e.elems.find? (fun x => bwOf x.2.1 == b) = some x ∧ bwOf x.2.1 = b := by
  obtain ⟨y, hy, rfl⟩ := List.mem_map.1 (mem_distinct.1 hb)
  cases hf : e.elems.find? (fun x => bwOf x.2.1 == bwOf y.2.1) with
  | none => exact absurd (List.find?_eq_none.1 hf y hy) (by simp)
  | some x => exact ⟨x, List.mem_of_find?_eq_some hf, rfl, by simpa using List.find?_some hf⟩

theorem mem_firstsOf {x : Nat × Nat × Nat} (hx : x ∈ firstsOf e) : x ∈ e.elems := by
  obtain ⟨b, -, hb⟩ := List.mem_filterMap.1 hx
  exact List.mem_of_find?_eq_some hb

theorem exists_firstsOf {y : Nat × Nat × Nat} (hy : y ∈ e.elems) : ∃ x ∈ firstsOf e, bwOf x.2.1 = bwOf y.2.1 := by
  have hb : bwOf y.2.1 ∈ distinct (e.elems.map (fun x => bwOf x.2.1)) := mem_distinct.2 (List.mem_map_of_mem hy)
  obtain ⟨x, -, hf, hbw⟩ := find_bw hb
  exact ⟨x, List.mem_filterMap.2 ⟨_, hb, hf⟩, hbw⟩

theorem length_filterMap_of_some {α β : Type} {f : α → Option β} : ∀ {xs : List α}, (∀ x ∈ xs, ∃ y, f x = some y) → (xs.filterMap f).length = xs.length
  | [], _ => rfl
  | x :: xs, h => by
    obtain ⟨y, hy⟩ := h x (List.mem_cons_self ..)
    rw [List.filterMap_cons, hy, List.length_cons, List.length_cons, length_filterMap_of_some fun z hz => h z (List.mem_cons_of_mem _ hz)]

theorem length_firstsOf : (firstsOf e).length = (distinct (e.elems.map (fun x => bwOf x.2.1))).length :=
  length_filterMap_of_some fun _ hb => by
    obtain ⟨x, -, hx, -⟩ := find_bw hb
    exact ⟨x, hx⟩

/-- The words that were looked for, found again for each element. -/
theorem find_words (hw : ∀ x ∈ e.elems, ∀ y ∈ e.elems, bwOf x.2.1 = bwOf y.2.1 → word x.2.1 = word y.2.1) {y : Nat × Nat × Nat} (hy : y ∈ e.elems) :
    (((firstsOf e).map (fun x => (bwOf x.2.1, word x.2.1, false))).find? (fun x => x.1 == bwOf y.2.1)).map (fun x => x.2) =
      some (word y.2.1, false) := by
  rw [List.find?_map, Option.map_map]
  cases hf : (firstsOf e).find? ((fun x => x.1 == bwOf y.2.1) ∘ fun x => (bwOf x.2.1, word x.2.1, false)) with
  | none =>
    obtain ⟨x, hx, hb⟩ := exists_firstsOf hy
    exact absurd (List.find?_eq_none.1 hf x hx) (by simp [hb])
  | some x =>
    have hb : bwOf x.2.1 = bwOf y.2.1 := by simpa using List.find?_some hf
    rw [Option.map_some, Function.comp_apply, hw x (mem_firstsOf (List.mem_of_find?_eq_some hf)) y hy hb]

theorem filter_none {α : Type} {p : α → Bool} {xs : List α} (h : ∀ x ∈ xs, p x = false) : xs.filter p = [] :=
  List.filter_eq_nil_iff.2 fun x hx => by rw [h x hx]; exact Bool.false_ne_true

/-- A load without poison writes its register. -/
theorem Exec.vecLoadDone_run {ws : List (Nat × BlockWord × Bool)}
    (hf : ∀ x ∈ e.elems, (ws.find? (fun y => y.1 == bwOf x.2.1)).map (fun y => y.2) = some (word x.2.1, false)) :
    Exec.vecLoadDone w a zero e ws v = .ok () (v.modCur (fun c => c.writeV a (loadedReg w a zero e word v.cur))) := by
  rw [Exec.vecLoadDone, Exec.bind_ok v (Exec.get_run v)]
  refine (show (set _ : Exec PUnit) v = .ok PUnit.unit _ from rfl).trans ?_
  rw [filter_none (xs := e.elems) fun y hy => by simp only [hf y hy], List.map_congr_left (l := e.elems)
    (g := fun x => (x.1, natOf (partOf (word x.2.1) x.2.1 (w / 8)))) fun y hy => by simp only [hf y hy]]
  rfl

/-- The whole turn of a load whose words are at hand. -/
theorem Exec.vecMemTurn_load (hf : v.cur.flow.flights = [])
    (hl : ∀ x ∈ e.elems, ∃ pl, v.place x.2.1 = .ok pl ∧ pl.stash = true ∧ v.look v.hand.at_.stn pl x.2.1 = .have_ (word x.2.1) false)
    (hw : ∀ x ∈ e.elems, ∀ y ∈ e.elems, bwOf x.2.1 = bwOf y.2.1 → word x.2.1 = word y.2.1) :
    Exec.vecMemTurn (.load w a zero h) e v = .ok none
      ((v.modCur (fun c => c.writeV a (loadedReg (if e.bytewise then 8 else w) a zero e word v.cur))).sampleLoad v.hand.at_.stn false e.since) := by
  have hws := Exec.vecWords_stash (v := v) h word hf (firstsOf e) fun x hx => hl x (mem_firstsOf hx)
  have hlen : ¬ ((firstsOf e).map (fun x => (bwOf x.2.1, word x.2.1, false))).length < (distinct (e.elems.map (fun x => bwOf x.2.1))).length := by
    rw [List.length_map, length_firstsOf]
    exact lt_irrefl _
  rw [Exec.vecMemTurn]
  refine (Exec.bind_ok v hws).trans ((congrFun (if_neg hlen) v).trans ?_)
  exact (Exec.bind_ok v (Exec.vecLoadDone_run fun x hx => find_words hw hx)).trans rfl

end

end Sys2Proof.Machine
end

section
/-! SUPPORT. A cycle in which the memory pipeline performs a load (O35). -/

namespace Sys2Proof.Machine

section
variable {s t u : State} {stn core k : Nat} {e : VEntry} {m : MemKind} {w a : Nat} {zero : Bool} {h : Hint} {word : Nat → BlockWord}

/-! ## The state in which an entry has its turn -/

theorem State.OnlyVec.same (h : s.OnlyVec u) : s.Same u := by
  rw [h.rest]
  exact ⟨rfl, .of_eq rfl rfl rfl⟩

theorem State.OnlyVec.alike (h : s.OnlyVec u) : s.Alike u := by
  refine ⟨by rw [h.rest], by rw [h.rest], by rw [h.rest], by rw [h.rest], fun n => ?_, fun n => ?_⟩
  · obtain ⟨v, hv⟩ := h.vec n
    rw [hv]
  · obtain ⟨v, hv⟩ := h.vec n
    rw [hv]

theorem alike_memSeen : u.Alike (u.memSeen e) := ⟨rfl, rfl, rfl, rfl, fun _ => rfl, fun _ => rfl⟩

@[simp] theorem at_memSeen : (u.memSeen e).hand.at_ = e.at_ := rfl
@[simp] theorem stations_memSeen : (u.memSeen e).stations = u.stations := rfl

theorem cur_memSeen : (u.memSeen e).cur = (u.ctx e.at_).seen e :=
  State.ctx_modCtx_self u e.at_ (Ctx.seen e)

theorem others_memSeen : SameContextsBut e.at_ u (u.memSeen e) ∧ SameStorage u (u.memSeen e) :=
  ⟨fun _ hm => State.ctx_modCtx_ne u (Ctx.seen e) hm, .of_eq rfl rfl rfl⟩

theorem elem_memSeen (h : s.Same u) (w r n : Nat) : (u.memSeen e).cur.elem w r n = (s.ctx e.at_).elem w r n := by
  rw [cur_memSeen, h.ctx]
  rfl

theorem flights_memSeen (h : s.Same u) : (u.memSeen e).cur.flow.flights = (s.ctx e.at_).flow.flights := by
  rw [cur_memSeen, h.ctx]
  rfl

/-! ## After a turn -/

@[simp] theorem files_withRead (c : Ctx) (f : Flow) : (c.withRead f).files = c.files := rfl
@[simp] theorem files_modPosted (c : Ctx) (n : Nat) (f : VPosted → VPosted) : (c.modPosted n f).files = c.files := rfl
@[simp] theorem files_settlePosted (c : Ctx) (n : Nat) : (c.settlePosted n).files = c.files := by
  rw [Ctx.settlePosted]
  split
  · split
    · rfl
    · split <;> rfl
  · rfl
@[simp] theorem files_postedOver (c : Ctx) (n : Nat) : (c.postedOver n).files = c.files := by
  rw [Ctx.postedOver]
  split
  · rw [files_settlePosted, files_modPosted]
  · rfl

/-- What a cycle that completes a memory entry leaves, by what its turn left. -/
theorem arbitration_mem (hmsg : s.hand.msg = .laneGroupArbitration stn) (h : s.Solo stn core k e) (hb : bindRuns e.bind = some true)
    (hm : memKind e.i = some m) (ht : Exec.vecMemTurn m e ((s.memStart stn core e).memSeen e) = .ok none t)
    (hvec : (t.stn stn).vec = ((s.memStart stn core e).stn stn).vec) :
    ∃ r, exec .laneGroupArbitration s = .next r ∧ r.queueOf e.at_ = [] ∧ (r.stn stn).vec.pipe = [] ∧ r.net = t.net ∧ SameStorage t r ∧
      SameContextsBut e.at_ t r ∧ (r.ctx e.at_).files = (t.ctx e.at_).files := by
  obtain ⟨hsame, hnet, hq, hp⟩ := arbitrate_mem h hb hm ht hvec
  replace hsame := hsame.trans (same_handOf _ s)
  refine ⟨_, exec_arbitration hmsg, (queueOf_handOf ..).trans hq, ?_, (net_handOf ..).trans hnet, SameStorage.trans' (.of_eq rfl rfl rfl) hsame.2,
    fun l hl => (hsame.ctx l).trans ?_, ?_⟩
  · rw [stn_handOf]
    exact hp
  · rw [State.ctx_modCtx_ne _ _ hl, State.ctx_modCtx_ne _ _ hl]
  · rw [hsame.ctx, State.ctx_modCtx_self, files_postedOver, State.ctx_modCtx_self, files_withRead]

/-! ## Loads -/

theorem sampleLoad_same (n : Nat) (b : Bool) (x : Nat) : t.Same (t.sampleLoad n b x) ∧ (t.sampleLoad n b x).stations = t.stations := by
  rw [State.sampleLoad]
  split
  · exact ⟨⟨rfl, .of_eq rfl rfl rfl⟩, rfl⟩
  · exact ⟨⟨rfl, .of_eq rfl rfl rfl⟩, rfl⟩

/-- The values that a load has for its elements. -/
def loadedVals (w : Nat) (e : VEntry) (word : Nat → BlockWord) : List (Nat × Nat) :=
  e.elems.map (fun x => (x.1, natOf (partOf (word x.2.1) x.2.1 (w / 8))))

theorem elem_loaded (c : Ctx) {n : Nat} (hs : e.elems.Pairwise (fun x y => x.1 < y.1)) (hn : n < 8192 / w) :
    (c.writeV a (loadedReg w a zero e word c)).elem w a n =
      ((loadedVals w e word).lookup n).getD (if zero && decide (e.first ≤ n ∧ n < e.last) then 0 else c.elem w a n) % 2 ^ w := by
  have hm := mergeElems_eq zero e.first e.last (c.elem w a) (8192 / w) 0 (loadedVals w e word) (List.pairwise_map.2 hs) fun _ _ => Nat.zero_le _
  rw [← List.range_eq_range', ← zipIdx_map_range, ← elemsOf_readV] at hm
  rw [loadedReg, ← loadedVals, hm, Ctx.elem_writeV_map hn]

theorem elem_loaded_at (c : Ctx) (hs : e.elems.Pairwise (fun x y => x.1 < y.1)) (hw : w ∈ [8, 16, 32, 64]) {x : Nat × Nat × Nat} (hx : x ∈ e.elems)
    (hn : x.1 < 8192 / w) (ha : x.2.1 % (w / 8) = 0) :
    (c.writeV a (loadedReg w a zero e word c)).elem w a x.1 = (word x.2.1).toNat / 2 ^ (8 * (x.2.1 % 16)) % 2 ^ w := by
  have hl : (loadedVals w e word).lookup x.1 = some (natOf (partOf (word x.2.1) x.2.1 (w / 8))) :=
    lookup_of_mem (vals := loadedVals w e word) (x := (x.1, _)) (List.pairwise_map.2 hs) (List.mem_map_of_mem hx)
  have hfit : x.2.1 % 16 + w / 8 ≤ 16 ∧ 8 * (w / 8) = w := by
    simp only [List.mem_cons, List.not_mem_nil, or_false] at hw
    rcases hw with rfl | rfl | rfl | rfl <;> omega
  rw [elem_loaded c hs hn, hl, Option.getD_some, natOf_partOf hfit.1, hfit.2, Nat.mod_mod]

theorem elem_loaded_other (c : Ctx) (hs : e.elems.Pairwise (fun x y => x.1 < y.1)) {n : Nat} (hn : n < 8192 / w) (hne : ∀ x ∈ e.elems, x.1 ≠ n) :
    (c.writeV a (loadedReg w a zero e word c)).elem w a n = if zero = true ∧ e.first ≤ n ∧ n < e.last then 0 else c.elem w a n := by
  have hl : (loadedVals w e word).lookup n = none := lookup_none_of_ne fun x hx => by
    obtain ⟨y, hy, rfl⟩ := List.mem_map.1 hx
    exact hne y hy
  rw [elem_loaded c hs hn, hl, Option.getD_none]
  by_cases hz : zero = true ∧ e.first ≤ n ∧ n < e.last
  · rw [if_pos hz, if_pos (by simpa using hz)]
    exact Nat.zero_mod _
  · rw [if_neg hz, if_neg (by simpa using hz)]
    exact c.elem_mod ..

/-- The turn of a load whose words are at hand. -/
theorem turn_load (hov : s.OnlyVec u) (hstn : e.at_.stn = stn) (hf : (s.ctx e.at_).flow.flights = [])
    (hl : ∀ x ∈ e.elems, ∃ pl, s.place x.2.1 = .ok pl ∧ pl.stash = true ∧ s.look stn pl x.2.1 = .have_ (word x.2.1) false)
    (hw : ∀ x ∈ e.elems, ∀ y ∈ e.elems, bwOf x.2.1 = bwOf y.2.1 → word x.2.1 = word y.2.1) :
    ∃ t, Exec.vecMemTurn (.load w a zero h) e (u.memSeen e) = .ok none t ∧ t.stations = u.stations ∧ SameStorage s t ∧ SameContextsBut e.at_ s t ∧
      t.ctx e.at_ = ((s.ctx e.at_).seen e).writeV a (loadedReg (if e.bytewise then 8 else w) a zero e word ((s.ctx e.at_).seen e)) := by
  have hcur : (u.memSeen e).cur = (s.ctx e.at_).seen e := cur_memSeen.trans (congrArg (Ctx.seen e) (hov.same.ctx e.at_))
  obtain ⟨hoc, host⟩ := others_memSeen (u := u) (e := e)
  have halike : s.Alike (u.memSeen e) := hov.alike.trans alike_memSeen
  have hfl := (flights_memSeen (e := e) hov.same).trans hf
  have hstat := stations_memSeen (u := u) (e := e)
  have hat := at_memSeen (u := u) (e := e)
  generalize u.memSeen e = v at hcur hoc host halike hfl hstat hat ⊢
  have hturn := Exec.vecMemTurn_load (v := v) (e := e) (w := w) (a := a) (zero := zero) (h := h) (word := word) hfl (fun x hx => by
      obtain ⟨pl, hp, hst, hlook⟩ := hl x hx
      refine ⟨pl, halike.place.trans hp, hst, ?_⟩
      rw [hat, hstn, halike.look hp hst]
      exact hlook) hw
  refine ⟨_, hturn, ?_, ?_, ?_, ?_⟩
  · rw [(sampleLoad_same ..).2]
    exact hstat
  · exact hov.same.2.trans' (host.trans' (SameStorage.trans' (.of_eq rfl rfl rfl) (sampleLoad_same ..).1.2))
  · intro l hne
    rw [(sampleLoad_same ..).1.ctx, State.ctx_modCur_ne _ _ (by rw [hat]; exact hne), hoc l hne, hov.same.ctx]
  · rw [(sampleLoad_same ..).1.ctx, ← hcur, ← hat]
    exact State.cur_modCur ..

/-- A cycle in which a load whose words are at hand is performed. -/
theorem arbitration_load (hmsg : s.hand.msg = .laneGroupArbitration stn) (hs : s.Solo stn core k e) (hb : bindRuns e.bind = some true)
    (hm : memKind e.i = some (.load w a zero h)) (hf : (s.ctx e.at_).flow.flights = [])
    (hl : ∀ x ∈ e.elems, ∃ pl, s.place x.2.1 = .ok pl ∧ pl.stash = true ∧ s.look stn pl x.2.1 = .have_ (word x.2.1) false)
    (hw : ∀ x ∈ e.elems, ∀ y ∈ e.elems, bwOf x.2.1 = bwOf y.2.1 → word x.2.1 = word y.2.1) :
    ∃ (r : State) (c' : Ctx), exec .laneGroupArbitration s = .next r ∧ r.queueOf e.at_ = [] ∧ (r.stn stn).vec.pipe = [] ∧ SameStorage s r ∧
      SameContextsBut e.at_ s r ∧ c'.files = (s.ctx e.at_).files ∧
      (r.ctx e.at_).files = (c'.writeV a (loadedReg (if e.bytewise then 8 else w) a zero e word c')).files := by
  obtain ⟨t, hturn, hstat, hst, hoc, hctx⟩ := turn_load (w := w) (a := a) (zero := zero) (h := h) (memStart_onlyVec (core := core) hs) hs.station hf hl hw
  obtain ⟨r, hr, hq, hp, -, hst', hc, hfiles⟩ := arbitration_mem hmsg hs hb hm hturn (by rw [State.stn, hstat]; rfl)
  exact ⟨r, (s.ctx e.at_).seen e, hr, hq, hp, hst.trans' hst', hoc.trans hc, rfl, hfiles.trans (congrArg Ctx.files hctx)⟩

end

end Sys2Proof.Machine
end

section
/-! SUPPORT. A vector store to its own station's stash (O35; R169): the bytes that a write within a block word leaves, and the turn of
the memory pipeline that makes it. -/

namespace Sys2Proof.Machine

/-! ## Bytes of a block word with bytes put in -/

theorem bytesOf_mergeWord (w : BlockWord) {off : Nat} {bs : List Byte} (h : off + bs.length ≤ 16) : bytesOf 16 (mergeWord w off bs).toNat =
    (bytesOf 16 w.toNat).take off ++ bs ++ (bytesOf 16 w.toNat).drop (off + bs.length) := by
  have hlen : ((bytesOf 16 w.toNat).take off ++ bs ++ (bytesOf 16 w.toNat).drop (off + bs.length)).length = 16 := by
    simp
    omega
  have hlt := natOf_lt ((bytesOf 16 w.toNat).take off ++ bs ++ (bytesOf 16 w.toNat).drop (off + bs.length))
  have hto := bytesOf_natOf ((bytesOf 16 w.toNat).take off ++ bs ++ (bytesOf 16 w.toNat).drop (off + bs.length))
  rw [hlen] at hlt hto
  rw [mergeWord, BitVec.toNat_ofNat, show (2 : Nat) ^ 128 = 256 ^ 16 by norm_num, Nat.mod_eq_of_lt hlt, hto]

section
variable {s u v : State} {pl : Place} {fa ea stn : Nat} {bs : List Byte}

theorem bytes_length (s : State) : ∀ n a, (s.bytes a n).length = n := by
  intro n
  induction n with
  | zero => intro a; rfl
  | succ n ih => intro a; rw [State.bytes, List.length_cons, ih]

theorem getD_bytes (s : State) : ∀ n a j, j < n → (s.bytes a n).getD j 0 = s.byte (a + j) := by
  intro n
  induction n with
  | zero => exact fun _ _ h => absurd h (Nat.not_lt_zero _)
  | succ n ih =>
    intro a j h
    cases j with
    | zero => rfl
    | succ j => rw [State.bytes, List.getD_cons_succ, ih _ _ (by omega), Nat.add_right_comm, Nat.add_assoc]

/-- The bytes of a block word are those of storage. -/
theorem bytesOf_rawWord (s : State) (canon : Nat) : bytesOf 16 (s.rawWord canon).1.toNat = s.bytes (canon / 16 * 16) 16 := by
  have hlt := natOf_lt (s.bytes (canon / 16 * 16) 16)
  have hto := bytesOf_natOf (s.bytes (canon / 16 * 16) 16)
  rw [bytes_length] at hlt hto
  rw [State.rawWord, BitVec.toNat_ofNat, show (2 : Nat) ^ 128 = 256 ^ 16 by norm_num, Nat.mod_eq_of_lt hlt, hto]

/-- A block word with bytes put in changes those bytes of storage alone. -/
theorem byte_setRaw_merged (s : State) {canon : Nat} (p : Bool) (h : canon % 16 + bs.length ≤ 16) (x : Nat) :
    (s.setRaw canon (mergeWord (s.rawWord canon).1 (canon % 16) bs) p).byte x =
      if canon ≤ x ∧ x < canon + bs.length then bs.getD (x - canon) 0 else s.byte x := by
  by_cases hx : canon ≤ x ∧ x < canon + bs.length
  · obtain ⟨k, rfl⟩ := Nat.exists_eq_add_of_le hx.1
    rw [if_pos hx, State.byte_setRaw_mergeWord h (by omega), Nat.add_sub_cancel_left]
  · rw [if_neg hx, State.byte, State.mem_setRaw, get_storeBytes, bytesOf_length]
    by_cases hw : canon / 16 * 16 ≤ x ∧ x < canon / 16 * 16 + 16
    · obtain ⟨j, rfl⟩ := Nat.exists_eq_add_of_le hw.1
      have hj : j < 16 := by omega
      have hget : (bytesOf 16 (mergeWord (s.rawWord canon).1 (canon % 16) bs).toNat).getD j 0 = (s.bytes (canon / 16 * 16) 16).getD j 0 := by
        rw [bytesOf_mergeWord _ h, bytesOf_rawWord, List.getD_eq_getElem?_getD, List.getD_eq_getElem?_getD]
        have hl := bytes_length s 16 (canon / 16 * 16)
        by_cases hlo : j < canon % 16
        · rw [List.append_assoc, List.getElem?_append_left (by rw [List.length_take]; omega), List.getElem?_take_of_lt hlo]
        · have hhi : canon % 16 + bs.length ≤ j := by omega
          have hlen : ((s.bytes (canon / 16 * 16) 16).take (canon % 16) ++ bs).length = canon % 16 + bs.length := by
            rw [List.length_append, List.length_take]
            omega
          rw [List.getElem?_append_right (by omega), hlen, List.getElem?_drop, Nat.add_sub_cancel' hhi]
      rw [if_pos hw, Nat.add_sub_cancel_left, hget, getD_bytes s 16 _ _ hj]
    · rw [if_neg hw]
      rfl

/-! ## Where the store goes -/

theorem blockedAt_congr (h : s.Alike u) (hd : u.datum = s.datum) (n fa len : Nat) : u.blockedAt n fa len = s.blockedAt n fa len := by
  unfold State.blockedAt State.chunkHeld State.leased State.leaseMax State.copyingAt
  rw [h.home, h.tables, hd]

/-- A store to a stash of the acting context's station goes to its home. -/
theorem Exec.storeWhere_stash (h : Hint) {len : Nat} (hp : v.place fa = .ok pl) (hs : pl.stash = true) (hl : v.isLocal v.hand.at_.stn pl = true)
    (hwb : (v.stn v.hand.at_.stn).slice.wbOut = []) (hb : v.blockedAt v.hand.at_.stn fa len = false) (hpoi : (v.homeWord pl fa).2 = false) :
    Exec.storeWhere h false ⟨fa, ea, len, pl⟩ v = .ok .home v := by
  rw [Exec.storeWhere, Exec.bind_ok v (Exec.get_run v)]
  simp only [hwb, List.any_nil, Bool.false_eq_true, if_false, hs, hl, rebuildNeeds_stash hp hs, rebuild_stash hp hs, hpoi, hb, Bool.not_true,
    Bool.false_and, Bool.not_false, Bool.and_self, if_true, List.isEmpty_nil, Bool.or_self, Bool.and_false]
  rfl

/-- The store is made there. -/
theorem Exec.vecPut_stash (num : Nat) (h : Hint) (hf : v.cur.flow.flights = []) (hp : v.place fa = .ok pl) (hs : pl.stash = true)
    (hl : v.isLocal v.hand.at_.stn pl = true) (hwb : (v.stn v.hand.at_.stn).slice.wbOut = [])
    (hb : v.blockedAt v.hand.at_.stn fa bs.length = false) (hpoi : (v.homeWord pl fa).2 = false) :
    Exec.vecPut num h fa ea bs v = .ok true (v.performWrite pl fa bs []).1 := by
  have hat : Exec.attempt (Exec.storeWhere h false ⟨fa, ea, bs.length, pl⟩) v = .ok (.ok .home) v := by
    rw [Exec.attempt, Exec.storeWhere_stash h hp hs hl hwb hb hpoi]
  rw [Exec.vecPut, Exec.bind_ok v (Exec.get_run v)]
  simp only [hf, List.any_nil, Bool.false_eq_true, if_false, hp]
  rw [Exec.bind_ok v hat]
  rfl

end

end Sys2Proof.Machine
end

section
/-! SUPPORT. A cycle in which the memory pipeline makes a store at its own station's stash (O35). -/

namespace Sys2Proof.Machine

theorem State.full_of_frame {s t : State} (h : t.frame = s.frame) : t.full = s.full := (congrArg State.full h :)
theorem State.full_setRaw (s : State) (canon : Nat) (w : BlockWord) (p : Bool) : (s.setRaw canon w p).full = s.full := by rw [State.setRaw_eq]

section
variable {s t u v : State} {stn core k w a p fa ea : Nat} {e : VEntry} {pl : Place} {h : Hint} {val : Nat → Nat}

/-! ## The bytes that an element covers -/

theorem foldl_set_other {off i : Nat} {xs : List (Byte × Nat)} (hx : ∀ b ∈ xs, off + b.2 ≠ i) : ∀ bs : List (Option Byte),
    (xs.foldl (fun bs b => bs.set (off + b.2) (some b.1)) bs)[i]? = bs[i]? := by
  induction xs with
  | nil => exact fun _ => rfl
  | cons b xs ih =>
    intro bs
    rw [List.foldl_cons, ih (fun c hc => hx c (List.mem_cons_of_mem _ hc)), List.getElem?_set_ne (hx b (List.mem_cons_self ..))]

/-- An element of at most 8 bytes does not cover a block word. -/
theorem coverOf_partial (hw : w / 8 ≤ 8) : (coverOf w [(p, fa, ea)] val).all (fun x => x.isSome) = false := by
  have hoff : ∃ i, i < 16 ∧ ∀ b ∈ (bytesOf (w / 8) (val p)).zipIdx, fa % 16 + b.2 ≠ i := by
    have hlt : ∀ b ∈ (bytesOf (w / 8) (val p)).zipIdx, b.2 < w / 8 := fun b hb => by
      have := (List.mem_zipIdx' hb).1
      rwa [bytesOf_length] at this
    by_cases h8 : 8 ≤ fa % 16
    · exact ⟨0, by omega, fun b _ => by omega⟩
    · exact ⟨15, by omega, fun b hb => by have := hlt b hb; omega⟩
  obtain ⟨i, hi, hne⟩ := hoff
  have hget : (coverOf w [(p, fa, ea)] val)[i]? = some none := by
    rw [coverOf, List.foldl_cons, List.foldl_nil, foldl_set_other hne, List.getElem?_replicate, if_pos hi]
  rw [List.all_eq_false]
  exact ⟨none, List.mem_of_getElem? hget, by simp⟩

/-! ## The turn -/

theorem Exec.vecStore_one (num : Nat) (hw : w / 8 ≤ 8) (hput : Exec.vecPut num h fa ea (bytesOf (w / 8) (val p)) v = .ok true t) :
    Exec.vecStore num h w val [(p, fa, ea)] [bwOf fa] v = .ok [] t := by
  have hall : Exec.vecPutAll num h w val [(p, fa, ea)] v = .ok [] t := by
    rw [Exec.vecPutAll, Exec.bind_ok v hput]
    rfl
  have hmine : [(p, fa, ea)].filter (fun x => bwOf x.2.1 == bwOf fa) = [(p, fa, ea)] := by simp
  rw [Exec.vecStore]
  simp only [hmine, coverOf_partial hw, Bool.false_eq_true, if_false]
  rw [Exec.bind_ok v hall]
  rfl

/-- The turn of a store of one element at a stash of its own station. -/
theorem Exec.vecMemTurn_store (he : e.elems = [(p, fa, ea)]) (hw : (if e.bytewise then 8 else w) / 8 ≤ 8) (hf : v.cur.flow.flights = [])
    (hp : v.place fa = .ok pl) (hs : pl.stash = true) (hl : v.isLocal v.hand.at_.stn pl = true)
    (hwb : (v.stn v.hand.at_.stn).slice.wbOut = []) (hb : v.blockedAt v.hand.at_.stn fa ((if e.bytewise then 8 else w) / 8) = false)
    (hpoi : (v.homeWord pl fa).2 = false) :
    Exec.vecMemTurn (.store w a h) e v = .ok none (v.performWrite pl fa (bytesOf ((if e.bytewise then 8 else w) / 8)
      ((elemsOf (if e.bytewise then 8 else w) (v.cur.readV a)).getD p 0)) []).1 := by
  have hput := Exec.vecPut_stash (ea := ea) (bs := bytesOf ((if e.bytewise then 8 else w) / 8)
    ((elemsOf (if e.bytewise then 8 else w) (v.cur.readV a)).getD p 0)) e.num h hf hp hs hl hwb (by rw [bytesOf_length]; exact hb) hpoi
  have hst := Exec.vecStore_one (val := fun n => (elemsOf (if e.bytewise then 8 else w) (v.cur.readV a)).getD n 0) (p := p) e.num hw hput
  rw [Exec.vecMemTurn, Exec.bind_ok v (Exec.ctx_run v), he]
  refine (Exec.bind_ok v (show Exec.vecStore e.num h _ _ [(p, fa, ea)] (distinct [bwOf fa]) v = _ from hst)).trans ?_
  rfl

theorem getD_bytesOf : ∀ n v j : Nat, j < n → (bytesOf n v).getD j 0 = BitVec.ofNat 8 (v / 256 ^ j) := by
  intro n
  induction n with
  | zero => exact fun _ _ h => absurd h (Nat.not_lt_zero _)
  | succ n ih =>
    intro v j h
    cases j with
    | zero => simp [bytesOf]
    | succ j => rw [bytesOf, List.getD_cons_succ, ih _ _ (by omega), Nat.div_div_eq_div_mul, ← pow_succ']

/-- A turn that makes such a store leaves the element's bytes in storage. -/
theorem turn_store (hov : s.OnlyVec u) (hstn : e.at_.stn = stn) (he : e.elems = [(p, fa, ea)]) (hw : (if e.bytewise then 8 else w) ∈ [8, 16, 32, 64])
    (hf : (s.ctx e.at_).flow.flights = []) (hp : s.homedAt fa pl) (hs : pl.stash = true) (hpl : pl.stn = stn)
    (hwb : (s.stn stn).slice.wbOut = []) (hb : s.blockedAt stn fa ((if e.bytewise then 8 else w) / 8) = false)
    (hpoi : (s.homeWord pl fa).2 = false) (hn : p < 8192 / (if e.bytewise then 8 else w)) (ha : fa % ((if e.bytewise then 8 else w) / 8) = 0) :
    ∃ t, Exec.vecMemTurn (.store w a h) e (u.memSeen e) = .ok none t ∧ (t.stn stn).vec = (u.stn stn).vec ∧ t.full = s.full ∧
      ∀ b, t.byte b = if fa ≤ b ∧ b < fa + (if e.bytewise then 8 else w) / 8 then
        BitVec.ofNat 8 ((s.ctx e.at_).elem (if e.bytewise then 8 else w) a p / 256 ^ (b - fa)) else s.byte b := by
  have halike : s.Alike (u.memSeen e) := hov.alike.trans alike_memSeen
  have hdat : (u.memSeen e).datum = s.datum := by rw [hov.rest]; rfl
  have hfull : (u.memSeen e).full = s.full := by rw [hov.rest]; rfl
  have hfl := (flights_memSeen (e := e) hov.same).trans hf
  have hel := fun w r n => elem_memSeen (e := e) hov.same w r n
  have hstat := stations_memSeen (u := u) (e := e)
  have hat := at_memSeen (u := u) (e := e)
  generalize u.memSeen e = v at halike hdat hfull hfl hel hstat hat ⊢
  have hlen : (if e.bytewise then 8 else w) / 8 ≤ 8 ∧ 1 ≤ (if e.bytewise then 8 else w) / 8 ∧ fa % 16 + (if e.bytewise then 8 else w) / 8 ≤ 16 := by
    generalize (if e.bytewise then 8 else w) = x at hw ha
    simp only [List.mem_cons, List.not_mem_nil, or_false] at hw
    rcases hw with rfl | rfl | rfl | rfl <;> omega
  obtain ⟨hle, h1, hfit⟩ := hlen
  obtain ⟨hplace, hcube⟩ := hp
  have hcanon := State.canon_of_place_stash hplace hs
  have hraw : ∀ r : State, r.homeWord pl fa = r.rawWord fa := fun r => by rw [State.homeWord, hs, if_pos rfl, hcanon]
  have hpv : (v.homeWord pl fa).2 = false := by
    rw [hraw, halike.rawWord, ← hraw]
    exact hpoi
  have hturn := Exec.vecMemTurn_store (v := v) (a := a) (h := h) he hle hfl (halike.place.trans hplace) hs
    (by rw [State.isLocal, hat, hstn, halike.cube, hcube, hpl]; simp) (by rw [hat, hstn, halike.slice]; exact hwb)
    (by rw [hat, hstn, blockedAt_congr halike hdat]; exact hb) hpv
  rw [getD_elemsOf hn, hel] at hturn
  generalize (if e.bytewise then 8 else w) = x at hle h1 hfit hturn ⊢
  obtain ⟨hframe, hstn'⟩ := State.performWrite_stash (s := v) (pl := pl) (fa := fa) (bs := bytesOf (x / 8) ((s.ctx e.at_).elem x a p)) hs hpv
    (by rw [bytesOf_length]; exact h1) (by rw [bytesOf_length]; exact hfit)
  refine ⟨_, hturn, ?_, ?_, fun b => ?_⟩
  · obtain ⟨hm, hh⟩ := hstn' stn
    rw [hh, State.stn, hstat]
    rfl
  · rw [State.full_of_frame hframe, State.full_setRaw, hfull]
  · have hmerge := byte_setRaw_merged v (canon := fa) (bs := bytesOf (x / 8) ((s.ctx e.at_).elem x a p)) false (by rw [bytesOf_length]; exact hfit) b
    rw [State.byte, State.mem_of_frame hframe, ← State.byte, hraw, hcanon, hmerge, bytesOf_length]
    by_cases hin : fa ≤ b ∧ b < fa + x / 8
    · rw [if_pos hin, if_pos hin, getD_bytesOf _ _ _ (by omega)]
    · rw [if_neg hin, if_neg hin, State.byte, halike.mem]
      rfl

end

end Sys2Proof.Machine
end

section
/-! SUPPORT. A cycle in which the memory pipeline sends VSCADD's next addition (O35; R145, R169). -/

namespace Sys2Proof.Machine

/-- Storage, messages and vector queues are as they were. -/
structure State.Quiet (s t : State) : Prop where
  store : SameStorage s t
  net : t.net = s.net
  vec : ∀ n, (t.stn n).vec = (s.stn n).vec

section
variable {s t u v : State} {stn core k a p fa ea : Nat} {e : VEntry} {pl : Place} {val : Nat → Nat} {l : Loc}

theorem State.Quiet.trans (h : s.Quiet t) (h' : t.Quiet u) : s.Quiet u :=
  ⟨h.store.trans' h'.store, h'.net.trans h.net, fun n => (h'.vec n).trans (h.vec n)⟩

theorem quiet_modSlice (s : State) (n : Nat) (f : Slice → Slice) : s.Quiet (s.modSlice n f) := by
  refine ⟨.of_eq rfl rfl rfl, rfl, fun j => ?_⟩
  by_cases h : j = n
  · rw [h, State.stn_modSlice_self]
  · rw [State.modSlice, State.stn_modStn_ne s _ h]

theorem quiet_modCtx (s : State) (l : Loc) (f : Ctx → Ctx) : s.Quiet (s.modCtx l f) := ⟨.of_eq rfl rfl rfl, rfl, fun _ => rfl⟩

/-! ## A chunk of which the station holds nothing to be written back -/

theorem quiet_dropWords (s : State) (n : Nat) (pick : Nat → Bool)
    (h : ((s.stn n).slice.trim (fun b w => !b.home && !w.dirty && pick (wordFa b.region w.ix))).2 = []) : s.Quiet (s.dropWords n false pick) := by
  have htrim : s.trimSlice n (fun b w => (false || !b.home) && !w.dirty && pick (wordFa b.region w.ix)) =
      s.modSlice n (fun _ => ((s.stn n).slice.trim (fun b w => !b.home && !w.dirty && pick (wordFa b.region w.ix))).1) := by
    rw [State.trimSlice]
    simp only [Bool.false_or, h, List.foldl_nil]
  rw [State.dropWords, htrim]
  exact ((quiet_modSlice ..).trans (quiet_modSlice ..)).trans (quiet_modSlice ..)

/-- Cleaning such a chunk sends nothing. -/
theorem Exec.cleanChunk_clean (h : v.cleanFor v.hand.at_.stn fa) : ∃ t, Exec.cleanChunk fa v = .ok () t ∧ v.Quiet t := by
  obtain ⟨hown, hwb, htrim⟩ := h
  refine ⟨v.dropWords v.hand.at_.stn false (fun a => chunkOf a == chunkOf fa), ?_, quiet_dropWords _ _ _ htrim⟩
  rw [Exec.cleanChunk, Exec.bind_ok v (Exec.get_run v)]
  simp only [hown, Bool.false_eq_true, if_false]
  rw [Exec.bind_ok v (Exec.get_run v), Exec.bind_ok v (show Exec.wait _ v = .ok () v by rw [hwb, Exec.wait_run]; rfl)]
  rfl

/-! ## The access that is in flight then -/

/-- An access that owes nothing and resolves nothing completes without a message. -/
theorem quiet_finishFlight {f : Flight} (hk : ∃ k, f.kind = .atomic none k) (hg : f.gsets = []) (hb : f.pieces.find? (fun x => x.poison) = none) :
    s.Quiet (s.finishFlight l f) := by
  obtain ⟨k, hk⟩ := hk
  rw [State.finishFlight]
  simp only [hk, hg, hb, List.foldl_nil]
  exact quiet_modCtx ..

theorem Exec.launch_atomic (k id x y : Nat) (d : Nat) :
    ∃ t, Exec.launch ⟨.atomic none k, [⟨id, x, y, 8, [], false⟩], true, false, [], [], d⟩ v = .ok () t ∧ v.Quiet t := by
  rw [Exec.launch, Exec.bind_ok v (Exec.get_run v)]
  simp only
  split
  · exact ⟨_, rfl, (quiet_modCtx ..).trans (quiet_finishFlight ⟨k, rfl⟩ rfl rfl)⟩
  · exact ⟨_, rfl, (quiet_modCtx ..).trans (quiet_modCtx ..)⟩

/-! ## The turn -/

/-- An addition is sent to its home. -/
theorem Exec.vecAdd_one (num : Nat) (hf : v.cur.flow.flights = []) (hp : v.place fa = .ok pl) (hc : v.cleanFor v.hand.at_.stn fa) :
    ∃ t r, Exec.vecAdd num val [(p, fa, ea)] v = .ok [] t ∧ t.net = v.net ++ [.atomic r] ∧ r.op = 11 ∧ r.w32 = true ∧ r.fa = fa ∧ r.dest = 0 ∧
      r.operand = val p ∧ SameStorage v t ∧ ∀ n, (t.stn n).vec = (v.stn n).vec := by
  obtain ⟨x, hx, hq⟩ := Exec.cleanChunk_clean hc
  have hat : Exec.attempt (Exec.cleanChunk fa) v = .ok (.ok ()) x := by rw [Exec.attempt, hx]
  let r : AtomReq := ⟨x.counts.id, .task v.hand.at_ v.cur.tid, v.hand.at_.stn, fa, ea, 11, true, val p, 0, 0, 0, 0, x.counterFor v.hand.at_.stn pl,
    (x.stn v.hand.at_.stn).slice.sig, 0, pl.ptag⟩
  let y := (x.freshId.2.send (.atomic r)).modCtx v.hand.at_ (fun c => (c.addCount (x.counterFor v.hand.at_.stn pl) true).modPosted num
    (fun v => { v with ids := x.counts.id :: v.ids }))
  obtain ⟨t, ht, hqt⟩ := Exec.launch_atomic (v := y) (x.counterFor v.hand.at_.stn pl) x.counts.id fa ea x.datum
  refine ⟨t, r, ?_, hqt.net.trans (congrArg (· ++ [Msg.atomic r]) hq.net), rfl, rfl, rfl, rfl, rfl,
    hq.store.trans' (SameStorage.trans' (.of_eq rfl rfl rfl) hqt.store), fun n => (hqt.vec n).trans (hq.vec n)⟩
  rw [Exec.vecAdd]
  simp only
  rw [Exec.bind_ok v (Exec.get_run v)]
  simp only [hf, List.any_nil, Bool.false_eq_true, if_false, hp]
  rw [Exec.bind_ok v hat]
  refine (Exec.bind_ok x (Exec.get_run x)).trans ?_
  refine (Exec.bind_ok x (show (set y : Exec Unit) x = .ok () y from rfl)).trans ?_
  exact (Exec.bind_ok y ht).trans rfl

end

end Sys2Proof.Machine
end

section
/-! SUPPORT. The cycles that make a store or send an addition, from turn to station (O35). -/

namespace Sys2Proof.Machine

section
variable {s t u v : State} {stn core k w a p fa ea : Nat} {e : VEntry} {pl : Place} {h : Hint}

/-- A cycle in which a store of one element is made at a stash of its own station. -/
theorem arbitration_store (hmsg : s.hand.msg = .laneGroupArbitration stn) (hs : s.Solo stn core k e) (hb : bindRuns e.bind = some true)
    (hm : memKind e.i = some (.store w a h)) (he : e.elems = [(p, fa, ea)]) (hw : (if e.bytewise then 8 else w) ∈ [8, 16, 32, 64])
    (hf : (s.ctx e.at_).flow.flights = []) (hp : s.homedAt fa pl) (hst : pl.stash = true) (hpl : pl.stn = stn)
    (hwb : (s.stn stn).slice.wbOut = []) (hbl : s.blockedAt stn fa ((if e.bytewise then 8 else w) / 8) = false)
    (hpoi : (s.homeWord pl fa).2 = false) (hn : p < 8192 / (if e.bytewise then 8 else w)) (ha : fa % ((if e.bytewise then 8 else w) / 8) = 0) :
    ∃ t, exec .laneGroupArbitration s = .next t ∧ t.queueOf e.at_ = [] ∧ (t.stn stn).vec.pipe = [] ∧ t.full = s.full ∧
      ∀ b, t.byte b = if fa ≤ b ∧ b < fa + (if e.bytewise then 8 else w) / 8 then
        BitVec.ofNat 8 ((s.ctx e.at_).elem (if e.bytewise then 8 else w) a p / 256 ^ (b - fa)) else s.byte b := by
  obtain ⟨t, ht, hvec, hfull, hbyte⟩ := turn_store (h := h) (memStart_onlyVec (core := core) hs) hs.station he hw hf hp hst hpl hwb hbl hpoi hn ha
  obtain ⟨r, hr, hq, hpipe, -, ⟨hsb, -, hsf⟩, -⟩ := arbitration_mem hmsg hs hb hm ht hvec
  exact ⟨r, hr, hq, hpipe, hsf.trans hfull, fun b => (hsb b).trans (hbyte b)⟩

theorem cleanFor_congr (h : (u.stn stn).slice = (s.stn stn).slice) (hc : s.cleanFor stn fa) : u.cleanFor stn fa := by
  rw [State.cleanFor, State.ownDirty, h]
  exact hc

/-- A turn that sends the one addition that an entry has left. -/
theorem turn_add (hov : s.OnlyVec u) (hstn : e.at_.stn = stn) (he : e.elems = [(p, fa, ea)]) (hf : (s.ctx e.at_).flow.flights = [])
    (hp : s.place fa = .ok pl) (hc : s.cleanFor stn fa) :
    ∃ t r, Exec.vecMemTurn (.add a) e (u.memSeen e) = .ok none t ∧ (t.stn stn).vec = (u.stn stn).vec ∧ t.net = s.net ++ [.atomic r] ∧
      r.op = 11 ∧ r.w32 = true ∧ r.fa = fa ∧ r.dest = 0 ∧ (p < 256 → r.operand = (s.ctx e.at_).elem 32 a p) ∧ SameStorage s t := by
  have halike : s.Alike (u.memSeen e) := hov.alike.trans alike_memSeen
  have hnet : (u.memSeen e).net = s.net := by rw [hov.rest]; rfl
  have hfl := (flights_memSeen (e := e) hov.same).trans hf
  have hel := fun n => elem_memSeen (e := e) hov.same 32 a n
  have hst : SameStorage s (u.memSeen e) := hov.same.2.trans' others_memSeen.2
  have hstat := stations_memSeen (u := u) (e := e)
  have hat := at_memSeen (u := u) (e := e)
  generalize u.memSeen e = v at halike hnet hfl hel hst hstat hat ⊢
  have hcv : v.cleanFor v.hand.at_.stn fa := by
    rw [hat, hstn]
    exact cleanFor_congr (halike.slice stn) hc
  obtain ⟨t, r, ht, hn, hop, hw, hfa, hd, hval, hss, hvec⟩ := Exec.vecAdd_one (p := p) (ea := ea)
    (val := fun n => (elemsOf 32 (v.cur.readV a)).getD n 0) e.num hfl (halike.place.trans hp) hcv
  refine ⟨t, r, ?_, ?_, hn.trans (by rw [hnet]), hop, hw, hfa, hd, fun h256 => ?_, hst.trans' hss⟩
  · rw [Exec.vecMemTurn, Exec.bind_ok v (Exec.ctx_run v), he]
    exact (Exec.bind_ok v ht).trans rfl
  · rw [hvec, State.stn, hstat]
    rfl
  · rw [hval, ← hel]
    exact getD_elemsOf h256

/-- A cycle in which the one addition that an entry has left is sent. -/
theorem arbitration_add (hmsg : s.hand.msg = .laneGroupArbitration stn) (hs : s.Solo stn core k e) (hb : bindRuns e.bind = some true)
    (hm : memKind e.i = some (.add a)) (he : e.elems = [(p, fa, ea)]) (hf : (s.ctx e.at_).flow.flights = []) (hp : s.place fa = .ok pl)
    (hc : s.cleanFor stn fa) :
    ∃ t r, exec .laneGroupArbitration s = .next t ∧ t.queueOf e.at_ = [] ∧ (t.stn stn).vec.pipe = [] ∧ t.net = s.net ++ [.atomic r] ∧
      r.op = 11 ∧ r.w32 = true ∧ r.fa = fa ∧ r.dest = 0 ∧ (p < 256 → r.operand = (s.ctx e.at_).elem 32 a p) ∧ SameStorage s t := by
  obtain ⟨t, r, ht, hvec, hnet, hop, hw, hfa, hd, hval, hst⟩ := turn_add (a := a) (memStart_onlyVec (core := core) hs) hs.station he hf hp hc
  obtain ⟨x, hx, hq, hpipe, hnet', hst', -⟩ := arbitration_mem hmsg hs hb hm ht hvec
  exact ⟨x, r, hx, hq, hpipe, hnet'.trans hnet, hop, hw, hfa, hd, hval, hst.trans' hst'⟩

/-! ## What a load writes, read in the context -/

theorem elem_of_files {c d : Ctx} (h : c.files = d.files) (w r n : Nat) : c.elem w r n = d.elem w r n := by
  rw [Ctx.elem, Ctx.readV, h]
  rfl
theorem readV_of_files {c d : Ctx} (h : c.files = d.files) (r : Nat) : c.readV r = d.readV r := by
  rw [Ctx.readV, h]
  rfl

/-! ## The arithmetic entry, by what its context waits for -/

/-- Where its guard is for it. -/
theorem arbitration_executes (hmsg : s.hand.msg = .laneGroupArbitration stn) (hs : s.Solo stn core k e) (hb : bindRuns e.bind = some true)
    (hm : memKind e.i = none) (hv : e.vl ≤ 256) (hbs : (s.stn stn).vec.binds = []) (hw : 1 ≤ s.vecWeight stn core) :
    let c := s.ctx e.at_
    let r := vecRun e.i e c
    let on := fun (z : Nat × Nat) => Nat.land z.2 c.csr.ftrapen ≠ 0
    (c.flow.waitOn ≠ some e.num → ∃ t, exec .laneGroupArbitration s = .next t ∧ t.queueOf e.at_ = [] ∧ t.ctx e.at_ = Ctx.takeEffect r ∧
      SameContextsBut e.at_ s t ∧ SameStorage s t) ∧
    (c.flow.waitOn = some e.num → (∀ z ∈ r.2, ¬ on z) → ∃ t, exec .laneGroupArbitration s = .next t ∧ t.queueOf e.at_ = [] ∧
      t.ctx e.at_ = (Ctx.takeEffect r).ended c.flow.waitWords ∧ SameContextsBut e.at_ s t ∧ SameStorage s t) ∧
    (c.flow.waitOn = some e.num → ∀ p, (∃ z ∈ r.2, z.1 = p ∧ on z) → (∀ z ∈ r.2, on z → p ≤ z.1) →
      ∃ t, exec .laneGroupArbitration s = .next t ∧ t.queueOf e.at_ = [] ∧ (t.ctx e.at_).sup = true ∧
        (t.ctx e.at_).csr.tcause = causeFPE ∧ (t.ctx e.at_).csr.taddr = BitVec.ofNat 64 (256 * p + orFlags r.2) ∧
        (t.ctx e.at_).csr.tpc = c.pc ∧ (t.ctx e.at_).files = c.files ∧ (t.ctx e.at_).csr.fflags = c.csr.fflags ∧
        (t.ctx e.at_).flow.waitOn = none ∧ SameContextsBut e.at_ s t ∧ SameStorage s t) := by
  have heff := arbitration_effect hmsg hs hb hm hv hbs hw
  intro c r on
  refine ⟨fun hn => ?_, fun hwait hq => ?_, fun hwait p hp hl => ?_⟩
  · exact heff (fun d => d = Ctx.takeEffect r) fun x hx => by rw [ctx_vecEffect_idle (by rw [hx]; exact hn), hx]
  · exact heff (fun d => d = (Ctx.takeEffect r).ended c.flow.waitWords) fun x hx => by
      rw [ctx_vecEffect_quiet (by rw [hx]; exact hwait) (by rw [hx]; exact fun z hz => not_not.1 (hq z hz)), hx]
  · obtain ⟨t, ht, hqu, ⟨h1, h2, h3, h4, h5, h6, h7⟩, hc, hst⟩ := heff
      (fun d => d.sup = true ∧ d.csr.tcause = causeFPE ∧ d.csr.taddr = BitVec.ofNat 64 (256 * p + orFlags r.2) ∧ d.csr.tpc = c.pc ∧
        d.files = c.files ∧ d.csr.fflags = c.csr.fflags ∧ d.flow.waitOn = none)
      fun x hx => by
        have := ctx_vecEffect_traps (s := x) (e := e) (p := p) (by rw [hx]; exact hwait) (by rw [hx]; exact lowFlag_least hp hl)
        rw [hx] at this
        exact this
    exact ⟨t, ht, hqu, h1, h2, h3, h4, h5, h6, h7, hc, hst⟩

end

end Sys2Proof.Machine
end

section
/-! One arbitration cycle (O35). -/

namespace Sys2Proof.Machine

/-- Settles O35: a cycle with one queued entry is followed through the passes over the heads, the memory pipeline and the arbiter; what the
entry's effect, its turn of the pipeline or its discard leaves is what the cycle leaves. -/
theorem vectorArbitration : Obligations.VectorArbitration := by
  unfold Obligations.VectorArbitration
  refine ⟨?_, ?_, ?_⟩
  · intro core ctx e stn s hmsg hcore _ hat hq hpipe hbs hm hv hw
    have hs : s.Solo stn core ctx e := ⟨hcore, hat, sole_of_queues hq, hpipe⟩
    refine ⟨fun hb => ?_, fun hb => ?_, fun hb => ?_, arbitration_discard hmsg hs, arbitration_pending hmsg hs⟩
    · exact (arbitration_executes hmsg hs hb hm hv hbs hw).1
    · exact (arbitration_executes hmsg hs hb hm hv hbs hw).2.1
    · exact (arbitration_executes hmsg hs hb hm hv hbs hw).2.2
  · intro core ctx stn w a zero hint e s hmsg hcore _ hat hq hpipe hb hf hw c u hel
    have hs : s.Solo stn core ctx e := ⟨hcore, hat, sole_of_queues hq, hpipe⟩
    have hu : u ∈ [8, 16, 32, 64] := by
      change (if e.bytewise = true then 8 else w) ∈ _
      split
      · exact List.mem_cons_self ..
      · exact hw
    refine ⟨fun word hm hsort hl hsame => ?_, fun p fa ea pl hm he hp hst hpl hwb hbl hpoi => ?_, fun p fa ea pl hm he hp hc => ?_⟩
    · obtain ⟨t, d, ht, hqu, hpi, hss, hsc, hd, hfiles⟩ := arbitration_load hmsg hs hb hm hf hl hsame
      refine ⟨t, ht, hqu, hpi, hss, hsc, ((congrArg Files.g hfiles).trans (Ctx.writeV_g ..)).trans (congrArg Files.g hd), fun m hne => ?_, fun x hx => ?_,
        fun n hn hne => ?_⟩
      · rw [readV_of_files hfiles, Ctx.readV_writeV_ne hne, readV_of_files hd]
      · rw [elem_of_files hfiles]
        exact elem_loaded_at d hsort hu hx (hel x hx).1 (hel x hx).2
      · rw [elem_of_files hfiles]
        refine (elem_loaded_other d hsort hn hne).trans ?_
        rw [elem_of_files hd]
    · obtain ⟨hn, ha⟩ := hel (p, fa, ea) (by rw [he]; exact List.mem_cons_self ..)
      exact arbitration_store hmsg hs hb hm he hu hf hp hst hpl hwb hbl hpoi hn ha
    · exact arbitration_add hmsg hs hb hm he hf hp hc
  · intro stn core k s hmsg _ hk
    exact exec_stallRelease hmsg hk

end Sys2Proof.Machine
end

section
/-! SUPPORT. What the completion of a matrix command changes (O47; R209, R214, R217). -/

namespace Sys2Proof.Machine

/-- Everything but messages, numbers and what stations note, and every station's engines, are as they were. -/
structure State.EngKept (s t : State) : Prop where
  frame : t.frame = s.frame
  eng : ∀ n, (t.stn n).eng = (s.stn n).eng

section
variable {s t u : State} {stn n : Nat} {c : CmdMsg} {rest : List CmdMsg} {status flags : Nat} {v : Word} {l : Loc} {tid : Nat} {pre : List Msg}

theorem State.EngKept.trans (h : s.EngKept t) (h' : t.EngKept u) : s.EngKept u :=
  ⟨h'.frame.trans h.frame, fun k => (h'.eng k).trans (h.eng k)⟩

theorem State.EngKept.matrix (h : s.EngKept t) (k : Nat) : t.matrix k = s.matrix k := congrArg Engines.matrix (h.eng k)

theorem same_of_frame (h : t.frame = s.frame) : SameContexts s t ∧ SameStorage s t :=
  ⟨State.ctx_of_frame h, .of_eq (State.mem_of_frame h) (congrArg State.poison h :) (congrArg State.full h :)⟩

theorem engKept_send (s : State) (m : Msg) : s.EngKept (s.send m) := ⟨rfl, fun _ => rfl⟩
theorem engKept_freshId (s : State) : s.EngKept s.freshId.2 := ⟨rfl, fun _ => rfl⟩

theorem engKept_sendSeq (s : State) (ms : List Msg) : s.EngKept (s.sendSeq ms) := by
  refine ⟨State.frame_sendSeq s ms, fun k => ?_⟩
  unfold State.sendSeq
  split
  · rfl
  · dsimp only
    split <;> rfl

theorem engKept_modSlice (s : State) (n : Nat) (f : Slice → Slice) : s.EngKept (s.modSlice n f) := by
  refine ⟨rfl, fun k => ?_⟩
  by_cases hk : k = n
  · rw [hk, State.stn_modSlice_self]
  · rw [State.modSlice, State.stn_modStn_ne s _ hk]

theorem engKept_plat (s : State) (p : Platform) : s.EngKept { s with plat := p } := ⟨rfl, fun _ => rfl⟩

theorem engKept_logged (s : State) (n : Nat) (f : Slice → Slice) (p : Platform) (ms : List Msg) :
    s.EngKept (State.sendSeq { (s.modSlice n f) with plat := p } ms) :=
  (engKept_modSlice s n f).trans ((engKept_plat _ p).trans (engKept_sendSeq { (s.modSlice n f) with plat := p } ms))

theorem engKept_logError (s : State) (ptag typ fa count : Nat) : s.EngKept (s.logError ptag typ fa count) := by
  unfold State.logError
  split
  · exact ⟨rfl, fun _ => rfl⟩
  · split
    · exact ⟨rfl, fun _ => rfl⟩
    · split
      · exact ⟨rfl, fun _ => rfl⟩
      · dsimp only
        split
        · exact ⟨rfl, fun _ => rfl⟩
        · exact ((engKept_freshId s).trans (engKept_freshId _)).trans (engKept_logged ..)

theorem answerTask_state (s : State) (c : CmdMsg) (r : ResultMsg) : (s.answerTask c r).2 = s := by
  unfold State.answerTask
  split <;> rfl

theorem engKept_counterMsg (s : State) (n fa ptag : Nat) (b : Bool) : s.EngKept (s.counterMsg n fa ptag b).2 :=
  (engKept_freshId s).trans (engKept_modSlice s.freshId.2 n (fun l => { l with relseq := l.relseq + 1 }))
theorem engKept_storeMsg (s : State) (n fa ptag : Nat) (bs : List Byte) : s.EngKept (s.storeMsg n fa ptag bs).2 := engKept_freshId s

/-- A command's answer leaves the engines alone. -/
theorem engKept_finishCmd (s : State) (n : Nat) (c : CmdMsg) (pre : List Msg) (status flags : Nat) (v : Word) :
    s.EngKept (s.finishCmd n c pre status flags v) := by
  have hfin : ∀ (u : State) (ms : List Msg) (r : ResultMsg), u.EngKept ((u.answerTask c r).2.sendSeq (pre ++ ms ++ [(u.answerTask c r).1])) :=
    fun u ms r => by
      rw [answerTask_state]
      exact engKept_sendSeq ..
  unfold State.finishCmd
  extract_lets k e drop reply fin ok
  split
  · exact hfin ..
  · split
    · exact hfin ..
    · split
      · split
        · exact (engKept_counterMsg s ..).trans (hfin ..)
        · exact (engKept_logError s _ _ _ _).trans (hfin ..)
      · split
        · exact (engKept_storeMsg s ..).trans (hfin ..)
        · exact (engKept_logError s _ _ _ _).trans (hfin ..)

theorem engKept_inboxFreed (s : State) (n inbox before : Nat) : s.EngKept (s.inboxFreed n inbox before) := by
  unfold State.inboxFreed
  generalize (if inbox = 2 then 64 else 32) = room
  split
  · exact engKept_send ..
  · exact ⟨rfl, fun _ => rfl⟩

/-! ## A station's matrix engine, changed -/

@[simp] theorem matrix_modMatrix (s : State) (n : Nat) (f : Matrix → Matrix) : (s.modMatrix n f).matrix n = f (s.matrix n) := by
  rw [State.matrix, State.modMatrix, State.stn_modEng_self]
  rfl
@[simp] theorem matrix_modAcc (s : State) (n ix : Nat) (f : Accum → Accum) :
    (s.modAcc n ix f).matrix n = { s.matrix n with accs := Map.set {} (s.matrix n).accs ix (f (Map.get {} (s.matrix n).accs ix)) } := by
  rw [State.matrix, State.modAcc, State.stn_modEng_self]
  rfl
@[simp] theorem matrix_engDone (s : State) (n eng : Nat) (k : Nat) : (s.engDone n eng).matrix k = s.matrix k := by
  by_cases hk : k = n
  · rw [hk, State.matrix, State.engDone, State.stn_modEng_self]
    rfl
  · rw [State.matrix, State.engDone, State.modEng, State.stn_modStn_ne s _ hk]
    rfl

theorem matrix_modMatrix_ne (s : State) (f : Matrix → Matrix) {k n : Nat} (h : k ≠ n) : (s.modMatrix n f).matrix k = s.matrix k := by
  rw [State.matrix, State.modMatrix, State.modEng, State.stn_modStn_ne s _ h]
  rfl
theorem matrix_modAcc_ne (s : State) (ix : Nat) (f : Accum → Accum) {k n : Nat} (h : k ≠ n) : (s.modAcc n ix f).matrix k = s.matrix k := by
  rw [State.matrix, State.modAcc, State.modEng, State.stn_modStn_ne s _ h]
  rfl

/-- The undefined contents of an accumulator, from a choice number on. -/
def freeLanes (n : Nat) : Map (BitVec 32) := (List.range 4096).foldl (fun m i => Map.set 0 m i (Config.freeLane (n + i))) []

theorem matrix_scramble (s : State) (n q : Nat) : ∃ accs, (s.scramble n q).matrix n = { s.matrix n with accs := accs } :=
  ⟨_, matrix_modAcc s n q (fun a => { a with vals := freeLanes s.counts.free })⟩
theorem matrix_scramble_ne (s : State) (q : Nat) {k n : Nat} (h : k ≠ n) : (s.scramble n q).matrix k = s.matrix k :=
  matrix_modAcc_ne s q (fun a => { a with vals := freeLanes s.counts.free }) h

/-! ## Completion, in parts -/

/-- What a completion notes in the command's accumulator: a quiet command's outcome; a lent one's contents are lost. -/
def State.noted (s : State) (stn : Nat) (c : CmdMsg) (status flags : Nat) (v : Word) : State :=
  let s1 := if quietCmd c.cmd then s.modAcc stn (cmdAcc c.cmd) (fun a => a.record status flags v) else s
  if (s.matrix stn).lent c then s1.scramble stn (cmdAcc c.cmd) else s1

/-- An engine that has left the command at its head. -/
def Matrix.without (rest : List CmdMsg) (m : Matrix) : Matrix :=
  { m with inbox := rest, trav := none, started := false, descs := [], segs := [], steps := 0, stepFlags := 0, waits := [], fail := none }

/-- The state of a station that takes up the next command. -/
def State.takesNext (s : State) (stn : Nat) (rest : List CmdMsg) (before : Nat) : State :=
  let s1 := (s.modMatrix stn (Matrix.without rest)).engDone stn 0
  let s2 := { s1 with net := s1.net.filter (fun x => !matrixEvent stn x) }.inboxFreed stn 0 before
  match rest with
  | d :: _ => s2.send (matrixMsg stn d)
  | [] => s2

theorem endMatrix_cons (h : (s.matrix stn).inbox = c :: rest) : s.endMatrix stn pre status flags v =
    ((s.noted stn c status flags v).takesNext stn rest (c :: rest).length).finishCmd stn c pre status flags v := by
  unfold State.endMatrix
  simp only [h]
  cases rest <;> rfl

theorem endMatrix_nil (h : (s.matrix stn).inbox = []) : s.endMatrix stn pre status flags v = s := by
  unfold State.endMatrix
  simp only [h]

theorem noted_frame : (s.noted stn c status flags v).frame = s.frame := by
  unfold State.noted
  dsimp only
  split <;> split <;> rfl

theorem noted_ne {k : Nat} (h : k ≠ stn) : (s.noted stn c status flags v).matrix k = s.matrix k := by
  have h1 : (if quietCmd c.cmd then s.modAcc stn (cmdAcc c.cmd) (fun a => a.record status flags v) else s).matrix k = s.matrix k := by
    split
    · exact matrix_modAcc_ne s _ _ h
    · rfl
  unfold State.noted
  dsimp only
  split
  · exact (matrix_scramble_ne _ _ h).trans h1
  · exact h1

/-- Noting an outcome changes accumulators alone. -/
theorem noted_matrix : ∃ accs, (s.noted stn c status flags v).matrix stn = { s.matrix stn with accs := accs } := by
  have h1 : ∃ accs, (if quietCmd c.cmd then s.modAcc stn (cmdAcc c.cmd) (fun a => a.record status flags v) else s).matrix stn =
      { s.matrix stn with accs := accs } := by
    split
    · exact ⟨_, matrix_modAcc ..⟩
    · exact ⟨_, rfl⟩
  obtain ⟨accs, h1⟩ := h1
  unfold State.noted
  dsimp only
  split
  · obtain ⟨x, hx⟩ := matrix_scramble (if quietCmd c.cmd then s.modAcc stn (cmdAcc c.cmd) (fun a => a.record status flags v) else s) stn (cmdAcc c.cmd)
    exact ⟨x, hx.trans (by rw [h1])⟩
  · exact ⟨accs, h1⟩

theorem takesNext_frame {before : Nat} : (s.takesNext stn rest before).frame = s.frame := by
  unfold State.takesNext
  dsimp only
  split <;> exact (engKept_inboxFreed ..).frame

theorem takesNext_matrix {before : Nat} (k : Nat) :
    (s.takesNext stn rest before).matrix k = (s.modMatrix stn (Matrix.without rest)).matrix k := by
  unfold State.takesNext
  dsimp only
  split <;> exact ((engKept_inboxFreed ..).matrix k).trans (matrix_engDone ..)

theorem takesNext_next {before : Nat} {d : CmdMsg} {ds : List CmdMsg} (h : rest = d :: ds) : matrixMsg stn d ∈ (s.takesNext stn rest before).net := by
  rw [h]
  exact List.mem_append_right _ (List.mem_singleton_self _)

/-! ## Completion, as a whole -/

theorem endMatrix_frame : (s.endMatrix stn pre status flags v).frame = s.frame := by
  cases h : (s.matrix stn).inbox with
  | nil => rw [endMatrix_nil h]
  | cons c rest => rw [endMatrix_cons h, (engKept_finishCmd ..).frame, takesNext_frame, noted_frame]

theorem endMatrix_ne {k : Nat} (hk : k ≠ stn) : (s.endMatrix stn pre status flags v).matrix k = s.matrix k := by
  cases h : (s.matrix stn).inbox with
  | nil => rw [endMatrix_nil h]
  | cons c rest => rw [endMatrix_cons h, (engKept_finishCmd ..).matrix, takesNext_matrix, matrix_modMatrix_ne _ _ hk, noted_ne hk]

theorem endMatrix_matrix (h : (s.matrix stn).inbox = c :: rest) :
    (s.endMatrix stn pre status flags v).matrix stn = ((s.noted stn c status flags v).matrix stn).without rest := by
  rw [endMatrix_cons h, (engKept_finishCmd ..).matrix, takesNext_matrix, matrix_modMatrix]

end

end Sys2Proof.Machine
end

section
/-! SUPPORT. How the command at a matrix engine's head completes, and how MMA, MMASD and MTRAV start (O47; R209 to R211, R214, R216). -/

namespace Sys2Proof.Machine

/-- A task's command at the head of a matrix inbox, answered in its FIFO and with an accumulator that is not lent. -/
structure State.Head (s : State) (stn : Nat) (c : CmdMsg) (rest : List CmdMsg) : Prop where
  inbox : (s.matrix stn).inbox = c :: rest
  src : ∃ l tid, c.src = .task l tid
  reply : c.cmd.reply = 0
  lent : (s.matrix stn).lent c = false

/-- The command's accumulator. -/
def State.accOf (s : State) (stn : Nat) (c : CmdMsg) : Accum := Map.get {} (s.matrix stn).accs (cmdAcc c.cmd)

/-- What an instruction's step that completes the head command leaves. -/
def State.Finishes (s : State) (stn : Nat) (c : CmdMsg) (rest : List CmdMsg) (i : Instr) (status flags : Nat) (v : Word) (P : State → Prop) : Prop :=
  ∃ t, exec i s = .next t ∧ (SameContexts s t ∧ SameStorage s t) ∧ (t.matrix stn).inbox = rest ∧ (t.matrix stn).started = false ∧
    (t.matrix stn).trav = none ∧
    .resultOrStatus ⟨c.tid, entryWord flags status c.cmd.tag, v, !quietCmd c.cmd, !quietCmd c.cmd, true⟩ ∈ t.net ∧
    (∀ d ds, rest = d :: ds → matrixMsg stn d ∈ t.net) ∧ P t

/-- R214: a quiet command's status stays in its accumulator, the most severe one. -/
def State.Sticks (s : State) (stn : Nat) (c : CmdMsg) (status : Nat) (t : State) : Prop :=
  quietCmd c.cmd = true → (t.accOf stn c).astat = max (s.accOf stn c).astat status

/-- The same engines' matrix parts, messages and surroundings. -/
structure State.Near (s t : State) : Prop where
  frame : t.frame = s.frame
  matrix : ∀ k, t.matrix k = s.matrix k
  net : t.net = s.net

section
variable {s t u : State} {stn n : Nat} {c : CmdMsg} {rest : List CmdMsg} {status flags : Nat} {v : Word} {i : Instr} {P : State → Prop}

theorem State.Near.refl (s : State) : s.Near s := ⟨rfl, fun _ => rfl, rfl⟩
theorem near_engDone (s : State) (n k : Nat) : s.Near (s.engDone n k) := ⟨rfl, matrix_engDone s n k, rfl⟩

theorem State.Head.of_matrix (h : s.Head stn c rest) (hi : (u.matrix stn).inbox = (s.matrix stn).inbox)
    (hd : (u.matrix stn).dmask = (s.matrix stn).dmask) : u.Head stn c rest :=
  ⟨hi.trans h.inbox, h.src, h.reply, by rw [Matrix.lent, hd]; exact h.lent⟩

theorem onHead_head {op : Nat} {f : CmdMsg → State} (h : s.Head stn c rest) (ho : c.cmd.opcode = op) : onHead op stn s f = f c := by
  rw [onHead, h.inbox]
  exact if_pos ho

theorem finishCmd_answers (hs : ∃ l tid, c.src = .task l tid) (hr : c.cmd.reply = 0) : s.finishCmd n c [] status flags v =
    s.send (.resultOrStatus ⟨c.tid, entryWord flags status c.cmd.tag, v, !quietCmd c.cmd, !quietCmd c.cmd, true⟩) := by
  obtain ⟨l, tid, hs⟩ := hs
  cases hq : quietCmd c.cmd with
  | false => exact State.finishCmd_toFifo hs hq hr
  | true => simp [State.finishCmd, hq, State.answerTask, hs, State.sendSeq]

/-- The accumulator after a completion that notes an outcome in it. -/
theorem noted_acc (h : (s.matrix stn).lent c = false) : (s.noted stn c status flags v).accOf stn c =
    if quietCmd c.cmd then (s.accOf stn c).record status flags v else s.accOf stn c := by
  rw [State.accOf, State.noted, h]
  cases quietCmd c.cmd with
  | false => rfl
  | true =>
    simp only [Bool.false_eq_true, if_false, if_true, matrix_modAcc, Map.get_set]
    rfl

/-- A step that completes the head command. -/
theorem finishes_of_end (he : exec i s = .next t) (hn : (u.endMatrix stn [] status flags v).Near t) (hf : u.frame = s.frame) (h : u.Head stn c rest)
    (hP : t.accOf stn c = (if quietCmd c.cmd then (u.accOf stn c).record status flags v else u.accOf stn c) →
      (t.matrix stn).latch = (u.matrix stn).latch → (∀ k, k ≠ stn → t.matrix k = u.matrix k) → P t) :
    s.Finishes stn c rest i status flags v P := by
  have hend := endMatrix_cons (pre := []) (status := status) (flags := flags) (v := v) h.inbox
  rw [finishCmd_answers h.src h.reply] at hend
  have hm : t.matrix stn = ((u.noted stn c status flags v).matrix stn).without rest := (hn.matrix stn).trans (endMatrix_matrix h.inbox)
  obtain ⟨accs, hacc⟩ := noted_matrix (s := u) (stn := stn) (c := c) (status := status) (flags := flags) (v := v)
  refine ⟨t, he, same_of_frame (hn.frame.trans (endMatrix_frame.trans hf)), ?_, ?_, ?_, ?_, fun d ds hd => ?_, hP ?_ ?_ fun k hk => ?_⟩
  · rw [hm]; rfl
  · rw [hm]; rfl
  · rw [hm]; rfl
  · rw [hn.net, hend]
    exact List.mem_append_right _ (List.mem_singleton_self _)
  · rw [hn.net, hend]
    exact List.mem_append_left _ (takesNext_next hd)
  · rw [← noted_acc h.lent, State.accOf, hm]
    rfl
  · rw [hm, hacc]
    rfl
  · exact (hn.matrix k).trans (endMatrix_ne hk)

/-- A command that fails leaves its status where it sticks. -/
theorem finishes_of_fail {cause detail : Nat} (he : exec i s = .next t) (hn : (u.failMatrix stn cause detail).Near t) (hf : u.frame = s.frame)
    (h : u.Head stn c rest) (hfl : (u.matrix stn).stepFlags = flags) (ha : u.accOf stn c = s.accOf stn c) :
    s.Finishes stn c rest i (if cause = causePOISON then 4 else 3) flags (faultValue cause detail)
      (s.Sticks stn c (if cause = causePOISON then 4 else 3)) := by
  refine finishes_of_end he (by rw [← hfl]; exact hn) hf h fun hacc _ _ hq => ?_
  rw [hacc, if_pos hq, ha]
  rfl

end

/-! ## The start of MMA, MMASD and MTRAV -/

section
variable {s : State} {stn : Nat} {c : CmdMsg} {rest : List CmdMsg} {i : Instr} {x : Msg} {trav seg : Bool} {go : State → State}

/-- The engine, the command's two tensors as their identifiers find them, and what the check of their formats says. -/
def State.eyeOf (stn : Nat) (c : CmdMsg) : Eye := ⟨stn, 0, c.cmd.ptag⟩
def State.pairOf (s : State) (c : CmdMsg) (seg : Bool) : Except Nat (Desc × Desc × Nat × Nat) :=
  comboCheck seg (bitsOf (cmdOp c.cmd 0) 9 0) (bitsOf (cmdOp c.cmd 0) 25 16) (s.tensor c.cmd.ptag (bitsOf (cmdOp c.cmd 0) 9 0))
    (s.tensor c.cmd.ptag (bitsOf (cmdOp c.cmd 0) 25 16))

/-- R211, R216: the limits that a command's operands keep. -/
def State.limitsOf (s : State) (stn : Nat) (c : CmdMsg) (trav : Bool) (kk fmt : Nat) : Bool :=
  mmaValuesOk trav (s.matrix stn).en (cmdOp c.cmd 0 % 2 ^ 32) (cmdOp c.cmd 2) && mmaOriginsOk trav kk fmt (cmdOp c.cmd 1) (cmdOp c.cmd 2)

theorem startMma_noPair {id : Nat} (h : s.pairOf c seg = .error id) : s.startMma stn c trav seg x go = s.failMatrix stn causeFMT id := by
  rw [State.pairOf] at h
  unfold State.startMma
  simp only [h]

theorem startMma_pair {a b : Desc} {kk g : Nat} (h : s.pairOf c seg = .ok (a, b, kk, g)) : s.startMma stn c trav seg x go =
    if !s.limitsOf stn c trav kk b.fmt then s.failMatrix stn causeILL 0
    else s.engineGot (State.eyeOf stn c) x (Got.both (s.engShape (State.eyeOf stn c) a) (s.engShape (State.eyeOf stn c) b) (fun x _ => x))
      (fun segs => go (s.startMatrix stn c [a, b] segs)) (fun cause d => s.failMatrix stn cause d) := by
  rw [State.pairOf] at h
  unfold State.startMma
  simp only [h]
  rfl

theorem startMatrix_head (h : s.Head stn c rest) (ds : List Desc) (segs : List Nat) :
    s.startMatrix stn c ds segs = s.modMatrix stn (fun m => { m with started := true, descs := ds, segs := segs }) := by
  rw [State.startMatrix, h.lent]
  rfl

/-- What follows the start of a command: it goes to work with a message, and its engine is as the start left it, but for a traverse. -/
structure GoesOn (go : State → State) (stn : Nat) (x : Msg) : Prop where
  ctxs : ∀ u : State, (go u).ctxs = u.ctxs
  store : ∀ u : State, SameStorage u (go u)
  net : ∀ u : State, (go u).net = u.net ++ [x]
  matrix : ∀ u : State, ∃ tr, (go u).matrix stn = { u.matrix stn with trav := tr }

/-- R210, R211, R213, R216: how a command with two tensors starts, or why it does not. -/
theorem starts_of_startMma (h : s.Head stn c rest) (hx : exec i s = .next (s.startMma stn c trav seg x go)) (hgo : GoesOn go stn x) {P : State → Prop}
    (hP : ∀ u : State, u.datum = s.datum → (u.matrix stn).timeout = (s.matrix stn).timeout → P ((go u).engDone stn 0)) :
    (∀ id, s.pairOf c seg = .error id → s.Finishes stn c rest i 3 (s.matrix stn).stepFlags (faultValue causeFMT id) (s.Sticks stn c 3)) ∧
    (∀ a b kk g, s.pairOf c seg = .ok (a, b, kk, g) →
      (s.limitsOf stn c trav kk b.fmt = false → s.Finishes stn c rest i 3 (s.matrix stn).stepFlags (faultValue causeILL 0) (s.Sticks stn c 3)) ∧
      (∀ cause d segs, s.limitsOf stn c trav kk b.fmt = true →
        (s.engShape (State.eyeOf stn c) a = .bad cause d ∨ (s.engShape (State.eyeOf stn c) a = .ok segs ∧ s.engShape (State.eyeOf stn c) b = .bad cause d)) →
        s.Finishes stn c rest i (if cause = causePOISON then 4 else 3) (s.matrix stn).stepFlags (faultValue cause d)
          (s.Sticks stn c (if cause = causePOISON then 4 else 3))) ∧
      (∀ segs others, s.limitsOf stn c trav kk b.fmt = true → s.engShape (State.eyeOf stn c) a = .ok segs → s.engShape (State.eyeOf stn c) b = .ok others →
        ∃ t, exec i s = .next t ∧ (SameContexts s t ∧ SameStorage s t) ∧ (t.matrix stn).started = true ∧ (t.matrix stn).descs = [a, b] ∧
          (t.matrix stn).segs = segs ∧ (t.matrix stn).accs = (s.matrix stn).accs ∧ t.net = s.net ++ [x] ∧ P t)) := by
  refine ⟨fun id hid => ?_, fun a b kk g hp => ?_⟩
  · rw [startMma_noPair hid] at hx
    exact finishes_of_fail (cause := causeFMT) hx (.refl _) rfl h rfl rfl
  · rw [startMma_pair hp] at hx
    refine ⟨fun hl => ?_, fun cause d segs hl hsh => ?_, fun segs others hl hsa hsb => ?_⟩
    · rw [hl] at hx
      exact finishes_of_fail (cause := causeILL) hx (.refl _) rfl h rfl rfl
    · have hbad : Got.both (s.engShape (State.eyeOf stn c) a) (s.engShape (State.eyeOf stn c) b) (fun x _ => x) = .bad cause d := by
        rcases hsh with ha | ⟨ha, hb⟩
        · rw [ha]; rfl
        · rw [ha, hb]; rfl
      rw [hl, hbad] at hx
      exact finishes_of_fail hx (near_engDone _ stn 0) rfl h rfl rfl
    · rw [hl, hsa, hsb] at hx
      replace hx : exec i s = .next ((go (s.startMatrix stn c [a, b] segs)).engDone stn 0) := hx
      rw [startMatrix_head h] at hx
      have hu := matrix_modMatrix s stn (fun m => { m with started := true, descs := [a, b], segs := segs })
      have hst : SameStorage s (s.modMatrix stn (fun m => { m with started := true, descs := [a, b], segs := segs })) := .of_eq rfl rfl rfl
      have hnet : (s.modMatrix stn (fun m => { m with started := true, descs := [a, b], segs := segs })).net = s.net := rfl
      have hctx : (s.modMatrix stn (fun m => { m with started := true, descs := [a, b], segs := segs })).ctxs = s.ctxs := rfl
      have hdat : (s.modMatrix stn (fun m => { m with started := true, descs := [a, b], segs := segs })).datum = s.datum := rfl
      generalize s.modMatrix stn (fun m => { m with started := true, descs := [a, b], segs := segs }) = u at hx hu hst hnet hctx hdat
      obtain ⟨tr, hm⟩ := hgo.matrix u
      rw [hu, ← matrix_engDone (go u) stn 0] at hm
      refine ⟨_, hx, ⟨fun m => ?_, hst.trans' ((hgo.store u).trans' (.of_eq rfl rfl rfl))⟩, ?_, ?_, ?_, ?_, (hgo.net u).trans (by rw [hnet]),
        hP u hdat (by rw [hu])⟩
      · have hc : ((go u).engDone stn 0).ctxs = s.ctxs := (hgo.ctxs u).trans hctx
        rw [State.ctx, hc]
        rfl
      · rw [hm]
      · rw [hm]
      · rw [hm]
      · rw [hm]

end

end Sys2Proof.Machine
end

section
/-! SUPPORT. One step of the matrix engine over an accumulator (O47; R54, R55, R211 to R213). -/

namespace Sys2Proof.Machine

/-! ## An accumulator's values as a list -/

/-- The entries of an accumulator whose elements from position `p` on are listed. -/
def accFrom (p : Nat) (xs : List Nat) : Map (BitVec 32) :=
  ((xs.zipIdx p).filter (fun e => e.1 % 2 ^ 32 != 0)).map (fun e => (e.2, BitVec.ofNat 32 e.1))

theorem get_accFrom (n : Nat) (xs : List Nat) : ∀ p, Map.get 0 (accFrom p xs) n = if p ≤ n then BitVec.ofNat 32 (xs.getD (n - p) 0) else 0 := by
  induction xs with
  | nil =>
    intro p
    show (0 : BitVec 32) = _
    split <;> simp
  | cons x xs ih =>
    intro p
    have hcons : accFrom p (x :: xs) = if x % 2 ^ 32 = 0 then accFrom (p + 1) xs else (p, BitVec.ofNat 32 x) :: accFrom (p + 1) xs := by
      rw [accFrom, List.zipIdx_cons, List.filter_cons]
      by_cases hx : x % 2 ^ 32 = 0
      · rw [if_neg (by simpa using hx), if_pos hx, accFrom]
      · rw [if_pos (by simpa using hx), if_neg hx, List.map_cons, accFrom]
    have htail : n ≠ p → (if p + 1 ≤ n then BitVec.ofNat 32 (xs.getD (n - (p + 1)) 0) else 0) =
        if p ≤ n then BitVec.ofNat 32 ((x :: xs).getD (n - p) 0) else 0 := by
      intro hne
      by_cases hle : p ≤ n
      · rw [if_pos (by omega), if_pos hle, show n - p = n - (p + 1) + 1 by omega, List.getD_cons_succ]
      · rw [if_neg (by omega), if_neg hle]
    rw [hcons]
    by_cases hn : n = p
    · subst hn
      rw [if_pos (le_refl n), Nat.sub_self, List.getD_cons_zero]
      by_cases hx : x % 2 ^ 32 = 0
      · rw [if_pos hx, ih, if_neg (by omega)]
        exact (BitVec.eq_of_toNat_eq (by rw [BitVec.toNat_ofNat, hx]; rfl)).symm
      · rw [if_neg hx, Map.get, if_pos rfl]
    · rw [← htail hn, ← ih (p + 1)]
      by_cases hx : x % 2 ^ 32 = 0
      · rw [if_pos hx]
      · rw [if_neg hx, Map.get, if_neg hn]
        by_cases hlt : n < p
        · rw [if_pos hlt, ih, if_neg (by omega)]
        · rw [if_neg hlt]

theorem get_accMap (xs : List Nat) (n : Nat) : Map.get 0 (accMap xs) n = BitVec.ofNat 32 (xs.getD n 0) := by
  rw [show accMap xs = accFrom 0 xs from rfl, get_accFrom, if_pos (Nat.zero_le n), Nat.sub_zero]

theorem getD_accList (m : Map (BitVec 32)) {n : Nat} (h : n < 4096) : (accList m).getD n 0 = (Map.get 0 m n).toNat := by
  rw [accList, List.getD_eq_getElem?_getD, List.getElem?_map, List.getElem?_range h]
  rfl

theorem length_accList (m : Map (BitVec 32)) : (accList m).length = 4096 := by rw [accList, List.length_map, List.length_range]

theorem get_accFill (v : Nat) {n : Nat} (h : n < 4096) : Map.get 0 (accFill v) n = BitVec.ofNat 32 v := by
  rw [accFill, get_accMap, List.getD_eq_getElem?_getD, List.getElem?_replicate, if_pos h]
  rfl

/-! ## A step -/

section
variable {seg : Bool} {a b : Desc} {g kk i j : Nat} {ta tb : List (List (Nat × Nat × Nat))} {act : Nat → Nat → StepAct} {vals : List Nat}

/-- The factors and band scales of a column of B, or of its row in MMASD. -/
def colOf (seg : Bool) (fmt g kk : Nat) (tb : List (List (Nat × Nat × Nat))) (j : Nat) : List FV × List FV :=
  (if seg then tileRow fmt tb j else tileCol fmt tb j,
    (List.range (kk / g)).map (fun n => if seg then tileBand tb j else tileBand tb (n * g)))

/-- What a step makes of an element. -/
def steppedElem (seg : Bool) (a b : Desc) (g kk : Nat) (ta tb : List (List (Nat × Nat × Nat))) (act : Nat → Nat → StepAct) (i j v : Nat) : Nat :=
  match act i j with
  | .keep => v
  | .negInf => negInf
  | .add => (stepElem (a.fmt == 1) g (tileRow a.fmt ta i) (colOf seg b.fmt g kk tb j).1 (tileBand ta i) (colOf seg b.fmt g kk tb j).2 v).1

/-- The columns that a step combines, as it lists them. -/
theorem cols_of_step (ha : seg = true → (ta.getD 0 []).length = kk) (hb : seg = false → tb.length = kk) :
    (fun j => if seg then (tileRow b.fmt tb j, List.replicate ((ta.getD 0 []).length / g) (tileBand tb j))
      else (tileCol b.fmt tb j, (List.range (tb.length / g)).map (fun k => tileBand tb (k * g)))) = colOf seg b.fmt g kk tb := by
  funext j
  cases seg with
  | false => simp [colOf, hb rfl]
  | true => simp only [if_true, colOf, ha rfl, List.map_const', List.length_range]

/-- The element that a step leaves at a position. -/
theorem getD_applyStep (ha : seg = true → (ta.getD 0 []).length = kk) (hb : seg = false → tb.length = kk) (hi : i < 64) (hj : j < 64)
    (hl : vals.length = 4096) :
    (applyStep seg a b g ta tb act vals).1.getD (64 * i + j) 0 = steppedElem seg a b g kk ta tb act i j (vals.getD (64 * i + j) 0) := by
  have hn : 64 * i + j < vals.length := by omega
  have hdiv : (64 * i + j) / 64 = i := by omega
  have hmod : (64 * i + j) % 64 = j := by omega
  unfold applyStep
  rw [cols_of_step ha hb]
  simp only [List.map_map, List.getD_eq_getElem?_getD (l := List.map _ _) (i := 64 * i + j), List.getElem?_map, List.getElem?_zipIdx,
    List.getElem?_eq_getElem hn, Option.map_some, Nat.zero_add, Option.getD_some, Function.comp, hdiv, hmod, getD_map_range _ _ hi, getD_map_range _ _ hj]
  rw [List.getD_eq_getElem?_getD, List.getElem?_eq_getElem hn, steppedElem]
  cases act i j <;> rfl

end

end Sys2Proof.Machine
end

section
/-! SUPPORT. MMA and MMASD at work (O47; R211, R213). -/

namespace Sys2Proof.Machine

/-! ## The size of a tile -/

theorem Got.all_ok {α β : Type} {f : α → Got β} : ∀ {xs : List α} {ys : List β}, Got.all f xs = .ok ys →
    ys.length = xs.length ∧ ∀ y ∈ ys, ∃ x ∈ xs, f x = .ok y := by
  intro xs
  induction xs with
  | nil =>
    intro ys h
    obtain rfl := Got.ok.inj h
    exact ⟨rfl, nofun⟩
  | cons x xs ih =>
    intro ys h
    rw [Got.all] at h
    cases hx : f x <;> cases hr : Got.all f xs <;> rw [hx, hr] at h <;> simp only [Got.both, reduceCtorEq] at h
    case ok.ok y zs =>
      obtain ⟨hlen, hmem⟩ := ih hr
      obtain rfl := Got.ok.inj h
      refine ⟨by rw [List.length_cons, List.length_cons, hlen], fun z hz => ?_⟩
      rcases List.mem_cons.1 hz with rfl | hz
      · exact ⟨x, List.mem_cons_self .., hx⟩
      · obtain ⟨w, hw, he⟩ := hmem z hz
        exact ⟨w, List.mem_cons_of_mem _ hw, he⟩

theorem Got.bind_ok {α β : Type} {x : Got α} {f : α → Got β} {b : β} (h : x.bind f = .ok b) : ∃ a, x = .ok a ∧ f a = .ok b := by
  cases x with
  | ok a => exact ⟨a, rfl, h⟩
  | need l => nomatch h
  | hold => nomatch h
  | bad c a => nomatch h

/-- A tile has the rows and columns that were asked for. -/
theorem readTile_size {s : State} {y : Eye} {d : Desc} {e1 e0 rows cols : Nat} {t : List (List (Nat × Nat × Nat))}
    (h : s.readTile y d e1 e0 rows cols = .ok t) : t.length = rows ∧ ∀ r ∈ t, r.length = cols := by
  obtain ⟨hlen, hmem⟩ := Got.all_ok h
  refine ⟨hlen.trans (List.length_range ..), fun r hr => ?_⟩
  obtain ⟨x, -, hx⟩ := hmem r hr
  obtain ⟨b, -, hb⟩ := Got.bind_ok hx
  exact (Got.all_ok hb).1.trans (List.length_range ..)

theorem length_row {t : List (List (Nat × Nat × Nat))} {rows cols : Nat} (h : t.length = rows ∧ ∀ r ∈ t, r.length = cols) (hr : 1 ≤ rows) :
    (t.getD 0 []).length = cols := by
  cases t with
  | nil => rw [← h.1] at hr; exact absurd hr (by simp)
  | cons r t => exact h.2 r (List.mem_cons_self ..)

theorem length_groupsOf {α : Type} (g : Nat) : ∀ (n : Nat) (xs : List α), (groupsOf g n xs).length = n := by
  intro n
  induction n with
  | zero => intro xs; rfl
  | succ n ih => intro xs; rw [groupsOf, List.length_cons, ih]

/-! ## A step, stored -/

/-- What a step makes of an element's bits. -/
def steppedBits (seg : Bool) (a b : Desc) (g kk : Nat) (ta tb : List (List (Nat × Nat × Nat))) (act : Nat → Nat → StepAct) (i j : Nat)
    (old : BitVec 32) : BitVec 32 :=
  match act i j with
  | .keep => old
  | .negInf => 0xFF800000
  | .add => BitVec.ofNat 32 (stepElem (a.fmt == 1) g (tileRow a.fmt ta i) (colOf seg b.fmt g kk tb j).1 (tileBand ta i)
      (colOf seg b.fmt g kk tb j).2 old.toNat).1

/-- An element of the command's accumulator. -/
def State.elemOf (s : State) (stn : Nat) (c : CmdMsg) (i j : Nat) : BitVec 32 := Map.get 0 (s.accOf stn c).vals (64 * i + j)

/-- Which elements a step of the command updates, and how. -/
def State.actOf (s : State) (stn : Nat) (c : CmdMsg) (seg : Bool) (a b : Desc) : Nat → Nat → StepAct :=
  if seg then sdAct (s.matrix stn).segs (cmdOp c.cmd 1 % 2 ^ 32) (cmdOp c.cmd 2 % 2 ^ 32)
  else mmaAct a b (s.matrix stn).segs (cmdOp c.cmd 1 % 2 ^ 32) (cmdOp c.cmd 2 % 2 ^ 32)

/-- What a step computes from two tiles. -/
def State.stepOf (s : State) (stn : Nat) (c : CmdMsg) (seg : Bool) (a b : Desc) (g : Nat) (ta tb : List (List (Nat × Nat × Nat))) : List Nat × Nat :=
  applyStep seg a b g ta tb (s.actOf stn c seg a b) (accList (s.accOf stn c).vals)

/-- A step of the command has been applied to its accumulator. -/
def State.Applied (s : State) (stn : Nat) (c : CmdMsg) (seg : Bool) (a b : Desc) (g kk : Nat) (ta tb : List (List (Nat × Nat × Nat))) (t : State) : Prop :=
  ∀ i j, i < 64 → j < 64 → t.elemOf stn c i j = steppedBits seg a b g kk ta tb (s.actOf stn c seg a b) i j (s.elemOf stn c i j)

/-- A step has been made: applied, and counted with its flags. -/
def State.Stepped (s : State) (stn : Nat) (c : CmdMsg) (seg : Bool) (a b : Desc) (g kk : Nat) (ta tb : List (List (Nat × Nat × Nat))) (t : State) : Prop :=
  (t.matrix stn).steps = (s.matrix stn).steps + 1 ∧
    (t.matrix stn).stepFlags = orF (s.matrix stn).stepFlags (s.stepOf stn c seg a b g ta tb).2 ∧ s.Applied stn c seg a b g kk ta tb t

section
variable {s t u : State} {stn g kk : Nat} {c : CmdMsg} {rest : List CmdMsg} {seg : Bool} {a b : Desc} {ta tb : List (List (Nat × Nat × Nat))}
  {i : Instr} {x : Msg} {r : List Nat × Nat}

theorem applied_of_vals (ha : seg = true → (ta.getD 0 []).length = kk) (hb : seg = false → tb.length = kk)
    (hv : (t.accOf stn c).vals = accMap (s.stepOf stn c seg a b g ta tb).1) : s.Applied stn c seg a b g kk ta tb t := by
  intro i j hi hj
  rw [State.elemOf, hv, get_accMap, State.stepOf, getD_applyStep ha hb hi hj (length_accList _), getD_accList _ (by omega), steppedElem, steppedBits]
  rw [← State.elemOf]
  cases s.actOf stn c seg a b i j with
  | keep => exact BitVec.eq_of_toNat_eq (by simp)
  | add => rfl
  | negInf => rfl

theorem storeStep_matrix (q : Nat) : (s.storeStep stn q r).matrix stn =
    { s.matrix stn with accs := Map.set {} (s.matrix stn).accs q { Map.get {} (s.matrix stn).accs q with vals := accMap r.1 },
                        steps := (s.matrix stn).steps + 1, stepFlags := orF (s.matrix stn).stepFlags r.2 } := by
  rw [State.storeStep, matrix_engDone, matrix_modMatrix, matrix_modAcc]

theorem storeStep_vals : ((s.storeStep stn (cmdAcc c.cmd) r).accOf stn c).vals = accMap r.1 := by
  rw [State.accOf, storeStep_matrix]
  simp only [Map.get_set, if_true]

/-- A stored step changes its engine alone. -/
theorem storeStep_frame (q : Nat) (r : List Nat × Nat) : (s.storeStep stn q r).frame = s.frame := rfl
theorem storeStep_net (q : Nat) (r : List Nat × Nat) : (s.storeStep stn q r).net = s.net := rfl

/-- A stored step has been made. -/
theorem stepped_storeStep (ha : seg = true → (ta.getD 0 []).length = kk) (hb : seg = false → tb.length = kk)
    (hm : t.matrix stn = (s.storeStep stn (cmdAcc c.cmd) (s.stepOf stn c seg a b g ta tb)).matrix stn) : s.Stepped stn c seg a b g kk ta tb t := by
  refine ⟨by rw [hm, storeStep_matrix], by rw [hm, storeStep_matrix], applied_of_vals ha hb ?_⟩
  rw [State.accOf, hm]
  exact storeStep_vals

/-! ## MMA and MMASD -/

/-- The tile of B that the command's next step takes. -/
def State.tileOfB (s : State) (stn : Nat) (c : CmdMsg) (seg : Bool) (b : Desc) (kk : Nat) : Got (List (List (Nat × Nat × Nat))) :=
  if seg then s.readTile (State.eyeOf stn c) b (cmdOp c.cmd 2 % 2 ^ 32) (cmdOp c.cmd 1 / 2 ^ 32 + (s.matrix stn).steps * kk) 64 kk
  else s.readTile (State.eyeOf stn c) b (cmdOp c.cmd 1 / 2 ^ 32 + (s.matrix stn).steps * kk) (cmdOp c.cmd 2 % 2 ^ 32) kk 64

theorem mmaStep_over (hd : (s.matrix stn).descs = [a, b]) (hc : combo a.fmt b.fmt = some (kk, g))
    (hn : (s.matrix stn).steps = bitsOf (cmdOp c.cmd 2) 47 32) :
    s.mmaStep stn c seg x = s.endMatrix stn [] 0 (s.matrix stn).stepFlags (w64 (s.matrix stn).steps) := by
  unfold State.mmaStep
  simp only [hd, hc]
  exact if_pos hn

theorem mmaStep_tiles (hd : (s.matrix stn).descs = [a, b]) (hc : combo a.fmt b.fmt = some (kk, g))
    (hn : (s.matrix stn).steps ≠ bitsOf (cmdOp c.cmd 2) 47 32)
    (hta : s.readTile (State.eyeOf stn c) a (cmdOp c.cmd 1 % 2 ^ 32) (cmdOp c.cmd 1 / 2 ^ 32 + (s.matrix stn).steps * kk) 64 kk = .ok ta)
    (htb : s.tileOfB stn c seg b kk = .ok tb) :
    s.mmaStep stn c seg x = ((s.storeStep stn (cmdAcc c.cmd) (s.stepOf stn c seg a b g ta tb)).send x).engDone stn 0 := by
  unfold State.mmaStep
  simp only [hd, hc]
  refine (if_neg hn).trans ?_
  rw [State.eyeOf] at hta
  rw [State.tileOfB, State.eyeOf] at htb
  rw [hta, htb]
  rfl

/-- MMA or MMASD at work: a step, or the end after the last. -/
theorem works_of_mmaStep (h : s.Head stn c rest) (hx : exec i s = .next (s.mmaStep stn c seg x)) (hd : (s.matrix stn).descs = [a, b])
    (hc : combo a.fmt b.fmt = some (kk, g)) :
    ((s.matrix stn).steps = bitsOf (cmdOp c.cmd 2) 47 32 → s.Finishes stn c rest i 0 (s.matrix stn).stepFlags
      (BitVec.ofNat 64 (bitsOf (cmdOp c.cmd 2) 47 32)) (fun t => ∀ i j, i < 64 → j < 64 → t.elemOf stn c i j = s.elemOf stn c i j)) ∧
    (∀ ta tb, (s.matrix stn).steps ≠ bitsOf (cmdOp c.cmd 2) 47 32 →
      s.readTile (State.eyeOf stn c) a (cmdOp c.cmd 1 % 2 ^ 32) (cmdOp c.cmd 1 / 2 ^ 32 + (s.matrix stn).steps * kk) 64 kk = .ok ta →
      s.tileOfB stn c seg b kk = .ok tb →
      ∃ t, exec i s = .next t ∧ (SameContexts s t ∧ SameStorage s t) ∧ s.Stepped stn c seg a b g kk ta tb t ∧ t.net = s.net ++ [x]) := by
  refine ⟨fun hn => ?_, fun ta tb hn hta htb => ?_⟩
  · rw [mmaStep_over hd hc hn, hn] at hx
    refine finishes_of_end hx (.refl _) rfl h fun hacc _ _ i j _ _ => ?_
    rw [State.elemOf, hacc]
    split <;> rfl
  · rw [mmaStep_tiles hd hc hn hta htb] at hx
    have hb : seg = false → tb.length = kk := fun hs => by
      rw [State.tileOfB, hs] at htb
      exact (readTile_size htb).1
    have ha : seg = true → (ta.getD 0 []).length = kk := fun _ => length_row (readTile_size hta) (by norm_num)
    have hf := storeStep_frame (s := s) (stn := stn) (cmdAcc c.cmd) (s.stepOf stn c seg a b g ta tb)
    have hnet := storeStep_net (s := s) (stn := stn) (cmdAcc c.cmd) (s.stepOf stn c seg a b g ta tb)
    have hst : ∀ t, t.matrix stn = _ → s.Stepped stn c seg a b g kk ta tb t := fun t => stepped_storeStep ha hb
    generalize s.storeStep stn (cmdAcc c.cmd) (s.stepOf stn c seg a b g ta tb) = u at hx hf hnet hst
    exact ⟨_, hx, same_of_frame hf, hst _ (matrix_engDone ..), congrArg (· ++ [x]) hnet⟩

end

end Sys2Proof.Machine
end

section
/-! SUPPORT. MTRAV: its tile, the latches, the timeout (O47; R215, R216). -/

namespace Sys2Proof.Machine

section
variable {s t u : State} {stn p g kk : Nat} {c : CmdMsg} {rest : List CmdMsg} {a b : Desc} {ta tb : List (List (Nat × Nat × Nat))} {x : Trav}
  {z : Tile} {zs : List Tile} {P : State → Prop}

/-! ## The last things that an engine's step does -/

theorem same_sends (u : State) (m : Msg) (stn : Nat) : u.Same ((u.send m).engDone stn 0) := ⟨rfl, .of_eq rfl rfl rfl⟩
theorem net_sends (u : State) (m : Msg) (stn : Nat) : ((u.send m).engDone stn 0).net = u.net ++ [m] := rfl
theorem matrix_sends (u : State) (m : Msg) (stn k : Nat) : ((u.send m).engDone stn 0).matrix k = u.matrix k := matrix_engDone ..

/-! ## Phases -/

theorem mem_insertTimer (d : Nat) (m : Msg) : ∀ ts, (d, m) ∈ insertTimer ts d m := by
  intro ts
  induction ts with
  | nil => exact List.mem_singleton_self _
  | cons e ts ih =>
    rw [insertTimer]
    split
    · exact List.mem_cons_of_mem _ ih
    · exact List.mem_cons_self ..

/-- A traverse that enters a phase at a datum. -/
def Trav.enters (phase due : Nat) (t : Trav) : Trav := { t with phase := phase, deadline := due }

theorem travPhase_matrix (s : State) (stn p : Nat) : (s.travPhase stn p).matrix stn =
    { s.matrix stn with trav := (s.matrix stn).trav.map (Trav.enters p (s.datum + (s.matrix stn).timeout)) } := by
  rw [State.travPhase]
  exact matrix_modMatrix s stn (fun m => { m with trav := m.trav.map (Trav.enters p (s.datum + (s.matrix stn).timeout)) })

theorem travPhase_ne (s : State) (p : Nat) {k stn : Nat} (h : k ≠ stn) : (s.travPhase stn p).matrix k = s.matrix k :=
  matrix_modMatrix_ne s (fun m => { m with trav := m.trav.map (Trav.enters p (s.datum + (s.matrix stn).timeout)) }) h

theorem travPhase_same (s : State) (stn p : Nat) : s.Same (s.travPhase stn p) := ⟨rfl, .of_eq rfl rfl rfl⟩
theorem travPhase_timers (s : State) (stn p : Nat) : (s.datum + (s.matrix stn).timeout + 1, .latchTimeout stn) ∈ (s.travPhase stn p).timers :=
  mem_insertTimer ..

theorem same_of_Same (h : s.Same t) : SameContexts s t ∧ SameStorage s t := ⟨h.ctx, h.2⟩
theorem Same_of_frame (h : t.frame = s.frame) : s.Same t := ⟨State.ctxs_of_frame h, (same_of_frame h).2⟩

/-! ## The start -/

/-- The phase with which an MTRAV starts. -/
def firstPhase (c : CmdMsg) : Nat := if bitAt (cmdOp c.cmd 2) 40 then travLoad else travTake

/-- How an MTRAV that has started goes on. -/
def State.travGo (stn : Nat) (c : CmdMsg) (u : State) : State :=
  ((u.modMatrix stn (fun m => { m with trav := some ⟨0, 0, 0, 0, 0⟩ })).travPhase stn (firstPhase c)).send (.mtravCommand stn)

theorem travGo_matrix (u : State) : (u.travGo stn c).matrix stn =
    { u.matrix stn with trav := some ⟨0, firstPhase c, u.datum + (u.matrix stn).timeout, 0, 0⟩ } := by
  refine (travPhase_matrix (u.modMatrix stn _) stn (firstPhase c)).trans ?_
  rw [matrix_modMatrix]
  rfl

theorem travGo_goes : GoesOn (State.travGo stn c) stn (.mtravCommand stn) :=
  ⟨fun _ => rfl, fun _ => .of_eq rfl rfl rfl, fun _ => rfl, fun u => ⟨_, travGo_matrix u⟩⟩

/-- A traverse under way has its deadline noted. -/
theorem travGo_timed (hd : u.datum = s.datum) (ht : (u.matrix stn).timeout = (s.matrix stn).timeout) :
    (((u.travGo stn c).engDone stn 0).matrix stn).trav = some ⟨0, firstPhase c, s.datum + (s.matrix stn).timeout, 0, 0⟩ ∧
      (s.datum + (s.matrix stn).timeout + 1, .latchTimeout stn) ∈ ((u.travGo stn c).engDone stn 0).timers := by
  refine ⟨by rw [matrix_engDone, travGo_matrix, hd, ht], ?_⟩
  have h := travPhase_timers (u.modMatrix stn (fun m => { m with trav := some ⟨0, 0, 0, 0, 0⟩ })) stn (firstPhase c)
  rw [matrix_modMatrix, show (u.modMatrix stn (fun m => { m with trav := some ⟨0, 0, 0, 0, 0⟩ })).datum = u.datum from rfl, hd, ht] at h
  exact h

theorem exec_mtrav (hmsg : s.hand.msg = .mtravCommand stn) (h : s.Head stn c rest) (ho : c.cmd.opcode = 1) : exec .mtravCommand s =
    .next (match (s.matrix stn).started, (s.matrix stn).trav with
      | true, some t =>
        if !s.travReady stn t then s.requeue (.mtravCommand stn)
        else if t.phase = travLoad then s.travOwn stn c
        else match (s.matrix stn).latch with
          | x :: _ => if t.phase = travTake then s.travApply stn c t x else s
          | [] => s
      | _, _ => s.startMma stn c true false (.mtravCommand stn) (State.travGo stn c)) := by
  rw [show exec .mtravCommand s = execMtravCommand s from rfl, execMtravCommand]
  simp only [hmsg, onHead_head h ho]
  rfl

theorem exec_mtrav_starts (hmsg : s.hand.msg = .mtravCommand stn) (h : s.Head stn c rest) (ho : c.cmd.opcode = 1) (hs : (s.matrix stn).started = false) :
    exec .mtravCommand s = .next (s.startMma stn c true false (.mtravCommand stn) (State.travGo stn c)) := by
  rw [exec_mtrav hmsg h ho, hs]

theorem exec_mtrav_waits (hmsg : s.hand.msg = .mtravCommand stn) (h : s.Head stn c rest) (ho : c.cmd.opcode = 1) (hs : (s.matrix stn).started = true)
    (hx : (s.matrix stn).trav = some x) (hr : s.travReady stn x = false) : exec .mtravCommand s = .next (s.requeue (.mtravCommand stn)) := by
  rw [exec_mtrav hmsg h ho, hs, hx]
  simp only [hr]
  rfl

/-! ## Its own tile -/

theorem exec_mtrav_loads (hmsg : s.hand.msg = .mtravCommand stn) (h : s.Head stn c rest) (ho : c.cmd.opcode = 1) (hs : (s.matrix stn).started = true)
    (hx : (s.matrix stn).trav = some x) (hp : x.phase = travLoad) (hl : (s.matrix stn).latch.length < 2) :
    exec .mtravCommand s = .next (s.travOwn stn c) := by
  have hr : s.travReady stn x = true := by
    rw [State.travReady, if_pos hp]
    exact decide_eq_true hl
  rw [exec_mtrav hmsg h ho, hs, hx]
  simp only [hr, hp]
  rfl

/-- The tile of B that an MTRAV loads. -/
def loadedTile (c : CmdMsg) (b : Desc) (tb : List (List (Nat × Nat × Nat))) : Tile :=
  ⟨bitsOf (cmdOp c.cmd 0) 25 16, b.fmt, cmdOp c.cmd 1 / 2 ^ 32, cmdOp c.cmd 2 % 2 ^ 32, tb.flatten⟩

/-- Room in the latch is filled with the tile. -/
theorem mtrav_loads (hmsg : s.hand.msg = .mtravCommand stn) (h : s.Head stn c rest) (ho : c.cmd.opcode = 1) (hs : (s.matrix stn).started = true)
    (hd : (s.matrix stn).descs = [a, b]) (hc : combo a.fmt b.fmt = some (kk, g)) (hx : (s.matrix stn).trav = some x) (hp : x.phase = travLoad)
    (hl : (s.matrix stn).latch.length < 2)
    (htb : s.readTile (State.eyeOf stn c) b (cmdOp c.cmd 1 / 2 ^ 32) (cmdOp c.cmd 2 % 2 ^ 32) kk 64 = .ok tb) :
    ∃ t, exec .mtravCommand s = .next t ∧ (SameContexts s t ∧ SameStorage s t) ∧ (t.matrix stn).latch = (s.matrix stn).latch ++ [loadedTile c b tb] ∧
      (t.matrix stn).trav = some (x.enters travTake (s.datum + (s.matrix stn).timeout)) ∧ t.net = s.net ++ [.mtravCommand stn] := by
  have hown : s.travOwn stn c = ((((s.engDone stn 0).modMatrix stn (fun m => { m with latch := m.latch ++ [loadedTile c b tb] })).travPhase stn
      travTake).send (.mtravCommand stn)).engDone stn 0 := by
    unfold State.travOwn
    rw [State.eyeOf] at htb
    simp only [hd, hc, htb]
    rfl
  have hu := matrix_modMatrix (s.engDone stn 0) stn (fun m => { m with latch := m.latch ++ [loadedTile c b tb] })
  have hsame : s.Same ((s.engDone stn 0).modMatrix stn (fun m => { m with latch := m.latch ++ [loadedTile c b tb] })) := ⟨rfl, .of_eq rfl rfl rfl⟩
  have hnet : ((s.engDone stn 0).modMatrix stn (fun m => { m with latch := m.latch ++ [loadedTile c b tb] })).net = s.net := rfl
  have hdat : ((s.engDone stn 0).modMatrix stn (fun m => { m with latch := m.latch ++ [loadedTile c b tb] })).datum = s.datum := rfl
  have he := (exec_mtrav_loads hmsg h ho hs hx hp hl).trans (congrArg _ hown)
  rw [matrix_engDone] at hu
  generalize (s.engDone stn 0).modMatrix stn (fun m => { m with latch := m.latch ++ [loadedTile c b tb] }) = u at hu hsame hnet hdat he
  have hm := travPhase_matrix u stn travTake
  rw [hu, hdat] at hm
  refine ⟨_, he, same_of_Same (hsame.trans ((travPhase_same ..).trans (same_sends ..))), ?_, ?_, (net_sends ..).trans (congrArg (· ++ _) hnet)⟩
  · rw [matrix_sends]
    exact congrArg Matrix.latch hm
  · rw [matrix_sends]
    refine (congrArg Matrix.trav hm).trans ?_
    simp only [hx]
    rfl

/-! ## The next step -/

/-- The state when a traverse's tile is gone. -/
def State.tileGone (s : State) (stn : Nat) : State :=
  s.modMatrix stn (fun m => { m with latch := m.latch.drop 1, trav := m.trav.map (fun t => { t with step := t.step + 1 }) })

theorem tileGone_matrix (hx : (s.matrix stn).trav = some x) : (s.tileGone stn).matrix stn =
    { s.matrix stn with latch := (s.matrix stn).latch.drop 1, trav := some { x with step := x.step + 1 } } := by
  rw [State.tileGone, matrix_modMatrix, hx]
  rfl

theorem travNext_over (hx : (s.matrix stn).trav = some x) (hn : bitsOf (cmdOp c.cmd 2) 39 32 ≤ x.step + 1) :
    s.travNext stn c = (s.tileGone stn).endMatrix stn [] 0 (s.matrix stn).stepFlags (w64 (s.matrix stn).steps) := by
  have hm := tileGone_matrix hx
  unfold State.travNext
  rw [← State.tileGone]
  simp only [hm]
  exact if_pos hn

theorem travNext_goes (hx : (s.matrix stn).trav = some x) (hn : x.step + 1 < bitsOf (cmdOp c.cmd 2) 39 32) :
    s.travNext stn c = ((s.tileGone stn).travPhase stn travTake).send (.mtravCommand stn) := by
  have hm := tileGone_matrix hx
  unfold State.travNext
  rw [← State.tileGone]
  simp only [hm]
  exact if_neg (Nat.not_le.2 hn)

end

end Sys2Proof.Machine
end

section
/-! SUPPORT. MTRAV takes tiles and moves them on; the timeout (O47; R211, R215, R216). -/

namespace Sys2Proof.Machine

section
variable {s t u : State} {stn p g kk : Nat} {c : CmdMsg} {rest : List CmdMsg} {a b : Desc} {ta tb : List (List (Nat × Nat × Nat))} {x : Trav}
  {z : Tile} {zs : List Tile} {P : State → Prop}

/-! ## A tile taken -/

theorem exec_mtrav_takes (hmsg : s.hand.msg = .mtravCommand stn) (h : s.Head stn c rest) (ho : c.cmd.opcode = 1) (hs : (s.matrix stn).started = true)
    (hx : (s.matrix stn).trav = some x) (hp : x.phase = travTake) (hl : (s.matrix stn).latch = z :: zs) :
    exec .mtravCommand s = .next (s.travApply stn c x z) := by
  have hne : ¬ travTake = travLoad := by decide
  have hr : s.travReady stn x = true := by
    rw [State.travReady, hp, if_neg hne, if_pos rfl, hl]
    rfl
  rw [exec_mtrav hmsg h ho, hs, hx]
  simp only [hr, hp, hl]
  rfl

theorem travApply_format (hd : (s.matrix stn).descs = [a, b]) (hf : z.fmt ≠ b.fmt) :
    s.travApply stn c x z = s.failMatrix stn causeFMT (bitsOf (cmdOp c.cmd 0) 25 16) := by
  unfold State.travApply
  simp only [hd]
  exact if_pos hf

/-- The state when a traverse's tile has been applied. -/
def State.tileTaken (s : State) (stn : Nat) (c : CmdMsg) (a b : Desc) (g kk : Nat) (ta : List (List (Nat × Nat × Nat))) (z : Tile) : State :=
  s.storeStep stn (cmdAcc c.cmd) (s.stepOf stn c false a b g ta (groupsOf 64 kk z.elems))

theorem travApply_tile (hd : (s.matrix stn).descs = [a, b]) (hc : combo a.fmt b.fmt = some (kk, g)) (hf : z.fmt = b.fmt)
    (hta : s.readTile (State.eyeOf stn c) a (cmdOp c.cmd 1 % 2 ^ 32) z.korg 64 kk = .ok ta) : s.travApply stn c x z =
      (if x.step + 1 < bitsOf (cmdOp c.cmd 2) 39 32 || !bitAt (cmdOp c.cmd 2) 41 then
        ((s.tileTaken stn c a b g kk ta z).travPhase stn travMove).send (.traverseTile stn)
      else (s.tileTaken stn c a b g kk ta z).travNext stn c).engDone stn 0 := by
  unfold State.travApply
  rw [State.eyeOf] at hta
  simp only [hd, hc, hta]
  exact if_neg (not_not.2 hf)

/-- What the tile leaves: its engine has made a step, all else is the same. -/
theorem tileTaken_keeps : (s.tileTaken stn c a b g kk ta z).frame = s.frame ∧ (s.tileTaken stn c a b g kk ta z).net = s.net ∧
    ∃ accs fl, (s.tileTaken stn c a b g kk ta z).matrix stn =
      { s.matrix stn with accs := accs, steps := (s.matrix stn).steps + 1, stepFlags := fl } :=
  ⟨storeStep_frame .., storeStep_net .., _, _, storeStep_matrix ..⟩

theorem tileTaken_stepped (hta : ta.length = 64 ∧ ∀ r ∈ ta, r.length = kk) (ht : (t.matrix stn).accs = ((s.tileTaken stn c a b g kk ta z).matrix stn).accs)
    (hs : (t.matrix stn).steps = ((s.tileTaken stn c a b g kk ta z).matrix stn).steps)
    (hf : (t.matrix stn).stepFlags = ((s.tileTaken stn c a b g kk ta z).matrix stn).stepFlags) :
    s.Stepped stn c false a b g kk ta (groupsOf 64 kk z.elems) t := by
  obtain ⟨h1, h2, h3⟩ := stepped_storeStep (s := s) (stn := stn) (c := c) (seg := false) (a := a) (b := b) (g := g) (ta := ta)
    (tb := groupsOf 64 kk z.elems) (fun _ => length_row hta (by norm_num)) (fun _ => length_groupsOf ..) rfl
  refine ⟨hs.trans h1, hf.trans h2, fun i j hi hj => ?_⟩
  rw [State.elemOf, State.accOf, ht]
  exact h3 i j hi hj

/-- A tile that is moved on afterwards. -/
theorem mtrav_takes (hmsg : s.hand.msg = .mtravCommand stn) (h : s.Head stn c rest) (ho : c.cmd.opcode = 1) (hs : (s.matrix stn).started = true)
    (hd : (s.matrix stn).descs = [a, b]) (hc : combo a.fmt b.fmt = some (kk, g)) (hx : (s.matrix stn).trav = some x) (hp : x.phase = travTake)
    (hl : (s.matrix stn).latch = z :: zs) (hf : z.fmt = b.fmt)
    (hta : s.readTile (State.eyeOf stn c) a (cmdOp c.cmd 1 % 2 ^ 32) z.korg 64 kk = .ok ta)
    (hmore : x.step + 1 < bitsOf (cmdOp c.cmd 2) 39 32 ∨ bitAt (cmdOp c.cmd 2) 41 = false) :
    ∃ t, exec .mtravCommand s = .next t ∧ (SameContexts s t ∧ SameStorage s t) ∧
      s.Stepped stn c false a b g kk ta (groupsOf 64 kk z.elems) t ∧ (t.matrix stn).trav = some (x.enters travMove (s.datum + (s.matrix stn).timeout)) ∧
      (t.matrix stn).latch = (s.matrix stn).latch ∧ t.net = s.net ++ [.traverseTile stn] := by
  have he := (exec_mtrav_takes hmsg h ho hs hx hp hl).trans (congrArg _ ((travApply_tile hd hc hf hta).trans (by
    rw [if_pos (by simpa using hmore)])))
  obtain ⟨hfr, hnet, accs, fl, hm⟩ := tileTaken_keeps (s := s) (stn := stn) (c := c) (a := a) (b := b) (g := g) (kk := kk) (ta := ta) (z := z)
  have hst := fun t => tileTaken_stepped (s := s) (t := t) (stn := stn) (c := c) (a := a) (b := b) (g := g) (z := z) (readTile_size hta)
  generalize s.tileTaken stn c a b g kk ta z = u at he hfr hnet hm hst
  have hdat : u.datum = s.datum := State.datum_of_frame hfr
  have hpm := travPhase_matrix u stn travMove
  rw [hdat] at hpm
  refine ⟨_, he, same_of_Same ((Same_of_frame hfr).trans ((travPhase_same ..).trans (same_sends ..))), hst _ ?_ ?_ ?_, ?_, ?_,
    (net_sends ..).trans (congrArg (· ++ _) hnet)⟩
  all_goals rw [matrix_sends, hpm]
  · simp only [hm, hx]
    rfl
  · simp only [hm]

/-- The last tile of a traverse that stops. -/
theorem mtrav_stops (hmsg : s.hand.msg = .mtravCommand stn) (h : s.Head stn c rest) (ho : c.cmd.opcode = 1) (hs : (s.matrix stn).started = true)
    (hd : (s.matrix stn).descs = [a, b]) (hc : combo a.fmt b.fmt = some (kk, g)) (hx : (s.matrix stn).trav = some x) (hp : x.phase = travTake)
    (hl : (s.matrix stn).latch = z :: zs) (hf : z.fmt = b.fmt)
    (hta : s.readTile (State.eyeOf stn c) a (cmdOp c.cmd 1 % 2 ^ 32) z.korg 64 kk = .ok ta)
    (hlast : bitsOf (cmdOp c.cmd 2) 39 32 ≤ x.step + 1) (hstop : bitAt (cmdOp c.cmd 2) 41 = true) :
    s.Finishes stn c rest .mtravCommand 0 (orF (s.matrix stn).stepFlags (s.stepOf stn c false a b g ta (groupsOf 64 kk z.elems)).2)
      (BitVec.ofNat 64 ((s.matrix stn).steps + 1)) (fun t => s.Applied stn c false a b g kk ta (groupsOf 64 kk z.elems) t ∧ (t.matrix stn).latch = zs) := by
  have he := (exec_mtrav_takes hmsg h ho hs hx hp hl).trans (congrArg _ ((travApply_tile hd hc hf hta).trans (by
    rw [if_neg (by simpa [hstop] using hlast)])))
  obtain ⟨hfr, -, accs, fl, hm⟩ := tileTaken_keeps (s := s) (stn := stn) (c := c) (a := a) (b := b) (g := g) (kk := kk) (ta := ta) (z := z)
  obtain ⟨hsteps, hflags, happ⟩ := tileTaken_stepped (t := s.tileTaken stn c a b g kk ta z) (s := s) (stn := stn) (c := c) (a := a) (b := b) (g := g)
    (z := z) (readTile_size hta) rfl rfl rfl
  generalize s.tileTaken stn c a b g kk ta z = u at he hfr hm hsteps hflags happ
  have hux : (u.matrix stn).trav = some x := by rw [hm]; exact hx
  rw [travNext_over hux hlast, hflags, hsteps] at he
  have hgone := tileGone_matrix hux
  refine finishes_of_end he (near_engDone _ stn 0) hfr (h.of_matrix (by rw [hgone, hm]) (by rw [hgone, hm])) fun hacc hlatch _ => ⟨fun i j hi hj => ?_, ?_⟩
  · rw [← happ i j hi hj, State.elemOf, State.elemOf, hacc, State.accOf, hgone]
    split <;> rfl
  · rw [hlatch, hgone, hm, hl]
    rfl

/-! ## A tile moved to the next station's latch -/

theorem exec_traverse (hmsg : s.hand.msg = .traverseTile stn) (h : s.Head stn c rest) (ho : c.cmd.opcode = 1) (hx : (s.matrix stn).trav = some x)
    (hp : x.phase = travMove) (hl : (s.matrix stn).latch = z :: zs) : exec .traverseTile s = .next (if (s.matrix (s.matrix stn).next).latch.length < 2 then
      (s.modMatrix (s.matrix stn).next (fun n => { n with latch := n.latch ++ [z] })).travNext stn c else s.requeue (.traverseTile stn)) := by
  have hr : s.travReady stn x = decide ((s.matrix (s.matrix stn).next).latch.length < 2) := by
    rw [State.travReady, hp, if_neg (by decide), if_neg (by decide)]
  rw [show exec .traverseTile s = execTraverseTile s from rfl, execTraverseTile]
  simp only [hmsg, onHead_head h ho, hx, hl, hp, hr]
  by_cases hroom : (s.matrix (s.matrix stn).next).latch.length < 2
  · rw [if_pos hroom, decide_eq_true hroom]
    rfl
  · rw [if_neg hroom, decide_eq_false hroom]
    rfl

/-- The state when a tile stands in the next station's latch too. -/
def State.tileMoved (s : State) (stn : Nat) (z : Tile) : State := s.modMatrix (s.matrix stn).next (fun n => { n with latch := n.latch ++ [z] })

theorem tileMoved_self (hn : (s.matrix stn).next ≠ stn) : (s.tileMoved stn z).matrix stn = s.matrix stn := matrix_modMatrix_ne s _ hn.symm
theorem tileMoved_next : ((s.tileMoved stn z).matrix (s.matrix stn).next).latch = (s.matrix (s.matrix stn).next).latch ++ [z] := by
  rw [State.tileMoved, matrix_modMatrix]
theorem tileMoved_frame : (s.tileMoved stn z).frame = s.frame := rfl
theorem tileMoved_net : (s.tileMoved stn z).net = s.net := rfl
theorem tileGone_ne {k : Nat} (h : k ≠ stn) : (s.tileGone stn).matrix k = s.matrix k := matrix_modMatrix_ne s _ h
theorem tileGone_frame : (s.tileGone stn).frame = s.frame := rfl

/-- A traverse with steps left takes the next. -/
theorem traverse_goes (hmsg : s.hand.msg = .traverseTile stn) (h : s.Head stn c rest) (ho : c.cmd.opcode = 1) (hx : (s.matrix stn).trav = some x)
    (hp : x.phase = travMove) (hl : (s.matrix stn).latch = z :: zs) (hn : (s.matrix stn).next ≠ stn)
    (hroom : (s.matrix (s.matrix stn).next).latch.length < 2) (hmore : x.step + 1 < bitsOf (cmdOp c.cmd 2) 39 32) :
    ∃ t, exec .traverseTile s = .next t ∧ (SameContexts s t ∧ SameStorage s t) ∧
      (t.matrix (s.matrix stn).next).latch = (s.matrix (s.matrix stn).next).latch ++ [z] ∧ (t.matrix stn).latch = zs ∧
      (t.matrix stn).trav = some { x with step := x.step + 1, phase := travTake, deadline := s.datum + (s.matrix stn).timeout } ∧
      t.net = s.net ++ [.mtravCommand stn] := by
  have he := exec_traverse hmsg h ho hx hp hl
  rw [if_pos hroom, ← State.tileMoved] at he
  have hself := tileMoved_self (z := z) hn
  have hnext := tileMoved_next (s := s) (stn := stn) (z := z)
  have hfr := tileMoved_frame (s := s) (stn := stn) (z := z)
  have hnet := tileMoved_net (s := s) (stn := stn) (z := z)
  generalize s.tileMoved stn z = u at he hself hnext hfr hnet
  have hux : (u.matrix stn).trav = some x := by rw [hself]; exact hx
  rw [travNext_goes hux hmore] at he
  have hgone := tileGone_matrix hux
  have hdat : (u.tileGone stn).datum = s.datum := State.datum_of_frame (tileGone_frame.trans hfr)
  have hpm := travPhase_matrix (u.tileGone stn) stn travTake
  rw [hdat, hgone] at hpm
  have hmat : ∀ k, (((u.tileGone stn).travPhase stn travTake).send (.mtravCommand stn)).matrix k = ((u.tileGone stn).travPhase stn travTake).matrix k :=
    fun _ => rfl
  refine ⟨_, he, same_of_Same ((Same_of_frame (tileGone_frame.trans hfr)).trans (travPhase_same (u.tileGone stn) stn travTake)), ?_, ?_, ?_, congrArg (· ++ _) hnet⟩
  · rw [hmat, travPhase_ne _ _ hn, tileGone_ne hn]
    exact hnext
  · rw [hmat, hpm, hself, hl]
    rfl
  · rw [hmat, hpm, hself]
    rfl

/-- One without steps left completes. -/
theorem traverse_ends (hmsg : s.hand.msg = .traverseTile stn) (h : s.Head stn c rest) (ho : c.cmd.opcode = 1) (hx : (s.matrix stn).trav = some x)
    (hp : x.phase = travMove) (hl : (s.matrix stn).latch = z :: zs) (hn : (s.matrix stn).next ≠ stn)
    (hroom : (s.matrix (s.matrix stn).next).latch.length < 2) (hlast : bitsOf (cmdOp c.cmd 2) 39 32 ≤ x.step + 1) :
    s.Finishes stn c rest .traverseTile 0 (s.matrix stn).stepFlags (BitVec.ofNat 64 (s.matrix stn).steps) (fun t =>
      (t.matrix (s.matrix stn).next).latch = (s.matrix (s.matrix stn).next).latch ++ [z] ∧ (t.matrix stn).latch = zs) := by
  have he := exec_traverse hmsg h ho hx hp hl
  rw [if_pos hroom, ← State.tileMoved] at he
  have hself := tileMoved_self (z := z) hn
  have hnext := tileMoved_next (s := s) (stn := stn) (z := z)
  have hfr := tileMoved_frame (s := s) (stn := stn) (z := z)
  generalize s.tileMoved stn z = u at he hself hnext hfr
  have hux : (u.matrix stn).trav = some x := by rw [hself]; exact hx
  rw [travNext_over hux hlast, hself] at he
  have hgone := tileGone_matrix hux
  refine finishes_of_end he (.refl _) (tileGone_frame.trans hfr) (h.of_matrix (by rw [hgone, hself]) (by rw [hgone, hself])) fun _ hlatch hother => ⟨?_, ?_⟩
  · rw [hother _ hn, tileGone_ne hn]
    exact hnext
  · rw [hlatch, hgone, hself, hl]
    rfl

/-! ## The timeout -/

/-- A traverse that has waited too long ends. -/
theorem latch_timesOut (hmsg : s.hand.msg = .latchTimeout stn) (h : s.Head stn c rest) (hx : (s.matrix stn).trav = some x)
    (hdue : x.deadline < s.datum) (hr : s.travReady stn x = false) :
    s.Finishes stn c rest .latchTimeout 5 (s.matrix stn).stepFlags (BitVec.ofNat 64 (s.matrix stn).steps) (s.Sticks stn c 5) := by
  have he : exec .latchTimeout s = .next (s.endMatrix stn [] 5 (s.matrix stn).stepFlags (w64 (s.matrix stn).steps)) := by
    rw [show exec .latchTimeout s = execLatchTimeout s from rfl, execLatchTimeout]
    simp only [hmsg, hx, hr]
    exact if_pos ⟨hdue, rfl⟩
  refine finishes_of_end he (.refl _) rfl h fun hacc _ _ hq => ?_
  rw [hacc, if_pos hq]
  rfl

end

end Sys2Proof.Machine
end

section
/-! SUPPORT. MZERO and MLD (O47; R214). -/

namespace Sys2Proof.Machine

section
variable {s t u : State} {stn : Nat} {c : CmdMsg} {rest : List CmdMsg} {d : Desc} {segs : List Nat} {code : Nat → Nat}

/-! ## MZERO -/

/-- The state when a command's accumulator has been given new contents. -/
def State.accPut (s : State) (stn : Nat) (c : CmdMsg) (a : Accum) : State := s.modAcc stn (cmdAcc c.cmd) (fun _ => a)

theorem accPut_acc (a : Accum) : (s.accPut stn c a).accOf stn c = a := by
  rw [State.accOf, State.accPut, matrix_modAcc]
  simp only [Map.get_set, if_true]
theorem accPut_frame (a : Accum) : (s.accPut stn c a).frame = s.frame := rfl
theorem accPut_head (h : s.Head stn c rest) (a : Accum) : (s.accPut stn c a).Head stn c rest :=
  h.of_matrix (by rw [State.accPut, matrix_modAcc]) (by rw [State.accPut, matrix_modAcc])

/-- A command that gives its accumulator new contents, whose flags are its own, leaves it with them, quiet or not. -/
theorem finishes_of_put {i : Instr} {flags : Nat} {v : Word} {vals : Map (BitVec 32)} {P : State → Prop}
    (he : exec i s = .next t) (hn : ((s.accPut stn c { vals := vals, aflg := flags }).endMatrix stn [] 0 flags v).Near t) (h : s.Head stn c rest)
    (hP : (t.accOf stn c).vals = vals → (t.accOf stn c).astat = 0 → (t.accOf stn c).aflg = flags → P t) :
    s.Finishes stn c rest i 0 flags v P := by
  refine finishes_of_end he hn (accPut_frame _) (accPut_head h _) fun hacc _ _ => ?_
  rw [accPut_acc] at hacc
  refine hP ?_ ?_ ?_
  all_goals rw [hacc]
  · split <;> rfl
  · split <;> rfl
  · split
    · exact Nat.or_self flags
    · rfl

/-- MZERO fills the accumulator. -/
theorem mzero_fills (hmsg : s.hand.msg = .mzeroCommand stn) (h : s.Head stn c rest) (ho : c.cmd.opcode = 2) :
    s.Finishes stn c rest .mzeroCommand 0 0 4096 (fun t => (∀ i j, i < 64 → j < 64 → t.elemOf stn c i j = BitVec.ofNat 32 (cmdOp c.cmd 1)) ∧
      (t.accOf stn c).astat = 0 ∧ (t.accOf stn c).aflg = 0) := by
  have he : exec .mzeroCommand s = .next ((s.accPut stn c { vals := accFill (cmdOp c.cmd 1), aflg := 0 }).endMatrix stn [] 0 0 4096) := by
    rw [show exec .mzeroCommand s = execMzeroCommand s from rfl, execMzeroCommand]
    simp only [hmsg, onHead_head h ho]
    rfl
  refine finishes_of_put he (.refl _) h fun hv ha hf => ⟨fun i j hi hj => ?_, ha, hf⟩
  rw [State.elemOf, hv, get_accFill _ (by omega)]

/-! ## MLD -/

/-- An element of a tensor as it goes into an accumulator: its bits, widened, and its flags. -/
def widened (d : Desc) (e : Nat × Nat) : Nat × Nat × Nat :=
  if d.fmt = 0 then (e.1, e.2, 0)
  else let r := cvtFF .f32 ((tfmtFloat d.fmt).getD .f32) .ne false 0 e.2; (e.1, r.1, r.2)

theorem widened_fst (e : Nat × Nat) : (widened d e).1 = e.1 := by
  rw [widened]
  split <;> rfl
theorem widened_bits (e : Nat × Nat) :
    (widened d e).2.1 = if d.fmt = 0 then e.2 else (cvtFF .f32 ((tfmtFloat d.fmt).getD .f32) .ne false 0 e.2).1 := by
  rw [widened]
  split <;> rfl

/-- The contents that listed elements make, and their flags. -/
def valsOfLoad (cv : List (Nat × Nat × Nat)) : Map (BitVec 32) := cv.foldl (fun m e => Map.set 0 m e.1 (BitVec.ofNat 32 e.2.1)) []
def flagsOfLoad (cv : List (Nat × Nat × Nat)) : Nat := Nat.land (cv.foldl (fun f e => orF f e.2.2) 0) flNV

/-- What MLD does with the elements that it has read. -/
def State.mldPut (s : State) (stn : Nat) (c : CmdMsg) (d : Desc) (es : List (Nat × Nat)) : State :=
  (s.accPut stn c { vals := valsOfLoad (es.map (widened d)), aflg := flagsOfLoad (es.map (widened d)) }).endMatrix stn [] 0
    (flagsOfLoad (es.map (widened d))) (w64 es.length)

theorem exec_mld (hmsg : s.hand.msg = .mldCommand stn) (h : s.Head stn c rest) (ho : c.cmd.opcode = 4) : exec .mldCommand s =
    .next (match s.accTensor c with
      | .error id => s.failMatrix stn causeFMT id
      | .ok d => s.engineGot (State.eyeOf stn c) (.mldCommand stn)
        ((s.engShape (State.eyeOf stn c) d).bind (fun segs => Got.all (fun e => (s.tensCode (State.eyeOf stn c) d e.2).bind (fun v => .ok (e.1, v)))
          (accElems d segs (cmdOp c.cmd 1 % 2 ^ 32) (cmdOp c.cmd 1 / 2 ^ 32))))
        (s.mldPut stn c d) (fun cause a => s.failMatrix stn cause a)) := by
  rw [show exec .mldCommand s = execMldCommand s from rfl, execMldCommand]
  simp only [hmsg, onHead_head h ho, h.lent]
  rfl

theorem mld_noTensor {id : Nat} (hmsg : s.hand.msg = .mldCommand stn) (h : s.Head stn c rest) (ho : c.cmd.opcode = 4)
    (ht : s.accTensor c = .error id) :
    s.Finishes stn c rest .mldCommand 3 (s.matrix stn).stepFlags (faultValue causeFMT id) (s.Sticks stn c 3) := by
  have he := exec_mld hmsg h ho
  rw [ht] at he
  exact finishes_of_fail (cause := causeFMT) he (.refl _) rfl h rfl rfl

theorem mld_badShape {cause a : Nat} (hmsg : s.hand.msg = .mldCommand stn) (h : s.Head stn c rest) (ho : c.cmd.opcode = 4)
    (ht : s.accTensor c = .ok d) (hsh : s.engShape (State.eyeOf stn c) d = .bad cause a) :
    s.Finishes stn c rest .mldCommand (if cause = causePOISON then 4 else 3) (s.matrix stn).stepFlags (faultValue cause a)
      (s.Sticks stn c (if cause = causePOISON then 4 else 3)) := by
  have he := exec_mld hmsg h ho
  rw [ht] at he
  simp only [hsh] at he
  exact finishes_of_fail he (near_engDone _ stn 0) rfl h rfl rfl

theorem get_foldl_set {F : Nat → BitVec 32} (n : Nat) : ∀ (cv : List (Nat × Nat × Nat)) (m : Map (BitVec 32)), (∀ e ∈ cv, BitVec.ofNat 32 e.2.1 = F e.1) →
    Map.get 0 (cv.foldl (fun m e => Map.set 0 m e.1 (BitVec.ofNat 32 e.2.1)) m) n = if n ∈ cv.map (fun e => e.1) then F n else Map.get 0 m n := by
  intro cv
  induction cv with
  | nil => intro m _; rfl
  | cons e cv ih =>
    intro m h
    rw [List.foldl_cons, ih _ fun x hx => h x (List.mem_cons_of_mem _ hx), Map.get_set, h e (List.mem_cons_self ..)]
    by_cases hin : n ∈ cv.map (fun e => e.1)
    · rw [if_pos hin, if_pos (by rw [List.map_cons]; exact List.mem_cons_of_mem _ hin)]
    · rw [if_neg hin]
      by_cases he : n = e.1
      · rw [if_pos he, if_pos (by rw [List.map_cons, he]; exact List.mem_cons_self ..), he]
      · rw [if_neg he, if_neg (by rw [List.map_cons, List.mem_cons, not_or]; exact ⟨he, hin⟩)]

theorem Got.all_map {α β : Type} {f : α → Got β} {g : α → β} : ∀ {xs : List α}, (∀ x ∈ xs, f x = .ok (g x)) → Got.all f xs = .ok (xs.map g) := by
  intro xs
  induction xs with
  | nil => intro _; rfl
  | cons x xs ih =>
    intro h
    rw [Got.all, h x (List.mem_cons_self ..), ih fun y hy => h y (List.mem_cons_of_mem _ hy)]
    rfl

/-- MLD makes the listed elements the accumulator's, widened; the others zero. -/
theorem mld_loads (hmsg : s.hand.msg = .mldCommand stn) (h : s.Head stn c rest) (ho : c.cmd.opcode = 4) (ht : s.accTensor c = .ok d)
    (hsh : s.engShape (State.eyeOf stn c) d = .ok segs)
    (hcode : ∀ x ∈ accElems d segs (cmdOp c.cmd 1 % 2 ^ 32) (cmdOp c.cmd 1 / 2 ^ 32), s.tensCode (State.eyeOf stn c) d x.2 = .ok (code x.1)) :
    ∃ fl, s.Finishes stn c rest .mldCommand 0 fl
      (BitVec.ofNat 64 (accElems d segs (cmdOp c.cmd 1 % 2 ^ 32) (cmdOp c.cmd 1 / 2 ^ 32)).length) (fun t =>
        (t.accOf stn c).astat = 0 ∧ (t.accOf stn c).aflg = fl ∧ ∀ n, n < 4096 → (Map.get 0 (t.accOf stn c).vals n : BitVec 32) =
          if n ∈ (accElems d segs (cmdOp c.cmd 1 % 2 ^ 32) (cmdOp c.cmd 1 / 2 ^ 32)).map (fun x => x.1) then
            BitVec.ofNat 32 (if d.fmt = 0 then code n else (cvtFF .f32 ((tfmtFloat d.fmt).getD .f32) .ne false 0 (code n)).1) else 0) := by
  have he := exec_mld hmsg h ho
  rw [ht] at he
  simp only [hsh] at he
  have hall : Got.all (fun e => (s.tensCode (State.eyeOf stn c) d e.2).bind (fun v => .ok (e.1, v)))
      (accElems d segs (cmdOp c.cmd 1 % 2 ^ 32) (cmdOp c.cmd 1 / 2 ^ 32)) =
      .ok ((accElems d segs (cmdOp c.cmd 1 % 2 ^ 32) (cmdOp c.cmd 1 / 2 ^ 32)).map (fun x => (x.1, code x.1))) :=
    Got.all_map fun x hx => by rw [hcode x hx]; rfl
  rw [Got.bind, hall] at he
  generalize accElems d segs (cmdOp c.cmd 1 % 2 ^ 32) (cmdOp c.cmd 1 / 2 ^ 32) = es at he ⊢
  let cv := (es.map (fun x => (x.1, code x.1))).map (widened d)
  have hcv : exec .mldCommand s = .next (((s.accPut stn c { vals := valsOfLoad cv, aflg := flagsOfLoad cv }).endMatrix stn [] 0 (flagsOfLoad cv)
      (w64 (es.map (fun x => (x.1, code x.1))).length)).engDone stn 0) := he
  rw [List.length_map] at hcv
  refine ⟨flagsOfLoad cv, finishes_of_put hcv (near_engDone _ stn 0) h fun hv ha hf => ⟨ha, hf, fun n _ => ?_⟩⟩
  have hfst : cv.map (fun e => e.1) = es.map (fun x => x.1) := by
    rw [List.map_map, List.map_map]
    exact List.map_congr_left fun x _ => widened_fst _
  rw [hv, valsOfLoad, get_foldl_set (F := fun n => BitVec.ofNat 32 (if d.fmt = 0 then code n else
    (cvtFF .f32 ((tfmtFloat d.fmt).getD .f32) .ne false 0 (code n)).1)) n cv [], hfst]
  · rfl
  · intro e hin
    obtain ⟨y, hy, rfl⟩ := List.mem_map.1 hin
    obtain ⟨x, -, rfl⟩ := List.mem_map.1 hy
    rw [widened_bits, widened_fst]

end

end Sys2Proof.Machine
end

section
/-! SUPPORT. MST (O47; R152, R214). -/

namespace Sys2Proof.Machine

section
variable {s t u : State} {stn : Nat} {c : CmdMsg} {rest : List CmdMsg} {d : Desc} {segs : List Nat} {y : Eye}

/-! ## The writes of an engine -/

/-- A write among an engine's: its number, that it is in flight, and what it writes. -/
def State.writing (s : State) (ids : List Nat) (fa va : Nat) (bs : List Byte) : Prop :=
  ∃ w, .write w ∈ s.net ∧ w.fa = fa ∧ w.va = va ∧ w.data = bs ∧ w.id ∈ ids

/-- An engine's writes from a list of numbers on. -/
def State.engWritesFrom (y : Eye) (r : List Nat × State) (ws : List (Nat × Nat × List Byte)) : List Nat × State :=
  ws.foldl (fun r w => let q := r.2.engWrite y w.1 w.2.1 w.2.2 []; (r.1 ++ [q.1], q.2)) r

theorem writing_mono {ids ids' : List Nat} {fa va : Nat} {bs : List Byte} (hi : ids ⊆ ids') (hn : s.net ⊆ t.net) (h : s.writing ids fa va bs) :
    t.writing ids' fa va bs := by
  obtain ⟨w, hw, hfa, hva, hd, hid⟩ := h
  exact ⟨w, hn hw, hfa, hva, hd, hi hid⟩

/-- Every listed write is in flight afterwards, under a number of its own. -/
theorem engWritesFrom_sends (y : Eye) : ∀ (ws : List (Nat × Nat × List Byte)) (r : List Nat × State),
    r.2.Same (State.engWritesFrom y r ws).2 ∧ (State.engWritesFrom y r ws).1.length = r.1.length + ws.length ∧ r.1 ⊆ (State.engWritesFrom y r ws).1 ∧
      r.2.net ⊆ (State.engWritesFrom y r ws).2.net ∧
      ∀ w ∈ ws, (State.engWritesFrom y r ws).2.writing (State.engWritesFrom y r ws).1 w.1 w.2.1 w.2.2 := by
  intro ws
  induction ws with
  | nil => exact fun r => ⟨⟨rfl, .of_eq rfl rfl rfl⟩, rfl, List.Subset.refl _, List.Subset.refl _, nofun⟩
  | cons w ws ih =>
    intro r
    let q := r.2.engWrite y w.1 w.2.1 w.2.2 []
    obtain ⟨hsame, hlen, hids, hnet, hall⟩ := ih (r.1 ++ [q.1], q.2)
    have hnow : q.2.writing (r.1 ++ [q.1]) w.1 w.2.1 w.2.2 :=
      ⟨_, List.mem_append_right _ (List.mem_singleton_self _), rfl, rfl, rfl, List.mem_append_right _ (List.mem_singleton_self _)⟩
    refine ⟨State.Same.trans (t := q.2) ⟨rfl, .of_eq rfl rfl rfl⟩ hsame, ?_, fun x hx => hids (List.mem_append_left _ hx),
      fun x hx => hnet (List.mem_append_left _ hx), fun x hx => ?_⟩
    · refine hlen.trans ?_
      simp only [List.length_append, List.length_cons, List.length_nil]
      omega
    · rcases List.mem_cons.1 hx with rfl | hx
      · exact writing_mono hids hnet hnow
      · exact hall x hx

/-! ## The start -/

/-- An element's bits as MST writes them, with its flags. -/
def storedBits (d : Desc) (v : Nat) : Nat × Nat :=
  if d.fmt = 0 then (v, 0) else cvtFF ((tfmtFloat d.fmt).getD .f32) .f32 .ne false 0 v

/-- An element's bits alone. -/
def storedCode (d : Desc) (v : Nat) : Nat := if d.fmt = 0 then v else (cvtFF ((tfmtFloat d.fmt).getD .f32) .f32 .ne false 0 v).1

theorem storedBits_fst (v : Nat) : (storedBits d v).1 = storedCode d v := by
  rw [storedBits, storedCode]
  split <;> rfl

/-- The writes of MST: address as formed and as a fabric address, bytes, flags. -/
def storedOut (d : Desc) (vals : Map (BitVec 32)) (ps : List (Nat × Nat × Nat)) : List (Nat × Nat × List Byte × Nat) :=
  ps.map (fun w => (w.2.1, w.2.2, bytesOf (((tfmtFloat d.fmt).getD .f32).width / 8) (storedBits d (Map.get 0 vals w.1).toNat).1,
    (storedBits d (Map.get 0 vals w.1).toNat).2))

/-- The state when MST has sent its writes and waits for them. -/
def mstWaits (stn : Nat) (d : Desc) (segs : List Nat) (ws : List Nat × State) (flags : Nat) : State :=
  (ws.2.modMatrix stn (fun m => { m with started := true, descs := [d], segs := segs, waits := ws.1, stepFlags := flags, fail := none })).send
    (.mstCommand stn)

theorem exec_mst_starts {ps : List (Nat × Nat × Nat)} (hmsg : s.hand.msg = .mstCommand stn) (h : s.Head stn c rest) (ho : c.cmd.opcode = 3)
    (hs : (s.matrix stn).started = false) (ht : s.accTensor c = .ok d) (hsh : s.engShape (State.eyeOf stn c) d = .ok segs)
    (hps : s.placeAll (State.eyeOf stn c) d.lin
      ((accElems d segs (cmdOp c.cmd 1 % 2 ^ 32) (cmdOp c.cmd 1 / 2 ^ 32)).map (fun x => (x.1, d.elemAddr x.2))) = .ok (ps, none)) :
    ∃ fl, exec .mstCommand s = .next ((mstWaits stn d segs (State.engWritesFrom (State.eyeOf stn c) ([], s)
      ((storedOut d (s.accOf stn c).vals ps).map (fun w => (w.1, w.2.1, w.2.2.1)))) fl).engDone stn 0) := by
  refine ⟨(storedOut d (s.accOf stn c).vals ps).foldl (fun fl w => orF fl w.2.2.2) 0, ?_⟩
  rw [show exec .mstCommand s = execMstCommand s from rfl, execMstCommand]
  simp only [hmsg, onHead_head h ho, hs, ht, h.lent, Bool.false_eq_true, if_false]
  rw [State.eyeOf] at hsh hps
  rw [hsh]
  simp only [Got.bind]
  rw [hps]
  rfl

/-- MST sends a write for each element and waits for them all. -/
theorem mst_starts {ps : List (Nat × Nat × Nat)} (hmsg : s.hand.msg = .mstCommand stn) (h : s.Head stn c rest) (ho : c.cmd.opcode = 3)
    (hs : (s.matrix stn).started = false) (ht : s.accTensor c = .ok d) (hsh : s.engShape (State.eyeOf stn c) d = .ok segs)
    (hps : s.placeAll (State.eyeOf stn c) d.lin
      ((accElems d segs (cmdOp c.cmd 1 % 2 ^ 32) (cmdOp c.cmd 1 / 2 ^ 32)).map (fun x => (x.1, d.elemAddr x.2))) = .ok (ps, none)) :
    ∃ t, exec .mstCommand s = .next t ∧ (SameContexts s t ∧ SameStorage s t) ∧ (t.matrix stn).started = true ∧
      (t.matrix stn).waits.length = ps.length ∧ ∀ p ∈ ps, t.writing (t.matrix stn).waits p.2.1 p.2.2
        (bytesOf (((tfmtFloat d.fmt).getD .f32).width / 8) (storedCode d (Map.get 0 (s.accOf stn c).vals p.1).toNat)) := by
  obtain ⟨fl, he⟩ := exec_mst_starts hmsg h ho hs ht hsh hps
  obtain ⟨hsame, hlen, -, -, hall⟩ := engWritesFrom_sends (State.eyeOf stn c)
    ((storedOut d (s.accOf stn c).vals ps).map (fun w => (w.1, w.2.1, w.2.2.1))) ([], s)
  have hmem : ∀ p ∈ ps, (p.2.1, p.2.2, bytesOf (((tfmtFloat d.fmt).getD .f32).width / 8)
      (storedBits d (Map.get 0 (s.accOf stn c).vals p.1).toNat).1) ∈ (storedOut d (s.accOf stn c).vals ps).map (fun w => (w.1, w.2.1, w.2.2.1)) :=
    fun p hp => by
      rw [storedOut, List.map_map]
      exact List.mem_map.2 ⟨p, hp, rfl⟩
  rw [List.length_map, storedOut, List.length_map, ← storedOut] at hlen
  generalize State.engWritesFrom (State.eyeOf stn c) ([], s) ((storedOut d (s.accOf stn c).vals ps).map (fun w => (w.1, w.2.1, w.2.2.1))) = ws at *
  have hm : ((mstWaits stn d segs ws fl).engDone stn 0).matrix stn =
      { ws.2.matrix stn with started := true, descs := [d], segs := segs, waits := ws.1, stepFlags := fl, fail := none } :=
    (matrix_engDone ..).trans (matrix_modMatrix ws.2 stn (fun m =>
      { m with started := true, descs := [d], segs := segs, waits := ws.1, stepFlags := fl, fail := none }))
  refine ⟨_, he, same_of_Same (hsame.trans ⟨rfl, .of_eq rfl rfl rfl⟩), by rw [hm], ?_, fun p hp => ?_⟩
  · rw [hm]
    exact hlen.trans (Nat.zero_add _)
  · rw [hm, ← storedBits_fst]
    exact writing_mono (List.Subset.refl _) (fun x hx => List.mem_append_left _ hx) (hall _ (hmem p hp))

/-! ## The wait and the end -/

/-- While a write is out, MST waits. -/
theorem mst_waits (hmsg : s.hand.msg = .mstCommand stn) (h : s.Head stn c rest) (ho : c.cmd.opcode = 3) (hs : (s.matrix stn).started = true)
    (hw : ∃ i ∈ (s.matrix stn).waits, i ∈ (s.stn stn).eng.writesOut) : exec .mstCommand s = .next (s.requeue (.mstCommand stn)) := by
  have hany : (s.matrix stn).waits.any (fun i => (s.stn stn).eng.writesOut.contains i) = true := by simpa using hw
  rw [show exec .mstCommand s = execMstCommand s from rfl, execMstCommand]
  simp only [hmsg, onHead_head h ho, hs, hany, if_true]

/-- The accumulator after MST has answered with its sticky state. -/
def Accum.unstuck (a : Accum) : Accum := { a with astat := 0, aflg := 0, value := 0 }

/-- An end of MST that keeps no bitmap. -/
theorem endMst_unmapped {o : Option Desc} {own flags n : Nat} {fault : Option Word} {chunks : List Nat} (hmap : cmdOp c.cmd 3 = 0) :
    s.endMst stn c o own flags fault n chunks = (s.modAcc stn (cmdAcc c.cmd) Accum.unstuck).endMatrix stn [] (max (s.accOf stn c).astat own)
      (orF (s.accOf stn c).aflg flags)
      (if (s.accOf stn c).astat = 0 ∨ (s.accOf stn c).value = 0 then fault.getD (w64 n) else (s.accOf stn c).value) := by
  have hnone : ∀ (u : State) (masks : List (Nat × Nat)), u.bitmapMsgs stn false c.cmd.ptag 0 masks = ([], u) := fun _ _ => if_pos rfl
  unfold State.endMst
  simp only [hmap, hnone]
  rfl

/-- When every write has been performed, MST answers with the sticky state, which it clears. -/
theorem mst_ends (hmsg : s.hand.msg = .mstCommand stn) (h : s.Head stn c rest) (ho : c.cmd.opcode = 3) (hs : (s.matrix stn).started = true)
    (hw : ∀ i ∈ (s.matrix stn).waits, i ∉ (s.stn stn).eng.writesOut) (hb : (s.stn stn).eng.wroteBad = []) (hf : (s.matrix stn).fail = none)
    (hmap : cmdOp c.cmd 3 = 0) :
    s.Finishes stn c rest .mstCommand (s.accOf stn c).astat (orF (s.accOf stn c).aflg (s.matrix stn).stepFlags)
      (if (s.accOf stn c).astat = 0 ∨ (s.accOf stn c).value = 0 then BitVec.ofNat 64 (s.matrix stn).waits.length else (s.accOf stn c).value)
      (fun t => (t.accOf stn c).astat = 0 ∧ (t.accOf stn c).aflg = 0 ∧ (t.accOf stn c).value = 0) := by
  have hany : (s.matrix stn).waits.any (fun i => (s.stn stn).eng.writesOut.contains i) = false := by simpa using hw
  let x := s.modEng stn (fun e => { e with wroteBad := e.wroteBad.filter (fun x => !(s.matrix stn).waits.contains x.1) })
  have hx : x.matrix stn = s.matrix stn := by
    rw [State.matrix, State.stn_modEng_self]
    rfl
  let u := x.modAcc stn (cmdAcc c.cmd) Accum.unstuck
  have hu : u.matrix stn = { s.matrix stn with accs := Map.set {} (s.matrix stn).accs (cmdAcc c.cmd) (s.accOf stn c).unstuck } := by
    rw [matrix_modAcc, hx]
    rfl
  have he : exec .mstCommand s = .next (u.endMatrix stn [] (s.accOf stn c).astat (orF (s.accOf stn c).aflg (s.matrix stn).stepFlags)
      (if (s.accOf stn c).astat = 0 ∨ (s.accOf stn c).value = 0 then BitVec.ofNat 64 (s.matrix stn).waits.length else (s.accOf stn c).value)) := by
    rw [show exec .mstCommand s = execMstCommand s from rfl, execMstCommand]
    simp only [hmsg, onHead_head h ho, hs, hany, hb, hf, if_true, Bool.false_eq_true, if_false, List.filter_nil, List.isEmpty_nil, Option.map_none,
      List.head?_nil, Option.or_none, List.length_nil, Nat.sub_zero]
    rw [endMst_unmapped hmap, Nat.max_zero, State.accOf, hx]
    rfl
  refine finishes_of_end he (.refl _) rfl (h.of_matrix (by rw [hu]) (by rw [hu])) fun hacc _ _ => ?_
  have hq : quietCmd c.cmd = false := by rw [quietCmd, ho]; simp
  have hua : u.accOf stn c = (s.accOf stn c).unstuck := by
    rw [State.accOf, hu]
    simp only [Map.get_set, if_true]
  rw [hacc, hq, if_neg Bool.false_ne_true, hua]
  exact ⟨rfl, rfl, rfl⟩

end

end Sys2Proof.Machine
end

section
/-! SUPPORT. TRVCFG (O47; R71, R215). -/

namespace Sys2Proof.Machine

section
variable {s t u : State} {stn n : Nat} {g : Option Guard} {wc : Nat} {rs : List Nat} {m : Exec Unit} {o : EngOps}

/-! ## Steps under a guard -/

theorem Exec.guarded_run {r : Bool} (h : bindRuns (bindOf s.cur g) = some r) : Exec.guarded g s = .ok r s := by
  rw [Exec.guarded, Exec.bind_ok s (Exec.ctx_run s), h]
  rfl

theorem Exec.underGuard_discards (h : bindRuns (bindOf s.cur g) = some false) : Exec.underGuard g wc rs m s = .ok () s := by
  rw [Exec.underGuard, Exec.bind_ok s (Exec.guarded_run h)]
  rfl

theorem Exec.underGuard_runs (h : bindRuns (bindOf s.cur g) = some true) (hr : s.ready rs) (hwc : s.waitCount s.hand.at_ wc = 0) :
    Exec.underGuard g wc rs m s = m s := by
  rw [Exec.underGuard, Exec.bind_ok s (Exec.guarded_run h)]
  refine (Exec.bind_ok s (Exec.need_ready s hr)).trans ?_
  exact Exec.bind_ok s (Exec.waitWC_zero hwc)

/-! ## The traverses that end with it -/

/-- What the end of a command leaves of an engine, its own or another's: the latch; a traverse only where it was. -/
structure Matrix.Spared (m m' : Matrix) : Prop where
  latch : m'.latch = m.latch
  trav : m.trav = none → m'.trav = none

theorem Matrix.Spared.trans {m m' m'' : Matrix} (h : m.Spared m') (h' : m'.Spared m'') : m.Spared m'' :=
  ⟨h'.latch.trans h.latch, fun hn => h'.trav (h.trav hn)⟩

/-- A station's command ended with a traverse of it, as a change of its latch ends it. -/
def State.cutOff (s : State) (n : Nat) : State := s.endMatrix n [] 6 (s.matrix n).stepFlags (w64 (s.matrix n).steps)

theorem cutOff_frame : (s.cutOff n).frame = s.frame := endMatrix_frame
theorem cutOff_ne {k : Nat} (h : k ≠ n) : (s.cutOff n).matrix k = s.matrix k := endMatrix_ne h

theorem cutOff_self : (s.matrix n).Spared ((s.cutOff n).matrix n) ∧ ((s.matrix n).inbox ≠ [] → ((s.cutOff n).matrix n).trav = none) := by
  cases h : (s.matrix n).inbox with
  | nil =>
    rw [State.cutOff, endMatrix_nil h]
    exact ⟨⟨rfl, id⟩, fun hne => absurd rfl hne⟩
  | cons c rest =>
    obtain ⟨accs, hm⟩ := noted_matrix (s := s) (stn := n) (c := c) (status := 6) (flags := (s.matrix n).stepFlags) (v := w64 (s.matrix n).steps)
    rw [State.cutOff, endMatrix_matrix h, hm]
    exact ⟨⟨rfl, fun _ => rfl⟩, fun _ => rfl⟩

theorem cutOff_spared (k : Nat) : (s.matrix k).Spared ((s.cutOff n).matrix k) := by
  by_cases h : k = n
  · rw [h]
    exact cutOff_self.1
  · rw [cutOff_ne h]
    exact ⟨rfl, id⟩

/-- Several stations' traverses ended. -/
def State.cutOffs (s : State) (ns : List Nat) : State := ns.foldl State.cutOff s

theorem cutOffs_keeps (k : Nat) : ∀ (ns : List Nat) (s : State), (s.cutOffs ns).frame = s.frame ∧ (s.matrix k).Spared ((s.cutOffs ns).matrix k) ∧
    (k ∈ ns → (s.matrix k).inbox ≠ [] → ((s.cutOffs ns).matrix k).trav = none) := by
  intro ns
  induction ns with
  | nil => exact fun s => ⟨rfl, ⟨rfl, id⟩, nofun⟩
  | cons n ns ih =>
    intro s
    obtain ⟨hf, hs, hin⟩ := ih (s.cutOff n)
    refine ⟨hf.trans cutOff_frame, (cutOff_spared k).trans hs, fun hk hne => ?_⟩
    by_cases h : k = n
    · subst h
      exact hs.trav (cutOff_self.2 hne)
    · refine hin ((List.mem_cons.1 hk).resolve_left h) ?_
      rw [cutOff_ne h]
      exact hne

/-! ## What TRVCFG sets -/

/-- The engine's configuration from the two operands. -/
def Matrix.configured (b v : Nat) (m : Matrix) : Matrix :=
  { m with en := bitAt b 63, size := bitsOf b 61 60, dmask := bitsOf b 51 48, next := bitsOf b 5 0, timeout := if v = 0 then 1000000 else v }

/-- The latch emptied, the traverses that waited on it ended, the new configuration set. -/
def State.emptied (s : State) (stn : Nat) : State := s.modMatrix stn (fun m => { m with latch := [] })
def State.trvcfg (s : State) (stn b v : Nat) : State :=
  ((s.emptied stn).cutOffs ((s.emptied stn).latchWaiters stn)).modMatrix stn (Matrix.configured b v)

theorem trvcfg_frame (b v : Nat) : (s.trvcfg stn b v).frame = s.frame :=
  (cutOffs_keeps 0 ((s.emptied stn).latchWaiters stn) (s.emptied stn)).1

theorem mem_of_get_ne {α : Type} {d : α} {k : Nat} : ∀ {m : Map α}, Map.get d m k ≠ d → k ∈ m.map (fun e => e.1) := by
  intro m
  induction m with
  | nil => exact fun h => absurd rfl h
  | cons e m ih =>
    intro h
    rw [Map.get] at h
    by_cases hk : k = e.1
    · rw [hk, List.map_cons]
      exact List.mem_cons_self ..
    · rw [if_neg hk] at h
      by_cases hlt : k < e.1
      · rw [if_pos hlt] at h
        exact absurd rfl h
      · rw [if_neg hlt] at h
        exact List.mem_cons_of_mem _ (ih h)

theorem mem_stnIxs (h : (s.matrix n).inbox ≠ []) : n ∈ s.stnIxs :=
  mem_of_get_ne fun he => h (by rw [State.matrix, State.stn, he])

theorem trvcfg_matrix (b v : Nat) : ∃ m, (s.trvcfg stn b v).matrix stn = Matrix.configured b v m ∧ m.latch = [] ∧
    ((s.matrix stn).inbox ≠ [] → m.trav = none) := by
  obtain ⟨-, hspared, hcut⟩ := cutOffs_keeps stn ((s.emptied stn).latchWaiters stn) (s.emptied stn)
  have he : (s.emptied stn).matrix stn = { s.matrix stn with latch := [] } := matrix_modMatrix ..
  refine ⟨_, matrix_modMatrix .., hspared.latch.trans (by rw [he]), fun hne => ?_⟩
  have hne' : ((s.emptied stn).matrix stn).inbox ≠ [] := by rw [he]; exact hne
  cases ht : ((s.emptied stn).matrix stn).trav with
  | none => exact hspared.trav ht
  | some x =>
    refine hcut (List.mem_filter.2 ⟨mem_stnIxs hne', ?_⟩) hne'
    simp only [ht]
    simp

/-- Where no station traverses, nothing is sent. -/
theorem trvcfg_quiet (b v : Nat) (h : ∀ k, (s.matrix k).trav = none) : (s.trvcfg stn b v).net = s.net := by
  have he : ∀ k, ((s.emptied stn).matrix k).trav = none := fun k => by
    by_cases hk : k = stn
    · rw [hk, State.emptied, matrix_modMatrix]
      exact h stn
    · rw [State.emptied, matrix_modMatrix_ne _ _ hk]
      exact h k
  have hnone : (s.emptied stn).latchWaiters stn = [] := List.filter_eq_nil_iff.2 fun k _ => by
    simp only [he k]
    exact Bool.false_ne_true
  rw [State.trvcfg, hnone]
  rfl

/-! ## The instruction -/

theorem trvcfgOk_iff (b : Nat) : trvcfgOk b = true ↔ bitAt b 62 = false ∧ bitsOf b 59 52 = 0 ∧ bitsOf b 47 6 = 0 := by
  simp [trvcfgOk, and_assoc]

/-- What the two operands have TRVCFG do. -/
theorem exec_trvcfg_runs (hr : s.ready [o.b, o.c]) (hwc : s.waitCount s.hand.at_ o.wc = 0) (hsup : s.cur.sup = true)
    (hb : bindRuns (bindOf s.cur o.guard) = some true) :
    exec (.trvcfg o) s =
      if trvcfgOk (s.cur.readG o.b).toNat then
        if !bitAt (s.cur.readG o.b).toNat 63 || (s.ptagAt (bitsOf (s.cur.readG o.b).toNat 5 0) == s.ptagAt s.hand.at_.stn && s.ptagAt s.hand.at_.stn != 0) then
          .next (s.trvcfg s.hand.at_.stn (s.cur.readG o.b).toNat (s.cur.readG o.c).toNat).retire
        else .next (s.trap causePROT (w64 (s.cur.readG o.b).toNat))
      else .next (s.trap causeILL (w64 s.baseAddr)) := by
  rw [show exec (.trvcfg o) s = execTrvcfg o s from rfl, execTrvcfg, privilegedBy_sup s _ _ _ hsup, runSeq, Exec.underGuard_runs hb hr hwc,
    Exec.bind_ok s (Exec.ctx_run s), Exec.bind_ok s (Exec.get_run s)]
  cases hok : trvcfgOk (s.cur.readG o.b).toNat with
  | false =>
    rw [Exec.bind_error s (show Exec.limit false s = .error (.trap causeILL (w64 s.baseAddr)) s from rfl)]
    rfl
  | true =>
    rw [Exec.bind_ok s (show Exec.limit true s = .ok () s from rfl)]
    cases hp : (!bitAt (s.cur.readG o.b).toNat 63 ||
        (s.ptagAt (bitsOf (s.cur.readG o.b).toNat 5 0) == s.ptagAt s.hand.at_.stn && s.ptagAt s.hand.at_.stn != 0)) with
    | false =>
      rw [Exec.bind_error s (Exec.check_run s false ..)]
      rfl
    | true =>
      rw [Exec.bind_ok s (Exec.check_run s true ..)]
      rfl

end

end Sys2Proof.Machine
end

section
/-! The matrix engine's events (O47). -/

namespace Sys2Proof.Machine

section
variable {s : State} {stn : Nat} {c : CmdMsg} {rest : List CmdMsg} {o : EngOps}

/-! ## The events of MMA and MMASD -/

theorem exec_mma (hmsg : s.hand.msg = .mmaCommand stn) (h : s.Head stn c rest) (ho : c.cmd.opcode = 0) : exec .mmaCommand s =
    .next (if (s.matrix stn).started then s.mmaStep stn c false (.mmaCommand stn)
      else s.startMma stn c false false (.mmaCommand stn) (fun t => t.send (.mmaCommand stn))) := by
  rw [show exec .mmaCommand s = execMmaCommand s from rfl, execMmaCommand]
  simp only [hmsg, onHead_head h ho]

theorem exec_mmasd (hmsg : s.hand.msg = .mmasdCommand stn) (h : s.Head stn c rest) (ho : c.cmd.opcode = 5) : exec .mmasdCommand s =
    .next (if (s.matrix stn).started then s.mmaStep stn c true (.mmasdCommand stn)
      else s.startMma stn c false true (.mmasdCommand stn) (fun t => t.send (.mmasdCommand stn))) := by
  rw [show exec .mmasdCommand s = execMmasdCommand s from rfl, execMmasdCommand]
  simp only [hmsg, onHead_head h ho]

theorem goesOn_send (stn : Nat) (x : Msg) : GoesOn (fun t => t.send x) stn x :=
  ⟨fun _ => rfl, fun _ => .of_eq rfl rfl rfl, fun _ => rfl, fun u => ⟨(u.matrix stn).trav, rfl⟩⟩

/-! ## TRVCFG's outcomes -/

theorem bitsOf_low (n : Nat) : bitsOf n 5 0 = n % 64 := by
  rw [bitsOf, pow_zero, Nat.div_one]
  rfl

theorem exec_trvcfg_discarded (hsup : s.cur.sup = true) (hb : bindRuns (bindOf s.cur o.guard) = some false) : exec (.trvcfg o) s = .next s.retire := by
  rw [show exec (.trvcfg o) s = execTrvcfg o s from rfl, execTrvcfg, privilegedBy_sup s _ _ _ hsup]
  exact runSeq_ok s (Exec.underGuard_discards hb)

theorem exec_trvcfg_user (hr : s.ready [o.b, o.c]) (hsup : s.cur.sup = false) : exec (.trvcfg o) s =
    .next (s.trap (if trvcfgOk (s.cur.readG o.b).toNat then causePRIV else causeILL)
      (if trvcfgOk (s.cur.readG o.b).toNat then 0 else w64 s.baseAddr)) := by
  rw [show exec (.trvcfg o) s = execTrvcfg o s from rfl, execTrvcfg, privilegedBy_user s _ _ hsup hr]

/-- What TRVCFG leaves where it is allowed. -/
theorem trvcfg_sets (hr : s.ready [o.b, o.c]) (hwc : s.waitCount s.hand.at_ o.wc = 0) (hsup : s.cur.sup = true)
    (hb : bindRuns (bindOf s.cur o.guard) = some true) (hok : trvcfgOk (s.cur.readG o.b).toNat = true)
    (hsame : bitAt (s.cur.readG o.b).toNat 63 = false ∨
      (s.ptagAt ((s.cur.readG o.b).toNat % 64) = s.ptagAt s.hand.at_.stn ∧ s.ptagAt s.hand.at_.stn ≠ 0)) :
    ∃ t m, exec (.trvcfg o) s = .next t ∧ t.cur = s.cur.retire s.hand.words ∧ SameContextsBut s.hand.at_ s t ∧
      t.matrix s.hand.at_.stn = Matrix.configured (s.cur.readG o.b).toNat (s.cur.readG o.c).toNat m ∧ m.latch = [] ∧
      ((s.matrix s.hand.at_.stn).inbox ≠ [] → m.trav = none) ∧ ((∀ k, (s.matrix k).trav = none) → t.net = s.net ∧ SameStorage s t) := by
  have he := exec_trvcfg_runs hr hwc hsup hb
  rw [if_pos hok, bitsOf_low, if_pos (by simpa using hsame)] at he
  obtain ⟨m, hm, hl, ht⟩ := trvcfg_matrix (s := s) (stn := s.hand.at_.stn) (s.cur.readG o.b).toNat (s.cur.readG o.c).toNat
  have hf := trvcfg_frame (s := s) (stn := s.hand.at_.stn) (s.cur.readG o.b).toNat (s.cur.readG o.c).toNat
  have hq := trvcfg_quiet (s := s) (stn := s.hand.at_.stn) (s.cur.readG o.b).toNat (s.cur.readG o.c).toNat
  generalize s.trvcfg s.hand.at_.stn (s.cur.readG o.b).toNat (s.cur.readG o.c).toNat = u at he hm hf hq
  have hhand : u.hand = s.hand := State.hand_of_frame hf
  have hctx := State.ctx_of_frame hf
  refine ⟨_, m, he, ?_, fun l hne => ?_, hm, hl, ht, fun hno => ⟨hq hno, (same_of_frame hf).2.trans' (.of_eq rfl rfl rfl)⟩⟩
  · rw [State.retire, State.cur_modCur, State.cur, hhand, hctx]
    rfl
  · rw [State.retire, State.ctx_modCur_ne _ _ (by rw [hhand]; exact hne), hctx]

end

/-- Settles O47: a command's completion, its start and its steps are each one change of the engine, which the lemmas above read off; an
MTRAV's phases and TRVCFG likewise. -/
theorem matrixEvents : Obligations.MatrixEvents := by
  unfold Obligations.MatrixEvents
  refine ⟨?_, ?_, ?_⟩
  · intro stn tid l c rest s hin hsrc hrep hlent m k y q acc at_ same completes sticky i0 k0 j0 ida idb starts action flagsOf applied stepped works
    have h : s.Head stn c rest := ⟨hin, ⟨l, tid, hsrc⟩, hrep, hlent⟩
    refine ⟨fun hmsg ho => ⟨fun hs => ?_, ?_⟩, fun hmsg ho => ⟨fun hs => ?_, ?_⟩, fun hmsg ho => ⟨fun hs => ?_, ?_, ?_, ?_⟩, ?_, ?_, ?_,
      fun hmsg ho => ⟨?_, ?_, ?_⟩, fun hmsg ho => ⟨?_, ?_, ?_⟩⟩
    · exact starts_of_startMma h ((exec_mma hmsg h ho).trans (by rw [show (s.matrix stn).started = false from hs]; rfl)) (goesOn_send ..) fun _ _ _ => trivial
    · exact fun a b kk g hs hd hc => works_of_mmaStep h ((exec_mma hmsg h ho).trans (by rw [show (s.matrix stn).started = true from hs]; rfl)) hd hc
    · exact starts_of_startMma h ((exec_mmasd hmsg h ho).trans (by rw [show (s.matrix stn).started = false from hs]; rfl)) (goesOn_send ..) fun _ _ _ => trivial
    · exact fun a b kk g hs hd hc => works_of_mmaStep h ((exec_mmasd hmsg h ho).trans (by rw [show (s.matrix stn).started = true from hs]; rfl)) hd hc
    · exact starts_of_startMma h (exec_mtrav_starts hmsg h ho hs) travGo_goes fun _ => travGo_timed
    · exact fun x hs hx hr => exec_mtrav_waits hmsg h ho hs hx hr
    · exact fun a b kk g x tb hs hd hc hx hp hl htb => mtrav_loads hmsg h ho hs hd hc hx hp hl htb
    · refine fun a b kk g x z zs ta hs hd hc hx hp hl => ⟨fun hf => ?_, fun hf hta hmore => mtrav_takes hmsg h ho hs hd hc hx hp hl hf hta hmore,
        fun ta hf hta hlast hstop => mtrav_stops hmsg h ho hs hd hc hx hp hl hf hta hlast hstop⟩
      exact finishes_of_fail (cause := causeFMT) ((exec_mtrav_takes hmsg h ho hs hx hp hl).trans (congrArg _ (travApply_format hd hf))) (.refl _) rfl
        h rfl rfl
    · refine fun hmsg ho x z zs hx hp hl hn => ⟨fun hfull => ?_, fun hroom => ⟨fun hmore => traverse_goes hmsg h ho hx hp hl hn hroom hmore,
        fun hlast => traverse_ends hmsg h ho hx hp hl hn hroom hlast⟩⟩
      exact (exec_traverse hmsg h ho hx hp hl).trans (congrArg _ (if_neg (Nat.not_lt.2 hfull)))
    · exact fun hmsg x hx hdue hr => latch_timesOut hmsg h hx hdue hr
    · exact fun hmsg ho => mzero_fills hmsg h ho
    · exact fun id ht => mld_noTensor hmsg h ho ht
    · exact fun d segs code ht hsh hcode => mld_loads hmsg h ho ht hsh hcode
    · exact fun d cause a ht hsh => mld_badShape hmsg h ho ht hsh
    · exact fun d segs ps hs ht hsh hps => mst_starts hmsg h ho hs ht hsh hps
    · exact fun hs hw => mst_waits hmsg h ho hs hw
    · exact fun hs hw hb hf hmap => mst_ends hmsg h ho hs hw hb hf hmap
  · intro o s hr hwc hsup b v stn ok same
    have hrun := exec_trvcfg_runs hr hwc hsup
    refine ⟨fun hb => ?_, fun hb => ⟨fun hok => ?_, fun hok hsame => ?_, fun hok hsame => ?_⟩⟩
    · exact exec_trvcfg_discarded hsup hb
    · rw [hrun hb, if_neg (mt (trvcfgOk_iff b).1 hok)]
      rfl
    · rw [hrun hb, if_pos ((trvcfgOk_iff b).2 hok), bitsOf_low, if_neg (by simpa [b, same, stn] using hsame)]
      rfl
    · obtain ⟨t, m, ht, hcur, hothers, hm, hlatch, htrav, hquiet⟩ := trvcfg_sets hr hwc hsup hb ((trvcfgOk_iff b).2 hok) hsame
      refine ⟨t, ht, hcur, hothers, ?_, ?_, ?_, ?_, ?_, ?_, fun _ hne => ?_, hquiet⟩
      all_goals rw [hm]
      · exact hlatch
      · rfl
      · rfl
      · rfl
      · exact bitsOf_low _
      · rfl
      · exact htrav hne
  · intro o s hr hsup b ok
    have huser := exec_trvcfg_user hr hsup
    refine ⟨fun hok => ?_, fun hok => ?_⟩
    · rw [huser, if_pos ((trvcfgOk_iff b).2 hok), if_pos ((trvcfgOk_iff b).2 hok)]
    · rw [huser, if_neg (mt (trvcfgOk_iff b).1 hok), if_neg (mt (trvcfgOk_iff b).1 hok)]
      rfl

end Sys2Proof.Machine
end
